-- ==== Sys2Proof/Word.lean ====
section
/-!
DEFINITION. The word types of the Virrum V7, and the plain-data containers that hold them.
00_scope R1 (bit 0 is the least significant bit), R2 (little-endian memory).
-/

namespace Sys2Proof

abbrev Byte := BitVec 8
abbrev Word16 := BitVec 16
abbrev Word32 := BitVec 32
abbrev Word64 := BitVec 64

/-- A sparse array of `w`-bit cells: (key, value) pairs, keys strictly rising, no value equal to zero,
which is what an unlisted key reads as. -/
abbrev Sparse (w : Nat) := List (Nat × BitVec w)

/-- A byte-addressed memory: `Host.Cell` pairs in the canonical form of `Sparse`. -/
abbrev Mem := Sparse 8

/-- A table of records by key: keys strictly rising. -/
abbrev Table (α : Type) := List (Nat × α)

/-- A function as one host link reaches it (01 R18). -/
structure Via where
  link : Nat
  fn : Nat
  deriving DecidableEq, Repr

end Sys2Proof
end

