-- ==== Sys2Proof/Machine/Numeric.lean ====
section
/-!
DEFINITION. Number formats (09 R196 to R208): element types, exact integer and floating-point arithmetic, and the one
rounding of an exact result into a type. Arithmetic is exact in `Int` and `Nat` and narrows once, at the end.
-/

namespace Sys2Proof.Machine

open Sys2Proof

/-! ### Types (12 R250) -/

def tyI8 : BitVec 5 := 0x00
def tyI64 : BitVec 5 := 0x03
def tyF32 : BitVec 5 := 0x08

/-- Width in bits of an element of a scalar type. -/
def tyWidth (t : BitVec 5) : Nat :=
  match t.toNat with
  | 0 | 4 | 11 | 12 => 8
  | 1 | 5 | 9 | 10 => 16
  | 3 | 7 => 64
  | _ => 32

def tyIsInt (t : BitVec 5) : Bool := decide (t.toNat ≤ 7)
def tySigned (t : BitVec 5) : Bool := decide (t.toNat ≤ 3)
def tyIsFloat (t : BitVec 5) : Bool := t == 8 || t == 9 || t == 10
def tyScalar (t : BitVec 5) : Bool := decide (t.toNat ≤ 12)
def tyIsBfp (t : BitVec 5) : Bool := decide (0x12 ≤ t.toNat) && decide (t.toNat ≤ 0x18)
/-- 64-bit elements are register pairs (12 R247). -/
def tyWide (t : BitVec 5) : Bool := t == 3 || t == 7

/-- The low `w` bits of a pattern. -/
def lowBits (w : Nat) (x : Word64) : Word64 := BitVec.ofNat 64 (x.toNat % 2 ^ w)

/-- The value of a pattern as an integer type. -/
def intOf (t : BitVec 5) (x : Word64) : Int :=
  let w := tyWidth t
  let n := x.toNat % 2 ^ w
  if tySigned t && decide (2 ^ (w - 1) ≤ n) then (n : Int) - 2 ^ w else n

def intMin (t : BitVec 5) : Int := if tySigned t then -(2 ^ (tyWidth t - 1) : Int) else 0
def intMax (t : BitVec 5) : Int := if tySigned t then 2 ^ (tyWidth t - 1) - 1 else 2 ^ tyWidth t - 1

def clampInt (lo hi x : Int) : Int := if x < lo then lo else if hi < x then hi else x

/-- The pattern of an integer, modulo 2^w. -/
def intPat (t : BitVec 5) (r : Int) : Word64 := BitVec.ofNat 64 ((r % 2 ^ tyWidth t).toNat)

/-- An exact result narrowed to an integer type: wrapped, or saturated (09 R197). -/
def intTo (t : BitVec 5) (sat : Bool) (r : Int) : Word64 :=
  intPat t (if sat then clampInt (intMin t) (intMax t) r else r)

/-- A `w`-bit pattern as a register element: i8 and i16 sign-extended to 32 bits, the rest zero-extended (09 R196). -/
def extendPat (t : BitVec 5) (x : Word64) : Word64 :=
  if t == 0 then ((x.setWidth 8).signExtend 32).setWidth 64
  else if t == 1 then ((x.setWidth 16).signExtend 32).setWidth 64
  else lowBits (tyWidth t) x

/-! ### Floating-point formats (09 R198) -/

/-- Total bits, bits of precision, exponent of the smallest subnormal, and the magnitude patterns of the largest finite
value, of infinity if there is one, and of the canonical NaN. -/
structure FFmt where
  w : Nat
  p : Nat
  emin : Int
  maxBits : Nat
  inf : Option Nat
  nan : Nat
  deriving DecidableEq, Repr

def fmtF32 : FFmt := { w := 32, p := 24, emin := -149, maxBits := 0x7F7FFFFF, inf := some 0x7F800000, nan := 0x7FC00000 }
def fmtF16 : FFmt := { w := 16, p := 11, emin := -24, maxBits := 0x7BFF, inf := some 0x7C00, nan := 0x7E00 }
def fmtBf16 : FFmt := { w := 16, p := 8, emin := -133, maxBits := 0x7F7F, inf := some 0x7F80, nan := 0x7FC0 }
def fmtF8e4 : FFmt := { w := 8, p := 4, emin := -9, maxBits := 0x7E, inf := none, nan := 0x7F }
def fmtF8e5 : FFmt := { w := 8, p := 3, emin := -16, maxBits := 0x7B, inf := some 0x7C, nan := 0x7E }

def fmtOf (t : BitVec 5) : FFmt :=
  match t.toNat with
  | 9 => fmtF16 | 10 => fmtBf16 | 11 => fmtF8e4 | 12 => fmtF8e5 | _ => fmtF32

/-- A floating-point value: NaN, an infinity, or (-1)^neg × m × 2^e. -/
inductive FVal where
  | nan
  | inf (neg : Bool)
  | fin (neg : Bool) (m : Nat) (e : Int)
  deriving DecidableEq, Repr

def FVal.isNan : FVal → Bool | .nan => true | _ => false
def FVal.isZero : FVal → Bool | .fin _ m _ => m == 0 | _ => false
def FVal.neg : FVal → FVal
  | .nan => .nan
  | .inf n => .inf (!n)
  | .fin n m e => .fin (!n) m e

/-- The value of a pattern. -/
def decodeF (f : FFmt) (x : Nat) : FVal :=
  let neg := x.testBit (f.w - 1)
  let mag := x % 2 ^ (f.w - 1)
  if f.maxBits < mag then (if f.inf = some mag then .inf neg else .nan)
  else
    let ex := mag / 2 ^ (f.p - 1)
    let fr := mag % 2 ^ (f.p - 1)
    if ex = 0 then .fin neg fr f.emin else .fin neg (fr + 2 ^ (f.p - 1)) (f.emin + ex - 1)

/-- A magnitude pattern with a sign. -/
def signed (f : FFmt) (neg : Bool) (mag : Nat) : Nat := mag + if neg then 2 ^ (f.w - 1) else 0

/-- MODE.ROUND (12 R249). -/
inductive Rounding where
  | rne | rz | rpi | rmi | rna
  deriving DecidableEq, Repr

def roundingOf (r : BitVec 3) : Rounding :=
  match r.toNat with | 1 => .rz | 2 => .rpi | 3 => .rmi | 4 => .rna | _ => .rne

/-- Bits of a number: 0 for 0. -/
def bitLen (n : Nat) : Nat := if n = 0 then 0 else n.log2 + 1

/-- Whether the magnitude `n`, with remainder `rem` of `2 ^ sh`, rounds up to `n + 1` (09 R201). -/
def roundsUp (r : Rounding) (neg : Bool) (n rem sh : Nat) : Bool :=
  if rem = 0 then false
  else
    let half := 2 ^ (sh - 1)
    match r with
    | .rne => decide (half < rem) || (rem == half && n % 2 == 1)
    | .rna => decide (half ≤ rem)
    | .rz => false
    | .rpi => !neg
    | .rmi => neg

/-- m × 2^e as an integer multiple of 2^q, rounded. -/
def roundAt (r : Rounding) (neg : Bool) (m : Nat) (e q : Int) : Nat :=
  if q ≤ e then m * 2 ^ (e - q).toNat
  else
    let sh := (q - e).toNat
    let n := m / 2 ^ sh
    if roundsUp r neg n (m % 2 ^ sh) sh then n + 1 else n

/-- A value rounded to an integer (09 R204, R207). -/
def roundInt (r : Rounding) (neg : Bool) (m : Nat) (e : Int) : Int :=
  let n := roundAt r neg m e 0
  if neg then -(n : Int) else n

/-- MODE.round, MODE.saturate and MODE.ftz, as one instruction reads them. -/
structure FCtl where
  round : Rounding
  sat : Bool
  ftz : Bool
  deriving DecidableEq, Repr

def FCtl.plain : FCtl := { round := .rne, sat := false, ftz := false }

/-- The magnitude pattern of an infinite result (R201, R202). -/
def infBits (f : FFmt) (sat : Bool) : Nat := if sat then f.maxBits else f.inf.getD f.nan

/-- Stores an infinite result: f8e4 has none, so NaN, which has sign 0. -/
def storeInf (f : FFmt) (c : FCtl) (neg : Bool) : Nat :=
  if !c.sat && f.inf.isNone then f.nan else signed f neg (infBits f c.sat)

/-- A magnitude that exceeds the largest finite value (R201, R202). -/
def storeOverflow (f : FFmt) (c : FCtl) (neg : Bool) : Nat :=
  let toMax := match c.round with
    | .rz => true
    | .rpi => neg
    | .rmi => !neg
    | _ => false
  if toMax then signed f neg f.maxBits else storeInf f c neg

/-- Round of R201 with R202 and R203: the pattern of (-1)^neg × m × 2^e in a format. -/
def roundF (f : FFmt) (c : FCtl) (neg : Bool) (m : Nat) (e : Int) : Nat :=
  if m = 0 then signed f neg 0
  else
    let q := max (e + (bitLen m : Int) - f.p) f.emin
    let n := roundAt c.round neg m e q
    let mag := n + (q - f.emin).toNat * 2 ^ (f.p - 1)
    if f.maxBits < mag then storeOverflow f c neg
    else if c.ftz && decide (mag < 2 ^ (f.p - 1)) then signed f neg 0
    else signed f neg mag

/-- Stores a value. -/
def storeF (f : FFmt) (c : FCtl) : FVal → Nat
  | .nan => f.nan
  | .inf n => storeInf f c n
  | .fin n m e => roundF f c n m e

/-- A source: a subnormal counts as a zero of its sign with FTZ (R203). -/
def loadF (f : FFmt) (ftz : Bool) (x : Nat) : FVal :=
  match decodeF f x with
  | .fin n m e => if ftz && decide (m < 2 ^ (f.p - 1)) then .fin n 0 e else .fin n m e
  | v => v

/-! ### Exact operations (R200) -/

/-- m × 2^e with its sign, as an integer multiple of 2^q for q ≤ e. -/
def scaled (neg : Bool) (m : Nat) (e q : Int) : Int :=
  let n : Int := (m * 2 ^ (e - q).toNat : Nat)
  if neg then -n else n

/-- The exact sum. An exact zero of opposite signs is +0, or −0 under RMI. -/
def addF (r : Rounding) : FVal → FVal → FVal
  | .nan, _ => .nan
  | _, .nan => .nan
  | .inf a, .inf b => if a = b then .inf a else .nan
  | .inf a, _ => .inf a
  | _, .inf b => .inf b
  | .fin na ma ea, .fin nb mb eb =>
    let q := min ea eb
    let x := scaled na ma ea q + scaled nb mb eb q
    if x = 0 then .fin (if na = nb then na else r == .rmi) 0 q
    else .fin (decide (x < 0)) x.natAbs q

def mulF : FVal → FVal → FVal
  | .nan, _ => .nan
  | _, .nan => .nan
  | .inf a, .inf b => .inf (a != b)
  | .inf a, .fin n m _ => if m = 0 then .nan else .inf (a != n)
  | .fin n m _, .inf a => if m = 0 then .nan else .inf (a != n)
  | .fin na ma ea, .fin nb mb eb => .fin (na != nb) (ma * mb) (ea + eb)

/-- Order of two values that are not NaN, with −0 equal to +0. -/
def ltF : FVal → FVal → Bool
  | .nan, _ => false
  | _, .nan => false
  | .inf a, .inf b => a && !b
  | .inf a, .fin .. => a
  | .fin .., .inf b => !b
  | .fin na ma ea, .fin nb mb eb => let q := min ea eb; decide (scaled na ma ea q < scaled nb mb eb q)

def eqF (a b : FVal) : Bool := !a.isNan && !b.isNan && !ltF a b && !ltF b a

def FVal.isNeg : FVal → Bool | .inf n => n | .fin n _ _ => n | .nan => false

/-- The lesser, or with `mx` the greater, under R200: −0 is less than +0, and a lone NaN gives the other operand. -/
def minMaxF (mx : Bool) (a b : FVal) : FVal :=
  if a.isNan then b
  else if b.isNan then a
  else
    let less := ltF a b || (eqF a b && a.isNeg && !b.isNeg)
    if less = mx then b else a

/-! ### Conversions (R204; 14 R312) -/

def fOfInt (x : Int) : FVal := .fin (decide (x < 0)) x.natAbs 0

/-- Floating point to an integer type: rounded, limited whatever SAT holds; NaN gives 0. -/
def fToInt (t : BitVec 5) (r : Rounding) : FVal → Word64
  | .nan => 0
  | .inf n => intPat t (if n then intMin t else intMax t)
  | .fin n m e => intPat t (clampInt (intMin t) (intMax t) (roundInt r n m e))

/-- Converts a pattern between scalar types. -/
def convert (src dst : BitVec 5) (c : FCtl) (x : Word64) : Word64 :=
  if tyIsInt src then
    if tyIsInt dst then intTo dst c.sat (intOf src x)
    else BitVec.ofNat 64 (storeF (fmtOf dst) c (fOfInt (intOf src x)))
  else
    let v := decodeF (fmtOf src) (x.toNat % 2 ^ tyWidth src)
    if tyIsInt dst then fToInt dst c.round v
    else BitVec.ofNat 64 (storeF (fmtOf dst) c v)

/-! ### Block floating point (R205 to R208) -/

/-- ⌊log2 (m × 2^e)⌋ for m > 0. -/
def floorLog2 (m : Nat) (e : Int) : Int := e + (bitLen m : Int) - 1

/-- The mantissa of a value in a block of exponent `E` with `m` bits. -/
def bfpMant (r : Rounding) (m : Nat) (ex : Nat) : FVal → Int
  | .nan => 0
  | .inf n => if n then -(2 ^ (m - 1) : Int) else 2 ^ (m - 1) - 1
  | .fin n q e =>
    clampInt (-(2 ^ (m - 1) : Int)) (2 ^ (m - 1) - 1) (roundInt r n q (e + 127 + (m - 2) - ex))

/-- The value of a mantissa. -/
def bfpVal (m : Nat) (ex : Nat) (q : Int) : FVal :=
  if ex = 0xFF then .nan else .fin (decide (q < 0)) q.natAbs ((ex : Int) - 127 - (m - 2))

/-- The exponent of a block of values (R207); 0xFF for a NaN block. -/
def bfpExp (xs : List FVal) : Nat :=
  if xs.any fun x => match x with | .nan | .inf _ => true | _ => false then 0xFF
  else
    let big := xs.foldl (fun (a : Option Int) x => match x with
      | .fin _ m e =>
        if m = 0 then a else some (match a with | none => floorLog2 m e | some b => max b (floorLog2 m e))
      | _ => a) none
    match big with
    | none => 0
    | some l => (clampInt 0 254 (l + 127)).toNat

/-- The mantissas of a block (R207); in a NaN block every one is 0. -/
def bfpMants (r : Rounding) (m : Nat) (xs : List FVal) : List Int :=
  let ex := bfpExp xs
  if ex = 0xFF then xs.map fun _ => 0 else xs.map (bfpMant r m ex)

end Sys2Proof.Machine
end

