-- ==== Sys2Proof/Machine/Flags.lean ====
section
/-!
DEFINITION. Conditions: every compare of the instruction set, and the classes of fcls. The V7 keeps no arithmetic flags;
a compare writes a predicate or a k register (13 R293; 14 R302, R309, R310).
-/

namespace Sys2Proof.Machine

open Sys2Proof

/-- kcmp (13 R293): eq, ne, lt, le signed, ltu, leu. -/
def kcmpCond (c : Nat) (x y : Word64) : Bool :=
  match c with
  | 0 => x == y
  | 1 => x != y
  | 2 => x.slt y
  | 3 => x.sle y
  | 4 => x.ult y
  | _ => x.ule y

/-- vcmp (14 R302): eq, ne, lt, le, gt, ge of the type's values. -/
def vcmpCond (c : Nat) (x y : Int) : Bool :=
  match c with
  | 0 => decide (x = y)
  | 1 => decide (x ≠ y)
  | 2 => decide (x < y)
  | 3 => decide (x ≤ y)
  | 4 => decide (y < x)
  | _ => decide (y ≤ x)

/-- fcmp (14 R309): eq, ne, lt, le, gt, ge, un, ord. -/
def fcmpCond (c : Nat) (x y : FVal) : Bool :=
  let un := x.isNan || y.isNan
  match c with
  | 0 => eqF x y
  | 1 => !eqF x y
  | 2 => ltF x y
  | 3 => !un && !ltF y x
  | 4 => ltF y x
  | 5 => !un && !ltF x y
  | 6 => un
  | _ => !un

/-- The class index of fcls (14 R310). -/
def classOf (f : FFmt) : FVal → Nat
  | .nan => 0
  | .inf n => if n then 1 else 8
  | .fin n m _ =>
    if m = 0 then (if n then 4 else 5)
    else if m < 2 ^ (f.p - 1) then (if n then 3 else 6)
    else (if n then 2 else 7)

/-- Bit `t` of a predicate after a write of value `b`. -/
def withBit (p : Word64) (t : Nat) (b : Bool) : Word64 :=
  if b then p ||| BitVec.ofNat 64 (2 ^ t) else p &&& ~~~(BitVec.ofNat 64 (2 ^ t))

/-- The mask of the threads of a list that satisfy `f`. -/
def maskWhere (f : Nat → Bool) (ts : List Nat) : Word64 := ts.foldl (fun m t => if f t then withBit m t true else m) 0

/-- Writes the bits of the threads that act, and no others (14 R297). -/
def mergeBits (old : Word64) (ts : List Nat) (f : Nat → Bool) : Word64 := ts.foldl (fun p t => withBit p t (f t)) old

end Sys2Proof.Machine
end

