-- ==== Sys2Proof/Syntax.lean ====
section
/-!
DEFINITION. The steps of the machine: one constructor per row of spec/opcode_table.json.
The 192 rows with a word are the Zukai instructions, their fields as 12_isa_formats R244 to R263 lay them out
(k-class fields are 6 bits, p-class, t-class and accumulator fields 3 bits, scopes 3 bits). The other 107 rows have no
word: they are packets, register writes, management requests and events, and their arguments say what the outside
world supplies with them (which link, which value is written); an event of one queue, group or split acts on the one that
`Machine.State.cur` names. Constructors without arguments stand last: the Lean runtime numbers at most 245 with arguments.
-/

namespace Sys2Proof

/-- One step of the Virrum V7. -/
inductive Instr where
  /-- PERST# release or power-up runs the verified boot sequence and brings the device up, or leaves it in recovery mode (R24). -/
  | coldReset (wieloOk configOk : Bool) (restOk : BitVec 4)
  /-- A PCI Express hot reset is received on a host link (R17). -/
  | hotReset (link : Nat)
  /-- A function-level reset discards every context of the function, disables its queues and posts a KIND 4 record (R61). -/
  | functionLevelReset (fn : Nat)
  /-- A host link goes down without a reset; traffic moves to the other link or contexts are discarded, depending on the link mode (R19). -/
  | linkDown (link : Nat)
  /-- A Solder flit fails its CRC and is retried; the 64th failure in a row declares the boundary down and reroutes traffic (R10). -/
  | solderCrcRetry (boundary : Nat) (ok : Bool)
  /-- A Myandua port goes down; its traffic moves to the remaining ports to that peer, or copies to the peer fail (R23). -/
  | portDown (port : Nat)
  /-- An incoming peer write is checked against the pin and then applied, with its signal-word update after all of its data (R21). -/
  | peerWriteIn (ctx : Nat) (va : Word64) (data : List Byte) (sig : Word64)
  /-- The stack management core's patrol timer starts a read-and-correct pass over the whole stack (R12). -/
  | patrolScrub (stack : Nat)
  /-- A row crosses its error threshold and is repaired with a spare row, a remap entry or a spare granule, or its granule is retired (R13). -/
  | rowRepair (stack bank row : Nat) (granule : Nat)
  /-- The copy of a repaired row or granule completes, and waiting accesses are served from the new location (R13). -/
  | repairCopyDone (stack : Nat)
  /-- A row reaches its activation threshold; its neighbours are refreshed, the function is throttled in that bank and event 0x40 is posted (R71). -/
  | rowHammer (fn stack bank deferred : Nat)
  /-- The 32 ms refresh window ends, and activation throttling in the bank ends with it (R71). -/
  | hammerWindowEnd (stack : Nat)
  /-- The junction temperature reaches 105 °C, which lowers the clock, or 115 °C, which powers off the compute dies (R27). -/
  | thermalLimit (die : Nat) (temp : Nat)
  /-- A rail falls below its threshold; Nichrome stretches the die clock and counts the event in DROOP_STAT (R28). -/
  | droop (die : Nat)
  /-- After the rail has stayed above threshold for 100 ns, the clock is restored by one step (R28). -/
  | droopRecover (die : Nat)
  /-- The front end's lock-step pair mismatches and resumes from its last checkpoint; a third mismatch within 1 s fails the front end (R48). -/
  | lockstepMismatch (die : Nat)
  /-- The lock-step pair takes its periodic checkpoint, at least every 10 µs (R48). -/
  | frontEndCheckpoint (die : Nat)
  /-- An SPDM request over MCTP is answered with certificates, a challenge response or signed measurements (R26). -/
  | spdmRequest (version request : Nat)
  /-- An MCTP vendor-defined message reads a Sterling record out of band (R73). -/
  | mctpSterlingRead (ctx : Nat)
  /-- A write to a register that has no row of its own takes effect under its access code (R4). -/
  | registerWrite (bar : Nat) (fn : Via) (off size : Nat) (val : Word64)
  /-- A write to BAR0 offsets 0x000–0xEFF is checked by sequence number and either adds packets to the queue, errors it, or is discarded and counted (R38). -/
  | doorbell (fn : Via) (off size : Nat) (val : Word64)
  /-- A QCMD write with operation 0x01 starts a reset of a queue that is not DISABLED (R49). -/
  | qcmdReset (fn : Nat) (val : Word64)
  /-- A QPCMD write with OP 0x01 resets a queue of the function (R37). -/
  | qpcmdReset (fn : Nat) (val : Word64)
  /-- A QPCMD write with OP 0x02 checks the control block and takes the queue to ACTIVE, or refuses it with a code (R37). -/
  | qpcmdEnable (fn : Nat) (val : Word64)
  /-- A QPCMD write with OP 0x03 starts a disable of the queue, which first completes as a reset (R37). -/
  | qpcmdDisable (fn : Nat) (val : Word64)
  /-- A write of PFEQ_CTL that sets ENABLE zeroes both indices and the overflow bit (R55). -/
  | pfeqCtlWrite (val : Word32)
  /-- Management request 0x12, or a scheduler or partition squeeze, folds the victims' registers, scratchpad, lanes and matrix state on one core (R100). -/
  | squeeze (core : Nat)
  /-- Once the spills of a squeeze are written, the freed resources are handed over, the grant record is written and RESID, GRANT and NPEND change in one step (R391). -/
  | squeezeHandover (core : Nat)
  /-- Once the held-out teams fit on the core, they are restored, a KIND 3 grant is written and the request answers (R397). -/
  | switchInRestore (core : Nat)
  /-- An engine finds a fault after issue, and the context ends under R51 (R132). -/
  | engineFault (ctx : Nat) (cause : Nat) (addr : Word64)
  /-- The outgoing save of a switch drains, the lower halves are free and the incoming teams expand into them (R114). -/
  | saveDrainDone (core : Nat)
  /-- The die chooses a runnable queue, places the next team on a core that fits, carves its pool and initialises its groups (R84). -/
  | teamDispatch (die : Nat)
  /-- The front ends agree over the ring on the dies that serve a launch step (R90). -/
  | stepAgree (launch : Nat)
  /-- A team has exited with all writes coherent; the frontier advances and the launch may complete (R91). -/
  | teamComplete (team : Nat)
  /-- A die has been idle for 5 µs and sends STEAL_REQ to its clockwise neighbour (R80). -/
  | dieIdle (die : Nat)
  /-- A victim die receives STEAL_REQ and gives a qualifying queue or answers STEAL_NONE (R81). -/
  | stealReq (victim : Nat)
  /-- The thief receives a queue's state, takes it as its new home and answers STEAL_DONE (R81). -/
  | stealGive (thief : Nat)
  /-- The thief receives a refusal and asks its anticlockwise neighbour, or backs off for 20 µs (R80). -/
  | stealNone (thief : Nat)
  /-- The victim receives STEAL_DONE and forwards the held doorbells to the thief (R81). -/
  | stealDone (victim : Nat)
  /-- A bin's oldest record has waited GATHER_NS, and a partial group forms from all of its records (R93). -/
  | gatherTimeout (die bin : Nat)
  /-- A join record that waited for a full gather pool enters it once a pool entry frees (R238). -/
  | joinRecordEnqueue (die : Nat)
  /-- Resources become free on a core, and a squeezed team is raised level by level with a KIND 2 grant (R111). -/
  | expansion (core : Nat)
  /-- The trap core takes a stopped split's trap in its turn and applies the TRAP_POLICY action (R134). -/
  | trapTake (core : Nat)
  /-- A trap-core write to a live group-state block takes effect only while every live split is halted or trapped (R139). -/
  | groupStateWrite (core entry off : Nat) (val : Word64)
  /-- In a cycle that is a multiple of N, the issue scheduler writes a sample record for the next eligible group (R144). -/
  | pcSample (core quarter : Nat)
  /-- Every DELAY ms the guest counter page is refreshed with quantised values sampled one period earlier (R75). -/
  | gcntRefresh (fn : Nat)
  /-- A candidate page is copied, its writes are held, its leaf is swapped by CAS and the held accesses are released (R70). -/
  | pageMigration (die : Nat)
  /-- An atomic, merged or not, executes as one indivisible step at its location's synchronisation engine (R188). -/
  | atomicAtEngine (i j : Nat)
  /-- A copy engine delivers bytes of a copy and subtracts them from the named barrier word (R169). -/
  | copyDeliver (copy : Nat)
  /-- A copy completes; its signal word is updated and BATCH.DONE advances over whole batches (R170). -/
  | copyComplete (copy : Nat)
  /-- A matrix-unit operation retires with its accumulator or tile writes complete (R363). -/
  | matrixRetire (core : Nat)
  /-- An Electrum step executes at its home slice, even after its split has exited (R222). -/
  | electrumStep (i : Nat)
  /-- A DYING line drops each of its children as separate steps and returns to the pool (R218). -/
  | cascadeDrop (store : Nat)
  /-- A charged thread's exit or an inner frame's freeing decrements LIVE, which may retire, join or free the frame (R237). -/
  | frameLiveDecrement (i : Nat)
  /-- Branches every active thread of the split (R276). -/
  | br (o : BitVec 24)
  /-- Branches the active threads whose predicate is 1, dividing the split if needed (R276). -/
  | brp (p : BitVec 3) (o : BitVec 16)
  /-- Branches the active threads whose predicate is 0 (R276). -/
  | brn (p : BitVec 3) (o : BitVec 16)
  /-- Branches the whole split if a k register is nonzero (R276). -/
  | bruNz (k : BitVec 6) (o : BitVec 16)
  /-- Branches the whole split if a k register is zero (R276). -/
  | bruZ (k : BitVec 6) (o : BitVec 16)
  /-- Writes the link and jumps to a relative target (R279). -/
  | call (d : BitVec 6) (o : BitVec 16)
  /-- Writes the link and jumps through the dispatch table (R279). -/
  | callt (d : BitVec 6) (a : BitVec 6)
  /-- Jumps through the dispatch table (R279). -/
  | jmpt (a : BitVec 6)
  /-- Jumps to the address in a k register (R279). -/
  | ret (a : BitVec 6)
  /-- Raises BRK once earlier results are written (R283). -/
  | brk (c : BitVec 16)
  /-- Raises TRAPI once earlier results are written (R283). -/
  | trap (c : BitVec 16)
  /-- Branches and clears NPEND if a notice is pending (R285). -/
  | nchk (o : BitVec 24)
  /-- Pushes a region identifier, and may raise BRK under RBRK (R286). -/
  | enter (i : BitVec 16)
  /-- Writes the selected fields of the split's MODE (R289). -/
  | mode (m : BitVec 5) (v : BitVec 12)
  /-- Sets or clears the guard fields of MODE (R289). -/
  | modeGd (n : BitVec 3) (s : BitVec 1) (e : BitVec 1)
  /-- Writes the whole MODE from a k register (R289). -/
  | modr (a : BitVec 6)
  /-- Reads a system register into a k register, or TIDX into a v register (R291). -/
  | rsr (d : BitVec 8) (s : BitVec 8)
  /-- Writes NEN and clears NPEND in RESID (R291). -/
  | wsr (a : BitVec 6) (s : BitVec 8)
  /-- Loads a sign-extended 16-bit immediate into a k register (R293). -/
  | kli (d : BitVec 6) (i : BitVec 16)
  /-- Writes one upper halfword of a k register (R293). -/
  | klih (h : BitVec 2) (d : BitVec 6) (i : BitVec 16)
  /-- Copies a k register (R293). -/
  | kmov (d : BitVec 6) (a : BitVec 6)
  /-- Adds two k registers (R293). -/
  | kadd (d : BitVec 6) (a : BitVec 6) (b : BitVec 6)
  /-- Adds a sign-extended imm8 to a k register (R293). -/
  | kaddImm (d : BitVec 6) (a : BitVec 6) (i : BitVec 8)
  /-- Subtracts two k registers (R293). -/
  | ksub (d : BitVec 6) (a : BitVec 6) (b : BitVec 6)
  /-- Subtracts a sign-extended imm8 from a k register (R293). -/
  | ksubImm (d : BitVec 6) (a : BitVec 6) (i : BitVec 8)
  /-- Writes the low 64 bits of a product of two k registers (R293). -/
  | kmul (d : BitVec 6) (a : BitVec 6) (b : BitVec 6)
  /-- Writes the low 64 bits of a product with imm8 (R293). -/
  | kmulImm (d : BitVec 6) (a : BitVec 6) (i : BitVec 8)
  /-- Writes the high 64 bits of a signed or unsigned product (R293). -/
  | kmulh (u : BitVec 1) (d : BitVec 6) (a : BitVec 6) (b : BitVec 6)
  /-- Bitwise and of k registers (R293). -/
  | kand (d : BitVec 6) (a : BitVec 6) (b : BitVec 6)
  /-- Bitwise and with a zero-extended imm8 (R293). -/
  | kandImm (d : BitVec 6) (a : BitVec 6) (i : BitVec 8)
  /-- Bitwise or of k registers (R293). -/
  | kor (d : BitVec 6) (a : BitVec 6) (b : BitVec 6)
  /-- Bitwise or with a zero-extended imm8 (R293). -/
  | korImm (d : BitVec 6) (a : BitVec 6) (i : BitVec 8)
  /-- Bitwise xor of k registers (R293). -/
  | kxor (d : BitVec 6) (a : BitVec 6) (b : BitVec 6)
  /-- Bitwise xor with a zero-extended imm8 (R293). -/
  | kxorImm (d : BitVec 6) (a : BitVec 6) (i : BitVec 8)
  /-- Shifts a k register left by a register amount (R294). -/
  | kshl (d : BitVec 6) (a : BitVec 6) (b : BitVec 6)
  /-- Shifts a k register left by an immediate (R294). -/
  | kshlImm (d : BitVec 6) (a : BitVec 6) (i : BitVec 6)
  /-- Shifts a k register right logically by a register amount (R294). -/
  | kshr (d : BitVec 6) (a : BitVec 6) (b : BitVec 6)
  /-- Shifts a k register right logically by an immediate (R294). -/
  | kshrImm (d : BitVec 6) (a : BitVec 6) (i : BitVec 6)
  /-- Shifts a k register right arithmetically by a register amount (R294). -/
  | ksar (d : BitVec 6) (a : BitVec 6) (b : BitVec 6)
  /-- Shifts a k register right arithmetically by an immediate (R294). -/
  | ksarImm (d : BitVec 6) (a : BitVec 6) (i : BitVec 6)
  /-- Writes the lesser of two k registers, signed or unsigned (R293). -/
  | kmin (u : BitVec 1) (d : BitVec 6) (a : BitVec 6) (b : BitVec 6)
  /-- Writes the greater of two k registers, signed or unsigned (R293). -/
  | kmax (u : BitVec 1) (d : BitVec 6) (a : BitVec 6) (b : BitVec 6)
  /-- Writes 1 if a comparison of two k registers holds, otherwise 0 (R293). -/
  | kcmp (c : BitVec 3) (d : BitVec 6) (a : BitVec 6) (b : BitVec 6)
  /-- Selects K[a] or K[b] by the old value of K[d] (R293). -/
  | ksel (d : BitVec 6) (a : BitVec 6) (b : BitVec 6)
  /-- Counts the 1 bits of a k register (R294). -/
  | kpop (d : BitVec 6) (a : BitVec 6)
  /-- Counts the 1 bits of a predicate (R294). -/
  | kpopPred (d : BitVec 6) (a : BitVec 3)
  /-- Finds the lowest 1 bit of a k register (R294). -/
  | kfirst (d : BitVec 6) (a : BitVec 6)
  /-- Finds the lowest 1 bit of a predicate (R294). -/
  | kfirstPred (d : BitVec 6) (a : BitVec 3)
  /-- Loads a sign-extended immediate into every acting thread's element (R299). -/
  | vli (d : BitVec 8) (i : BitVec 16)
  /-- Writes bits [31:16] of every acting thread's element (R299). -/
  | vliH (d : BitVec 8) (i : BitVec 16)
  /-- Copies a vector register (R299). -/
  | vmov (d : BitVec 8) (a : BitVec 8)
  /-- Broadcasts a k register to every acting thread (R299). -/
  | vbc (d : BitVec 8) (a : BitVec 6)
  /-- Integer add of vector registers (R300). -/
  | vadd (d : BitVec 8) (a : BitVec 8) (b : BitVec 8)
  /-- Integer add of a uniform k register (R300). -/
  | vaddUniform (d : BitVec 8) (a : BitVec 8) (b : BitVec 6)
  /-- Integer subtract of vector registers (R300). -/
  | vsub (d : BitVec 8) (a : BitVec 8) (b : BitVec 8)
  /-- Integer subtract of a uniform k register (R300). -/
  | vsubUniform (d : BitVec 8) (a : BitVec 8) (b : BitVec 6)
  /-- Integer multiply of vector registers (R300). -/
  | vmul (d : BitVec 8) (a : BitVec 8) (b : BitVec 8)
  /-- Integer multiply by a uniform k register (R300). -/
  | vmulUniform (d : BitVec 8) (a : BitVec 8) (b : BitVec 6)
  /-- High half of an integer product of vector registers (R300). -/
  | vmulh (d : BitVec 8) (a : BitVec 8) (b : BitVec 8)
  /-- High half of an integer product with a uniform k register (R300). -/
  | vmulhUniform (d : BitVec 8) (a : BitVec 8) (b : BitVec 6)
  /-- Integer multiply-add into the destination (R300). -/
  | vmad (d : BitVec 8) (a : BitVec 8) (b : BitVec 8)
  /-- Integer multiply-add with a uniform k register (R300). -/
  | vmadUniform (d : BitVec 8) (a : BitVec 8) (b : BitVec 6)
  /-- Bitwise and of vector registers (R300). -/
  | vand (d : BitVec 8) (a : BitVec 8) (b : BitVec 8)
  /-- Bitwise and with a uniform k register (R300). -/
  | vandUniform (d : BitVec 8) (a : BitVec 8) (b : BitVec 6)
  /-- Bitwise or of vector registers (R300). -/
  | vor (d : BitVec 8) (a : BitVec 8) (b : BitVec 8)
  /-- Bitwise or with a uniform k register (R300). -/
  | vorUniform (d : BitVec 8) (a : BitVec 8) (b : BitVec 6)
  /-- Bitwise xor of vector registers (R300). -/
  | vxor (d : BitVec 8) (a : BitVec 8) (b : BitVec 8)
  /-- Bitwise xor with a uniform k register (R300). -/
  | vxorUniform (d : BitVec 8) (a : BitVec 8) (b : BitVec 6)
  /-- Bitwise complement of a vector register (R301). -/
  | vnot (d : BitVec 8) (a : BitVec 8)
  /-- Shifts elements left by per-thread amounts (R300). -/
  | vshl (d : BitVec 8) (a : BitVec 8) (b : BitVec 8)
  /-- Shifts elements left by a uniform amount (R300). -/
  | vshlUniform (d : BitVec 8) (a : BitVec 8) (b : BitVec 6)
  /-- Shifts elements right by per-thread amounts (R300). -/
  | vshr (d : BitVec 8) (a : BitVec 8) (b : BitVec 8)
  /-- Shifts elements right by a uniform amount (R300). -/
  | vshrUniform (d : BitVec 8) (a : BitVec 8) (b : BitVec 6)
  /-- Integer minimum of vector registers (R300). -/
  | vmin (d : BitVec 8) (a : BitVec 8) (b : BitVec 8)
  /-- Integer minimum with a uniform k register (R300). -/
  | vminUniform (d : BitVec 8) (a : BitVec 8) (b : BitVec 6)
  /-- Integer maximum of vector registers (R300). -/
  | vmax (d : BitVec 8) (a : BitVec 8) (b : BitVec 8)
  /-- Integer maximum with a uniform k register (R300). -/
  | vmaxUniform (d : BitVec 8) (a : BitVec 8) (b : BitVec 6)
  /-- Integer absolute value (R301). -/
  | vabs (d : BitVec 8) (a : BitVec 8)
  /-- Integer negation (R301). -/
  | vneg (d : BitVec 8) (a : BitVec 8)
  /-- Counts leading zero bits (R301). -/
  | vclz (d : BitVec 8) (a : BitVec 8)
  /-- Counts 1 bits (R301). -/
  | vpop (d : BitVec 8) (a : BitVec 8)
  /-- Integer compare of vector registers into a predicate (R302). -/
  | vcmp (c : BitVec 3) (p : BitVec 3) (a : BitVec 8) (b : BitVec 8)
  /-- Integer compare with a uniform k register into a predicate (R302). -/
  | vcmpUniform (c : BitVec 3) (p : BitVec 3) (a : BitVec 8) (b : BitVec 6)
  /-- Selects between vector registers by the old destination value (R303). -/
  | vsel (d : BitVec 8) (a : BitVec 8) (b : BitVec 8)
  /-- Selects between a vector register and a uniform k register (R303). -/
  | vselUniform (d : BitVec 8) (a : BitVec 8) (b : BitVec 6)
  /-- Predicate and (R305). -/
  | pand (d : BitVec 3) (a : BitVec 3) (b : BitVec 3)
  /-- Predicate or (R305). -/
  | por (d : BitVec 3) (a : BitVec 3) (b : BitVec 3)
  /-- Predicate xor (R305). -/
  | pxor (d : BitVec 3) (a : BitVec 3) (b : BitVec 3)
  /-- Predicate not (R305). -/
  | pnot (d : BitVec 3) (a : BitVec 3)
  /-- Sets a predicate to an immediate bit for every acting thread (R305). -/
  | pset (d : BitVec 3) (i : BitVec 1)
  /-- Sets a predicate from the bits of a k register (R305). -/
  | psetK (d : BitVec 3) (a : BitVec 6)
  /-- Floating add of vector registers (R306). -/
  | fadd (d : BitVec 8) (a : BitVec 8) (b : BitVec 8)
  /-- Floating add of a uniform k register (R306). -/
  | faddUniform (d : BitVec 8) (a : BitVec 8) (b : BitVec 6)
  /-- Floating subtract of vector registers (R306). -/
  | fsub (d : BitVec 8) (a : BitVec 8) (b : BitVec 8)
  /-- Floating subtract of a uniform k register (R306). -/
  | fsubUniform (d : BitVec 8) (a : BitVec 8) (b : BitVec 6)
  /-- Floating multiply of vector registers (R306). -/
  | fmul (d : BitVec 8) (a : BitVec 8) (b : BitVec 8)
  /-- Floating multiply by a uniform k register (R306). -/
  | fmulUniform (d : BitVec 8) (a : BitVec 8) (b : BitVec 6)
  /-- Fused multiply-add into the destination, rounded once (R306). -/
  | ffma (d : BitVec 8) (a : BitVec 8) (b : BitVec 8)
  /-- Fused multiply-add with a uniform k register (R306). -/
  | ffmaUniform (d : BitVec 8) (a : BitVec 8) (b : BitVec 6)
  /-- Floating minimum of vector registers (R306). -/
  | fmin (d : BitVec 8) (a : BitVec 8) (b : BitVec 8)
  /-- Floating minimum with a uniform k register (R306). -/
  | fminUniform (d : BitVec 8) (a : BitVec 8) (b : BitVec 6)
  /-- Floating maximum of vector registers (R306). -/
  | fmax (d : BitVec 8) (a : BitVec 8) (b : BitVec 8)
  /-- Floating maximum with a uniform k register (R306). -/
  | fmaxUniform (d : BitVec 8) (a : BitVec 8) (b : BitVec 6)
  /-- Clears the sign of a floating value (R307). -/
  | fabs (d : BitVec 8) (a : BitVec 8)
  /-- Inverts the sign of a floating value (R307). -/
  | fneg (d : BitVec 8) (a : BitVec 8)
  /-- Correctly rounded reciprocal (R308). -/
  | frcp (d : BitVec 8) (a : BitVec 8)
  /-- Correctly rounded reciprocal square root (R308). -/
  | frsq (d : BitVec 8) (a : BitVec 8)
  /-- Correctly rounded square root (R308). -/
  | fsqrt (d : BitVec 8) (a : BitVec 8)
  /-- Correctly rounded 2^x (R308). -/
  | fexp (d : BitVec 8) (a : BitVec 8)
  /-- Correctly rounded log2 x (R308). -/
  | flog (d : BitVec 8) (a : BitVec 8)
  /-- Correctly rounded sine (R308). -/
  | fsin (d : BitVec 8) (a : BitVec 8)
  /-- Correctly rounded cosine (R308). -/
  | fcos (d : BitVec 8) (a : BitVec 8)
  /-- Correctly rounded hyperbolic tangent (R308). -/
  | ftanh (d : BitVec 8) (a : BitVec 8)
  /-- Floating compare of vector registers into a predicate (R309). -/
  | fcmp (c : BitVec 3) (p : BitVec 3) (a : BitVec 8) (b : BitVec 8)
  /-- Floating compare with a uniform k register into a predicate (R309). -/
  | fcmpUniform (c : BitVec 3) (p : BitVec 3) (a : BitVec 8) (b : BitVec 6)
  /-- Writes the class index of a floating value (R310). -/
  | fcls (d : BitVec 8) (a : BitVec 8)
  /-- Converts from the encoded source type to MODE.type (R312). -/
  | cvt (d : BitVec 8) (a : BitVec 8) (s : BitVec 5)
  /-- Forms BFP mantissas from f32 values and block exponents (R315). -/
  | bpak (d : BitVec 8) (a : BitVec 8) (b : BitVec 8)
  /-- Restores f32 values from BFP mantissas and block exponents (R315). -/
  | bunp (d : BitVec 8) (a : BitVec 8) (b : BitVec 8)
  /-- Forms a block exponent from an f32 magnitude and a per-thread bias (R315). -/
  | bscl (d : BitVec 8) (a : BitVec 8) (b : BitVec 8)
  /-- Forms a block exponent with a uniform bias (R315). -/
  | bsclUniform (d : BitVec 8) (a : BitVec 8) (b : BitVec 6)
  /-- Reads the element of a per-thread indexed thread (R317). -/
  | shfl (d : BitVec 8) (a : BitVec 8) (b : BitVec 8)
  /-- Broadcasts the element of a uniformly indexed thread (R317). -/
  | shflUniform (d : BitVec 8) (a : BitVec 8) (b : BitVec 6)
  /-- Reads the element of thread t XOR a per-thread value (R317). -/
  | shfx (d : BitVec 8) (a : BitVec 8) (b : BitVec 8)
  /-- Reads the element of thread t XOR an immediate (R317). -/
  | shfxImm (d : BitVec 8) (a : BitVec 8) (i : BitVec 8)
  /-- Writes 1 if any enabled thread's predicate is set (R318). -/
  | vany (d : BitVec 6) (a : BitVec 3)
  /-- Writes 1 if every enabled thread's predicate is set (R318). -/
  | vall (d : BitVec 6) (a : BitVec 3)
  /-- Writes the ballot mask of the enabled threads' predicate (R318). -/
  | vbal (d : BitVec 6) (a : BitVec 3)
  /-- Reduces the contributors' values in ascending thread order into a k register (R319). -/
  | gred (d : BitVec 6) (a : BitVec 8) (o : BitVec 3)
  /-- Writes the inclusive scan of the contributors' values (R319). -/
  | gscan (d : BitVec 8) (a : BitVec 8) (o : BitVec 3)
  /-- Per-thread load from K[b] plus an extended offset (R327). -/
  | ld (e : BitVec 1) (d : BitVec 8) (a : BitVec 8) (b : BitVec 6)
  /-- Per-thread store to K[b] plus an extended offset (R327). -/
  | st (e : BitVec 1) (d : BitVec 8) (a : BitVec 8) (b : BitVec 6)
  /-- Per-thread load that is an acquire at its scope (R327). -/
  | lda (s : BitVec 3) (d : BitVec 8) (a : BitVec 8) (b : BitVec 6)
  /-- Per-thread store that is a release at its scope (R327). -/
  | stl (s : BitVec 3) (d : BitVec 8) (a : BitVec 8) (b : BitVec 6)
  /-- Per-thread scratchpad load (R327). -/
  | lds (d : BitVec 8) (a : BitVec 8) (i : BitVec 8)
  /-- Per-thread scratchpad store (R327). -/
  | sts (d : BitVec 8) (a : BitVec 8) (i : BitVec 8)
  /-- Uniform 8-byte load from memory or scratchpad into a k register (R327). -/
  | ldk (m : BitVec 1) (d : BitVec 6) (a : BitVec 6) (i : BitVec 8)
  /-- Uniform 8-byte store of a k register to memory or scratchpad (R327). -/
  | stk (m : BitVec 1) (d : BitVec 6) (a : BitVec 6) (i : BitVec 8)
  /-- Holds the split until its load count is at most n (R331). -/
  | lwait (n : BitVec 6)
  /-- Asks that each acting thread's line be brought into L2 (R328). -/
  | pref (a : BitVec 8) (b : BitVec 6)
  /-- Per-thread read of an 8-byte frame slot at a depth (R332). -/
  | ldf (d : BitVec 8) (k : BitVec 2) (s : BitVec 8)
  /-- Uniform read of a frame slot through the lowest active thread (R332). -/
  | ldfk (d : BitVec 6) (k : BitVec 2) (s : BitVec 8)
  /-- Per-thread write of an 8-byte frame slot at a depth (R332). -/
  | stf (d : BitVec 8) (k : BitVec 2) (s : BitVec 8)
  /-- Per-thread read-modify-write at the location's engine, returning the old value (R334). -/
  | atom (d : BitVec 8) (a : BitVec 8) (o : BitVec 4) (s : BitVec 3)
  /-- Per-thread read-modify-write with no return, which routers may merge (R334). -/
  | atomr (d : BitVec 8) (a : BitVec 8) (o : BitVec 4) (s : BitVec 3)
  /-- Pushes a value at the owner end of a deque, parking while it is full (R337). -/
  | dqpush (d : BitVec 6) (a : BitVec 6) (s : BitVec 3)
  /-- Pops the newest entry of a deque, or 0 if it is empty (R337). -/
  | dqpop (d : BitVec 6) (a : BitVec 6) (s : BitVec 3)
  /-- Takes the oldest entry of a deque, or 0 if it is empty (R337). -/
  | dqsteal (d : BitVec 6) (a : BitVec 6) (s : BitVec 3)
  /-- Initialises a barrier word if it is unset or forced (R339). -/
  | bari (d : BitVec 6) (a : BitVec 6) (e : BitVec 1)
  /-- Reads a barrier word atomically (R339). -/
  | barr (d : BitVec 6) (a : BitVec 6)
  /-- Parks until the given phase completes (R339). -/
  | barw (d : BitVec 6) (a : BitVec 6)
  /-- Arrives at a barrier word and waits for the phase to complete (R339). -/
  | bara (a : BitVec 6)
  /-- Adds expected bytes and arrives without waiting (R339). -/
  | barx (d : BitVec 6) (a : BitVec 6)
  /-- Holds later memory operations until earlier ones are performed at the scope (R340). -/
  | fence (s : BitVec 3)
  /-- Publishes host-published writes and increments the publication counter (R341). -/
  | pub (a : BitVec 6)
  /-- Defines or invalidates a tensor identifier from a 64-byte image (R344). -/
  | tdef (a : BitVec 6) (i : BitVec 8)
  /-- Reads one 8-byte word of a tensor identifier (R344). -/
  | tget (d : BitVec 6) (w : BitVec 3) (i : BitVec 8)
  /-- Starts a box copy between tensor identifiers (R351). -/
  | cpy (d : BitVec 6) (a : BitVec 6) (b : BitVec 6)
  /-- Starts a gather copy of rows named by an index list (R352). -/
  | cpyg (d : BitVec 6) (a : BitVec 6) (b : BitVec 6)
  /-- Starts a multicast copy to the cluster's teams named by MASK (R353). -/
  | cpym (d : BitVec 6) (a : BitVec 6) (b : BitVec 6)
  /-- Starts a copy that increments a signal word on completion (R351). -/
  | cpyo (d : BitVec 6) (a : BitVec 6) (b : BitVec 6)
  /-- Starts a copy of whole vector registers to or from memory (R354). -/
  | cpyr (d : BitVec 6) (a : BitVec 6) (b : BitVec 6)
  /-- Holds the split until a batch is done (R355). -/
  | bwait (a : BitVec 6)
  /-- Multiplies a tile by a scratchpad operand into an accumulator (R362). -/
  | mma (r : BitVec 1) (d : BitVec 3) (t : BitVec 3) (i : BitVec 8)
  /-- Paired multiply split across the leader and follower arrays (R362). -/
  | mmap (r : BitVec 1) (d : BitVec 3) (t : BitVec 3) (i : BitVec 8)
  /-- Clears an accumulator to +0 (R364). -/
  | accz (d : BitVec 3)
  /-- Reads out an accumulator box into an identifier, converting it (R364). -/
  | accrd (d : BitVec 3) (i : BitVec 8)
  /-- Loads a BFP tile register from scratchpad (R359). -/
  | tld (t : BitVec 3) (i : BitVec 8)
  /-- Sets the M and K in use of a tile register (R360). -/
  | shape (a : BitVec 6)
  /-- Looks up or allocates a leaf line and returns its name (R367). -/
  | calookLeaf (d : BitVec 6) (a : BitVec 6) (h : BitVec 4)
  /-- Looks up or allocates an interior line and returns its name (R367). -/
  | calookInt (d : BitVec 6) (a : BitVec 6) (h : BitVec 4)
  /-- Reads 16 bytes of a live line (R368). -/
  | caread (d : BitVec 6) (a : BitVec 6) (h : BitVec 4)
  /-- Returns the name of a child of an interior line (R368). -/
  | cawalk (d : BitVec 6) (a : BitVec 6) (h : BitVec 4)
  /-- Reads a root slot or swaps its name against an expected version (R369). -/
  | carswap (d : BitVec 6) (a : BitVec 6) (h : BitVec 4)
  /-- Adds a reference to a live name (R370). -/
  | caref (a : BitVec 6) (h : BitVec 4)
  /-- Drops a reference to a live name (R370). -/
  | cadrop (a : BitVec 6) (h : BitVec 4)
  /-- Copies a tree's expansion out to memory on a copy engine (R371). -/
  | caout (d : BitVec 6) (a : BitVec 6) (h : BitVec 4)
  /-- Creates one frame for each active thread (R373). -/
  | fnew (d : BitVec 8) (a : BitVec 6)
  /-- Creates one frame and sets the display register of its depth (R373). -/
  | fnewU (d : BitVec 6) (a : BitVec 6)
  /-- Finishes the body of each active thread's frame at a depth (R374). -/
  | fret (k : BitVec 2)
  /-- Finishes the body of the frame at a depth, viewed through the lowest active thread (R374). -/
  | fretU (k : BitVec 2)
  /-- Writes a display register with a checked handle (R375). -/
  | disp (k : BitVec 2) (a : BitVec 6)
  /-- Emits one continuation record for each active thread, charging the named frames (R376). -/
  | cont (a : BitVec 8)
  /-- Emits one continuation record from k registers (R376). -/
  | contU (a : BitVec 6)
  /-- A split issues a word whose opcode is unassigned, or opcode 0x7F, and it traps ENC_ILLEGAL (R264). -/
  | unassignedOpcode (w : Word32)
  /-- In recovery mode the device accepts a new image over MCTP or through the management window (R25). -/
  | recoveryImage (image version : Nat) (ok : Bool)
  /-- The measured module power reaches the limit in force, and the device lowers the core clock to hold it (R27). -/
  | powerLimitReached (watts : Nat)
  /-- The drain of a reset queue ends; HEAD, tail and L are set, the queue returns to ACTIVE and a reset record is posted (R50). -/
  | resetDone
  /-- The drain of a disabling queue ends, the queue enters DISABLED and the context may end (R49). -/
  | disableDone
  /-- Every 50 µs each queue that is not DISABLED is compared for tamper and has its DB_SHADOW offered as a doorbell (R39). -/
  | reconcilePass
  /-- A submitted management request whose CODE is not listed is answered with STATUS 1 (R56). -/
  | mbSubmitUnknown
  /-- A response is complete in MB_RSP; BUSY is cleared, RSP_READY set and the vector raised (R400). -/
  | mbResponse
  /-- An event that waited for ring space is written once space frees, EVT_WRIDX advances and the vector is raised (R400). -/
  | eventRingWrite
  /-- Management request 0x1A returns the state and telemetry of one memory stack (R30). -/
  | stackStat
  /-- Management request 0x1B with OP 1 returns the power limit, the measured power, the hottest temperature and the clock state (R30). -/
  | powerLimitRead
  /-- Management request 0x1B with OP 2 sets the module power limit (R30). -/
  | powerLimitSet
  /-- Management request 0x10 creates or replaces a partition and rebinds functions, squeezing any resources that are removed (R58). -/
  | partSet
  /-- Management request 0x11 deletes a partition and returns its functions to the parent (R59). -/
  | partDel
  /-- Management request 0x20 invalidates cached translations in a range and answers once old accesses have drained (R67). -/
  | inval
  /-- Management request 0x30 returns the oldest unacknowledged closed Sterling record, or else the live record (R52). -/
  | sterlingRead
  /-- Management request 0x31 releases a closed Sterling record (R74). -/
  | sterlingAck
  /-- Management request 0x50 returns a die's HOT_MOVED and HOT_REFUSED counts (R56). -/
  | dieStats
  /-- Management request 0x17 releases the resources that mailbox squeezes hold for a context on a core (R392). -/
  | unsqueeze
  /-- Management request 0x13 passes a TRAP_CTL value to the trap core of a core (R135). -/
  | trapCmd
  /-- Management request 0x14 with OP 1 creates an Electrum store (R214). -/
  | caStoreCreate
  /-- Management request 0x14 with OP 2 deletes an Electrum store that has no bindings (R214). -/
  | caStoreDelete
  /-- Management request 0x15 binds a store to a context handle with the given rights (R215). -/
  | caBind
  /-- Management request 0x15 with RIGHTS[3] set clears a context's handle (R215). -/
  | caUnbind
  /-- Management request 0x16 fills in the gaps of a Camtupo image and writes the native image, or writes a cached result (R268). -/
  | finalise
  /-- Management request 0x18 with OP 1 returns the state, kind and count of a line by name (R393). -/
  | caLineRead
  /-- Management request 0x18 with OP 2 returns the 32 bytes of a root slot (R393). -/
  | caRootRead
  /-- Management request 0x19 with OP 1 saves a context's teams off a core and frees their resources (R397). -/
  | switchOut
  /-- Management request 0x19 with OP 2 asks that a context's saved teams be restored onto their core (R397). -/
  | switchIn
  /-- A NOP packet starts and completes with no effect other than its completion (R42). -/
  | nopPacket
  /-- A LAUNCH packet is parsed: its descriptor is checked, the launch is admitted and its dies are fixed (R83). -/
  | launch
  /-- A SIGNAL packet stores, adds or ors a value into a 64-bit word atomically, with release at system scope (R43). -/
  | signal
  /-- A WAIT packet starts reading its word with acquire at system scope until its condition holds (R43). -/
  | wait
  /-- A re-read of a WAIT packet's word meets its condition, and the packet completes (R43). -/
  | waitSatisfied
  /-- TIMEOUT_US elapses on a WAIT packet, and the queue enters ERROR with WAIT_TIMEOUT (R43). -/
  | waitTimeout
  /-- A PUBLISH packet makes earlier host-published writes visible and increments its counter (R46). -/
  | publish
  /-- A MARKER packet writes the reference-clock time to its address when it starts (R42). -/
  | marker
  /-- All of a packet's work is coherent; DONE_SIG is decremented, HEAD advances and a completion record may be posted (R41). -/
  | packetComplete
  /-- A 1 ms scheduling period ends; charges reset and a starved queue may force a full context switch (R78). -/
  | schedPeriod
  /-- A queue's charge in the period reaches TIME_BUDGET, and it becomes over budget (R78). -/
  | overBudget
  /-- At an instruction boundary with NEN and NPEND set, a split saves its PC in K[62] and enters the notice handler (R136). -/
  | notice
  /-- TRAP_CTL operation 1 resumes the trapped split of an entry at the PC its block holds (R139). -/
  | trapCtlResume
  /-- TRAP_CTL operation 2 halts every live split of an entry (R139). -/
  | trapCtlHalt
  /-- TRAP_CTL operation 3 clears every split's halted flag and resumes (R139). -/
  | trapCtlClearResume
  /-- TRAP_CTL operation 4 ends the context with the recorded cause (R139). -/
  | trapCtlEnd
  /-- A split's issue count while another split waits reaches 2^24, and it raises WATCHDOG_SPLIT (R140). -/
  | watchdogSplit
  /-- A split that has stayed parked for the team watchdog period raises WATCHDOG_TEAM (R141). -/
  | watchdogTeam
  /-- The per-die accumulators are folded into the Sterling records at least every 1 ms (R73). -/
  | sterlingFold
  /-- A 1 ms access-count window ends, and pages that meet the candidate test are selected for migration (R69). -/
  | hotPageWindow
  /-- A variable-latency result is written, and the split's load count drains in issue order (R329). -/
  | loadComplete
  /-- A push parked on a full deque is retried when the deque changes (R337). -/
  | dqpushRetry
  /-- Takes one issue with no effect (R274). -/
  | nop
  /-- Removes the split's threads from the group, ending their frame bodies and charges (R281). -/
  | exit
  /-- Holds the split back as if its PC were the highest in the group (R282). -/
  | yield
  /-- Returns from a notice handler to K[62] and sets NEN (R284). -/
  | nret
  /-- Pops a region identifier, and may raise BRK under RBRK (R286). -/
  | leave
  /-- Closes the group's unclosed copies into the next batch (R355). -/
  | bclose
  /-- Holds the split until operand writes are performed at team scope (R361). -/
  | fenop
  /-- Holds the split until the group's earlier matrix instructions retire (R365). -/
  | mwait
  /-- A 10 µs bandwidth metering window ends, and traffic that was held back over budget may proceed in the new window (R60). -/
  | bandwidthWindow
  /-- In a time-slice switch, an incoming group's hot set, group-state entry and pinned pages finish restoring, and the group may issue (R114). -/
  | incomingStateRestored
  deriving DecidableEq, Repr

end Sys2Proof
end

