-- ==== Sys2Proof/WellFormed.lean ====
section
/-!
DEFINITION. Which terms of `Instr` stand for a step of the machine: the sub-function and field values that
12_isa_formats R249, R253, R256 to R263 call illegal or reserved are excluded, and an event names a die, core, queue
or other unit that the part has (00_scope, 01 R8 to R20, 02 R31, 06 R120).
-/

namespace Sys2Proof

/-- The value bits of `mode` outside the fields that its mask selects are zero (13 R288): TYPE [4:0], ROUND [7:5],
SAT [8], FTZ [9], BLEN [11:10]. -/
def modeValueFits (m : BitVec 5) (v : BitVec 12) : Bool :=
  (m.getLsbD 0 || v.extractLsb' 0 5 == 0) && (m.getLsbD 1 || v.extractLsb' 5 3 == 0) &&
  (m.getLsbD 2 || !v.getLsbD 8) && (m.getLsbD 3 || !v.getLsbD 9) && (m.getLsbD 4 || v.extractLsb' 10 2 == 0)

/-- The check of the header, constructor by constructor. -/
def Instr.wf : Instr → Bool
  | .hotReset link => decide (link < 2)
  | .functionLevelReset fn => decide (fn < 17)
  | .linkDown link => decide (link < 2)
  | .solderCrcRetry boundary _ => decide (boundary < 4)
  | .portDown port => decide (port < 16)
  | .patrolScrub stack => decide (stack < 8)
  | .rowRepair stack _ _ _ => decide (stack < 8)
  | .repairCopyDone stack => decide (stack < 8)
  | .rowHammer fn stack _ _ => decide (fn < 17) && decide (stack < 8)
  | .hammerWindowEnd stack => decide (stack < 8)
  | .thermalLimit die _ => decide (die < 4)
  | .droop die => decide (die < 4)
  | .droopRecover die => decide (die < 4)
  | .lockstepMismatch die => decide (die < 4)
  | .frontEndCheckpoint die => decide (die < 4)
  | .registerWrite _ at' _ _ _ => decide (at'.link < 2) && decide (at'.fn < 17)
  | .doorbell at' _ _ _ => decide (at'.link < 2) && decide (at'.fn < 17)
  | .qcmdReset fn _ => decide (fn < 17)
  | .qpcmdReset fn _ => decide (fn < 17)
  | .qpcmdEnable fn _ => decide (fn < 17)
  | .qpcmdDisable fn _ => decide (fn < 17)
  | .squeeze core => decide (core < 160)
  | .squeezeHandover core => decide (core < 160)
  | .switchInRestore core => decide (core < 160)
  | .saveDrainDone core => decide (core < 160)
  | .teamDispatch die => decide (die < 4)
  | .dieIdle die => decide (die < 4)
  | .stealReq victim => decide (victim < 4)
  | .stealGive thief => decide (thief < 4)
  | .stealNone thief => decide (thief < 4)
  | .stealDone victim => decide (victim < 4)
  | .gatherTimeout die _ => decide (die < 4)
  | .joinRecordEnqueue die => decide (die < 4)
  | .expansion core => decide (core < 160)
  | .trapTake core => decide (core < 160)
  | .groupStateWrite core entry _ _ => decide (core < 160) && decide (entry < 64)
  | .pcSample core quarter => decide (core < 160) && decide (quarter < 4)
  | .gcntRefresh fn => decide (fn < 17)
  | .pageMigration die => decide (die < 4)
  | .matrixRetire core => decide (core < 160)
  | .mode m v => modeValueFits m v
  | .rsr d s => s.toNat ≤ 0x0D && (s == 0 || d.toNat < 64)
  | .wsr _ s => s == 6
  | .klih h _ _ => h != 0
  | .kcmp c _ _ _ => c.toNat < 6
  | .vcmp c _ _ _ => c.toNat < 6
  | .vcmpUniform c _ _ _ => c.toNat < 6
  | .cvt _ _ s => s.toNat ≤ 0x0C
  | .gred _ _ o => o.toNat < 6
  | .gscan _ _ o => o.toNat < 6
  | .lda s _ _ _ => s.toNat ≤ 4
  | .stl s _ _ _ => s.toNat ≤ 4
  | .atom _ _ o s => o.toNat < 8 && s.toNat ≤ 4
  | .atomr _ _ o s => o.toNat < 6 && s.toNat ≤ 4
  | .dqpush _ _ s => s.toNat ≤ 4
  | .dqpop _ _ s => s.toNat ≤ 4
  | .dqsteal _ _ s => s.toNat ≤ 4
  | .fence s => s.toNat ≤ 4
  | .disp k _ => k != 0
  | .coldReset .. | .peerWriteIn _ _ _ _ | .spdmRequest _ _ | .mctpSterlingRead _ | .resetDone | .disableDone 
  | .reconcilePass | .mbSubmitUnknown | .mbResponse | .eventRingWrite | .pfeqCtlWrite _ | .stackStat 
  | .powerLimitRead | .powerLimitSet | .partSet | .partDel | .inval | .sterlingRead | .sterlingAck | .dieStats 
  | .unsqueeze | .trapCmd | .caStoreCreate | .caStoreDelete | .caBind | .caUnbind | .finalise | .caLineRead 
  | .caRootRead | .switchOut | .switchIn | .nopPacket | .launch | .signal | .wait | .waitSatisfied | .waitTimeout 
  | .publish | .marker | .packetComplete | .engineFault _ _ _ | .schedPeriod | .overBudget | .stepAgree _ 
  | .teamComplete _ | .notice | .trapCtlResume | .trapCtlHalt | .trapCtlClearResume | .trapCtlEnd | .watchdogSplit 
  | .watchdogTeam | .sterlingFold | .hotPageWindow | .loadComplete | .atomicAtEngine _ _ | .dqpushRetry 
  | .copyDeliver _ | .copyComplete _ | .electrumStep _ | .cascadeDrop _ | .frameLiveDecrement _ | .nop | .br _ 
  | .brp _ _ | .brn _ _ | .bruNz _ _ | .bruZ _ _ | .call _ _ | .callt _ _ | .jmpt _ | .ret _ | .exit | .yield 
  | .brk _ | .trap _ | .nret | .nchk _ | .enter _ | .leave | .modeGd _ _ _ | .modr _ | .kli _ _ | .kmov _ _ 
  | .kadd _ _ _ | .kaddImm _ _ _ | .ksub _ _ _ | .ksubImm _ _ _ | .kmul _ _ _ | .kmulImm _ _ _ | .kmulh _ _ _ _ 
  | .kand _ _ _ | .kandImm _ _ _ | .kor _ _ _ | .korImm _ _ _ | .kxor _ _ _ | .kxorImm _ _ _ | .kshl _ _ _ 
  | .kshlImm _ _ _ | .kshr _ _ _ | .kshrImm _ _ _ | .ksar _ _ _ | .ksarImm _ _ _ | .kmin _ _ _ _ | .kmax _ _ _ _ 
  | .ksel _ _ _ | .kpop _ _ | .kpopPred _ _ | .kfirst _ _ | .kfirstPred _ _ | .vli _ _ | .vliH _ _ | .vmov _ _ 
  | .vbc _ _ | .vadd _ _ _ | .vaddUniform _ _ _ | .vsub _ _ _ | .vsubUniform _ _ _ | .vmul _ _ _ | .vmulUniform _ _ _ 
  | .vmulh _ _ _ | .vmulhUniform _ _ _ | .vmad _ _ _ | .vmadUniform _ _ _ | .vand _ _ _ | .vandUniform _ _ _ 
  | .vor _ _ _ | .vorUniform _ _ _ | .vxor _ _ _ | .vxorUniform _ _ _ | .vnot _ _ | .vshl _ _ _ | .vshlUniform _ _ _ 
  | .vshr _ _ _ | .vshrUniform _ _ _ | .vmin _ _ _ | .vminUniform _ _ _ | .vmax _ _ _ | .vmaxUniform _ _ _ 
  | .vabs _ _ | .vneg _ _ | .vclz _ _ | .vpop _ _ | .vsel _ _ _ | .vselUniform _ _ _ | .pand _ _ _ | .por _ _ _ 
  | .pxor _ _ _ | .pnot _ _ | .pset _ _ | .psetK _ _ | .fadd _ _ _ | .faddUniform _ _ _ | .fsub _ _ _ 
  | .fsubUniform _ _ _ | .fmul _ _ _ | .fmulUniform _ _ _ | .ffma _ _ _ | .ffmaUniform _ _ _ | .fmin _ _ _ 
  | .fminUniform _ _ _ | .fmax _ _ _ | .fmaxUniform _ _ _ | .fabs _ _ | .fneg _ _ | .frcp _ _ | .frsq _ _ 
  | .fsqrt _ _ | .fexp _ _ | .flog _ _ | .fsin _ _ | .fcos _ _ | .ftanh _ _ | .fcmp _ _ _ _ | .fcmpUniform _ _ _ _ 
  | .fcls _ _ | .bpak _ _ _ | .bunp _ _ _ | .bscl _ _ _ | .bsclUniform _ _ _ | .shfl _ _ _ | .shflUniform _ _ _ 
  | .shfx _ _ _ | .shfxImm _ _ _ | .vany _ _ | .vall _ _ | .vbal _ _ | .ld _ _ _ _ | .st _ _ _ _ | .lds _ _ _ 
  | .sts _ _ _ | .ldk _ _ _ _ | .stk _ _ _ _ | .lwait _ | .pref _ _ | .ldf _ _ _ | .ldfk _ _ _ | .stf _ _ _ 
  | .bari _ _ _ | .barr _ _ | .barw _ _ | .bara _ | .barx _ _ | .pub _ | .tdef _ _ | .tget _ _ _ | .cpy _ _ _ 
  | .cpyg _ _ _ | .cpym _ _ _ | .cpyo _ _ _ | .cpyr _ _ _ | .bclose | .bwait _ | .mma _ _ _ _ | .mmap _ _ _ _ 
  | .accz _ | .accrd _ _ | .tld _ _ | .fenop | .shape _ | .mwait | .calookLeaf _ _ _ | .calookInt _ _ _ 
  | .caread _ _ _ | .cawalk _ _ _ | .carswap _ _ _ | .caref _ _ | .cadrop _ _ | .caout _ _ _ | .fnew _ _ | .fnewU _ _ 
  | .fret _ | .fretU _ | .cont _ | .contU _ | .unassignedOpcode _ | .bandwidthWindow | .recoveryImage _ _ _ 
  | .powerLimitReached _ | .incomingStateRestored => true

end Sys2Proof
end

