-- ==== Sys2Proof/Decode.lean ====
section
/-!
DEFINITION. Decoding and encoding of instruction words (12_isa_formats R244 to R246, R253 to R265).
`decode` is total: a word that is no instruction is refused by name, `illegal` (R264, traps ENC_ILLEGAL) before
`reserved` (R245, traps ENC_RESERVED), in the order of R265. `encode` is written from the same tables.
-/

namespace Sys2Proof

/-- Why a word is no instruction (R265, checks 2 and 3). -/
inductive DecodeError where
  /-- Unassigned opcode, opcode 0x7F, or a sub-function marked illegal (R264). -/
  | illegal
  /-- A reserved bit is set (R245). -/
  | reserved
  deriving DecidableEq, Repr

/-- The fields of a word (R244): op [31:25], x [24], d [23:16], a [15:8], b or imm8 [7:0]. -/
structure Fields where
  op : BitVec 7
  x : BitVec 1
  d : Byte
  a : Byte
  b : Byte
  deriving DecidableEq, Repr

def Fields.ofWord (w : Word32) : Fields :=
  { op := w.extractLsb' 25 7, x := w.extractLsb' 24 1, d := w.extractLsb' 16 8, a := w.extractLsb' 8 8,
    b := w.extractLsb' 0 8 }

def Fields.toWord (f : Fields) : Word32 := f.op ++ f.x ++ f.d ++ f.a ++ f.b

def mkF (op : BitVec 7) (x : BitVec 1) (d a b : Byte) : Fields := { op := op, x := x, d := d, a := a, b := b }

def low3 (b : Byte) : BitVec 3 := b.extractLsb' 0 3
def low4 (b : Byte) : BitVec 4 := b.extractLsb' 0 4
def low5 (b : Byte) : BitVec 5 := b.extractLsb' 0 5
def low6 (b : Byte) : BitVec 6 := b.extractLsb' 0 6
/-- Bits [7:6], reserved in a k-class field that the map gives no sub-function (R246). -/
def top2 (b : Byte) : BitVec 2 := b.extractLsb' 6 2
/-- Bits [7:3], reserved in a p-, t- or acc-class field (R246). -/
def top5 (b : Byte) : BitVec 5 := b.extractLsb' 3 5

/-- The instruction if every reserved bit is clear (R245). -/
def keep (ok : Bool) (i : Instr) : Except DecodeError Instr := if ok then .ok i else .error .reserved

/-- The opcode map of R255 to R263. -/
def decodeFields (f : Fields) : Except DecodeError Instr :=
  match f.op with
  | 0x00#7 => keep (f.x == 0 && f.d == 0 && f.a == 0 && f.b == 0) (.nop)
  | 0x01#7 => keep (f.x == 0) (.br (f.d ++ f.a ++ f.b))
  | 0x02#7 => keep (f.x == 0 && top5 f.d == 0) (.brp (low3 f.d) (f.a ++ f.b))
  | 0x03#7 => keep (f.x == 0 && top5 f.d == 0) (.brn (low3 f.d) (f.a ++ f.b))
  | 0x04#7 => keep (top2 f.d == 0) (if f.x == 0 then .bruNz (low6 f.d) (f.a ++ f.b) else .bruZ (low6 f.d) (f.a ++ f.b))
  | 0x05#7 => keep (f.x == 0 && top2 f.d == 0) (.call (low6 f.d) (f.a ++ f.b))
  | 0x06#7 => keep (f.x == 0 && top2 f.d == 0 && top2 f.a == 0 && f.b == 0) (.callt (low6 f.d) (low6 f.a))
  | 0x07#7 => keep (f.x == 0 && f.d == 0 && top2 f.a == 0 && f.b == 0) (.jmpt (low6 f.a))
  | 0x08#7 => keep (f.x == 0 && f.d == 0 && top2 f.a == 0 && f.b == 0) (.ret (low6 f.a))
  | 0x09#7 => match f.d.extractLsb' 4 4 with
    | 0x0#4 => keep (f.x == 0 && low4 f.d == 0 && f.a == 0 && f.b == 0) .exit
    | 0x1#4 => keep (f.x == 0 && low4 f.d == 0 && f.a == 0 && f.b == 0) .yield
    | 0x2#4 => keep (f.x == 0 && low4 f.d == 0) (.brk (f.a ++ f.b))
    | 0x3#4 => keep (f.x == 0 && low4 f.d == 0) (.trap (f.a ++ f.b))
    | 0x4#4 => keep (f.x == 0 && low4 f.d == 0 && f.a == 0 && f.b == 0) .nret
    | _ => .error .illegal
  | 0x0A#7 => keep (f.x == 0) (.nchk (f.d ++ f.a ++ f.b))
  | 0x0B#7 => if f.x == 0 then keep (f.d == 0) (.enter (f.a ++ f.b)) else keep (f.d == 0 && f.a == 0 && f.b == 0) .leave
  | 0x0C#7 => if f.x == 0 then
        keep (f.d.extractLsb' 5 3 == 0 && f.a.extractLsb' 4 4 == 0 && modeValueFits (low5 f.d) (low4 f.a ++ f.b))
          (.mode (low5 f.d) (low4 f.a ++ f.b))
      else keep (f.d == 0 && f.a == 0 && f.b.extractLsb' 5 3 == 0)
          (.modeGd (f.b.extractLsb' 2 3) (f.b.extractLsb' 1 1) (f.b.extractLsb' 0 1))
  | 0x0D#7 => keep (f.x == 0 && f.d == 0 && top2 f.a == 0 && f.b == 0) (.modr (low6 f.a))
  | 0x0E#7 => if f.x == 0 then
        if f.b.toNat ≤ 0x0D then keep (f.a == 0 && (f.b == 0 || top2 f.d == 0)) (.rsr f.d f.b) else .error .illegal
      else if f.b == 6 then keep (f.d == 0 && top2 f.a == 0) (.wsr (low6 f.a) f.b) else .error .illegal
  | 0x10#7 => keep (f.x == 0 && top2 f.d == 0) (.kli (low6 f.d) (f.a ++ f.b))
  | 0x11#7 => if top2 f.d == 0 then .error .illegal else keep (f.x == 0) (.klih (top2 f.d) (low6 f.d) (f.a ++ f.b))
  | 0x12#7 => keep (f.x == 0 && top2 f.d == 0 && top2 f.a == 0 && f.b == 0) (.kmov (low6 f.d) (low6 f.a))
  | 0x13#7 => if f.x == 0 then keep (top2 f.d == 0 && top2 f.a == 0 && top2 f.b == 0) (.kadd (low6 f.d) (low6 f.a) (low6 f.b))
      else keep (top2 f.d == 0 && top2 f.a == 0) (.kaddImm (low6 f.d) (low6 f.a) f.b)
  | 0x14#7 => if f.x == 0 then keep (top2 f.d == 0 && top2 f.a == 0 && top2 f.b == 0) (.ksub (low6 f.d) (low6 f.a) (low6 f.b))
      else keep (top2 f.d == 0 && top2 f.a == 0) (.ksubImm (low6 f.d) (low6 f.a) f.b)
  | 0x15#7 => if f.x == 0 then keep (top2 f.d == 0 && top2 f.a == 0 && top2 f.b == 0) (.kmul (low6 f.d) (low6 f.a) (low6 f.b))
      else keep (top2 f.d == 0 && top2 f.a == 0) (.kmulImm (low6 f.d) (low6 f.a) f.b)
  | 0x17#7 => if f.x == 0 then keep (top2 f.d == 0 && top2 f.a == 0 && top2 f.b == 0) (.kand (low6 f.d) (low6 f.a) (low6 f.b))
      else keep (top2 f.d == 0 && top2 f.a == 0) (.kandImm (low6 f.d) (low6 f.a) f.b)
  | 0x18#7 => if f.x == 0 then keep (top2 f.d == 0 && top2 f.a == 0 && top2 f.b == 0) (.kor (low6 f.d) (low6 f.a) (low6 f.b))
      else keep (top2 f.d == 0 && top2 f.a == 0) (.korImm (low6 f.d) (low6 f.a) f.b)
  | 0x19#7 => if f.x == 0 then keep (top2 f.d == 0 && top2 f.a == 0 && top2 f.b == 0) (.kxor (low6 f.d) (low6 f.a) (low6 f.b))
      else keep (top2 f.d == 0 && top2 f.a == 0) (.kxorImm (low6 f.d) (low6 f.a) f.b)
  | 0x16#7 => keep (top2 f.d == 0 && top2 f.a == 0 && top2 f.b == 0) (.kmulh f.x (low6 f.d) (low6 f.a) (low6 f.b))
  | 0x1A#7 => match top2 f.b with
    | 0#2 => keep (top2 f.d == 0 && top2 f.a == 0) (if f.x == 0 then .kshl (low6 f.d) (low6 f.a) (low6 f.b) else .kshlImm (low6 f.d) (low6 f.a) (low6 f.b))
    | 1#2 => keep (top2 f.d == 0 && top2 f.a == 0) (if f.x == 0 then .kshr (low6 f.d) (low6 f.a) (low6 f.b) else .kshrImm (low6 f.d) (low6 f.a) (low6 f.b))
    | 2#2 => keep (top2 f.d == 0 && top2 f.a == 0) (if f.x == 0 then .ksar (low6 f.d) (low6 f.a) (low6 f.b) else .ksarImm (low6 f.d) (low6 f.a) (low6 f.b))
    | _ => .error .illegal
  | 0x1B#7 => match top2 f.b with
    | 0#2 => keep (top2 f.d == 0 && top2 f.a == 0) (.kmin f.x (low6 f.d) (low6 f.a) (low6 f.b))
    | 1#2 => keep (top2 f.d == 0 && top2 f.a == 0) (.kmax f.x (low6 f.d) (low6 f.a) (low6 f.b))
    | _ => .error .illegal
  | 0x1C#7 => if (f.x ++ top2 f.d).toNat < 6 then keep (top2 f.a == 0 && top2 f.b == 0) (.kcmp (f.x ++ top2 f.d) (low6 f.d) (low6 f.a) (low6 f.b)) else .error .illegal
  | 0x1D#7 => keep (f.x == 0 && top2 f.d == 0 && top2 f.a == 0 && top2 f.b == 0) (.ksel (low6 f.d) (low6 f.a) (low6 f.b))
  | 0x1E#7 => match f.b with
    | 0#8 => if f.x == 0 then keep (top2 f.d == 0 && top2 f.a == 0) (.kpop (low6 f.d) (low6 f.a))
      else keep (top2 f.d == 0 && top5 f.a == 0) (.kpopPred (low6 f.d) (low3 f.a))
    | 1#8 => if f.x == 0 then keep (top2 f.d == 0 && top2 f.a == 0) (.kfirst (low6 f.d) (low6 f.a))
      else keep (top2 f.d == 0 && top5 f.a == 0) (.kfirstPred (low6 f.d) (low3 f.a))
    | _ => .error .illegal
  | 0x20#7 => if f.x == 0 then .ok (.vli f.d (f.a ++ f.b)) else .ok (.vliH f.d (f.a ++ f.b))
  | 0x21#7 => keep (f.x == 0 && f.b == 0) (.vmov f.d f.a)
  | 0x22#7 => keep (f.x == 0 && top2 f.a == 0 && f.b == 0) (.vbc f.d (low6 f.a))
  | 0x23#7 => if f.x == 0 then .ok (.vadd f.d f.a f.b) else keep (top2 f.b == 0) (.vaddUniform f.d f.a (low6 f.b))
  | 0x24#7 => if f.x == 0 then .ok (.vsub f.d f.a f.b) else keep (top2 f.b == 0) (.vsubUniform f.d f.a (low6 f.b))
  | 0x25#7 => if f.x == 0 then .ok (.vmul f.d f.a f.b) else keep (top2 f.b == 0) (.vmulUniform f.d f.a (low6 f.b))
  | 0x26#7 => if f.x == 0 then .ok (.vmulh f.d f.a f.b) else keep (top2 f.b == 0) (.vmulhUniform f.d f.a (low6 f.b))
  | 0x27#7 => if f.x == 0 then .ok (.vmad f.d f.a f.b) else keep (top2 f.b == 0) (.vmadUniform f.d f.a (low6 f.b))
  | 0x28#7 => if f.x == 0 then .ok (.vand f.d f.a f.b) else keep (top2 f.b == 0) (.vandUniform f.d f.a (low6 f.b))
  | 0x29#7 => if f.x == 0 then .ok (.vor f.d f.a f.b) else keep (top2 f.b == 0) (.vorUniform f.d f.a (low6 f.b))
  | 0x2A#7 => if f.x == 0 then .ok (.vxor f.d f.a f.b) else keep (top2 f.b == 0) (.vxorUniform f.d f.a (low6 f.b))
  | 0x2C#7 => if f.x == 0 then .ok (.vshl f.d f.a f.b) else keep (top2 f.b == 0) (.vshlUniform f.d f.a (low6 f.b))
  | 0x2D#7 => if f.x == 0 then .ok (.vshr f.d f.a f.b) else keep (top2 f.b == 0) (.vshrUniform f.d f.a (low6 f.b))
  | 0x2E#7 => if f.x == 0 then .ok (.vmin f.d f.a f.b) else keep (top2 f.b == 0) (.vminUniform f.d f.a (low6 f.b))
  | 0x2F#7 => if f.x == 0 then .ok (.vmax f.d f.a f.b) else keep (top2 f.b == 0) (.vmaxUniform f.d f.a (low6 f.b))
  | 0x32#7 => if f.x == 0 then .ok (.vsel f.d f.a f.b) else keep (top2 f.b == 0) (.vselUniform f.d f.a (low6 f.b))
  | 0x38#7 => if f.x == 0 then .ok (.fadd f.d f.a f.b) else keep (top2 f.b == 0) (.faddUniform f.d f.a (low6 f.b))
  | 0x39#7 => if f.x == 0 then .ok (.fsub f.d f.a f.b) else keep (top2 f.b == 0) (.fsubUniform f.d f.a (low6 f.b))
  | 0x3A#7 => if f.x == 0 then .ok (.fmul f.d f.a f.b) else keep (top2 f.b == 0) (.fmulUniform f.d f.a (low6 f.b))
  | 0x3B#7 => if f.x == 0 then .ok (.ffma f.d f.a f.b) else keep (top2 f.b == 0) (.ffmaUniform f.d f.a (low6 f.b))
  | 0x3C#7 => if f.x == 0 then .ok (.fmin f.d f.a f.b) else keep (top2 f.b == 0) (.fminUniform f.d f.a (low6 f.b))
  | 0x3D#7 => if f.x == 0 then .ok (.fmax f.d f.a f.b) else keep (top2 f.b == 0) (.fmaxUniform f.d f.a (low6 f.b))
  | 0x53#7 => if f.x == 0 then .ok (.bscl f.d f.a f.b) else keep (top2 f.b == 0) (.bsclUniform f.d f.a (low6 f.b))
  | 0x58#7 => if f.x == 0 then .ok (.shfl f.d f.a f.b) else keep (top2 f.b == 0) (.shflUniform f.d f.a (low6 f.b))
  | 0x2B#7 => keep (f.x == 0 && f.b == 0) (.vnot f.d f.a)
  | 0x30#7 => match f.b with
    | 0#8 => keep (f.x == 0) (.vabs f.d f.a)
    | 1#8 => keep (f.x == 0) (.vneg f.d f.a)
    | 2#8 => keep (f.x == 0) (.vclz f.d f.a)
    | 3#8 => keep (f.x == 0) (.vpop f.d f.a)
    | _ => .error .illegal
  | 0x31#7 => if (f.d.extractLsb' 3 3).toNat < 6 then
      if f.x == 0 then keep (top2 f.d == 0) (.vcmp (f.d.extractLsb' 3 3) (low3 f.d) f.a f.b)
      else keep (top2 f.d == 0 && top2 f.b == 0) (.vcmpUniform (f.d.extractLsb' 3 3) (low3 f.d) f.a (low6 f.b))
      else .error .illegal
  | 0x40#7 => if f.x == 0 then keep (top2 f.d == 0) (.fcmp (f.d.extractLsb' 3 3) (low3 f.d) f.a f.b)
      else keep (top2 f.d == 0 && top2 f.b == 0) (.fcmpUniform (f.d.extractLsb' 3 3) (low3 f.d) f.a (low6 f.b))
  | 0x33#7 => match top2 f.b with
    | 0#2 => keep (f.x == 0 && top5 f.d == 0 && top5 f.a == 0 && f.b.extractLsb' 3 3 == 0) (.pand (low3 f.d) (low3 f.a) (low3 f.b))
    | 1#2 => keep (f.x == 0 && top5 f.d == 0 && top5 f.a == 0 && f.b.extractLsb' 3 3 == 0) (.por (low3 f.d) (low3 f.a) (low3 f.b))
    | 2#2 => keep (f.x == 0 && top5 f.d == 0 && top5 f.a == 0 && f.b.extractLsb' 3 3 == 0) (.pxor (low3 f.d) (low3 f.a) (low3 f.b))
    | _ => keep (f.x == 0 && top5 f.d == 0 && top5 f.a == 0 && low6 f.b == 0) (.pnot (low3 f.d) (low3 f.a))
  | 0x34#7 => if f.x == 0 then keep (top5 f.d == 0 && f.a == 0 && f.b.extractLsb' 1 7 == 0) (.pset (low3 f.d) (f.b.extractLsb' 0 1))
      else keep (top5 f.d == 0 && top2 f.a == 0 && f.b == 0) (.psetK (low3 f.d) (low6 f.a))
  | 0x3E#7 => match f.b with
    | 0#8 => keep (f.x == 0) (.fabs f.d f.a)
    | 1#8 => keep (f.x == 0) (.fneg f.d f.a)
    | _ => .error .illegal
  | 0x3F#7 => if top5 f.b == 0 then
      match low3 f.b with
      | 0#3 => keep (f.x == 0) (.frcp f.d f.a)
      | 1#3 => keep (f.x == 0) (.frsq f.d f.a)
      | 2#3 => keep (f.x == 0) (.fsqrt f.d f.a)
      | 3#3 => keep (f.x == 0) (.fexp f.d f.a)
      | 4#3 => keep (f.x == 0) (.flog f.d f.a)
      | 5#3 => keep (f.x == 0) (.fsin f.d f.a)
      | 6#3 => keep (f.x == 0) (.fcos f.d f.a)
      | _ => keep (f.x == 0) (.ftanh f.d f.a)
      else .error .reserved
  | 0x41#7 => keep (f.x == 0 && f.b == 0) (.fcls f.d f.a)
  | 0x50#7 => if (low5 f.b).toNat ≤ 0x0C then keep (f.x == 0 && f.b.extractLsb' 5 3 == 0) (.cvt f.d f.a (low5 f.b)) else .error .illegal
  | 0x51#7 => keep (f.x == 0) (.bpak f.d f.a f.b)
  | 0x52#7 => keep (f.x == 0) (.bunp f.d f.a f.b)
  | 0x59#7 => if f.x == 0 then .ok (.shfx f.d f.a f.b) else .ok (.shfxImm f.d f.a f.b)
  | 0x5A#7 => match f.b with
    | 0#8 => keep (f.x == 0 && top2 f.d == 0 && top5 f.a == 0) (.vany (low6 f.d) (low3 f.a))
    | 1#8 => keep (f.x == 0 && top2 f.d == 0 && top5 f.a == 0) (.vall (low6 f.d) (low3 f.a))
    | 2#8 => keep (f.x == 0 && top2 f.d == 0 && top5 f.a == 0) (.vbal (low6 f.d) (low3 f.a))
    | _ => .error .illegal
  | 0x5B#7 => if (low3 f.b).toNat < 6 then keep (f.x == 0 && top2 f.d == 0 && top5 f.b == 0) (.gred (low6 f.d) f.a (low3 f.b)) else .error .illegal
  | 0x5C#7 => if (low3 f.b).toNat < 6 then keep (f.x == 0 && top5 f.b == 0) (.gscan f.d f.a (low3 f.b)) else .error .illegal
  | 0x60#7 => keep (top2 f.b == 0) (.ld f.x f.d f.a (low6 f.b))
  | 0x61#7 => keep (top2 f.b == 0) (.st f.x f.d f.a (low6 f.b))
  | 0x62#7 => if (f.x ++ top2 f.b).toNat ≤ 4 then .ok (.lda (f.x ++ top2 f.b) f.d f.a (low6 f.b)) else .error .illegal
  | 0x63#7 => if (f.x ++ top2 f.b).toNat ≤ 4 then .ok (.stl (f.x ++ top2 f.b) f.d f.a (low6 f.b)) else .error .illegal
  | 0x64#7 => keep (f.x == 0) (.lds f.d f.a f.b)
  | 0x65#7 => keep (f.x == 0) (.sts f.d f.a f.b)
  | 0x66#7 => keep (top2 f.d == 0 && top2 f.a == 0) (.ldk f.x (low6 f.d) (low6 f.a) f.b)
  | 0x67#7 => keep (top2 f.d == 0 && top2 f.a == 0) (.stk f.x (low6 f.d) (low6 f.a) f.b)
  | 0x68#7 => keep (f.x == 0 && f.d == 0 && f.a == 0 && top2 f.b == 0) (.lwait (low6 f.b))
  | 0x69#7 => keep (f.x == 0 && f.d == 0 && top2 f.b == 0) (.pref f.a (low6 f.b))
  | 0x6A#7 => keep (f.x == 0 && f.a.extractLsb' 2 6 == 0) (.ldf f.d (f.a.extractLsb' 0 2) f.b)
  | 0x6B#7 => keep (f.x == 0 && top2 f.d == 0 && f.a.extractLsb' 2 6 == 0) (.ldfk (low6 f.d) (f.a.extractLsb' 0 2) f.b)
  | 0x6C#7 => keep (f.x == 0 && f.a.extractLsb' 2 6 == 0) (.stf f.d (f.a.extractLsb' 0 2) f.b)
  | 0x70#7 => if (f.b.extractLsb' 3 4).toNat < 8 && (low3 f.b).toNat ≤ 4 then keep (f.x == 0 && f.b.extractLsb' 7 1 == 0) (.atom f.d f.a (f.b.extractLsb' 3 4) (low3 f.b)) else .error .illegal
  | 0x71#7 => if (f.b.extractLsb' 3 4).toNat < 6 && (low3 f.b).toNat ≤ 4 then keep (f.x == 0 && f.b.extractLsb' 7 1 == 0) (.atomr f.d f.a (f.b.extractLsb' 3 4) (low3 f.b)) else .error .illegal
  | 0x72#7 => if (low3 f.b).toNat ≤ 4 then
      match f.b.extractLsb' 3 2 with
      | 0#2 => keep (f.x == 0 && top2 f.d == 0 && top2 f.a == 0 && f.b.extractLsb' 5 3 == 0) (.dqpush (low6 f.d) (low6 f.a) (low3 f.b))
      | 1#2 => keep (f.x == 0 && top2 f.d == 0 && top2 f.a == 0 && f.b.extractLsb' 5 3 == 0) (.dqpop (low6 f.d) (low6 f.a) (low3 f.b))
      | 2#2 => keep (f.x == 0 && top2 f.d == 0 && top2 f.a == 0 && f.b.extractLsb' 5 3 == 0) (.dqsteal (low6 f.d) (low6 f.a) (low3 f.b))
      | _ => .error .illegal
      else .error .illegal
  | 0x73#7 => match low3 f.b with
    | 0#3 => keep (f.x == 0 && top2 f.d == 0 && top2 f.a == 0 && f.b.extractLsb' 4 4 == 0) (.bari (low6 f.d) (low6 f.a) (f.b.extractLsb' 3 1))
    | 1#3 => keep (f.x == 0 && top2 f.d == 0 && top2 f.a == 0 && top5 f.b == 0) (.barr (low6 f.d) (low6 f.a))
    | 2#3 => keep (f.x == 0 && top2 f.d == 0 && top2 f.a == 0 && top5 f.b == 0) (.barw (low6 f.d) (low6 f.a))
    | 4#3 => keep (f.x == 0 && top2 f.d == 0 && top2 f.a == 0 && top5 f.b == 0) (.barx (low6 f.d) (low6 f.a))
    | 3#3 => keep (f.x == 0 && f.d == 0 && top2 f.a == 0 && top5 f.b == 0) (.bara (low6 f.a))
    | _ => .error .illegal
  | 0x74#7 => if (low3 f.b).toNat ≤ 4 then keep (f.x == 0 && f.d == 0 && f.a == 0 && top5 f.b == 0) (.fence (low3 f.b)) else .error .illegal
  | 0x75#7 => keep (f.x == 0 && f.d == 0 && top2 f.a == 0 && f.b == 0) (.pub (low6 f.a))
  | 0x78#7 => if f.x == 0 then keep (f.d == 0 && top2 f.a == 0) (.tdef (low6 f.a) f.b)
      else keep (top2 f.d == 0 && top5 f.a == 0) (.tget (low6 f.d) (low3 f.a) f.b)
  | 0x79#7 => match top2 f.d ++ f.x with
    | 0#3 => keep (top2 f.a == 0 && top2 f.b == 0) (.cpy (low6 f.d) (low6 f.a) (low6 f.b))
    | 1#3 => keep (top2 f.a == 0 && top2 f.b == 0) (.cpyg (low6 f.d) (low6 f.a) (low6 f.b))
    | 2#3 => keep (top2 f.a == 0 && top2 f.b == 0) (.cpym (low6 f.d) (low6 f.a) (low6 f.b))
    | 3#3 => keep (top2 f.a == 0 && top2 f.b == 0) (.cpyo (low6 f.d) (low6 f.a) (low6 f.b))
    | 4#3 => keep (top2 f.a == 0 && top2 f.b == 0) (.cpyr (low6 f.d) (low6 f.a) (low6 f.b))
    | _ => .error .illegal
  | 0x7A#7 => if f.x == 0 then keep (f.d == 0 && f.a == 0 && f.b == 0) .bclose else keep (f.d == 0 && top2 f.a == 0 && f.b == 0) (.bwait (low6 f.a))
  | 0x7C#7 => match f.d.extractLsb' 5 3 with
    | 0#3 => keep (f.d.extractLsb' 3 2 == 0 && top5 f.a == 0) (.mma f.x (low3 f.d) (low3 f.a) f.b)
    | 1#3 => keep (f.d.extractLsb' 3 2 == 0 && top5 f.a == 0) (.mmap f.x (low3 f.d) (low3 f.a) f.b)
    | 2#3 => keep (f.x == 0 && f.d.extractLsb' 3 2 == 0 && f.a == 0 && f.b == 0) (.accz (low3 f.d))
    | 3#3 => keep (f.x == 0 && f.d.extractLsb' 3 2 == 0 && f.a == 0) (.accrd (low3 f.d) f.b)
    | 4#3 => keep (f.x == 0 && low5 f.d == 0 && top5 f.a == 0) (.tld (low3 f.a) f.b)
    | 5#3 => keep (f.x == 0 && low5 f.d == 0 && f.a == 0 && f.b == 0) .fenop
    | 6#3 => keep (f.x == 0 && low5 f.d == 0 && top2 f.a == 0 && f.b == 0) (.shape (low6 f.a))
    | _ => keep (f.x == 0 && low5 f.d == 0 && f.a == 0 && f.b == 0) .mwait
  | 0x7D#7 => match f.b.extractLsb' 4 3 with
    | 0#3 => keep (f.b.extractLsb' 7 1 == 0 && top2 f.d == 0 && top2 f.a == 0) (if f.x == 0 then .calookLeaf (low6 f.d) (low6 f.a) (low4 f.b) else .calookInt (low6 f.d) (low6 f.a) (low4 f.b))
    | 1#3 => keep (f.x == 0 && f.b.extractLsb' 7 1 == 0 && top2 f.d == 0 && top2 f.a == 0) (.caread (low6 f.d) (low6 f.a) (low4 f.b))
    | 2#3 => keep (f.x == 0 && f.b.extractLsb' 7 1 == 0 && top2 f.d == 0 && top2 f.a == 0) (.cawalk (low6 f.d) (low6 f.a) (low4 f.b))
    | 3#3 => keep (f.x == 0 && f.b.extractLsb' 7 1 == 0 && top2 f.d == 0 && top2 f.a == 0) (.carswap (low6 f.d) (low6 f.a) (low4 f.b))
    | 6#3 => keep (f.x == 0 && f.b.extractLsb' 7 1 == 0 && top2 f.d == 0 && top2 f.a == 0) (.caout (low6 f.d) (low6 f.a) (low4 f.b))
    | 4#3 => keep (f.x == 0 && f.b.extractLsb' 7 1 == 0 && f.d == 0 && top2 f.a == 0) (.caref (low6 f.a) (low4 f.b))
    | 5#3 => keep (f.x == 0 && f.b.extractLsb' 7 1 == 0 && f.d == 0 && top2 f.a == 0) (.cadrop (low6 f.a) (low4 f.b))
    | _ => .error .illegal
  | 0x7E#7 => match top2 f.b with
    | 0#2 => if f.x == 0 then keep (top2 f.a == 0 && low6 f.b == 0) (.fnew f.d (low6 f.a))
      else keep (top2 f.d == 0 && top2 f.a == 0 && low6 f.b == 0) (.fnewU (low6 f.d) (low6 f.a))
    | 1#2 => keep (f.d == 0 && f.a.extractLsb' 2 6 == 0 && low6 f.b == 0) (if f.x == 0 then .fret (f.a.extractLsb' 0 2) else .fretU (f.a.extractLsb' 0 2))
    | 2#2 => if f.x == 0 || f.d.extractLsb' 0 2 == 0 then .error .illegal
      else keep (f.d.extractLsb' 2 6 == 0 && top2 f.a == 0 && low6 f.b == 0) (.disp (f.d.extractLsb' 0 2) (low6 f.a))
    | _ => if f.x == 0 then keep (f.d == 0 && low6 f.b == 0) (.cont f.a) else keep (f.d == 0 && top2 f.a == 0 && low6 f.b == 0) (.contU (low6 f.a))
  | _ => .error .illegal

def decode (w : Word32) : Except DecodeError Instr := decodeFields (Fields.ofWord w)

/-- The fields of an instruction; an event of the device has no word. -/
def encodeFields : Instr → Option Fields
  | .nop => some (mkF 0x00 (0) (0) (0) (0))
  | .br o => some (mkF 0x01 (0) (o.extractLsb' 16 8) (o.extractLsb' 8 8) (o.extractLsb' 0 8))
  | .brp p o => some (mkF 0x02 (0) (0#5 ++ p) (o.extractLsb' 8 8) (o.extractLsb' 0 8))
  | .brn p o => some (mkF 0x03 (0) (0#5 ++ p) (o.extractLsb' 8 8) (o.extractLsb' 0 8))
  | .bruNz k o => some (mkF 0x04 (0) (0#2 ++ k) (o.extractLsb' 8 8) (o.extractLsb' 0 8))
  | .bruZ k o => some (mkF 0x04 (1) (0#2 ++ k) (o.extractLsb' 8 8) (o.extractLsb' 0 8))
  | .call d o => some (mkF 0x05 (0) (0#2 ++ d) (o.extractLsb' 8 8) (o.extractLsb' 0 8))
  | .callt d a => some (mkF 0x06 (0) (0#2 ++ d) (0#2 ++ a) (0))
  | .jmpt a => some (mkF 0x07 (0) (0) (0#2 ++ a) (0))
  | .ret a => some (mkF 0x08 (0) (0) (0#2 ++ a) (0))
  | .exit => some (mkF 0x09 (0) (0) (0) (0))
  | .yield => some (mkF 0x09 (0) (0x10) (0) (0))
  | .brk c => some (mkF 0x09 (0) (0x20) (c.extractLsb' 8 8) (c.extractLsb' 0 8))
  | .trap c => some (mkF 0x09 (0) (0x30) (c.extractLsb' 8 8) (c.extractLsb' 0 8))
  | .nret => some (mkF 0x09 (0) (0x40) (0) (0))
  | .nchk o => some (mkF 0x0A (0) (o.extractLsb' 16 8) (o.extractLsb' 8 8) (o.extractLsb' 0 8))
  | .enter i => some (mkF 0x0B (0) (0) (i.extractLsb' 8 8) (i.extractLsb' 0 8))
  | .leave => some (mkF 0x0B (1) (0) (0) (0))
  | .mode m v => some (mkF 0x0C (0) (0#3 ++ m) (0#4 ++ v.extractLsb' 8 4) (v.extractLsb' 0 8))
  | .modeGd n s e => some (mkF 0x0C (1) (0) (0) (0#3 ++ n ++ s ++ e))
  | .modr a => some (mkF 0x0D (0) (0) (0#2 ++ a) (0))
  | .rsr d s => some (mkF 0x0E (0) (d) (0) (s))
  | .wsr a s => some (mkF 0x0E (1) (0) (0#2 ++ a) (s))
  | .kli d i => some (mkF 0x10 (0) (0#2 ++ d) (i.extractLsb' 8 8) (i.extractLsb' 0 8))
  | .klih h d i => some (mkF 0x11 (0) (h ++ d) (i.extractLsb' 8 8) (i.extractLsb' 0 8))
  | .kmov d a => some (mkF 0x12 (0) (0#2 ++ d) (0#2 ++ a) (0))
  | .kadd d a b => some (mkF 0x13 (0) (0#2 ++ d) (0#2 ++ a) (0#2 ++ b))
  | .kaddImm d a i => some (mkF 0x13 (1) (0#2 ++ d) (0#2 ++ a) (i))
  | .ksub d a b => some (mkF 0x14 (0) (0#2 ++ d) (0#2 ++ a) (0#2 ++ b))
  | .ksubImm d a i => some (mkF 0x14 (1) (0#2 ++ d) (0#2 ++ a) (i))
  | .kmul d a b => some (mkF 0x15 (0) (0#2 ++ d) (0#2 ++ a) (0#2 ++ b))
  | .kmulImm d a i => some (mkF 0x15 (1) (0#2 ++ d) (0#2 ++ a) (i))
  | .kand d a b => some (mkF 0x17 (0) (0#2 ++ d) (0#2 ++ a) (0#2 ++ b))
  | .kandImm d a i => some (mkF 0x17 (1) (0#2 ++ d) (0#2 ++ a) (i))
  | .kor d a b => some (mkF 0x18 (0) (0#2 ++ d) (0#2 ++ a) (0#2 ++ b))
  | .korImm d a i => some (mkF 0x18 (1) (0#2 ++ d) (0#2 ++ a) (i))
  | .kxor d a b => some (mkF 0x19 (0) (0#2 ++ d) (0#2 ++ a) (0#2 ++ b))
  | .kxorImm d a i => some (mkF 0x19 (1) (0#2 ++ d) (0#2 ++ a) (i))
  | .kmulh u d a b => some (mkF 0x16 (u) (0#2 ++ d) (0#2 ++ a) (0#2 ++ b))
  | .kshl d a b => some (mkF 0x1A (0) (0#2 ++ d) (0#2 ++ a) (0#2 ++ b))
  | .kshlImm d a i => some (mkF 0x1A (1) (0#2 ++ d) (0#2 ++ a) (0#2 ++ i))
  | .kshr d a b => some (mkF 0x1A (0) (0#2 ++ d) (0#2 ++ a) (1#2 ++ b))
  | .kshrImm d a i => some (mkF 0x1A (1) (0#2 ++ d) (0#2 ++ a) (1#2 ++ i))
  | .ksar d a b => some (mkF 0x1A (0) (0#2 ++ d) (0#2 ++ a) (2#2 ++ b))
  | .ksarImm d a i => some (mkF 0x1A (1) (0#2 ++ d) (0#2 ++ a) (2#2 ++ i))
  | .kmin u d a b => some (mkF 0x1B (u) (0#2 ++ d) (0#2 ++ a) (0#2 ++ b))
  | .kmax u d a b => some (mkF 0x1B (u) (0#2 ++ d) (0#2 ++ a) (1#2 ++ b))
  | .kcmp c d a b => some (mkF 0x1C (c.extractLsb' 2 1) (c.extractLsb' 0 2 ++ d) (0#2 ++ a) (0#2 ++ b))
  | .ksel d a b => some (mkF 0x1D (0) (0#2 ++ d) (0#2 ++ a) (0#2 ++ b))
  | .kpop d a => some (mkF 0x1E (0) (0#2 ++ d) (0#2 ++ a) (0))
  | .kpopPred d a => some (mkF 0x1E (1) (0#2 ++ d) (0#5 ++ a) (0))
  | .kfirst d a => some (mkF 0x1E (0) (0#2 ++ d) (0#2 ++ a) (1))
  | .kfirstPred d a => some (mkF 0x1E (1) (0#2 ++ d) (0#5 ++ a) (1))
  | .vli d i => some (mkF 0x20 (0) (d) (i.extractLsb' 8 8) (i.extractLsb' 0 8))
  | .vliH d i => some (mkF 0x20 (1) (d) (i.extractLsb' 8 8) (i.extractLsb' 0 8))
  | .vmov d a => some (mkF 0x21 (0) (d) (a) (0))
  | .vbc d a => some (mkF 0x22 (0) (d) (0#2 ++ a) (0))
  | .vadd d a b => some (mkF 0x23 (0) (d) (a) (b))
  | .vaddUniform d a b => some (mkF 0x23 (1) (d) (a) (0#2 ++ b))
  | .vsub d a b => some (mkF 0x24 (0) (d) (a) (b))
  | .vsubUniform d a b => some (mkF 0x24 (1) (d) (a) (0#2 ++ b))
  | .vmul d a b => some (mkF 0x25 (0) (d) (a) (b))
  | .vmulUniform d a b => some (mkF 0x25 (1) (d) (a) (0#2 ++ b))
  | .vmulh d a b => some (mkF 0x26 (0) (d) (a) (b))
  | .vmulhUniform d a b => some (mkF 0x26 (1) (d) (a) (0#2 ++ b))
  | .vmad d a b => some (mkF 0x27 (0) (d) (a) (b))
  | .vmadUniform d a b => some (mkF 0x27 (1) (d) (a) (0#2 ++ b))
  | .vand d a b => some (mkF 0x28 (0) (d) (a) (b))
  | .vandUniform d a b => some (mkF 0x28 (1) (d) (a) (0#2 ++ b))
  | .vor d a b => some (mkF 0x29 (0) (d) (a) (b))
  | .vorUniform d a b => some (mkF 0x29 (1) (d) (a) (0#2 ++ b))
  | .vxor d a b => some (mkF 0x2A (0) (d) (a) (b))
  | .vxorUniform d a b => some (mkF 0x2A (1) (d) (a) (0#2 ++ b))
  | .vshl d a b => some (mkF 0x2C (0) (d) (a) (b))
  | .vshlUniform d a b => some (mkF 0x2C (1) (d) (a) (0#2 ++ b))
  | .vshr d a b => some (mkF 0x2D (0) (d) (a) (b))
  | .vshrUniform d a b => some (mkF 0x2D (1) (d) (a) (0#2 ++ b))
  | .vmin d a b => some (mkF 0x2E (0) (d) (a) (b))
  | .vminUniform d a b => some (mkF 0x2E (1) (d) (a) (0#2 ++ b))
  | .vmax d a b => some (mkF 0x2F (0) (d) (a) (b))
  | .vmaxUniform d a b => some (mkF 0x2F (1) (d) (a) (0#2 ++ b))
  | .vsel d a b => some (mkF 0x32 (0) (d) (a) (b))
  | .vselUniform d a b => some (mkF 0x32 (1) (d) (a) (0#2 ++ b))
  | .fadd d a b => some (mkF 0x38 (0) (d) (a) (b))
  | .faddUniform d a b => some (mkF 0x38 (1) (d) (a) (0#2 ++ b))
  | .fsub d a b => some (mkF 0x39 (0) (d) (a) (b))
  | .fsubUniform d a b => some (mkF 0x39 (1) (d) (a) (0#2 ++ b))
  | .fmul d a b => some (mkF 0x3A (0) (d) (a) (b))
  | .fmulUniform d a b => some (mkF 0x3A (1) (d) (a) (0#2 ++ b))
  | .ffma d a b => some (mkF 0x3B (0) (d) (a) (b))
  | .ffmaUniform d a b => some (mkF 0x3B (1) (d) (a) (0#2 ++ b))
  | .fmin d a b => some (mkF 0x3C (0) (d) (a) (b))
  | .fminUniform d a b => some (mkF 0x3C (1) (d) (a) (0#2 ++ b))
  | .fmax d a b => some (mkF 0x3D (0) (d) (a) (b))
  | .fmaxUniform d a b => some (mkF 0x3D (1) (d) (a) (0#2 ++ b))
  | .bscl d a b => some (mkF 0x53 (0) (d) (a) (b))
  | .bsclUniform d a b => some (mkF 0x53 (1) (d) (a) (0#2 ++ b))
  | .shfl d a b => some (mkF 0x58 (0) (d) (a) (b))
  | .shflUniform d a b => some (mkF 0x58 (1) (d) (a) (0#2 ++ b))
  | .vnot d a => some (mkF 0x2B (0) (d) (a) (0))
  | .vabs d a => some (mkF 0x30 (0) (d) (a) (0))
  | .vneg d a => some (mkF 0x30 (0) (d) (a) (1))
  | .vclz d a => some (mkF 0x30 (0) (d) (a) (2))
  | .vpop d a => some (mkF 0x30 (0) (d) (a) (3))
  | .vcmp c p a b => some (mkF 0x31 (0) (0#2 ++ c ++ p) (a) (b))
  | .vcmpUniform c p a b => some (mkF 0x31 (1) (0#2 ++ c ++ p) (a) (0#2 ++ b))
  | .fcmp c p a b => some (mkF 0x40 (0) (0#2 ++ c ++ p) (a) (b))
  | .fcmpUniform c p a b => some (mkF 0x40 (1) (0#2 ++ c ++ p) (a) (0#2 ++ b))
  | .pand d a b => some (mkF 0x33 (0) (0#5 ++ d) (0#5 ++ a) (0#2 ++ 0#3 ++ b))
  | .por d a b => some (mkF 0x33 (0) (0#5 ++ d) (0#5 ++ a) (1#2 ++ 0#3 ++ b))
  | .pxor d a b => some (mkF 0x33 (0) (0#5 ++ d) (0#5 ++ a) (2#2 ++ 0#3 ++ b))
  | .pnot d a => some (mkF 0x33 (0) (0#5 ++ d) (0#5 ++ a) (0xC0))
  | .pset d i => some (mkF 0x34 (0) (0#5 ++ d) (0) (0#7 ++ i))
  | .psetK d a => some (mkF 0x34 (1) (0#5 ++ d) (0#2 ++ a) (0))
  | .fabs d a => some (mkF 0x3E (0) (d) (a) (0))
  | .fneg d a => some (mkF 0x3E (0) (d) (a) (1))
  | .frcp d a => some (mkF 0x3F (0) (d) (a) (0))
  | .frsq d a => some (mkF 0x3F (0) (d) (a) (1))
  | .fsqrt d a => some (mkF 0x3F (0) (d) (a) (2))
  | .fexp d a => some (mkF 0x3F (0) (d) (a) (3))
  | .flog d a => some (mkF 0x3F (0) (d) (a) (4))
  | .fsin d a => some (mkF 0x3F (0) (d) (a) (5))
  | .fcos d a => some (mkF 0x3F (0) (d) (a) (6))
  | .ftanh d a => some (mkF 0x3F (0) (d) (a) (7))
  | .fcls d a => some (mkF 0x41 (0) (d) (a) (0))
  | .cvt d a s => some (mkF 0x50 (0) (d) (a) (0#3 ++ s))
  | .bpak d a b => some (mkF 0x51 (0) (d) (a) (b))
  | .bunp d a b => some (mkF 0x52 (0) (d) (a) (b))
  | .shfx d a b => some (mkF 0x59 (0) (d) (a) (b))
  | .shfxImm d a i => some (mkF 0x59 (1) (d) (a) (i))
  | .vany d a => some (mkF 0x5A (0) (0#2 ++ d) (0#5 ++ a) (0))
  | .vall d a => some (mkF 0x5A (0) (0#2 ++ d) (0#5 ++ a) (1))
  | .vbal d a => some (mkF 0x5A (0) (0#2 ++ d) (0#5 ++ a) (2))
  | .gred d a o => some (mkF 0x5B (0) (0#2 ++ d) (a) (0#5 ++ o))
  | .gscan d a o => some (mkF 0x5C (0) (d) (a) (0#5 ++ o))
  | .ld e d a b => some (mkF 0x60 (e) (d) (a) (0#2 ++ b))
  | .st e d a b => some (mkF 0x61 (e) (d) (a) (0#2 ++ b))
  | .lda s d a b => some (mkF 0x62 (s.extractLsb' 2 1) (d) (a) (s.extractLsb' 0 2 ++ b))
  | .stl s d a b => some (mkF 0x63 (s.extractLsb' 2 1) (d) (a) (s.extractLsb' 0 2 ++ b))
  | .lds d a i => some (mkF 0x64 (0) (d) (a) (i))
  | .sts d a i => some (mkF 0x65 (0) (d) (a) (i))
  | .ldk m d a i => some (mkF 0x66 (m) (0#2 ++ d) (0#2 ++ a) (i))
  | .stk m d a i => some (mkF 0x67 (m) (0#2 ++ d) (0#2 ++ a) (i))
  | .lwait n => some (mkF 0x68 (0) (0) (0) (0#2 ++ n))
  | .pref a b => some (mkF 0x69 (0) (0) (a) (0#2 ++ b))
  | .ldf d k s => some (mkF 0x6A (0) (d) (0#6 ++ k) (s))
  | .ldfk d k s => some (mkF 0x6B (0) (0#2 ++ d) (0#6 ++ k) (s))
  | .stf d k s => some (mkF 0x6C (0) (d) (0#6 ++ k) (s))
  | .atom d a o s => some (mkF 0x70 (0) (d) (a) (0#1 ++ o ++ s))
  | .atomr d a o s => some (mkF 0x71 (0) (d) (a) (0#1 ++ o ++ s))
  | .dqpush d a s => some (mkF 0x72 (0) (0#2 ++ d) (0#2 ++ a) (0#3 ++ 0#2 ++ s))
  | .dqpop d a s => some (mkF 0x72 (0) (0#2 ++ d) (0#2 ++ a) (0#3 ++ 1#2 ++ s))
  | .dqsteal d a s => some (mkF 0x72 (0) (0#2 ++ d) (0#2 ++ a) (0#3 ++ 2#2 ++ s))
  | .bari d a e => some (mkF 0x73 (0) (0#2 ++ d) (0#2 ++ a) (0#4 ++ e ++ 0#3))
  | .barr d a => some (mkF 0x73 (0) (0#2 ++ d) (0#2 ++ a) (1))
  | .barw d a => some (mkF 0x73 (0) (0#2 ++ d) (0#2 ++ a) (2))
  | .barx d a => some (mkF 0x73 (0) (0#2 ++ d) (0#2 ++ a) (4))
  | .bara a => some (mkF 0x73 (0) (0) (0#2 ++ a) (3))
  | .fence s => some (mkF 0x74 (0) (0) (0) (0#5 ++ s))
  | .pub a => some (mkF 0x75 (0) (0) (0#2 ++ a) (0))
  | .tdef a i => some (mkF 0x78 (0) (0) (0#2 ++ a) (i))
  | .tget d w i => some (mkF 0x78 (1) (0#2 ++ d) (0#5 ++ w) (i))
  | .cpy d a b => some (mkF 0x79 (0) (0#2 ++ d) (0#2 ++ a) (0#2 ++ b))
  | .cpyg d a b => some (mkF 0x79 (1) (0#2 ++ d) (0#2 ++ a) (0#2 ++ b))
  | .cpym d a b => some (mkF 0x79 (0) (1#2 ++ d) (0#2 ++ a) (0#2 ++ b))
  | .cpyo d a b => some (mkF 0x79 (1) (1#2 ++ d) (0#2 ++ a) (0#2 ++ b))
  | .cpyr d a b => some (mkF 0x79 (0) (2#2 ++ d) (0#2 ++ a) (0#2 ++ b))
  | .bclose => some (mkF 0x7A (0) (0) (0) (0))
  | .bwait a => some (mkF 0x7A (1) (0) (0#2 ++ a) (0))
  | .mma r d t i => some (mkF 0x7C (r) (0#5 ++ d) (0#5 ++ t) (i))
  | .mmap r d t i => some (mkF 0x7C (r) (1#3 ++ 0#2 ++ d) (0#5 ++ t) (i))
  | .accz d => some (mkF 0x7C (0) (2#3 ++ 0#2 ++ d) (0) (0))
  | .accrd d i => some (mkF 0x7C (0) (3#3 ++ 0#2 ++ d) (0) (i))
  | .tld t i => some (mkF 0x7C (0) (0x80) (0#5 ++ t) (i))
  | .fenop => some (mkF 0x7C (0) (0xA0) (0) (0))
  | .shape a => some (mkF 0x7C (0) (0xC0) (0#2 ++ a) (0))
  | .mwait => some (mkF 0x7C (0) (0xE0) (0) (0))
  | .calookLeaf d a h => some (mkF 0x7D (0) (0#2 ++ d) (0#2 ++ a) (0#4 ++ h))
  | .calookInt d a h => some (mkF 0x7D (1) (0#2 ++ d) (0#2 ++ a) (0#4 ++ h))
  | .caread d a h => some (mkF 0x7D (0) (0#2 ++ d) (0#2 ++ a) (1#4 ++ h))
  | .cawalk d a h => some (mkF 0x7D (0) (0#2 ++ d) (0#2 ++ a) (2#4 ++ h))
  | .carswap d a h => some (mkF 0x7D (0) (0#2 ++ d) (0#2 ++ a) (3#4 ++ h))
  | .caout d a h => some (mkF 0x7D (0) (0#2 ++ d) (0#2 ++ a) (6#4 ++ h))
  | .caref a h => some (mkF 0x7D (0) (0) (0#2 ++ a) (4#4 ++ h))
  | .cadrop a h => some (mkF 0x7D (0) (0) (0#2 ++ a) (5#4 ++ h))
  | .fnew d a => some (mkF 0x7E (0) (d) (0#2 ++ a) (0))
  | .fnewU d a => some (mkF 0x7E (1) (0#2 ++ d) (0#2 ++ a) (0))
  | .fret k => some (mkF 0x7E (0) (0) (0#6 ++ k) (0x40))
  | .fretU k => some (mkF 0x7E (1) (0) (0#6 ++ k) (0x40))
  | .disp k a => some (mkF 0x7E (1) (0#6 ++ k) (0#2 ++ a) (0x80))
  | .cont a => some (mkF 0x7E (0) (0) (a) (0xC0))
  | .contU a => some (mkF 0x7E (1) (0) (0#2 ++ a) (0xC0))
  | .coldReset .. | .hotReset _ | .functionLevelReset _ | .linkDown _ | .solderCrcRetry _ _ | .portDown _ 
  | .peerWriteIn _ _ _ _ | .patrolScrub _ | .rowRepair _ _ _ _ | .repairCopyDone _ | .rowHammer _ _ _ _ 
  | .hammerWindowEnd _ | .thermalLimit _ _ | .droop _ | .droopRecover _ | .lockstepMismatch _ | .frontEndCheckpoint _ 
  | .spdmRequest _ _ | .mctpSterlingRead _ | .registerWrite .. | .doorbell .. | .qcmdReset _ _ 
  | .qpcmdReset _ _ | .qpcmdEnable _ _ | .qpcmdDisable _ _ | .resetDone | .disableDone | .reconcilePass 
  | .mbSubmitUnknown | .mbResponse | .eventRingWrite | .pfeqCtlWrite _ | .stackStat | .powerLimitRead 
  | .powerLimitSet | .partSet | .partDel | .inval | .sterlingRead | .sterlingAck | .dieStats | .squeeze _ 
  | .squeezeHandover _ | .unsqueeze | .trapCmd | .caStoreCreate | .caStoreDelete | .caBind | .caUnbind | .finalise 
  | .caLineRead | .caRootRead | .switchOut | .switchIn | .switchInRestore _ | .nopPacket | .launch | .signal | .wait 
  | .waitSatisfied | .waitTimeout | .publish | .marker | .packetComplete | .engineFault _ _ _ | .schedPeriod 
  | .saveDrainDone _ | .overBudget | .teamDispatch _ | .stepAgree _ | .teamComplete _ | .dieIdle _ | .stealReq _ 
  | .stealGive _ | .stealNone _ | .stealDone _ | .gatherTimeout _ _ | .joinRecordEnqueue _ | .expansion _ | .notice 
  | .trapTake _ | .trapCtlResume | .trapCtlHalt | .trapCtlClearResume | .trapCtlEnd | .groupStateWrite _ _ _ _ 
  | .watchdogSplit | .watchdogTeam | .pcSample _ _ | .sterlingFold | .gcntRefresh _ | .hotPageWindow 
  | .pageMigration _ | .loadComplete | .atomicAtEngine _ _ | .dqpushRetry | .copyDeliver _ | .copyComplete _ 
  | .matrixRetire _ | .electrumStep _ | .cascadeDrop _ | .frameLiveDecrement _ | .unassignedOpcode _ 
  | .bandwidthWindow | .recoveryImage _ _ _ | .powerLimitReached _ | .incomingStateRestored => none

/-- The word of an instruction (R244). -/
def encode (i : Instr) : Option Word32 := (encodeFields i).map Fields.toWord

/-- The bytes of a word as memory holds them, the lowest address first (00_scope R2, R241). -/
def wordBytes (w : Word32) : List Byte :=
  [w.extractLsb' 0 8, w.extractLsb' 8 8, w.extractLsb' 16 8, w.extractLsb' 24 8]

/-- The word that four bytes hold; the lowest address holds bits [7:0]. -/
def wordOfBytes (b0 b1 b2 b3 : Byte) : Word32 := b3 ++ b2 ++ b1 ++ b0

/-- What the decoder reads from the table's word: one 32-bit word, laid out as memory holds it. -/
def decodeTableWord (nbits w : Nat) : Option Instr :=
  if nbits ≤ 32 then
    match wordBytes (BitVec.ofNat 32 w) with
    | [b0, b1, b2, b3] =>
      match decode (wordOfBytes b0 b1 b2 b3) with
      | .ok i => some i
      | .error _ => none
    | _ => none
  else none

end Sys2Proof
end

