-- ==== Sys2Proof/Config.lean ====
section
/-!
DEFINITION. What an implementation fixes and what the spec leaves open: constants with no body, so that nothing can be
proved of their values (notes/assumptions 2, 9).
-/

namespace Sys2Proof.Config

/-- The free value of width `w` with serial number `n`: what an "undefined value" of the spec (00_scope R6) turns into.
`State.freeCtr` counts the serial numbers. -/
opaque freeValue (w : Nat) : Nat → BitVec w

/-- Edges of a die's clock in an interval of reference time that begins at a time, while it is stretched by some steps (01 R28) or
lowered for power or temperature (R27), before they are fitted between the bounds of those rules. -/
opaque clockEdges (die steps : Nat) : Nat → Nat

/-- How many of the raises of an expansion that a request interrupts had been made, and how many granules or pages of the next (05
R119). -/
opaque expandSteps : Nat → Nat × Nat

/-- The port, of those that reach a peer, that carries a flit to or from it (01 R23), by the flit's number. -/
opaque flitPort : Nat → Nat

/-- The device identity that the management window shows (02 R32). -/
opaque identity : Word64

/-- Spare rows in each bank of a stack (01 R13); the spec gives no number. -/
opaque spareRows : Nat
/-- Remap entries for each bank of a stack (01 R13). -/
opaque remapEntries : Nat
/-- Spare granules of each stack's bank (01 R13). -/
opaque spareGranules : Nat

/-- Row, within its stack, that holds the 64-byte sector `sector` of device physical memory: the bank, and the row in it. The
spec gives no map from addresses to banks and rows (01 R13). -/
opaque rowOf (sector : Nat) : Nat × Nat

/-- Energy weights of the configuration image (03 R72): microjoules per 2^20 units of lane cycles, matrix cycles,
copied bytes and memory bytes. -/
opaque energyWeight : Nat → Nat

/-- Byte `i` of the answer to the SPDM request of code `request`, version `version` (01 R26): certificates, challenge
responses and signatures, which the spec does not give. -/
opaque spdmByte (version request : Nat) : Nat → Byte

/-- The offset the frame heap of a die chooses for a new frame of `size` bytes, as a function of the context's
sequence of creations and frees on that die (11 R229), before it is fitted into the heap. -/
opaque heapSeed : List Nat → Nat

/-- Where the device puts a page that it migrates to a die (03 R70), as a page number there; the spec does not say how it
chooses. -/
opaque migrationPage (die size : Nat) : Nat → Nat

end Sys2Proof.Config
end

