-- ==== Sys2Proof/Machine/State.lean ====
section
/-!
DEFINITION. The state of the Virrum V7 as plain data: every register, memory, queue and table the spec gives the device,
the reasons a step can stop, and the state after reset. Numbers of units (cores, entries, queues) are natural numbers;
what software reads as a word is a bit vector.
-/

namespace Sys2Proof.Machine

open Sys2Proof

/-- Why the machine stops: nothing stops it. Every cause of the spec has an effect on a split or a context (06 R131), and the
loss of power of the compute dies leaves the Wielo controller running (01 R27). -/
inductive Fault where
  deriving DecidableEq, Repr

/-- Why a step has no meaning in a state. -/
inductive Refusal where
  /-- An instruction whose meaning is not written yet. Safe. -/
  | notModelled (mnemonic : String)
  /-- An instruction was run although `State.cur` names no live split that could issue it. No split issues such an
  instruction, so the device has no step here. Safe. -/
  | noIssuingSplit
  deriving DecidableEq, Repr

/-- The causes of 06 R131, with their codes in `Cause.code`. -/
inductive Cause where
  | encIllegal | encReserved | encUnsched | brAlign | regAllot | schedShort | tableBound | modeInvalid
  | addrXlate | addrPerm | addrAlign | scratchBound | swizzleMismatch
  | caStale | caCollision | caFull | frameBound | contFull
  | watchdogSplit | watchdogTeam | brk | trapi | notice | memUncorr
  deriving DecidableEq, Repr

/-- The split, group, core or queue that a step acts on. -/
structure Cur where
  core : Nat
  entry : Nat
  split : Nat
  fn : Nat
  q : Nat
  deriving DecidableEq, Repr

/-- One item of the schedule: `dt` nanoseconds of reference time pass, then the event happens, or, with none, the split
that `cur` names issues, while the group-state entries `late` of its core still wait for their fetch (06 R128). -/
structure Move where
  dt : Nat
  cur : Cur
  ev : Option Instr
  late : List Nat := []
  deriving DecidableEq, Repr

/-- How a split is parked (06 R142): on a barrier word at a team-local offset (with the phase it waits in, whether its group's
arrival is still to come, so that it waits in no phase yet, and whether it stays until the phase completes), on a batch (and whether it
was closed when the wait began), or on a full deque (and whether its address was an undefined value). -/
inductive Park where
  | barrier (off : Nat) (phase : Bool) (arriving : Bool) (stays : Bool)
  | batch (n : Word32) (closed : Bool)
  | deque (addr : Word64) (value : Word64) (undef : Bool)
  deriving DecidableEq, Repr

/-- A trap record (06 R138). -/
structure TrapRec where
  cause : Cause
  pc : Word64
  addr : Word64
  threads : Word64
  word : Word32
  time : Nat
  /-- The record was raised but the trap core has not taken it yet (R134). -/
  untaken : Bool
  deriving DecidableEq, Repr

/-- A register that a fixed-latency instruction writes or reads. -/
inductive Reg where
  | v (n : Nat)
  | k (n : Nat)
  | p (n : Nat)
  deriving DecidableEq, Repr

/-- A fixed-latency result in flight (06 R122): an instruction that issues at core cycle `ready` or later reads it thread by
thread, and one that issues at `whole` or later reads all of it (12 R254). `threads` holds the threads it writes. -/
structure Flight where
  reg : Reg
  threads : Word64
  ready : Nat
  whole : Nat
  deriving DecidableEq, Repr

/-- A split (05 R117, 06 R124). -/
structure Split where
  live : Bool
  pc : Word64
  mask : Word64
  mode : Word32
  halted : Bool
  park : Option Park
  /-- The hold of yield (R126). -/
  held : Bool
  trap : Option TrapRec
  /-- Load count (15 R329). -/
  loadCnt : Nat
  /-- Earliest core cycle of the next issue (R129). -/
  nextIssue : Nat
  /-- Issues counted by the split watchdog (R140). -/
  issues : Nat
  /-- Reference time from which the team watchdog counts, and what it had counted before a pause (R141). -/
  parkStart : Nat
  parkedNs : Nat
  inflight : List Flight
  /-- A drain-class instruction has issued: the next one waits for every late result of the split (12 R254). -/
  draining : Bool
  /-- Late instructions of its group, by number, for whose results too it waits: a write of the group-state block may have given it their
  threads (R123). -/
  owed : List Nat := []
  deriving DecidableEq, Repr

/-- Where a late result goes: a 32-bit element of a vector register, or a uniform register. -/
inductive Dest where
  | v (n thread : Nat)
  | k (n : Nat)
  deriving DecidableEq, Repr

/-- A variable-class instruction that has issued (15 R329): its results so far, the destinations that something else
has written meanwhile, how many engine answers it still waits for, and the type of its elements. -/
structure Pending where
  id : Nat
  split : Nat
  ty : BitVec 5 := 8
  waits : Nat
  dests : List Dest
  results : List (Dest × Word64)
  clobbered : List Dest
  deriving DecidableEq, Repr

/-- What RESID shows (05 R108, R391). -/
structure Resid where
  level : Nat
  glevel : Nat
  tlevel : Nat
  granRes : Nat
  scres : Nat
  lanes : Nat
  mspill : Bool
  deriving DecidableEq, Repr

/-- A group (05 R117, 06 R124, 07 R151). -/
structure Group where
  team : Nat
  index : Nat
  width : Nat
  vgran : Nat
  producer : Bool
  /-- Carved base in the quarter's pool, in bytes (04 R88). -/
  base : Nat
  splits : List Split
  /-- Threads that have not exited. -/
  alive : Word64
  /-- Element `t` of `v n` at key `n * 64 + t`. -/
  v : Sparse 32
  k : Sparse 64
  p : Sparse 64
  d : Sparse 64
  region : List Word16
  /-- Entries beyond the depth, as a write of the group-state block left them (05 R117). -/
  regionRest : List Word16 := []
  batchOpen : Word32
  batchDone : Word32
  /-- Closed batches that are not done, in order, with their copies still in flight; and the copies not yet closed. -/
  batches : List (Word32 × List Nat)
  unclosed : List Nat
  nen : Bool
  npend : Bool
  resid : Resid
  /-- The register level the fold has reached; `resid` shows it at the handover. -/
  glevel : Nat
  /-- Granules beyond the level that an interrupted expansion has made resident (05 R119). -/
  extra : Nat := 0
  grantSeq : Word32
  grantKind : Byte
  retired : Nat
  /-- Records gathered, 0 for a group of a LAUNCH packet (11 R233). -/
  gathered : Nat
  /-- Frames that the threads' records are charged to (11 R235). -/
  charges : List (Nat × Word64)
  /-- Granules, the most recently accessed first; those that are resident now, in the order of their places; and the accesses to
  spilled granules, each with the group's issue count (05 R102). -/
  recency : List Nat
  hot : List Nat
  misses : List (Nat × Nat)
  /-- The group's last issue had the give-way flag, and no walk has passed over it yet (R129). -/
  giveWay : Bool
  /-- One more than the cycle whose walk last passed over the group for that flag, which a sample of the cycle shows (R145). -/
  passedAt : Nat := 0
  pending : List Pending
  /-- Late instructions that have written their results, which no lwait, merge or exit has covered yet (15 R331). -/
  done : List Pending := []
  nextPending : Nat
  /-- In a switch, the hot set, entry and pinned pages are still being restored (05 R114). -/
  restoring : Bool
  deriving DecidableEq, Repr

/-- A team (04 R84 to R89). Offsets of tile and accumulator bytes: register `i` of the core with parity `c` at
`c * 0x20000 + i * 0x4000` and `c * 0x80000 + i * 0x10000`. -/
structure Team where
  launch : Nat
  index : Nat
  /-- Formed from continuation records (04 R93). -/
  formed : Bool
  core : Nat
  slot : Nat
  slot2 : Nat
  pair : Bool
  scratch : Mem
  barrier : Mem
  /-- Physical 1 KiB block of each resident 1 KiB block of the scratchpad; an odd core holds blocks from 512 up (R84). -/
  smap : Table Nat
  tags : Sparse 2
  /-- Team-local offsets that a bari has set up as barrier words (07 R163). -/
  barWords : List Nat
  tiles : Mem
  accs : Mem
  /-- Tile registers, an odd core's from 8 up, whose descriptor has taken undefined values (07 R155). -/
  badTiles : List Nat := []
  tlevel : Nat
  /-- Pages of scratchpad beyond the level that an interrupted expansion has made resident (05 R119). -/
  extra : Nat := 0
  /-- Lowest byte of its carving in each quarter (R88); an odd core's quarters follow. -/
  carve : List Nat
  /-- Bytes of its carving that groups which have exited held: the place of the quarter in the lists, the first byte and the end (R88). -/
  gone : List (Nat × Nat × Nat) := []
  /-- Lane set size in each quarter; an odd core's quarters follow. -/
  lanes : List Nat
  mspill : Bool
  groupCount : Nat
  /-- Groups that have not exited. -/
  groupsLeft : Nat
  /-- Order of dispatch, for the oldest resident team (R85). -/
  serial : Nat
  /-- How often it has come back to cores: what was aimed at it before it left finds it no more (07 R157). -/
  stay : Nat := 0
  resident : Bool
  /-- Bits of TFLAGS of its save block (05 R116): it was matrix owner, and its matrix state is present. -/
  savedOwner : Bool
  savedMatrix : Bool
  /-- Held out by SWITCH OP 1 (22 R397). -/
  heldOut : Bool
  /-- VALID of the save block (05 R118). -/
  saveValid : Bool
  savedGroups : List (Nat × Group)
  deriving DecidableEq, Repr

/-- The fields of a kernel descriptor (02 R44). -/
structure KDesc where
  entry : Word64
  width : Nat
  vgran : Nat
  groups : Nat
  cluster : Nat
  scratch : Nat
  kflags : Word32
  minDies : Nat
  maxDies : Nat
  step : Nat
  gatherNs : Nat
  dispatch : Word64
  dispatchN : Nat
  outerFrame : Nat
  prodEntry : Word64
  prodVgran : Nat
  prodGroups : Nat
  deriving DecidableEq, Repr

/-- A die's share of a step (04 R90): the next team it dispatches and the end; `base` is the first team of the step. -/
structure Share where
  die : Nat
  base : Nat
  first : Nat
  next : Nat
  stop : Nat
  deriving DecidableEq, Repr

/-- A launch (04 R83, R90, R91; 06 R148). -/
structure Launch where
  fn : Nat
  q : Nat
  pkt : Word32
  /-- TAG of its packet, for records (02 R40). -/
  tag : Word32 := 0
  ctx : Nat
  kdAddr : Word64
  kd : KDesc
  tx : Nat
  ty : Nat
  tz : Nat
  args : Word64
  minDies : Nat
  maxDies : Nat
  scratchDyn : Nat
  /-- Dies fixed at admission for an Invar or COOP launch. -/
  fixedDies : Option (List Nat)
  /-- First team of the next step to agree, and the shares of the agreed steps. -/
  nextStep : Nat
  shares : List Share
  frontier : Nat
  doneAbove : List Nat
  frame : Word64
  framed : Bool
  formedCount : Nat
  turn : Nat
  pos : Nat
  /-- Slots of an Invar launch's rotation: the teams that fit on the empty cores of its dies, in whole clusters (06 R148). -/
  width : Nat
  /-- Dies on which a more urgent queue could not place a team since the last step was agreed (04 R90). -/
  pressedDies : List Nat
  deriving DecidableEq, Repr

inductive QState where
  | disabled | active | error | faulted | resetting
  deriving DecidableEq, Repr

/-- A packet that has started and that HEAD has not passed (02 R41); `finished` says that its own work is done. -/
structure Pkt where
  ix : Word32
  ptype : Byte
  event : Bool
  tag : Word32
  doneSig : Word64
  /-- Context of the queue when it started. -/
  ctx : Nat := 0
  finished : Bool
  /-- DONE_SIG has been decremented and the completion record posted. -/
  signalled : Bool
  /-- Launch of a LAUNCH packet. -/
  lid : Option Nat
  deriving DecidableEq, Repr

/-- A WAIT packet in progress (02 R43). -/
structure WaitSt where
  addr : Word64
  cond : Byte
  value : Word64
  deadline : Option Nat
  deriving DecidableEq, Repr

/-- A reset or disable in progress (02 R49, R50): the HEAD to set, whether it then disables, whether QPCMD asked, and
whether a tamper was met meanwhile (R34). -/
structure Drain where
  head : Word32
  disable : Bool
  viaQp : Bool
  tamper : Bool
  deriving DecidableEq, Repr

/-- A queue (02 R33 to R50, R401). -/
structure Queue where
  state : QState
  code : Byte
  /-- The cached privileged half. -/
  priv : List Byte
  tail : Word32
  head : Word32
  lseq : Word16
  /-- Next packet to parse. -/
  parse : Word32
  pkts : List Pkt
  /-- LAUNCH packets of before a tamper whose launches still run after the queue is enabled again (R34). -/
  orphans : List Pkt
  wait : Option WaitSt
  drain : Option Drain
  /-- HEAD and QSTATUS as last written to the control block. -/
  mirrorHead : Word32
  mirrorStatus : Word32
  home : Nat
  charge : Nat
  /-- Time at which it last dispatched a team on each die. -/
  lastDispatch : Table Nat
  /-- The latest time at which it could place a team on its home die (04 R81). -/
  lastAble : Nat := 0
  /-- Handover to a thief (04 R81) with the doorbells held meanwhile; a true mark says that a discard would count. -/
  thief : Option Nat
  heldBells : List (Bool × Word64)
  /-- No team of it could be placed on a die since this time. -/
  starvedSince : Table Nat
  deriving DecidableEq, Repr

/-- A Sterling record (03 R72). -/
structure Sterling where
  ctx : Nat
  incarn : Word16
  closed : Bool
  dropped : Bool
  time : Nat
  laneCyc : Nat
  matrixCyc : Nat
  copyBytes : Nat
  memBytes : Nat
  deriving DecidableEq, Repr

/-- A binding of a store (10 R215). -/
structure Binding where
  store : Nat
  rights : BitVec 4
  deriving DecidableEq, Repr

/-- A context (02 R52). -/
structure Context where
  live : Bool
  incarn : Word16
  root : Word64
  evqBase : Word64
  evqLog : Nat
  evqVec : Nat
  evOverflow : Bool
  /-- WRIDX as the device last wrote it (02 R53). -/
  evWr : BitVec 31
  /-- 256 tensor identifiers of 64 bytes (07 R171). -/
  ids : Mem
  binds : Table Binding
  /-- The per-die accumulators, as one sum, and the record as they were last folded into it (03 R73). -/
  sterling : Sterling
  folded : Sterling
  /-- Spill, save and frame space taken, in 2 MiB units (05 R115, 11 R228). -/
  units : Nat
  /-- Creations and frees of frames on each die, the newest first (11 R229), and the 2 MiB units of each die's heap. -/
  heapLog : Table (List Nat)
  heapUnits : Table Nat
  deriving DecidableEq, Repr

/-- Per-function state (02 R35; 03 R75; 06 R133, R143). -/
structure Func where
  qreg : Sparse 64
  qpresult : Word64
  discards : Word64
  gcntDelay : Byte
  gcntQuant : BitVec 4
  gcntEnable : Bool
  trapPolicy : BitVec 10
  sampleLog : BitVec 5
  samplePeriod : BitVec 5
  sampleOn : Bool
  sampleBase : Word64
  samples : Nat
  part : Option Nat
  /-- Queue commands not yet served, and whether each came through QPCMD (02 R37, R49). -/
  cmds : List (Bool × Word64)
  /-- The guest counter page and the values sampled one period earlier (03 R75). -/
  gcnt : List Word64
  gcntNext : List Word64
  /-- Time of the next refresh. -/
  gcntAt : Nat
  deriving DecidableEq, Repr

/-- A partition (03 R57) with its true shared-resource counts (R75) and its use of the bandwidth window (R60). -/
structure Part where
  parent : Nat
  level : Nat
  migrate : Bool
  cores : BitVec 160
  engines : Word32
  slices : Word64
  hbmGib : Nat
  timeShare : Nat
  bwGbps : Nat
  counts : List Nat
  windowBytes : Nat
  /-- Charges of its own queues in the scheduling period (04 R78), in parts of a nanosecond. -/
  timeUsed : Nat
  /-- Results of the finaliser, the most recently used first: digest, length in packets, native bytes (12 R270). -/
  finals : List (List Byte × Nat × List Byte)
  /-- Peer route table: entry to device (03 R65). -/
  routes : Table Nat
  deriving DecidableEq, Repr

/-- A squeeze request (05 R99): `origin` 0 mailbox, 1 scheduler (for a queue of `fn`, `q`), 2 partition change. -/
structure SqReq where
  origin : Nat
  ctx : Nat
  fn : Nat
  q : Nat
  matrix : Bool
  scr : Nat
  lanes : List Nat
  pool : List Nat
  deriving DecidableEq, Repr

/-- What moves a context off a core: a SWITCH of the mailbox (22 R397), a time-slice switch (05 R114) or a partition change (03 R59). -/
inductive SavedBy where
  | mailbox | slice | partition
  deriving DecidableEq, Repr

/-- A squeeze folded but not handed over (05 R100): its victims, and what it got. -/
structure SqRun where
  req : SqReq
  victims : List Nat := []
  seq : Word32
  scrGot : Nat
  lanesGot : List Nat
  poolGot : List Nat
  matrixGot : Bool
  gflags : Word16
  deriving DecidableEq, Repr

/-- What a core serves, in the order of arrival (05 R100): a squeeze, a time-slice switch from one context to another, a switch that
moves a context's teams off the core, or one that brings those of a core that OP 2 names back (22 R397). -/
inductive CoreReq where
  | squeeze (r : SqReq)
  | slice (out incoming : Nat)
  | switchOut (ctx : Nat)
  | switchIn (core ctx : Nat)
  deriving DecidableEq, Repr

/-- Resources held for the physical function (19 R392). -/
structure Hold where
  scr : Nat
  lanes : List Nat
  pool : List Nat
  matrix : Bool
  deriving DecidableEq, Repr

/-- Lanes reserved for a queue's teams (05 R104). -/
structure Reserve where
  fn : Nat
  q : Nat
  lanes : List Nat
  deriving DecidableEq, Repr

/-- The reuse latch (07 R154): the A operand of tile register `tile` of a team, latched by a group of a quarter. -/
structure Latch where
  team : Nat
  /-- Key of the group: 64 times its core plus its entry. -/
  group : Nat
  tile : Nat
  data : Mem
  deriving DecidableEq, Repr

/-- A core (06 R120). -/
structure Core where
  seq : Word32
  owner : Option Nat
  latch : Option Latch
  rbrk : BitVec 17
  /-- Clock edges of the core beyond those of `State.clock` (13 R292). -/
  cycle : Nat
  /-- Entry that issued last in each quarter (R128), and one more than the cycle in which it did. -/
  lastIssue : List Nat
  issuedAt : List Nat
  /-- Entry sampled last in each quarter (R144), and one more than the cycle in which it was. -/
  lastSample : List Nat
  sampledAt : List Nat
  /-- Entries that waited for their fetch at the last issue (R128). -/
  late : List Nat
  /-- Collectors that are held: the quarter, and the cycle from which each is free (07 R153). -/
  collectors : List (Nat × Nat)
  /-- Lanes that are occupied: 16 times the quarter plus the lane, and the cycle from which each is free (R121). -/
  laneUse : List (Nat × Nat)
  sqQueue : List CoreReq
  /-- The first request that waits has interrupted an expansion (05 R119). -/
  cut : Bool := false
  sqRun : Option SqRun
  holds : Table Hold
  reserves : List Reserve
  /-- On the even core of a pair, the traps that the pair's trap core has not taken, in order (R120): core, entry and split. -/
  trapQ : List (Nat × Nat × Nat)
  /-- Grant records that the core has produced (05 R107), the oldest first. -/
  grants : List (List Byte)
  /-- Context that a switch is moving off the core, until its save has drained (05 R114): it issues nothing there. -/
  saving : Option Nat
  /-- What is moving it. -/
  savingBy : SavedBy := .mailbox
  /-- What the teams that a SWITCH moves off held when it began, with the fold of its first step (05 R114). -/
  savedRun : Option SqRun := none
  deriving DecidableEq, Repr

/-- A gathered-record bin (04 R92): launch, entry index, d1 handle; records with their emitting core (none for a join
record) and the time they entered. -/
structure Bin where
  launch : Nat
  entry : Word32
  d1 : Word64
  recs : List (List Byte × Option Nat × Nat)
  deriving DecidableEq, Repr

/-- A group formed but not yet placed (04 R93); `serial` counts the groups its launch formed before it. -/
structure Formed where
  launch : Nat
  entry : Word32
  d1 : Word64
  recs : List (List Byte × Option Nat × Nat)
  serial : Nat
  deriving DecidableEq, Repr

/-- Accesses of a die to a local leaf in the window (03 R69): the context, the address and page size of the leaf entry. -/
structure HotCount where
  ctx : Nat
  leaf : Nat
  size : Nat
  die : Nat
  count : Nat
  deriving DecidableEq, Repr

/-- A page selected for migration: its leaf entry as it then stood, and the die it goes to. -/
structure Migration where
  ctx : Nat
  leaf : Nat
  entry : Word64
  size : Nat
  target : Nat
  deriving DecidableEq, Repr

/-- A die. -/
structure Die where
  isolated : Bool
  powered : Bool
  frontFailed : Bool
  mismatches : List Nat
  checkpoint : Nat
  droopEvents : Word32
  droopOverflow : Bool
  droopActive : Bool
  clockSteps : Nat
  bins : List Bin
  formed : List Formed
  joins : List (Nat × List Byte)
  /-- The time since which the die has had an idle core (04 R80), and, by partition, since which it has had one of the partition's. -/
  idleDie : Option Nat := none
  idleSince : Table Nat
  backoffUntil : Nat
  /-- A steal in progress (04 R80): 0 none, 1 clockwise neighbour asked, 2 anticlockwise asked, 3 and 4 the same with
  STEAL_NONE on its way back. -/
  stealAsk : Nat
  /-- STEAL_REQ messages not yet served: the thief, and its partitions that have an idle core. -/
  stealInbox : List (Nat × List Nat)
  /-- A queue given to this die as thief (04 R80). -/
  stealGiven : Option (Nat × Nat)
  hotMoved : Nat
  hotRefused : Nat
  /-- Time at which the window of the hot-page tracker ends (03 R69). -/
  hotEnd : Nat
  hotCounts : List HotCount
  migrations : List Migration
  deriving DecidableEq, Repr

/-- A repair copy in progress (01 R13): of a row, by its bank and number, or of a granule, by its address. -/
inductive RepairCopy where
  | row (bank row : Nat)
  | granule (a : Nat)
  deriving DecidableEq, Repr

/-- A memory stack (01 R12 to R16, R30). -/
structure Stack where
  copying : Option RepairCopy
  training : Bool
  outOfUse : Bool
  temp : Int
  spareUsed : Nat
  corrected : Nat
  uncorr : Nat
  remapUsed : Nat
  granUsed : Nat
  retired : Nat
  lastScrub : Nat
  /-- Spare rows, remap entries and spare granules used in each bank. -/
  bankUse : Table (Nat × Nat × Nat)
  /-- Sectors with one bad symbol and with two (R12). -/
  weak : List Nat
  bad : List Nat
  /-- Throttled function and bank of the hammer window (03 R71). -/
  throttled : List (Nat × Nat)
  deriving DecidableEq, Repr

/-- A peer device behind a route: its memory, pinned 64 KiB pages, the ports that reach it (01 R20 to R23). -/
structure Peer where
  mem : Mem
  pinned : List Nat
  ports : List Nat
  deriving DecidableEq, Repr

/-- The management mailbox and the physical-function event queue (02 R400, R55). -/
structure Mgmt where
  req : Mem
  active : Option (List Byte)
  answer : Option (List Byte)
  evtLost : Bool
  rspReady : Bool
  evtWr : BitVec 31
  evtRd : BitVec 31
  rspIe : Bool
  evtIe : Bool
  irqVec : BitVec 6
  rsp : Mem
  ring : Mem
  waiting : List (List Byte)
  log : List (List Byte)
  pfBase : Word64
  pfLog : Nat
  pfEnable : Bool
  pfVec : BitVec 6
  pfWr : BitVec 31
  pfOverflow : Bool
  pfRd : Word32
  deriving DecidableEq, Repr

/-- Links, boundaries, power and start-up (01). -/
structure Plant where
  dualHost : Bool
  /-- Virtual functions on link 0 (R18). -/
  vf0 : List Nat
  ownerLink : Nat
  linkUp : List Bool
  boundUp : List Bool
  retries : List Nat
  portUp : List Bool
  powerLimit : Nat
  imageLimit : Nat
  measured : Nat
  hottest : Int
  lowPower : Bool
  lowTemp : Bool
  watchdogNs : Nat
  recovery : Bool
  recoveryStatus : List Nat
  versions : Table Nat
  fuseMin : Table Nat
  /-- The retirement list in SPI flash: granule, and the stack and bank of the failing row (R14). -/
  retireList : List (Nat × Nat × Nat)
  mctpOut : List (List Byte)
  msix : List (Nat × Nat)
  nextReconcile : Nat
  nextPeriod : Nat
  /-- Cores and contexts that an open PART_SET has squeezed off what it takes away (03 R59). -/
  vacated : List (Nat × Nat)
  /-- Cores and copy engines that an open PART_SET takes away: nothing new starts on them (03 R59; 04 R90, R95). -/
  leavingCores : BitVec 160 := 0
  leavingEngines : Word32 := 0
  /-- Answers of a SWITCH request still open: context and core (22 R397). -/
  openSwitch : List (Nat × Nat)
  deriving DecidableEq, Repr

/-- The kinds of copy (16 R346, R371). -/
inductive CopyKind where
  | box | gather | multicast | signal | regs (toMem : Bool) | tree
  deriving DecidableEq, Repr

/-- A copy in flight (07 R166 to R170; 16 R346 to R354, R371), with the identifiers it captured. `s` and `d` are the start
coordinates. A gather holds its list's offset in `list`, its row count in `count` and its source column in `first`; a
register copy holds its address, stride, first register and count; a tree copy its address, count, height and root name. -/
structure Copy where
  kind : CopyKind
  ctx : Nat
  engine : Nat
  team : Nat
  group : Nat
  /-- The queue whose work it is (02 R47), and the instruction's PC (06 R131). -/
  q : Nat
  pc : Word64
  /-- Teams whose on-chip state it reaches, each with its stay, at issue (07 R157). -/
  into : List (Nat × Nat)
  src : Mem
  dst : Mem
  s : Word64
  d : Word64
  bw : Bool
  bar : Nat
  mask : Word16
  sig : Word64
  list : Word64
  stride : Word64
  first : Nat
  count : Nat
  root : Nat
  store : Nat
  height : Nat
  /-- Next element row or chunk to deliver. -/
  next : Nat
  finished : Bool
  /-- An operand was an undefined value, so what fails because of it raises no fault (00 R6). -/
  undef : Bool := false
  deriving DecidableEq, Repr

/-- A matrix-unit operation that has been accepted (16 R358). -/
inductive MatKind where
  | tld (t : Nat) | shape (t m k : Nat) | accz (a : Nat) | mma (reuse : Bool) (a t : Nat)
  | mmap (reuse : Bool) (a t : Nat) | accrd (a : Nat)
  deriving DecidableEq, Repr

/-- `spoiled` says that something else wrote a register it uses meanwhile (07 R155). -/
structure MatOp where
  core : Nat
  team : Nat
  group : Nat
  ctx : Nat
  kind : MatKind
  id : Mem
  spoiled : Bool
  /-- It has retired, and its group has not waited for it yet (07 R155). -/
  retired : Bool := false
  pc : Word64
  /-- The queue whose work it is, and the teams whose on-chip state accrd writes, each with its stay (07 R157). -/
  q : Nat
  into : List (Nat × Nat)
  /-- An operand was an undefined value, so what fails because of it raises no fault (00 R6). -/
  undef : Bool := false
  deriving DecidableEq, Repr

/-- Where one byte of an access lies. -/
inductive Loc where
  | hbm (a : Nat)
  | host (a : Nat) (pub : Bool)
  | peer (dev a : Nat)
  | guest (fn off : Nat)
  | scratch (team off : Nat)
  | barrier (team off : Nat)
  /-- Byte of the element of thread `t` of register `v` of the group at `key`. -/
  | vreg (key v t byte : Nat)
  | tile (team i : Nat)
  | acc (team i : Nat)
  | status (core off : Nat)
  deriving DecidableEq, Repr

/-- A byte written to a host-published page that no publication has covered: its context, the queue whose work wrote it, and the
host address. -/
structure PubWrite where
  ctx : Nat
  q : Nat
  addr : Nat
  val : Byte
  deriving DecidableEq, Repr

/-- An access that passed its checks: the bytes it reaches, and the leaf it walked to with its page size. -/
structure Acc where
  ctx : Nat
  die : Nat
  locs : List Loc
  leaf : Option (Nat × Word64 × Nat)
  /-- Virtual address of the first byte. -/
  va : Nat := 0
  /-- The queue whose work makes the access (02 R47). -/
  q : Nat := 0
  /-- Sectors that earlier accesses of the same instruction have been charged for (03 R72). -/
  seen : List Nat := []
  deriving DecidableEq, Repr

/-- The contributions that a request carries, each with its team, in the order in which routers added them (08 R189; 09 R213). -/
inductive Combine where
  | one (team : Nat) (v : Word64)
  | both (a b : Combine)
  deriving DecidableEq, Repr

/-- An atomr that a router has merged into another request (08 R189): whose it is, the serial number of its instruction
(`State.freeCtr` at its issue), and its thread. -/
structure Rider where
  team : Nat
  core : Nat
  entry : Nat
  q : Nat
  instr : Nat := 0
  thread : Nat := 0
  deriving DecidableEq, Repr

/-- An atomic on its way to its engine (08 R188, 15 R334). -/
structure AtomReq where
  ctx : Nat
  team : Nat
  op : Nat
  ty : BitVec 5
  scope : BitVec 3
  addr : Word64
  acc : Acc
  /-- What it brings: operand 1 of its own instruction, and of those merged into it. -/
  brings : Combine
  v2 : Word64
  core : Nat
  entry : Nat
  /-- Serial number of the instruction (`State.freeCtr` at its issue), and the thread. -/
  instr : Nat := 0
  thread : Nat := 0
  /-- Pending instruction, register and thread of the return value; none for atomr. -/
  back : Option (Nat × Nat × Nat)
  riders : List Rider
  /-- PC of the instruction (06 R131). -/
  pc : Word64
  /-- Teams whose on-chip state it reaches, each with its stay, at issue (07 R157). -/
  into : List (Nat × Nat) := []
  /-- Its address was an undefined value, so what fails because of it raises no fault (00 R6). -/
  undef : Bool := false
  /-- It is an atom, which returns a value, even if the group that it returned it to has left. -/
  kept : Bool := false
  deriving DecidableEq, Repr

/-- An Electrum step that has issued (10 R222): a lookup of the content at an address, and the rest with their names and
registers; `ctl` is the control value that carswap read. -/
inductive CaOp where
  | look (interior : Bool) (content : Word64) (d a : Nat)
  | read (name : BitVec 128) (c d : Nat)
  | walk (name : BitVec 128) (c d : Nat)
  | rootRead (ctl : Word64) (d a : Nat)
  | rootSwap (ctl expect : Word64) (name : BitVec 128) (d a : Nat)
  | ref (name : BitVec 128)
  | drop (name : BitVec 128)
  deriving DecidableEq, Repr

structure CaStep where
  ctx : Nat
  store : Nat
  team : Nat
  core : Nat
  entry : Nat
  back : Option Nat
  op : CaOp
  pc : Word64
  /-- Teams whose on-chip state the content of a lookup lies in, each with its stay, at issue (07 R157). -/
  into : List (Nat × Nat) := []
  /-- An operand was an undefined value, so what fails because of it raises no fault (00 R6). -/
  undef : Bool := false
  /-- The number of the child that a walk takes was an undefined value. -/
  loose : Bool := false
  deriving DecidableEq, Repr

/-- An Electrum line that is not free (10 R218): LIVE, or DYING with the team whose step let it die (0 for none, 20 R394)
and the children still to drop. -/
structure Line where
  interior : Bool
  pre : BitVec 120
  index : Nat
  count : Nat
  content : List Byte
  dying : Option (Nat × List (BitVec 128))
  deriving DecidableEq, Repr

structure Root where
  name : BitVec 128
  version : Word64
  deriving DecidableEq, Repr

/-- An Electrum store (10 R214). `drops` are drops that follow as later
steps, with the team whose step started them (20 R394); `used` holds the indices withheld. -/
structure Store where
  part : Nat
  linesLog : Nat
  rootsLog : Nat
  share : BitVec 256
  lines : List Line
  used : List (BitVec 120 × Nat)
  roots : Table Root
  drops : List (Nat × BitVec 128)
  deriving DecidableEq, Repr

/-- A frame (11 R230) with its slots. -/
structure Frame where
  ctx : Nat
  die : Nat
  offset : Nat
  gen : Word16
  parent : Word64
  liveN : Nat
  retire : Word32
  size : Nat
  depth : Nat
  /-- 0 FREE, 1 OPEN, 2 WAITING, 3 JOINED. -/
  fstate : Nat
  bodyDone : Bool
  isLaunch : Bool
  launch : Nat
  creator : Word64
  slots : Sparse 64
  deriving DecidableEq, Repr

/-- A LIVE decrement on its way (11 R237). -/
structure FrameDec where
  ctx : Nat
  handle : Word64
  deriving DecidableEq, Repr

/-- The whole device. -/
structure State where
  sched : List Move
  refTime : Nat
  /-- Clock edges of each die's cores in the reference time that has passed (01 R28, 13 R292). -/
  clock : List Nat
  /-- Serial number of free values, and of the events that may need new ones: it rises with every instruction that takes
  effect and every cause that is taken. -/
  freeCtr : Nat
  cur : Cur
  /-- Registers whose fixed-latency results the instruction at issue reads before 06 R122 allows, and for which threads: they
  read as free values, and the destinations of those threads get free values (R129). -/
  hazard : List (Reg × Word64)
  /-- Threads for which the instruction at issue reads an undefined value (00 R6), and the registers that it writes. -/
  undef : Word64
  dests : List Reg
  mem : Mem
  hostMem : Mem
  /-- Writes to host-published pages not yet covered (02 R46, R47). -/
  pubPending : List PubWrite
  peers : Table Peer
  mgmt : Mgmt
  plant : Plant
  hbm : Table Stack
  dies : Table Die
  funcs : Table Func
  parts : Table Part
  queues : Table Queue
  ctxs : Table Context
  closed : List Sterling
  launches : Table Launch
  cores : Table Core
  teams : Table Team
  groups : Table Group
  copies : Table Copy
  mats : List MatOp
  atoms : List AtomReq
  caSteps : List CaStep
  stores : Table Store
  frames : List Frame
  decs : List FrameDec
  /-- Next number of a launch, a team, a copy. -/
  nextId : Nat
  /-- An access of the event that runs has met a range whose repair copy is in progress (01 R13): the event has to wait. -/
  repairWait : Bool
  deriving DecidableEq, Repr

/-! ### Reset values -/

def Func.reset : Func :=
  { qreg := [], qpresult := 0, discards := 0, gcntDelay := 10, gcntQuant := 6, gcntEnable := false, trapPolicy := 0,
    sampleLog := 10, samplePeriod := 12, sampleOn := false, sampleBase := 0, samples := 0, part := some 0, cmds := [],
    gcnt := [0, 0, 0, 0], gcntNext := [0, 0, 0, 0], gcntAt := 0 }

/-- Partition 0 (03 R402): all cores, engines and slices, 640 GiB, 1,024 of 1,024, 26,214 GB/s. -/
def Part.whole : Part :=
  { parent := 0, level := 0, migrate := false, cores := BitVec.allOnes 160, engines := BitVec.allOnes 32,
    slices := BitVec.allOnes 64, hbmGib := 640, timeShare := 1024, bwGbps := 26214, counts := [0, 0, 0, 0],
    windowBytes := 0, timeUsed := 0, finals := [], routes := [] }

def Core.reset : Core :=
  { seq := 1, owner := none, latch := none, rbrk := 0, cycle := 0, lastIssue := [15, 15, 15, 15], issuedAt := [0, 0, 0, 0],
    lastSample := [15, 15, 15, 15], sampledAt := [0, 0, 0, 0], late := [], collectors := [], laneUse := [], sqQueue := [],
    sqRun := none, holds := [], reserves := [], trapQ := [], grants := [], saving := none }

def Die.reset : Die :=
  { isolated := false, powered := true, frontFailed := false, mismatches := [], checkpoint := 0, droopEvents := 0,
    droopOverflow := false, droopActive := false, clockSteps := 0, bins := [], formed := [], joins := [],
    idleSince := [], backoffUntil := 0, stealAsk := 0, stealInbox := [], stealGiven := none, hotMoved := 0,
    hotRefused := 0, hotEnd := 1000000, hotCounts := [], migrations := [] }

def Stack.reset : Stack :=
  { copying := none, training := false, outOfUse := false, temp := 40, spareUsed := 0, corrected := 0, uncorr := 0,
    remapUsed := 0, granUsed := 0, retired := 0, lastScrub := 0, bankUse := [], weak := [], bad := [],
    throttled := [] }

def Mgmt.reset : Mgmt :=
  { req := [], active := none, answer := none, evtLost := false, rspReady := false, evtWr := 0, evtRd := 0,
    rspIe := false, evtIe := false, irqVec := 0, rsp := [], ring := [], waiting := [], log := [], pfBase := 0,
    pfLog := 4, pfEnable := false, pfVec := 0, pfWr := 0, pfOverflow := false, pfRd := 0 }

def Plant.reset : Plant :=
  { dualHost := false, vf0 := [1, 2, 3, 4, 5, 6, 7, 8], ownerLink := 0, linkUp := [true, true],
    boundUp := [true, true, true, true], retries := [0, 0, 0, 0], portUp := List.replicate 16 true,
    powerLimit := 2400, imageLimit := 2400, measured := 0, hottest := 40, lowPower := false, lowTemp := false,
    watchdogNs := 2000000000, recovery := false, recoveryStatus := [], versions := [], fuseMin := [],
    retireList := [], mctpOut := [], msix := [], nextReconcile := 50000, nextPeriod := 1000000, vacated := [], openSwitch := [] }

/-- A queue that is DISABLED and has written nothing since cold reset (02 R401). -/
def Queue.reset : Queue :=
  { state := .disabled, code := 0, priv := [], tail := 0, head := 0, lseq := 0, parse := 0, pkts := [], orphans := [], wait := none,
    drain := none, mirrorHead := 0, mirrorStatus := 0, home := 0, charge := 0, lastDispatch := [],
    thief := none, heldBells := [], starvedSince := [] }

/-- The device right after a cold reset that succeeded (01 R24): links released, every queue DISABLED, every function
bound to partition 0 (03 R402), nothing running. A table lists only what differs from its unit's reset value. -/
def State.reset : State :=
  { sched := [], refTime := 0, clock := [0, 0, 0, 0], freeCtr := 0, cur := { core := 0, entry := 0, split := 0, fn := 0, q := 0 },
    hazard := [], undef := 0, dests := [], mem := [], hostMem := [], pubPending := [], peers := [], mgmt := Mgmt.reset, plant := Plant.reset,
    hbm := [], dies := [], funcs := [], parts := [(0, Part.whole)], queues := [], ctxs := [], closed := [],
    launches := [], cores := [], teams := [], groups := [], copies := [], mats := [], atoms := [], caSteps := [],
    stores := [], frames := [], decs := [], nextId := 1, repairWait := false }

end Sys2Proof.Machine
end

