-- ==== Sys2Proof/Machine/Base.lean ====
section
/-!
DEFINITION. Plain operations over the containers of the state: sparse arrays, tables by number, little-endian bytes
(00_scope R2), the accessors of the units of the device, and the two ways an instruction can fail to take effect.
-/

namespace Sys2Proof.Machine

open Sys2Proof

/-! ### Sparse arrays -/

/-- The cell at `k`; an unlisted cell reads zero. -/
def readCell {w : Nat} : Sparse w → Nat → BitVec w
  | [], _ => 0
  | (a, b) :: r, k => if a = k then b else readCell r k

/-- Puts a nonzero cell in its place. -/
def insertCell {w : Nat} : Sparse w → Nat → BitVec w → Sparse w
  | [], k, x => [(k, x)]
  | (a, b) :: r, k, x =>
    if k < a then (k, x) :: (a, b) :: r
    else if k = a then (k, x) :: r
    else (a, b) :: insertCell r k x

def removeCell {w : Nat} : Sparse w → Nat → Sparse w
  | [], _ => []
  | (a, b) :: r, k => if a = k then removeCell r k else (a, b) :: removeCell r k

/-- Writes the cell at `k`; writing zero removes the entry, so equal arrays are equal lists. -/
def writeCell {w : Nat} (m : Sparse w) (k : Nat) (x : BitVec w) : Sparse w :=
  if x = 0 then removeCell m k else insertCell m k x

/-- Every key of `m` is at least `lo` and keys rise strictly, and no value is zero. -/
def cellsFrom {w : Nat} : Nat → Sparse w → Bool
  | _, [] => true
  | lo, (a, b) :: r => decide (lo ≤ a) && b != 0 && cellsFrom (a + 1) r

/-- The canonical form of a sparse array. -/
def Sparse.wf {w : Nat} (m : Sparse w) : Bool := cellsFrom 0 m

/-- The canonical form of a byte memory. -/
abbrev Memory.wf (m : Mem) : Bool := Sparse.wf m

/-- `n` bytes from address `a` up. -/
def readBytes (m : Mem) (a : Nat) : Nat → List Byte
  | 0 => []
  | n + 1 => readCell m a :: readBytes m (a + 1) n

def writeBytes (m : Mem) (a : Nat) : List Byte → Mem
  | [] => m
  | b :: r => writeBytes (writeCell m a b) (a + 1) r

/-- The number that bytes hold, the lowest address least significant. -/
def leNat : List Byte → Nat
  | [] => 0
  | b :: r => b.toNat + 256 * leNat r

/-- The `n` bytes of a number. -/
def natBytes : Nat → Nat → List Byte
  | 0, _ => []
  | n + 1, v => BitVec.ofNat 8 v :: natBytes n (v / 256)

def readLe (m : Mem) (a n : Nat) : Nat := leNat (readBytes m a n)

def writeLe (m : Mem) (a n v : Nat) : Mem := writeBytes m a (natBytes n v)

/-- The memory that holds a list of bytes from address 0. -/
def memOf (bs : List Byte) : Mem := writeBytes [] 0 bs

/-- Bytes `off` to `off + n - 1` of a message, as a number. -/
def field (bs : List Byte) (off n : Nat) : Nat := leNat ((bs.drop off).take n)

/-- All of the bytes are zero (R5). -/
def allZero (bs : List Byte) : Bool := bs.all (· == 0)

/-! ### Tables -/

def tget {α : Type} : Table α → Nat → Option α
  | [], _ => none
  | (a, b) :: r, k => if a = k then some b else tget r k

def tset {α : Type} : Table α → Nat → α → Table α
  | [], k, x => [(k, x)]
  | (a, b) :: r, k, x =>
    if k < a then (k, x) :: (a, b) :: r
    else if k = a then (k, x) :: r
    else (a, b) :: tset r k x

def terase {α : Type} : Table α → Nat → Table α
  | [], _ => []
  | (a, b) :: r, k => if a = k then terase r k else (a, b) :: terase r k

/-- Applies `f` to every record. -/
def tmap {α : Type} (t : Table α) (f : Nat → α → α) : Table α := t.map fun (k, x) => (k, f k x)

/-- Keeps the records that satisfy `f`. -/
def tfilter {α : Type} (t : Table α) (f : Nat → α → Bool) : Table α := t.filter fun (k, x) => f k x

/-- `l` with element `i` replaced. -/
def setAt {α : Type} (l : List α) (i : Nat) (x : α) : List α := l.set i x

def atD {α : Type} (l : List α) (i : Nat) (d : α) : α := (l[i]?).getD d

/-- A number lies within limits. -/
def within (lo x hi : Nat) : Bool := decide (lo ≤ x) && decide (x ≤ hi)

/-! ### The units of the device -/

namespace State

def die (s : State) (d : Nat) : Die := (tget s.dies d).getD Die.reset
def setDie (s : State) (d : Nat) (x : Die) : State := { s with dies := tset s.dies d x }
def core (s : State) (c : Nat) : Core := (tget s.cores c).getD Core.reset
def setCore (s : State) (c : Nat) (x : Core) : State := { s with cores := tset s.cores c x }
def func (s : State) (f : Nat) : Func := (tget s.funcs f).getD Func.reset
def setFunc (s : State) (f : Nat) (x : Func) : State := { s with funcs := tset s.funcs f x }
def stack (s : State) (i : Nat) : Stack := (tget s.hbm i).getD Stack.reset
def setStack (s : State) (i : Nat) (x : Stack) : State := { s with hbm := tset s.hbm i x }
/-- Queue `q` of function `f`. -/
def queue (s : State) (f q : Nat) : Queue := (tget s.queues (f * 1024 + q)).getD Queue.reset
def setQueue (s : State) (f q : Nat) (x : Queue) : State := { s with queues := tset s.queues (f * 1024 + q) x }
/-- The group of group-state entry `e` of core `c`. -/
def group? (s : State) (c e : Nat) : Option Group := tget s.groups (c * 64 + e)
def setGroup (s : State) (c e : Nat) (g : Group) : State := { s with groups := tset s.groups (c * 64 + e) g }
def setTeam (s : State) (i : Nat) (t : Team) : State := { s with teams := tset s.teams i t }
def setLaunch (s : State) (i : Nat) (l : Launch) : State := { s with launches := tset s.launches i l }
def setCtx (s : State) (c : Nat) (x : Context) : State := { s with ctxs := tset s.ctxs c x }
def ctx? (s : State) (c : Nat) : Option Context := (tget s.ctxs c).filter (·.live)

end State


/-- The even core of a core's pair, whose record keeps the queue of the pair's trap core (06 R120). -/
def pairOf (core : Nat) : Nat := core / 2 * 2

/-- Die of a logical core (03 R57). -/
def dieOf (core : Nat) : Nat := core / 40

/-- Clock edges of a core's die in the time that has passed. -/
def State.dieClock (s : State) (c : Nat) : Nat := atD s.clock (dieOf c) 0

/-- Cycle count of a core (13 R292): the edges of elapsed time, and those in which it has issued since. -/
def State.cycleOf (s : State) (c : Nat) : Nat := s.dieClock c + (s.core c).cycle

/-- The quarter of a group-state entry (07 R156). -/
def quarterOf (entry : Nat) : Nat := entry / 16

/-- Function of a CONTEXT value (02 R33). -/
def ctxFn (c : Nat) : Nat := c / 65536 % 32

/-- A CONTEXT value without its reserved bits, which a structure's reader ignores (00 R5). -/
def ctxBits (c : Nat) : Nat := c % 4096 + 65536 * ctxFn c

/-- Reserved bits of a CONTEXT value are clear: [15:12] and [31:21] (R33), and the function is one of 17. -/
def ctxWellFormed (c : Nat) : Bool := c / 4096 % 16 == 0 && c / 2097152 == 0 && decide (ctxFn c ≤ 16)

/-- Die reached by the ring from die `d`, clockwise 0, 1, 3, 2 (04 R76, the mailbox ring). -/
def ringNext (d : Nat) : Nat := match d with | 0 => 1 | 1 => 3 | 3 => 2 | _ => 0
def ringPrev (d : Nat) : Nat := match d with | 1 => 0 | 3 => 1 | 2 => 3 | _ => 2

/-- The four dies in ring order from `d`. -/
def ringFrom (d : Nat) : List Nat := [d, ringNext d, ringNext (ringNext d), ringPrev d]

/-- The Solder boundaries of a die pair: 0 is 0-1, 1 is 2-3, 2 is 0-2, 3 is 1-3 (01 R8). -/
def boundDies (b : Nat) : Nat × Nat := match b with | 0 => (0, 1) | 1 => (2, 3) | 2 => (0, 2) | _ => (1, 3)

/-- Dies that the boundaries still up join to a die within `n` hops. -/
def reach (up : List Bool) (d : Nat) : Nat → List Nat
  | 0 => [d]
  | n + 1 =>
    let l := reach up d n
    (List.range 4).filter fun x => l.contains x || (List.range 4).any fun b =>
      atD up b false && (((boundDies b).1 == x && l.contains (boundDies b).2) || ((boundDies b).2 == x && l.contains (boundDies b).1))

/-- Dies that the boundaries still up join to a die (01 R10). -/
def joined (up : List Bool) (d : Nat) : List Nat := reach up d 3

/-- Solder hops between dies over the boundaries that are up (01 R9, R10): diagonal dies are two hops apart, and traffic that
goes the other way round takes up to three. Dies that are not joined count as 4. -/
def hops (up : List Bool) (a b : Nat) : Nat := ((List.range 4).find? fun n => (reach up a n).contains b).getD 4

/-- Link that carries a function (01 R18): in single-host mode link 0. -/
def Plant.linkOf (p : Plant) (fn : Nat) : Nat :=
  if !p.dualHost then 0 else if fn = 0 then p.ownerLink else if p.vf0.contains fn then 0 else 1

/-- Key of a host address of a function in `State.hostMem`: with two hosts, the second one's memory lies above the first's. -/
def Plant.hostKey (p : Plant) (fn a : Nat) : Nat := if p.linkOf fn = 1 then 2 ^ 64 + a else a

/-- The host of a function can be reached: in single-host mode over either link (01 R18, R19). -/
def Plant.hostUp (p : Plant) (fn : Nat) : Bool :=
  if p.dualHost then atD p.linkUp (p.linkOf fn) false else p.linkUp.any id

/-- Die whose link carries traffic to a host address (01 R17, R18): in single-host mode the links take 4 KiB in turn. -/
def Plant.hostDie (p : Plant) (key : Nat) : Nat :=
  let link := if p.dualHost then key / 2 ^ 64
    else if atD p.linkUp 0 false && atD p.linkUp 1 false then key / 4096 % 2 else if atD p.linkUp 0 false then 0 else 1
  2 * link

/-! ### KFLAGS (02 R44) -/

def KDesc.pair (k : KDesc) : Bool := k.kflags.getLsbD 0
def KDesc.coop (k : KDesc) : Bool := k.kflags.getLsbD 1
def Launch.isInvar (l : Launch) : Bool := l.kd.kflags.getLsbD 2
def Launch.isCheck (l : Launch) : Bool := l.kd.kflags.getLsbD 3
def KDesc.roles (k : KDesc) : Bool := k.kflags.getLsbD 4
def Launch.isFrames (l : Launch) : Bool := l.kd.kflags.getLsbD 5

/-! ### What an instruction can meet at issue -/

/-- An instruction that takes no effect: it raises a cause (06 R132) with an address and the threads that raised it, or
it waits at issue without a trap, which leaves the state as it is. -/
inductive Stop where
  | cause (c : Cause) (addr : Word64) (threads : Word64)
  | wait
  deriving DecidableEq, Repr

/-- The check of R132: go on if `ok`, otherwise raise the cause. -/
def need (ok : Bool) (c : Cause) (addr : Word64 := 0) (threads : Word64 := 0) : Except Stop Unit :=
  if ok then .ok () else .error (.cause c addr threads)

/-- Runs a check for each element, the lowest first. -/
def checkAll {α : Type} (f : α → Except Stop Unit) : List α → Except Stop Unit
  | [] => .ok ()
  | x :: r => match f x with
    | .ok _ => checkAll f r
    | .error e => .error e

/-- Folds a state change over a list. -/
def forAll {α σ : Type} (f : σ → α → σ) (s : σ) (l : List α) : σ := l.foldl f s

/-- The least element of a list by a measure; the first of equals. -/
def leastBy {α : Type} (f : α → Nat) : List α → Option α
  | [] => none
  | x :: r => match leastBy f r with
    | none => some x
    | some y => if f y < f x then some y else some x

/-- The set bits of a mask, lowest first. -/
def threadsOf (m : Word64) : List Nat := (List.range 64).filter fun t => m.getLsbD t

/-- The lowest set bit of a mask, 0 if there is none. -/
def lowestThread (m : Word64) : Nat := (threadsOf m).headD 0

/-- The mask of `n` threads. -/
def maskOf (n : Nat) : Word64 := BitVec.ofNat 64 (2 ^ n - 1)

def Cause.code : Cause → Nat
  | .encIllegal => 0x01 | .encReserved => 0x02 | .encUnsched => 0x03 | .brAlign => 0x04 | .regAllot => 0x05
  | .schedShort => 0x06 | .tableBound => 0x07 | .modeInvalid => 0x08
  | .addrXlate => 0x10 | .addrPerm => 0x11 | .addrAlign => 0x12 | .scratchBound => 0x13 | .swizzleMismatch => 0x14
  | .caStale => 0x18 | .caCollision => 0x19 | .caFull => 0x1A | .frameBound => 0x1B | .contFull => 0x1C
  | .watchdogSplit => 0x20 | .watchdogTeam => 0x21 | .brk => 0x28 | .trapi => 0x29 | .notice => 0x30
  | .memUncorr => 0x38

/-- The cause with a code; a code that is never raised (06 R131) has none. -/
def causeOf (n : Nat) : Option Cause :=
  [Cause.encIllegal, .encReserved, .encUnsched, .brAlign, .regAllot, .schedShort, .tableBound, .modeInvalid,
   .addrXlate, .addrPerm, .addrAlign, .scratchBound, .swizzleMismatch, .caStale, .caCollision, .caFull, .frameBound,
   .contFull, .watchdogSplit, .watchdogTeam, .brk, .trapi, .notice, .memUncorr].find? fun c => c.code == n

/-- Fates (06 R131): a fatal cause ends the context, a trap stops the split. -/
def Cause.fatal : Cause → Bool
  | .schedShort | .watchdogSplit | .watchdogTeam | .brk | .trapi | .notice => false
  | _ => true

end Sys2Proof.Machine
end

