-- ==== Sys2Proof/Machine/Memory.lean ====
section
/-!
DEFINITION. Where an address leads: the page walk (03 R63 to R68, R75), the on-chip window (07 R156 to R159),
team-local offsets (R160), physical memory with its errors and retired granules (01 R12 to R14, 07 R164), and reads and
writes through them. The state is read and written one byte at a time, so byte order is decided once, in `Base`.
-/

namespace Sys2Proof.Machine

open Sys2Proof

/-- What an access asks for (03 R66). -/
inductive Access where
  | read | write | both | fetch
  deriving DecidableEq, Repr

def Access.reads : Access → Bool | .read | .both => true | _ => false
def Access.writes : Access → Bool | .write | .both => true | _ => false

def hbmEnd : Nat := 0xA000000000
def guestBase : Nat := 0x000F000000000000

/-- Stack of an HBM address (07 R164): 2d + x[12]. -/
def stackOf (a : Nat) : Nat := 2 * (a / 0x2800000000) + a / 4096 % 2

/-- The 64 KiB granule of an address (01 R14). -/
def granuleOf (a : Nat) : Nat := a / 65536 * 65536

def State.granuleRetired (s : State) (a : Nat) : Bool := s.plant.retireList.any (·.1 == granuleOf a)

/-- A read of the byte completes as MEM_UNCORR (01 R12, R14): a bad sector, a retired granule, or a stack out of use. -/
def State.locBad (s : State) : Loc → Bool
  | .hbm a =>
    s.granuleRetired a || (s.stack (stackOf a)).bad.contains (a / 64) || (s.stack (stackOf a)).outOfUse
  | _ => false

/-- The byte at an HBM address is one that a repair copy moves (01 R13). -/
def RepairCopy.moves (a : Nat) (r : RepairCopy) : Bool :=
  match r with
  | .row bank n => Config.rowOf (a / 64) == (bank, n)
  | .granule g => granuleOf a == g

/-- The byte lies in a range whose repair copy is in progress, so the access waits (01 R13). -/
def State.locWaits (s : State) : Loc → Bool
  | .hbm a => (s.stack (stackOf a)).copying.any (RepairCopy.moves a)
  | _ => false

/-- The other stack of a die. -/
def otherStack (i : Nat) : Nat := if i % 2 = 0 then i + 1 else i - 1

/-- A stack whose repair copy has ended: the data that it moved was corrected, which its telemetry counts (01 R12, R13). -/
def Stack.repaired (k : Stack) (c : RepairCopy) : Stack :=
  let fixed := k.weak.filter fun x => c.moves (64 * x)
  { k with copying := none, weak := k.weak.filter (fun x => !c.moves (64 * x)), corrected := k.corrected + fixed.length }

/-- The repair copy of a stack ends: a granule's on both stacks of the die (01 R13). -/
def State.repairDone (s : State) (stack : Nat) : State :=
  let k := s.stack stack
  let o := s.stack (otherStack stack)
  match k.copying with
  | none => s
  | some (.row b r) => s.setStack stack (k.repaired (.row b r))
  | some (.granule g) =>
    let s := s.setStack stack (k.repaired (.granule g))
    if o.copying = some (.granule g) then s.setStack (otherStack stack) (o.repaired (.granule g)) else s

/-- Every repair copy ends. -/
def State.endCopies (s : State) : State := forAll State.repairDone s (s.hbm.map (·.1))

/-- What happens by itself at a moment of reference time. If it meets a range under repair, the copies end first: R13 gives a copy no
duration (DESIGN CHOICE, log 67). -/
def State.afterCopies (s : State) (f : State → State) : State :=
  let t := f { s with repairWait := false }
  if t.repairWait then f { s.endCopies with repairWait := false } else t

/-- The access that an event makes meets such a range, so that the event waits (`afterWait`). -/
def State.meetsCopy (s : State) (waits : Bool) : State := { s with repairWait := s.repairWait || waits }

/-! ### The page walk -/

/-- Level, shift and index bits of the tree (R63). -/
def walkLevels : List (Nat × Nat × Nat) := [(4, 48, 9), (3, 39, 9), (2, 30, 9), (1, 21, 9), (0, 16, 5)]

/-- Walks from a table: the address of the leaf entry, the entry, and its page size. -/
def walkFrom (s : State) (va : Nat) : List (Nat × Nat × Nat) → Nat → Except Cause (Nat × Word64 × Nat)
  | [], _ => .error .addrXlate
  | (lvl, sh, bits) :: rest, tab =>
    let ea := tab + 8 * (va / 2 ^ sh % 2 ^ bits)
    if (List.range 8).any fun i => s.locBad (.hbm (ea + i)) then .error .memUncorr
    else
      let e : Word64 := BitVec.ofNat 64 (readLe s.mem ea 8)
      if !e.getLsbD 0 then .error .addrXlate
      else if e.getLsbD 1 then
        if lvl ≥ 3 || (lvl == 2 && e.extractLsb' 16 14 != 0) || (lvl == 1 && e.extractLsb' 16 5 != 0) then
          .error .addrXlate
        else .ok (ea, e, 2 ^ sh)
      else
        let next := (e.extractLsb' 8 44).toNat * 256
        if (lvl != 1 && e.extractLsb' 8 4 != 0) || decide (hbmEnd ≤ next) then .error .addrXlate
        else walkFrom s va rest next

/-- Addresses of the table entries that a walk reads, as far as it gets. -/
def walkEntries (s : State) (va : Nat) : List (Nat × Nat × Nat) → Nat → List Nat
  | [], _ => []
  | (_, sh, bits) :: rest, tab =>
    let ea := tab + 8 * (va / 2 ^ sh % 2 ^ bits)
    let e : Word64 := BitVec.ofNat 64 (readLe s.mem ea 8)
    if ((List.range 8).any fun i => s.locBad (.hbm (ea + i))) || !e.getLsbD 0 || e.getLsbD 1 then [ea]
    else ea :: walkEntries s va rest ((e.extractLsb' 8 44).toNat * 256)

/-- Partition a context's function is bound to (03 R402). -/
def State.partOf (s : State) (ctx : Nat) : Nat := (s.func (ctxFn ctx)).part.getD 0

/-- Translates a virtual address outside the window: the first byte's place, and the leaf with its page
size. `lane` marks a per-lane or
uniform access of the memory chapter, which never reaches a peer (01 R20, 15 R324). -/
def State.translate (s : State) (ctx : Nat) (lane : Bool) (va : Nat) (k : Access) :
    Except Cause (Loc × Nat × Word64 × Nat) :=
  if decide (2 ^ 57 ≤ va) then .error .addrXlate
  else match s.ctx? ctx with
    | none => .error .addrXlate
    | some c =>
      match walkFrom s va walkLevels c.root.toNat with
      | .error e => .error e
      | .ok (ea, e, size) =>
        let base := (e.extractLsb' 16 36).toNat * 65536
        let pa := base + va % size
        let ix := (e.extractLsb' 56 8).toNat
        let host := e.getLsbD 53
        let dev := (tget s.parts (s.partOf ctx)).bind fun p => tget p.routes ix
        let perm := (!k.reads || e.getLsbD 3) && (!k.writes || e.getLsbD 4) && (k != .fetch || e.getLsbD 5)
        if ix != 0 && dev.isNone then .error .addrXlate
        else if !host && ix == 0 && decide (hbmEnd ≤ pa) then
          if decide (guestBase ≤ pa) && decide (pa < guestBase + 17 * 65536) then
            let f := (pa - guestBase) / 65536
            if k.writes || k == .fetch || f != ctxFn ctx || !perm then .error .addrPerm
            else .ok (.guest f (pa % 65536), ea, e, size)
          else .error .addrXlate
        else if !perm || (host && ix != 0) || (lane && ix != 0) then .error .addrPerm
        else if host then .ok (.host (s.plant.hostKey (ctxFn ctx) pa) (e.getLsbD 55), ea, e, size)
        else match dev with
          | some d => if ix != 0 then .ok (.peer d pa, ea, e, size) else .ok (.hbm pa, ea, e, size)
          | none => .ok (.hbm pa, ea, e, size)

/-- The same place, `i` bytes further on. -/
def Loc.plus : Loc → Nat → Loc
  | .hbm a, i => .hbm (a + i)
  | .host a p, i => .host (a + i) p
  | .peer d a, i => .peer d (a + i)
  | .guest f o, i => .guest f (o + i)
  | l, _ => l

/-! ### Teams, groups and what they hold -/

def State.launchOf (s : State) (t : Team) : Option Launch := tget s.launches t.launch

/-- Context of a team; its launch names it. -/
def State.teamCtx (s : State) (t : Team) : Nat := ((s.launchOf t).map (·.ctx)).getD 0

/-- Scratchpad bytes of a launch's team (04 R84). A group formed from records takes SCRATCH bytes (R93). -/
def Launch.scratchBytes (l : Launch) (formed : Bool) : Nat := if formed then l.kd.scratch else l.kd.scratch + l.scratchDyn

def State.teamScratch (s : State) (t : Team) : Nat := ((s.launchOf t).map (·.scratchBytes t.formed)).getD 0

/-- The resident team that holds slot `b` of core `c` (07 R156); a PAIR team holds one on each core. -/
def State.slotTeam (s : State) (c b : Nat) : Option (Nat × Team) :=
  s.teams.find? fun (_, t) => t.resident && ((t.core == c && t.slot == b) || (t.pair && t.core + 1 == c && t.slot2 == b))

/-- Resident granules at a level (05 R96). -/
def residentGranules (g lvl : Nat) : Nat :=
  match lvl with | 0 => g | 1 => (g + 1) / 2 | 2 => (g + 3) / 4 | _ => 1

/-- Resident scratchpad bytes at a level (R96): rounded up to 4 KiB, and the pinned 4 KiB at level 3. -/
def residentScratch (n lvl : Nat) : Nat :=
  match lvl with
  | 0 => n
  | 1 => ((n + 1) / 2 + 4095) / 4096 * 4096
  | 2 => ((n + 3) / 4 + 4095) / 4096 * 4096
  | _ => 4096

/-- A group at a register level, with `extra` granules beyond it: those that stay resident are the most recently accessed ones (05
R102). R102 gives them no order among themselves: they are laid out in ascending number (DESIGN CHOICE, log 66). -/
def Group.setLevel (g : Group) (lvl : Nat) (extra : Nat := 0) : Group :=
  let order := g.recency ++ (List.range g.vgran).filter fun x => !g.recency.contains x
  let kept := order.take (residentGranules g.vgran lvl + extra)
  { g with glevel := lvl, extra := extra, hot := (List.range g.vgran).filter kept.contains }

/-- Granules that a group holds resident. -/
def Group.granules (g : Group) : Nat := residentGranules g.vgran g.glevel + g.extra

/-- The group accesses a granule. When four accesses to the same spilled granule fall within 256 issues, it changes places
with the least recently used resident granule: each takes the other's place (05 R102). -/
def Group.touch (g : Group) (x : Nat) : Group :=
  let recency := x :: g.recency.filter (· != x)
  if g.hot.contains x then { g with recency := recency }
  else
    let ms := (x, g.retired) :: g.misses.filter fun m => decide (g.retired < m.2 + 256)
    if (ms.filter fun m => m.1 == x).length < 4 then { g with recency := recency, misses := ms }
    else
      let never := g.hot.find? fun y => !g.recency.contains y
      let victim := never.orElse fun _ => (g.recency.filter g.hot.contains).getLast?
      let hot := g.hot.map fun y => if some y == victim then x else y
      { g with recency := recency, hot := hot, misses := ms.filter fun m => m.1 != x }

/-- Register-pool bytes a group holds resident. -/
def Group.poolBytes (g : Group) : Nat := g.granules * 32 * g.width

/-! ### The on-chip window -/

def windowBase : Nat := 0x00FE000000000000

/-- Physical view of a register-pool byte: the group of the quarter that holds it resident now. R102 orders the groups of a team; in the run
of one group its resident granules lie in the order of `Group.hot` (DESIGN CHOICE, log 66). -/
def State.poolByte (s : State) (c q o : Nat) : Option (Nat × Group × Loc) :=
  (s.groups.filterMap fun (key, g) =>
    if key / 64 == c && quarterOf (key % 64) == q && g.base ≤ o && o < g.base + g.poolBytes then
      let gb := 32 * g.width
      match g.hot[(o - g.base) / gb]? with
      | some gran =>
        let r := (o - g.base) % gb
        some (key, g, Loc.vreg key (8 * gran + r / (4 * g.width)) (r % (4 * g.width) / 4) (r % 4))
      | none => none
    else none).head?

/-- Physical view of a scratchpad byte: the team that holds its 1 KiB block. -/
def State.scratchByte (s : State) (c o : Nat) : Option (Nat × Team × Nat) :=
  (s.teams.filterMap fun (id, t) =>
    if t.resident && (t.core == c || (t.pair && t.core + 1 == c)) then
      (t.smap.find? fun (blk, phys) => phys == o / 1024 && (t.core + (if t.pair then blk / 512 else 0)) == c).map
        fun (blk, _) => (id, t, blk * 1024 + o % 1024)
    else none).head?

/-- One byte of the window (R156 to R159). -/
def State.windowLoc (s : State) (ctx va : Nat) (k : Access) : Except Cause Loc :=
  let off := va - windowBase
  let c := off / 0x1000000
  let o := off % 0x1000000
  let own (t : Team) (l : Loc) : Except Cause Loc := if s.teamCtx t == ctx then .ok l else .error .addrPerm
  let perm : Except Cause Loc := .error .addrPerm
  if decide (160 ≤ c) then .error .addrXlate
  else if k == .fetch then perm
  else if o < 0x080000 then
    match s.scratchByte c o with | some (id, t, x) => own t (.scratch id x) | none => perm
  else if o < 0x100000 then .error .addrXlate
  else if o < 0x140000 then
    match s.poolByte c ((o - 0x100000) / 0x10000) (o % 0x10000) with
    | some (_, g, l) => match tget s.teams g.team with | some t => own t l | none => perm
    | none => perm
  else if o < 0x180000 then .error .addrXlate
  else if o < 0x1A0000 then
    match (s.core c).owner.bind fun i => (tget s.teams i).map fun t => (i, t) with
    | some (i, t) => own t (.tile i ((c - t.core) * 0x20000 + (o - 0x180000)))
    | none => perm
  else if o < 0x200000 then .error .addrXlate
  else if o < 0x280000 then
    match (s.core c).owner.bind fun i => (tget s.teams i).map fun t => (i, t) with
    | some (i, t) => own t (.acc i ((c - t.core) * 0x80000 + (o - 0x200000)))
    | none => perm
  else if o < 0x300000 then .error .addrXlate
  else if o < 0x308000 then
    match s.slotTeam c ((o - 0x300000) / 0x1000) with | some (id, t) => own t (.barrier id (o % 0x1000)) | none => perm
  else if o < 0x309000 then
    if k.writes then perm else .ok (.status c (o - 0x308000))
  else if o < 0x400000 then .error .addrXlate
  else if o < 0x800000 then
    let e := (o - 0x400000) / 0x10000
    match s.group? c e with
    | some g =>
      let r := o % 0x10000
      match tget s.teams g.team with
      | some t =>
        if s.teamCtx t != ctx || decide (32 * g.width * g.vgran ≤ r) then perm
        else .ok (.vreg (c * 64 + e) (r / (4 * g.width)) (r % (4 * g.width) / 4) (r % 4))
      | none => perm
    | none => perm
  else
    match s.slotTeam c ((o - 0x800000) / 0x100000) with
    | some (id, t) =>
      if s.teamCtx t != ctx then perm
      else if decide (s.teamScratch t ≤ o % 0x100000) then .error .scratchBound
      else .ok (.scratch id (o % 0x100000))
    | none => perm

/-- The address lies in level-4 index 0x0FE, which is never walked (R63). -/
def inWindow (va : Nat) : Bool := va / 2 ^ 48 == 0xFE

def collect {α β : Type} (f : α → Except Cause β) : List α → Except Cause (List β)
  | [] => .ok []
  | x :: r => match f x with
    | .error e => .error e
    | .ok y => (collect f r).map (y :: ·)

/-- Addresses of the table entries that the walk of an address reads, as far as it gets. -/
def State.entriesOf (s : State) (ctx va : Nat) : List Nat :=
  if inWindow va || decide (2 ^ 57 ≤ va) then []
  else match s.ctx? ctx with
    | some c => walkEntries s va walkLevels c.root.toNat
    | none => []

/-- The table entry at which the walk of an address waits for a repair copy (01 R13), whatever the entry holds. -/
def State.walkStall (s : State) (ctx va : Nat) : Option Nat := (s.entriesOf ctx va).find? fun ea => s.locWaits (.hbm ea)

/-- Resolves an access of `n` bytes at `va`, which must not cross a 64 KiB page outside the window (R324, check 2). One whose walk waits
stands at the entry it waits for, so that the access waits (`accWaits`). -/
def State.resolve (s : State) (ctx die : Nat) (lane : Bool) (va n : Nat) (k : Access) : Except Cause Acc :=
  if inWindow va then
    match collect (fun i => s.windowLoc ctx (va + i) k) (List.range n) with
    | .error e => .error e
    | .ok ls => .ok { ctx := ctx, die := die, locs := ls, leaf := none, va := va }
  else match s.walkStall ctx va with
    | some ea => .ok { ctx := ctx, die := die, locs := List.replicate n (.hbm ea), leaf := none, va := va }
    | none => match s.translate ctx lane va k with
      | .error e => .error e
      | .ok (l, ea, e, size) =>
        .ok { ctx := ctx, die := die, locs := (List.range n).map l.plus, leaf := some (ea, e, size), va := va }

/-! ### Late results (15 R331) -/

/-- A late instruction has the destination. -/
def lateTo (d : Dest) (l : List Pending) : Bool := l.any fun p => p.dests.contains d

/-- The destination is one of a late instruction that is not covered: what it holds is undefined (15 R331). -/
def Group.awaits (g : Group) (d : Dest) : Bool := lateTo d g.pending || lateTo d g.done

/-- Late instructions, of which something else has written a destination. -/
def clobberAll (d : Dest) (l : List Pending) : List Pending :=
  l.map fun p => if p.dests.contains d then { p with clobbered := d :: p.clobbered } else p

/-- A write to a destination of a late instruction that is not covered leaves an undefined value once both are done (15 R331). -/
def Group.clobber (g : Group) (d : Dest) : Group :=
  if g.awaits d then { g with pending := clobberAll d g.pending, done := clobberAll d g.done } else g

/-! ### Reading and writing one byte -/

/-- The status page (07 R159), byte `off`, as a context sees it. -/
def State.statusByte (s : State) (ctx c off : Nat) : Byte :=
  match s.slotTeam c (off / 512) with
  | none => 0
  | some (id, t) =>
    if s.teamCtx t != ctx then 0
    else
      let o := off % 512
      let num (base v : Nat) : Byte := BitVec.ofNat 8 (v / 256 ^ (o - base))
      if o < 4 then num 0 t.index
      else if o < 8 then num 4 ctx
      else if o < 16 then num 8 (((s.launchOf t).map (·.kdAddr.toNat)).getD 0)
      else if o = 16 then BitVec.ofNat 8 (1 + (if (s.core c).owner == some id then 2 else 0) + (if t.pair then 4 else 0))
      else if 128 ≤ o ∧ o < 256 then
        match s.groups.find? fun (key, g) => key / 64 == c && g.team == id && g.index == o - 128 with
        | some (key, _) => BitVec.ofNat 8 (key % 64)
        | none => 0xFF
      else 0

/-- Byte `i` of a word. -/
def byteOf {w : Nat} (x : BitVec w) (i : Nat) : Byte := x.extractLsb' (8 * i) 8

/-- `x` with byte `i` replaced. -/
def withByte (x : Word32) (i : Nat) (b : Byte) : Word32 :=
  (x &&& ~~~(BitVec.ofNat 32 (255 * 2 ^ (8 * i)))) ||| (b.setWidth 32 <<< (8 * i))

/-- Tile register and accumulator that a matrix operation uses. -/
def MatKind.tile : MatKind → Option Nat
  | .tld t | .shape t _ _ | .mma _ _ t | .mmap _ _ t => some t
  | _ => none

def MatKind.acc : MatKind → Option Nat
  | .accz a | .mma _ a _ | .mmap _ a _ | .accrd a => some a
  | _ => none

def MatKind.paired : MatKind → Bool | .mmap .. => true | _ => false

/-- An operation of the team whose mwait has not come uses the register of byte `i` of its tile bytes, or with `acc`
of its accumulator bytes (07 R155). -/
def MatOp.uses (team : Nat) (t : Team) (acc : Bool) (i : Nat) (m : MatOp) : Bool :=
  m.team == team &&
  if acc then m.kind.acc == some (i % 0x80000 / 0x10000) && (m.kind.paired || m.core == t.core + i / 0x80000)
  else m.kind.tile == some (i % 0x20000 / 0x4000) && m.core == t.core + i / 0x20000

def State.matBusy (s : State) (team : Nat) (acc : Bool) (i : Nat) : Bool :=
  match tget s.teams team with
  | some t => s.mats.any (MatOp.uses team t acc i)
  | none => false

/-- A write to a register that such operations use spoils their results (07 R155). -/
def State.spoil (s : State) (team : Nat) (acc : Bool) (i : Nat) : State :=
  match tget s.teams team with
  | some t => { s with mats := s.mats.map fun m => if m.uses team t acc i then { m with spoiled := true } else m }
  | none => s

/-- A byte of host memory as the device sees it, through whichever leaf: the latest uncovered write of it, else memory (02 R46; 08
R177). -/
def State.hostByte (s : State) (a : Nat) : Byte :=
  match s.pubPending.reverse.find? fun w => w.addr == a with
  | some w => w.val
  | none => readCell s.hostMem a

/-- A byte that a store leaves in a tile register: of the descriptor's last byte bit 0 alone, and nothing behind it. Reserved bits read as zero
(00 R5; 16 R356). -/
def tileByte (i : Nat) (b : Byte) : Byte :=
  let o := i % 0x4000
  if 16331 ≤ o then 0 else if o = 16330 then b &&& 1 else b

/-- Number of the tile register of a tile byte of a team, if the byte is one of its descriptor (16 R356). -/
def descTile (i : Nat) : List Nat := if 16320 ≤ i % 0x4000 then [i / 0x4000] else []

def State.getByte (s : State) (ctx : Nat) : Loc → Byte
  | .hbm a => readCell s.mem a
  | .host a _ => s.hostByte a
  | .peer d a => ((tget s.peers d).map fun p => readCell p.mem a).getD 0
  | .guest f o => if (s.func f).gcntEnable && decide (o < 32) then byteOf (atD (s.func f).gcnt (o / 8) 0) (o % 8) else 0
  | .scratch t o => ((tget s.teams t).map fun x => readCell x.scratch o).getD 0
  | .barrier t o => ((tget s.teams t).map fun x => readCell x.barrier o).getD 0
  | .vreg key v t i => match tget s.groups key with
    | some g =>
      if g.awaits (.v v t) then Config.freeValue 8 ((key + 1) * 2 ^ 200 + s.freeCtr * 2 ^ 24 + 0xC00000 + (v * 64 + t) * 4 + i)
      else byteOf (readCell g.v (v * 64 + t)) i
    | none => 0
  | .tile t i =>
    if s.matBusy t false i then tileByte i (Config.freeValue 8 (s.freeCtr * 2 ^ 24 + 0x200000 + i))
    else ((tget s.teams t).map fun x => readCell x.tiles i).getD 0
  | .acc t i =>
    if s.matBusy t true i then Config.freeValue 8 (s.freeCtr * 2 ^ 24 + 0x100000 + i)
    else ((tget s.teams t).map fun x => readCell x.accs i).getD 0
  | .status c o => s.statusByte ctx c o

/-- Changes a team, if there is one. -/
def State.modTeam (s : State) (id : Nat) (f : Team → Team) : State :=
  match tget s.teams id with
  | some t => s.setTeam id (f t)
  | none => s

/-- Writes one byte. A write to a retired granule is discarded (01 R14). A write to a host-published page waits for a publication (02
R46); one to another host page comes after every uncovered write of the byte (08 R177), so those have no effect any more. -/
def State.putByte (s : State) (ctx q : Nat) (l : Loc) (b : Byte) : State :=
  match l with
  | .hbm a => if s.granuleRetired a then s else { s with mem := writeCell s.mem a b }
  | .host a p =>
    if p then { s with pubPending := s.pubPending ++ [{ ctx := ctx, q := q, addr := a, val := b }] }
    else { s with hostMem := writeCell s.hostMem a b, pubPending := s.pubPending.filter fun w => w.addr != a }
  | .peer d a =>
    match tget s.peers d with
    | some p => { s with peers := tset s.peers d { p with mem := writeCell p.mem a b } }
    | none => s
  | .guest _ _ | .status _ _ => s
  | .scratch t o => s.modTeam t fun x => { x with scratch := writeCell x.scratch o b }
  | .barrier t o => s.modTeam t fun x => { x with barrier := writeCell x.barrier o b }
  | .vreg key v t i =>
    match tget s.groups key with
    | some g =>
      let x := withByte (readCell g.v (v * 64 + t)) i b
      { s with groups := tset s.groups key { g.clobber (.v v t) with v := writeCell g.v (v * 64 + t) x } }
    | none => s
  | .tile t i =>
    let busy := s.matBusy t false i
    let x := if busy then Config.freeValue 8 (s.freeCtr * 2 ^ 24 + 0x300000 + i) else b
    (s.spoil t false i).modTeam t fun y => { y with
      tiles := writeCell y.tiles i (tileByte i x), badTiles := if busy then (descTile i ++ y.badTiles).eraseDups else y.badTiles }
  | .acc t i =>
    let x := if s.matBusy t true i then Config.freeValue 8 (s.freeCtr * 2 ^ 24 + 0x900000 + i) else b
    (s.spoil t true i).modTeam t fun y => { y with accs := writeCell y.accs i x }

/-! ### Barrier words -/

/-- The 8-byte word of a team at a team-local offset (07 R160): the barrier page from 0x10_0000, else scratchpad. -/
def Team.word (t : Team) (off : Nat) : Word64 :=
  BitVec.ofNat 64 (if 0x100000 ≤ off then readLe t.barrier (off - 0x100000) 8 else readLe t.scratch off 8)

def Team.setWord (t : Team) (off : Nat) (w : Word64) : Team :=
  if 0x100000 ≤ off then { t with barrier := writeLe t.barrier (off - 0x100000) 8 w.toNat }
  else { t with scratch := writeLe t.scratch off 8 w.toNat }

def bwPhase (w : Word64) : Bool := w.getLsbD 62
def bwInit (w : Word64) : Byte := w.extractLsb' 48 8
def bwLeft (w : Word64) : Byte := w.extractLsb' 40 8
def bwBytes (w : Word64) : BitVec 40 := w.extractLsb' 0 40
def bwWithLeft (w : Word64) (n : Byte) : Word64 := w.extractLsb' 48 16 ++ n ++ w.extractLsb' 0 40
def bwWithBytes (w : Word64) (n : BitVec 40) : Word64 := w.extractLsb' 40 24 ++ n

/-- Complete? of 15 R339: with no arrivals and no bytes outstanding the phase toggles and the arrivals start again. A
word whose ARR_INIT is 0 never completes (07 R163). -/
def bwCompletes (w : Word64) : Bool := bwLeft w == 0 && bwBytes w == 0 && bwInit w != 0

def bwNextPhase (w : Word64) : Word64 := bwWithLeft (w ^^^ (1#64 <<< 62)) (bwInit w)

/-- The word a split executes after the word at `a` (13 R274). -/
def nextPc (a : Word64) : Word64 := if a.extractLsb' 2 3 = 7 then a + 8 else a + 4

/-- Wakes a split parked on the word in the old phase, at the instruction after its barrier instruction (06 R127). A split
whose group has not arrived yet waits in no phase (the model's reading, notes/assumptions 48). -/
def wakeSplit (off : Nat) (old : Bool) (sp : Split) : Split :=
  match sp.park with
  | some (.barrier o ph arriving _) =>
    if o = off && ph == old && !arriving then { sp with park := none, pc := nextPc sp.pc, parkedNs := 0 } else sp
  | _ => sp

def State.wakeTeam (s : State) (team off : Nat) (old : Bool) : State :=
  { s with groups := tmap s.groups fun _ g =>
      if g.team = team then { g with splits := g.splits.map (wakeSplit off old) } else g }

/-- Applies an update of a barrier word at the core's synchronisation engine, and completes the phase if it ends it. -/
def State.updateWord (s : State) (team off : Nat) (f : Word64 → Word64) : State :=
  match tget s.teams team with
  | none => s
  | some t =>
    let w := f (t.word off)
    if bwCompletes w then (s.setTeam team (t.setWord off (bwNextPhase w))).wakeTeam team off (bwPhase w)
    else s.setTeam team (t.setWord off w)

/-- Team-local words that a window access touches, if a bari has set them up (07 R173). -/
def State.barrierTouched (s : State) (ls : List Loc) : List (Nat × Nat) :=
  (ls.filterMap fun l => match l with
    | .barrier t o => some (t, 0x100000 + o / 8 * 8)
    | .scratch t o => some (t, o / 8 * 8)
    | _ => none).eraseDups.filter fun (t, o) => ((tget s.teams t).map fun x => x.barWords.contains o).getD false

/-! ### Accesses -/

/-- Changes a context record, if it is there. -/
def State.modCtx (s : State) (c : Nat) (f : Context → Context) : State :=
  match tget s.ctxs c with
  | some x => s.setCtx c (f x)
  | none => s

/-- The counters saturate at 2^64 - 1 (03 R72). -/
def satAdd (a b : Nat) : Nat := min (a + b) (2 ^ 64 - 1)

/-- Adds to the true shared-resource counts of a partition (03 R75); HBM and fabric bytes count in its bandwidth window too
(R60). -/
def State.addCount (s : State) (part i n : Nat) : State :=
  match tget s.parts part with
  | some p => { s with parts := tset s.parts part { p with
      counts := setAt p.counts i (atD p.counts i 0 + n),
      windowBytes := p.windowBytes + if i = 1 || i = 2 then n else 0 } }
  | none => s

/-- The 64-byte sector of HBM or host memory that a byte lies in; host sectors are numbered above those of HBM. -/
def Loc.sector : Loc → Option Nat
  | .hbm a => some (a / 64)
  | .host a _ => some (2 ^ 60 + a / 64)
  | _ => none

/-- Sectors that an access touches. -/
def Acc.sectors (a : Acc) : List Nat := (a.locs.filterMap Loc.sector).eraseDups

/-- The die whose port carries a 256-byte flit to a byte of a peer (01 R20, R22): of the ports that are up to that peer, the spec does not
say which carries it (R23; notes/assumptions 56). -/
def State.portDie (s : State) (dev a : Nat) : Option Nat :=
  let up := ((tget s.peers dev).map fun p => p.ports.filter fun i => atD s.plant.portUp i false).getD []
  (up[Config.flitPort (a / 256) % up.length]?).map (· / 4)

/-- Die that a byte lies on, or whose host link or peer port leads to it (01 R18, R20, 07 R156). -/
def State.locDie (s : State) : Loc → Option Nat
  | .hbm a => some (a / 0x2800000000)
  | .host a _ => some (s.plant.hostDie a)
  | .peer d a => s.portDie d a
  | .scratch t _ | .barrier t _ | .tile t _ | .acc t _ => (tget s.teams t).map fun x => dieOf x.core
  | .vreg key _ _ _ => some (dieOf (key / 64))
  | .status c _ => some (dieOf c)
  | _ => none

/-- A team with its stay on its cores. A team that has come back lies elsewhere, its groups in other entries. -/
def State.stayOf (s : State) (t : Nat) : Option (Nat × Nat) := (tget s.teams t).map fun x => (t, x.stay)

/-- The team whose on-chip state a byte belongs to, with its stay. -/
def State.locHolder (s : State) : Loc → Option (Nat × Nat)
  | .scratch t _ | .barrier t _ | .tile t _ | .acc t _ => s.stayOf t
  | .vreg key _ _ _ => (tget s.groups key).bind fun g => s.stayOf g.team
  | _ => none

/-- Where a window byte leads an agent of the device that began when the teams `into` held what it reaches; nowhere once the team or
group that held it has left (07 R157). -/
def State.windowStill (s : State) (ctx : Nat) (into : List (Nat × Nat)) (a : Nat) (k : Access) : Option Loc :=
  match s.windowLoc ctx a k with
  | .ok l => if (s.locHolder l).all into.contains then some l else none
  | .error _ => none

/-- Home slice of an HBM address for a partition (07 R164): of the slices of the address's die that L2_MASK names, or of all
16 if it names none. A write is at its point of coherence once this slice has it (R165), which here is at once, so no line
is ever held back in a slice that a new L2_MASK takes away. -/
def State.homeSlice (s : State) (part a : Nat) : Nat :=
  let x := a % 0x2800000000
  let all := (List.range 16).map (16 * (a / 0x2800000000) + ·)
  let mine := all.filter fun i => ((tget s.parts part).map fun p => p.slices.getLsbD i).getD false
  let l := if mine.isEmpty then all else mine
  atD l (x % 2 ^ 32 / 256 % l.length) 0

/-- Bytes of an access for the partition's counters: its sectors that are not charged yet, or the bytes of the window. -/
def Acc.bytes (a : Acc) : Nat :=
  if a.sectors.isEmpty then a.locs.length else 64 * (a.sectors.filter fun x => !a.seen.contains x).length

/-- A host byte is one byte through whichever leaf (08 R177). -/
def Loc.bare : Loc → Loc
  | .host x _ => .host x false
  | l => l

/-- Two accesses touch a common byte. -/
def Acc.meets (a b : Acc) : Bool := a.locs.any fun l => b.locs.any fun k => l.bare == k.bare

def Acc.isMem (a : Acc) : Bool := !a.sectors.isEmpty

/-- The part of an access that crosses the Solder fabric: its bytes whose die is another than the requester's. -/
def State.farPart (s : State) (a : Acc) : Acc := { a with locs := a.locs.filter fun l => (s.locDie l).any (· != a.die) }

/-- Charges a context for `n` bytes of HBM, of which `far` cross the Solder fabric: to its Sterling record (03 R72) and to its partition
(R60, R75). -/
def State.chargeHbm (s : State) (ctx n far : Nat) : State :=
  let p := s.partOf ctx
  let s := s.modCtx ctx fun c => { c with sterling := { c.sterling with memBytes := satAdd c.sterling.memBytes n } }
  let s := s.addCount p 1 n
  if far = 0 then s else s.addCount p 2 far

/-- Charges an access to memory: 64-byte sectors of HBM or host memory to the Sterling record (03 R72), HBM bytes and the
bytes that cross the Solder fabric or go to or from a peer to the partition (R60, R75). The entries that a page walk reads are not
charged, which R72 leaves open (notes/assumptions 45). -/
def State.charge (s : State) (a : Acc) : State :=
  match a.locs.head? with
  | none => s
  | some l =>
    let n := a.bytes
    let p := s.partOf a.ctx
    let s1 := if a.isMem then
        s.modCtx a.ctx fun c => { c with sterling := { c.sterling with memBytes := satAdd c.sterling.memBytes n } }
      else s
    let s2 := match l with | .hbm _ => s1.addCount p 1 n | .peer _ _ => s1.addCount p 3 n | _ => s1
    let far := s.farPart a
    if far.locs.isEmpty then s2 else s2.addCount p 2 far.bytes

/-- Sets A, and D on a write, in the leaf that was walked (03 R68), unless its granule has been retired since (01 R14). -/
def State.touchLeaf (s : State) (a : Acc) (write : Bool) : State :=
  match a.leaf with
  | none => s
  | some (ea, _, _) =>
    let e := readCell s.mem ea
    let e' := e ||| 0x80#8 ||| (if write then 0x40#8 else 0#8)
    if e' = e || s.granuleRetired ea then s else { s with mem := writeCell s.mem ea e' }

/-- Counts one access to a 64 KiB or 2 MiB leaf, by requesting die, if its partition migrates pages (03 R69). -/
def State.hotCount (s : State) (a : Acc) : State :=
  match a.leaf, a.locs.head? with
  | some (ea, _, size), some (.hbm x) =>
    if ((tget s.parts (s.partOf a.ctx)).map (·.migrate)).getD false && decide (size ≤ 0x200000) then
      let d := s.die (x / 0x2800000000)
      let hit (r : HotCount) : Bool := r.leaf == ea && r.die == a.die
      let cs := if d.hotCounts.any hit then d.hotCounts.map fun r => if hit r then { r with count := r.count + 1 } else r
        else d.hotCounts ++ [{ ctx := a.ctx, leaf := ea, size := size, die := a.die, count := 1 }]
      s.setDie (x / 0x2800000000) { d with hotCounts := cs }
    else s
  | _, _ => s

/-- Some byte of the access cannot be read (01 R12, R14). -/
def State.accBad (s : State) (a : Acc) : Bool := a.locs.any s.locBad

/-- The bytes an access reads, in ascending address. -/
def State.peek (s : State) (a : Acc) : List Byte := a.locs.map (s.getByte a.ctx)

/-- Reads of sectors: each with one bad symbol is corrected and counted in its stack (01 R12). -/
def State.countCorrected (s : State) (sectors : List Nat) : State :=
  let one (s : State) (x : Nat) : State :=
    let k := s.stack (stackOf (64 * x))
    if k.weak.contains x then s.setStack (stackOf (64 * x)) { k with corrected := k.corrected + 1 } else s
  forAll one s sectors

/-- Sectors of the table entries that the walk of an access read. -/
def State.walked (s : State) (a : Acc) : List Nat := if a.leaf.isSome then (s.entriesOf a.ctx a.va).map (· / 64) else []

/-- Some byte of the access, or of a table entry of its walk, would wait for a repair copy (01 R13). -/
def State.accWaits (s : State) (a : Acc) : Bool := a.locs.any s.locWaits || (s.walked a).any fun x => s.locWaits (.hbm (64 * x))

/-- The corrections of a read. -/
def State.countWeak (s : State) (a : Acc) : State := s.countCorrected a.sectors

/-- The corrections of the walk of an access. -/
def State.countWalk (s : State) (a : Acc) : State := s.countCorrected (s.walked a)

/-- A read of an HBM byte that completes as MEM_UNCORR counts in its stack's telemetry (01 R30). -/
def State.countBad (s : State) (a : Nat) : State :=
  let k := s.stack (stackOf a)
  s.setStack (stackOf a) { k with uncorr := k.uncorr + 1 }

/-- HBM address of the byte at which a read or fetch at a virtual address meets MEM_UNCORR: in a table entry of the walk, else in the
data. -/
def State.badAt (s : State) (ctx va n : Nat) : Option Nat :=
  let entries := (s.entriesOf ctx va).flatMap fun ea => (List.range 8).map (ea + ·)
  let data := match (s.ctx? ctx).map fun c => walkFrom s va walkLevels c.root.toNat with
    | some (.ok (_, e, size)) =>
      if e.getLsbD 53 || e.extractLsb' 56 8 != 0 then []
      else (List.range n).map ((e.extractLsb' 16 36).toNat * 65536 + va % size + ·)
    | _ => []
  (entries ++ data).find? fun a => s.locBad (.hbm a)

/-- Counts a read of a context that completed as MEM_UNCORR. -/
def State.countUncorrAt (s : State) (ctx va n : Nat) : State :=
  match s.badAt ctx va n with
  | some a => s.countBad a
  | none => s

/-- What an access that fails with a cause counts: the corrections of its walk, as far as it got (01 R12), and a read that completed as
MEM_UNCORR (R30). With no bytes to read it is a write. -/
def State.countFailed (s : State) (ctx va n : Nat) (c : Cause) : State :=
  let fine := ((s.entriesOf ctx va).filter fun ea => !s.locBad (.hbm ea)).map (· / 64)
  match c with
  | .memUncorr => (s.countCorrected fine).countUncorrAt ctx va n
  | .addrXlate | .addrPerm => s.countCorrected fine
  | _ => s

/-- Host addresses of the bytes of an access. -/
def Acc.hostAddrs (a : Acc) : List Nat := a.locs.filterMap fun l => match l with | .host x _ => some x | _ => none

/-- Makes the uncovered writes that satisfy `p` visible in host memory, in order (02 R46). -/
def State.flushWhere (s : State) (p : PubWrite → Bool) : State :=
  { s with
    hostMem := (s.pubPending.filter p).foldl (fun m w => writeCell m w.addr w.val) s.hostMem,
    pubPending := s.pubPending.filter fun w => !p w }

/-- Makes every uncovered write of the queues that made one of those which satisfy `p` visible: a write is whole (08 R176), and those of a
queue keep their order. -/
def State.flushQueues (s : State) (p : PubWrite → Bool) : State :=
  let hit := s.pubPending.filter p
  s.flushWhere fun w => hit.any fun x => x.ctx == w.ctx && x.q == w.q

/-- The access comes after uncovered writes that the work of other queues has made to its bytes. They become visible, which they may at
any time (02 R46), so that no reset of those queues takes back what has been observed (08 R177). -/
def State.settleOthers (s : State) (a : Acc) : State :=
  s.flushQueues fun w => a.hostAddrs.contains w.addr && !(w.ctx == a.ctx && w.q == a.q)

/-- What an access counts and sets in its leaf, whatever it does there (01 R12; 03 R68, R69, R72). -/
def State.noteAccess (s : State) (a : Acc) (write : Bool) : State :=
  (((((s.settleOthers a).touchLeaf a write).charge a).hotCount a)).countWalk a

/-- The state after an access has read. -/
def State.afterRead (s : State) (a : Acc) : State := (s.noteAccess a false).countWeak a

def putBytes (ctx q : Nat) : State → List Loc → List Byte → State
  | s, l :: ls, b :: bs => putBytes ctx q (s.putByte ctx q l b) ls bs
  | s, _, _ => s

/-- Writes bytes through an access that passed its checks. A window store to a barrier word is applied at the
synchronisation engine and may complete a phase (07 R173). -/
def State.poke (s : State) (a : Acc) (bs : List Byte) : State :=
  let s1 := putBytes a.ctx a.q (s.noteAccess a true) a.locs bs
  forAll (fun s (t, o) => s.updateWord t o id) s1 (s1.barrierTouched a.locs)

/-- Reads `n` bytes at a virtual address as the front end or an engine does. An access to a range under repair makes the event wait. -/
def State.loadVa (s : State) (ctx die : Nat) (lane : Bool) (va n : Nat) : Except Cause (List Byte × State) :=
  match s.resolve ctx die lane va n .read with
  | .error e => .error e
  | .ok a =>
    if s.accWaits a then .ok (s.peek a, s.meetsCopy true)
    else if s.accBad a then .error .memUncorr else .ok (s.peek a, s.afterRead a)

/-- A port to the peer is up (01 R23), and, for a write, the page is pinned there (R21). -/
def State.peerCheck (s : State) (l : Loc) (write : Bool) : Option Cause :=
  match l with
  | .peer d a =>
    let p := tget s.peers d
    if !(p.map fun p => p.ports.any fun i => atD s.plant.portUp i false).getD false then some .addrXlate
    else if write && !(p.map fun p => p.pinned.contains (a / 65536)).getD false then some .addrPerm
    else none
  | _ => none

/-- What refuses an access because of the peer that it reaches. -/
def State.peerRefuses (s : State) (a : Acc) (write : Bool) : Option Cause := a.locs.head?.bind fun l => s.peerCheck l write

/-- Writes bytes at a virtual address as the front end or an engine does. -/
def State.storeVa (s : State) (ctx die : Nat) (va : Nat) (bs : List Byte) : Except Cause State :=
  match s.resolve ctx die false va bs.length .write with
  | .error e => .error e
  | .ok a => match s.peerRefuses a true with
    | some e => .error e
    | none => .ok (if s.accWaits a then s.meetsCopy true else s.poke a bs)

end Sys2Proof.Machine
end

