-- ==== Sys2Proof/Machine/Records.lean ====
section
/-!
DEFINITION. What the device tells software: event-queue records (02 R53 to R55), mailbox events (01 R16, 02 R400), the
control block's HEAD and QSTATUS (02 R33, R49), and the life of a context (02 R51, R52; 03 R74).
-/

namespace Sys2Proof.Machine

open Sys2Proof

def State.now (s : State) : Word64 := BitVec.ofNat 64 s.refTime

/-- Raises an MSI-X vector of a function (02 R54). -/
def State.msix (s : State) (fn vec : Nat) : State := { s with plant := { s.plant with msix := s.plant.msix ++ [(fn, vec)] } }

/-- What an event-queue record says (02 R53); `core` is 0xFF where it does not apply. DIE of a record that no core raised is 0, which R53
leaves open (notes/assumptions 54). -/
structure Record where
  kind : Nat
  cause : Nat
  die : Nat := 0
  core : Nat := 0xFF
  fn : Nat := 0
  queue : Nat := 0
  tag : Word32 := 0
  packet : Word32 := 0
  addr : Word64 := 0
  pc : Word64 := 0
  team : Nat := 0
  group : Nat := 0
  split : Nat := 0
  deriving DecidableEq, Repr

def Record.bytes (r : Record) (time : Nat) : List Byte :=
  natBytes 1 r.kind ++ natBytes 1 r.cause ++ natBytes 1 r.die ++ natBytes 1 r.core ++
  natBytes 4 (r.fn * 65536 + r.queue) ++ natBytes 4 r.tag.toNat ++ natBytes 4 r.packet.toNat ++
  natBytes 8 r.addr.toNat ++ natBytes 8 r.pc.toNat ++ natBytes 4 r.team ++ natBytes 2 r.group ++
  natBytes 1 r.split ++ natBytes 1 0 ++ natBytes 8 time ++ natBytes 16 0

/-- A ring of `2^n` records is full: an RDIDX ahead of WRIDX, or too far behind, counts as full (02 R53). -/
def ringFull (wr rd : BitVec 31) (log : Nat) : Bool := decide (2 ^ log ≤ (wr - rd).toNat)

/-- Marks a context's event queue as having overflowed, and sets WRIDX[31] if WRIDX can be written: where it cannot be read, the
count is the one that the device wrote last. -/
def State.evqDrop (s : State) (c : Nat) (x : Context) : State :=
  let s := s.modCtx c fun x => { x with evOverflow := true }
  let w := x.evqBase.toNat + 64 * 2 ^ x.evqLog
  let (count, s1) := match s.loadVa c 0 false w 4 with
    | .error e => (x.evWr.toNat, s.countFailed c w 4 e)
    | .ok (bs, s1) => (leNat bs % 2 ^ 31, s1)
  match s1.storeVa c 0 w (natBytes 4 (count + 2 ^ 31)) with
  | .error e => s1.countFailed c w 0 e
  | .ok s2 => s2

/-- Posts a record to the event queue of a context (02 R53), then raises its vector (R54). -/
def State.evqPost (s : State) (c : Nat) (r : Record) : State :=
  match s.ctx? c with
  | none => s
  | some x =>
    let w := x.evqBase.toNat + 64 * 2 ^ x.evqLog
    match s.loadVa c 0 false w 8 with
    | .error e => (s.countFailed c w 8 e).evqDrop c x
    | .ok (bs, s1) =>
      let wr : BitVec 31 := BitVec.ofNat 31 (field bs 0 4)
      if ringFull wr (BitVec.ofNat 31 (field bs 4 4)) x.evqLog then s1.evqDrop c x
      else
        let slot := x.evqBase.toNat + 64 * (wr.toNat % 2 ^ x.evqLog)
        match s1.storeVa c 0 slot (r.bytes s.refTime) with
        | .error e => (s1.countFailed c slot 0 e).evqDrop c x
        | .ok s2 =>
          match s2.storeVa c 0 w (natBytes 4 ((wr + 1).toNat + if x.evOverflow then 2 ^ 31 else 0)) with
          | .error e => (s1.countFailed c w 0 e).evqDrop c x
          | .ok s3 => (s3.modCtx c fun y => { y with evWr := wr + 1 }).msix (ctxFn c) x.evqVec

/-- Writes to the memory of a function's host, if a link to it is up. -/
def writeHost (s : State) (fn a : Nat) (bs : List Byte) : State :=
  if s.plant.hostUp fn then { s with hostMem := writeBytes s.hostMem (s.plant.hostKey fn a) bs } else s

/-- Posts a record to the physical-function event queue (02 R55), over the link that owns the management window. A record whose
host memory cannot be written is dropped (R53). -/
def State.pfeqPost (s : State) (r : Record) : State :=
  let m := s.mgmt
  let tail := m.pfBase.toNat + 64 * 2 ^ m.pfLog
  if !m.pfEnable then { s with mgmt := { m with pfOverflow := true } }
  else if ringFull m.pfWr (m.pfRd.setWidth 31) m.pfLog || !s.plant.hostUp 0 then
    writeHost { s with mgmt := { m with pfOverflow := true } } 0 tail (natBytes 4 (m.pfWr.toNat + 2 ^ 31))
  else
    let s := writeHost s 0 (m.pfBase.toNat + 64 * (m.pfWr.toNat % 2 ^ m.pfLog)) (r.bytes s.refTime)
    let wr := m.pfWr + 1
    let s := writeHost s 0 tail (natBytes 4 (wr.toNat + if m.pfOverflow then 2 ^ 31 else 0))
    State.msix { s with mgmt := { s.mgmt with pfWr := wr } } 0 m.pfVec.toNat

/-- Writes one event message into the ring of the mailbox, advances EVT_WRIDX, and raises the vector (02 R400). -/
def State.ringWrite (s : State) (msg : List Byte) : State :=
  let m := s.mgmt
  let s := { s with mgmt := { m with ring := writeBytes m.ring (64 * (m.evtWr.toNat % 64)) msg, evtWr := m.evtWr + 1 } }
  if m.evtIe then s.msix 0 m.irqVec.toNat else s

def Mgmt.ringFull (m : Mgmt) : Bool := m.evtWr - m.evtRd == 64

/-- An unsolicited event of the Wielo controller (01 R16): logged, then written to the ring, or left waiting for space. Of
more than 4,096 waiting the oldest is dropped. -/
def State.event (s : State) (code : Nat) (body : List Byte) : State :=
  let msg := (natBytes 8 code ++ body ++ natBytes 56 0).take 64
  let s := { s with mgmt := { s.mgmt with log := s.mgmt.log ++ [msg] } }
  let m := s.mgmt
  if !m.ringFull && m.waiting.isEmpty then s.ringWrite msg
  else if m.waiting.length < 4096 then { s with mgmt := { m with waiting := m.waiting ++ [msg] } }
  else { s with mgmt := { m with waiting := m.waiting.drop 1 ++ [msg], evtLost := true } }

/-! ### The control block -/

def QState.code : QState → Nat
  | .disabled => 0 | .active => 1 | .error => 2 | .faulted => 3 | .resetting => 4

/-- QREG of a queue (02 R36). -/
def State.qreg (s : State) (f q : Nat) : Word64 := readCell (s.func f).qreg q

def State.qcbAddr (s : State) (f q : Nat) : Nat := ((s.qreg f q).extractLsb' 8 44).toNat * 256

/-- Reads bytes of a queue's control block, without translation (02 R36). A block in HBM beyond its end or in a retired
granule cannot be read, nor one in host memory whose link is down. -/
def State.qcbRead (s : State) (f q off n : Nat) : Option (List Byte) :=
  let a := s.qcbAddr f q + off
  if (s.qreg f q).getLsbD 63 then
    if s.plant.hostUp f then some (readBytes s.hostMem (s.plant.hostKey f a) n) else none
  else if decide (hbmEnd < a + n) || (List.range n).any fun i => s.locBad (.hbm (a + i)) then none
  else some (readBytes s.mem a n)

/-- The telemetry after such a read: what was corrected, and what completed as MEM_UNCORR (01 R12, R30). -/
def State.qcbCount (s : State) (f q off n : Nat) : State :=
  let as := (List.range n).map (s.qcbAddr f q + off + ·)
  let s := if (s.qreg f q).getLsbD 63 then s else s.meetsCopy (as.any fun a => s.locWaits (.hbm a))
  if (s.qreg f q).getLsbD 63 || decide (hbmEnd < s.qcbAddr f q + off + n) then s
  else match as.find? fun a => s.locBad (.hbm a) with
    | some a => s.countBad a
    | none => s.countCorrected (as.map (· / 64)).eraseDups

/-- Writes bytes of a queue's control block. What the device reads and writes of control blocks, in host memory or HBM, is charged to no
context and no partition: R72 does not say whose it is (DESIGN CHOICE, log 65). -/
def State.qcbWrite (s : State) (f q off : Nat) (bs : List Byte) : State :=
  let a := s.qcbAddr f q + off
  if (s.qreg f q).getLsbD 63 then writeHost s f a bs
  else if decide (hbmEnd < a + bs.length) || s.granuleRetired a then s
  else { s.meetsCopy ((List.range bs.length).any fun i => s.locWaits (.hbm (a + i))) with mem := writeBytes s.mem a bs }

/-- Moves a queue to a state with an error code, and writes QSTATUS to its control block (02 R33, R49). -/
def State.setQState (s : State) (f q : Nat) (st : QState) (code : Byte) : State :=
  let w := st.code + 256 * code.toNat
  let x := { s.queue f q with state := st, code := code, mirrorStatus := BitVec.ofNat 32 w }
  (s.setQueue f q x).qcbWrite f q 0x94 (natBytes 4 w)

/-- Writes HEAD of a queue to its control block. -/
def State.setHead (s : State) (f q : Nat) (h : Word32) : State :=
  (s.setQueue f q { s.queue f q with head := h, mirrorHead := h }).qcbWrite f q 0x90 (natBytes 4 h.toNat)

/-! The cached privileged half (02 R33). -/

def Queue.ringBase (q : Queue) : Nat := field q.priv 0x00 8
def Queue.ringLog (q : Queue) : Nat := field q.priv 0x08 1
def Queue.priority (q : Queue) : Nat := field q.priv 0x09 1 % 16
def Queue.qflags (q : Queue) : Nat := field q.priv 0x0A 2
def Queue.context (q : Queue) : Nat := field q.priv 0x0C 4
def Queue.ptRoot (q : Queue) : Nat := field q.priv 0x10 8
def Queue.timeBudget (q : Queue) : Nat := field q.priv 0x18 8
def Queue.evqBase (q : Queue) : Nat := field q.priv 0x20 8
def Queue.evqLog (q : Queue) : Nat := field q.priv 0x28 4
def Queue.evqVec (q : Queue) : Nat := field q.priv 0x2C 1

/-- Queues that are not DISABLED and name a context, by function and index. One that is still FAULTED since an earlier incarnation is one of
them: its privileged half binds the new incarnation, and keeps it from ending, before the reset with which R52 has the queue join it
(DESIGN CHOICE, log 64). -/
def State.queuesOf (s : State) (c : Nat) : List (Nat × Nat) :=
  s.queues.filterMap fun (key, q) =>
    if q.state != .disabled && q.context == c then some (key / 1024, key % 1024) else none

/-! ### Residency as software sees it (05 R96, R108 to R113) -/

/-- A team's lane level (R96): the row of its lane set's size. -/
def laneLevel (n : Nat) : Nat := if 16 ≤ n then 0 else if 8 ≤ n then 1 else if 2 ≤ n then 2 else 3

/-- Place of a group's quarter in its team's lists: an odd core's quarters follow. -/
def Team.quarterIx (t : Team) (key : Nat) : Nat := 4 * (key / 64 - t.core) + quarterOf (key % 64)

/-- Cores of a team. -/
def Team.cores (t : Team) : List Nat := if t.pair then [t.core, t.core + 1] else [t.core]

/-- What RESID is to show of a group (R96, R108). -/
def residency (t : Team) (scratch key : Nat) (g : Group) : Resid :=
  let lanes := atD t.lanes (t.quarterIx key) 16
  let m := max g.glevel (max t.tlevel (laneLevel lanes))
  { level := if m = 0 && t.mspill then 1 else m, glevel := g.glevel, tlevel := t.tlevel,
    granRes := g.granules, scres := (residentScratch scratch t.tlevel + 4095) / 4096 + t.extra,
    lanes := lanes, mspill := t.mspill }

/-- The residency that is shown, with the place of the t and a state as it now is. -/
def Resid.spill (r : Resid) (mspill : Bool) : Resid :=
  let m := max r.glevel (max r.tlevel (laneLevel r.lanes))
  { r with level := if m = 0 && mspill then 1 else m, mspill := mspill }

/-- Every live split of the group is halted. -/
def Group.halted (g : Group) : Bool := g.splits.any (·.live) && g.splits.all fun x => !x.live || x.halted

/-- RESID, GRANT and NPEND change together (19 R391): with no grant GRANT stays, and only a switch, KIND 3, notifies a group
whose residency is as before. A change of GLEVEL or TLEVEL alone, which 05 R110 does not list, is a change of RESID and sets both (DESIGN
CHOICE, log 66). An Invar launch shows nothing (R113). -/
def showGroup (invar : Bool) (grant : Option (Word32 × Byte)) (r : Resid) (g : Group) : Group :=
  if invar || (r == g.resid && !grant.any fun x => x.2 == 3) then g
  else match grant with
    | some (seq, kind) => { g with resid := r, npend := true, grantSeq := seq, grantKind := kind }
    | none => { g with resid := r, npend := true }

/-- Shows a residency of each group of a team. -/
def State.showAs (s : State) (grant : Option (Word32 × Byte)) (id : Nat) (f : Team → Nat → Group → Resid) : State :=
  match tget s.teams id with
  | none => s
  | some t =>
    let invar := ((s.launchOf t).map fun l => l.kd.kflags.getLsbD 2).getD false
    { s with groups := tmap s.groups fun key g => if g.team = id then showGroup invar grant (f t key g) g else g }

/-- Shows the residency of the groups of a team. -/
def State.showTeam (s : State) (grant : Option (Word32 × Byte)) (id : Nat) : State :=
  s.showAs grant id fun t key g => residency t (s.teamScratch t) key g

/-- Shows of the groups of a team only whether its t and a state is spilled: a fold that is not handed over stays unseen (19 R391). -/
def State.showSpill (s : State) (grant : Option (Word32 × Byte)) (id : Nat) : State :=
  s.showAs grant id fun t _ g => g.resid.spill t.mspill

/-- Resident teams on a core that still have a group there. -/
def State.teamsOn (s : State) (c : Nat) : List (Nat × Team) :=
  s.teams.filter fun (_, t) => t.resident && decide (0 < t.groupsLeft) && t.cores.contains c

/-- Level of the queue that a team belongs to (04 R77). -/
def State.teamLevel (s : State) (t : Team) : Nat :=
  match s.launchOf t with
  | some l => (s.queue l.fn l.q).priority
  | none => 15

/-- Gives a team the tile file and accumulator memory of a core; its spilled state is then back (R105). The reuse latch is released
when ownership changes (07 R154). -/
def State.giveMatrix (s : State) (c id : Nat) (grant : Option (Word32 × Byte)) : State :=
  let s := s.setCore c { s.core c with owner := some id, latch := none }
  match tget s.teams id with
  | none => s
  | some t =>
    if t.mspill && t.cores.all fun x => (s.core x).owner == some id then
      (s.setTeam id { t with mspill := false }).showSpill grant id
    else s

/-- Matrix ownership of a core can be had: there is no owner, no hold (19 R392), and no squeeze that has got it and is not handed
over (R105). -/
def Core.ownerFree (k : Core) : Bool :=
  k.owner.isNone && !(k.holds.any fun h => h.2.matrix) && !(k.sqRun.any fun r => r.matrixGot)

/-- The team to which free ownership passes: the oldest resident team of the most urgent queue (04 R85). -/
def State.nextOwner (s : State) (c : Nat) : Option Nat :=
  if (s.core c).ownerFree then
    (leastBy (fun x : Nat × Team => s.teamLevel x.2 * 2 ^ 64 + x.2.serial) (s.teamsOn c)).map (·.1)
  else none

/-- Ownership of a core without an owner passes on. -/
def State.passOwner (s : State) (c : Nat) (grant : Option (Word32 × Byte) := none) : State :=
  match s.nextOwner c with
  | some id => s.giveMatrix c id grant
  | none => s

/-- Holds end when their context has no team left on the core (19 R392), and the reservations of queues that have no team
left there end with the queue's last team (05 R104). -/
def State.endHolds (s : State) (c : Nat) (gone : List (Nat × Nat)) : State :=
  let k := s.core c
  let ls := (s.teamsOn c).filterMap fun x => s.launchOf x.2
  let keepR (r : Reserve) : Bool := !gone.contains (r.fn, r.q) || ls.any fun l => l.fn == r.fn && l.q == r.q
  s.setCore c { k with holds := tfilter k.holds fun x _ => ls.any fun l => l.ctx == x, reserves := k.reserves.filter keepR }

/-- 4 KiB pages of a team's scratchpad resident on one of its cores. -/
def Team.pagesOn (t : Team) (c : Nat) : Nat :=
  ((t.smap.filter fun (blk, _) => t.core + (if t.pair then blk / 512 else 0) == c).length + 3) / 4

/-- Bytes of quarter `q` of a core that groups of the team which have exited held. -/
def Team.goneBytes (t : Team) (c q : Nat) : Nat :=
  (t.gone.filter fun x => x.1 == 4 * (c - t.core) + q).foldl (fun n x => n + (x.2.2 - x.2.1)) 0

/-- What a victim that leaves during its squeeze frees counts towards the request as far as it covers it, and GFLAGS[2] is set (05 R119):
bytes of each quarter, pages of scratchpad, the matrix state if it owned it, and, once it is the last victim, all the lanes. -/
def SqRun.absorb (r : SqRun) (bytes : Nat → Nat) (pages : Nat) (owner last : Bool) : SqRun :=
  let up (got req add : Nat) : Nat := if req ≤ got then got else min req (got + add)
  let mat := owner && r.req.matrix
  { r with
    poolGot := (List.range 4).map fun q => up (atD r.poolGot q 0) (atD r.req.pool q 0) (bytes q / 256),
    scrGot := up r.scrGot r.req.scr pages, lanesGot := if last then r.req.lanes else r.lanesGot, matrixGot := r.matrixGot || mat, gflags := r.gflags ||| 4 ||| if mat then 2 else 0 }

/-- Register-pool bytes that a team holds resident in a quarter of a core. -/
def State.quarterBytes (s : State) (c id q : Nat) : Nat :=
  s.groups.foldl (fun n (key, g) => if key / 64 = c && quarterOf (key % 64) = q && g.team = id then n + g.poolBytes else n) 0

/-- A team is about to leave a core, with those that satisfy `hit`: a squeeze of which it is a victim takes note (05 R119). -/
def State.absorb (s : State) (hit : Nat → Bool) (id : Nat) (t : Team) (c : Nat) : State :=
  let k := s.core c
  let bytes (q : Nat) : Nat := s.quarterBytes c id q + t.goneBytes c q
  let last (r : SqRun) : Bool := !(s.teamsOn c).any fun x => r.victims.contains x.1 && x.1 != id && !hit x.1
  let f (r : SqRun) : SqRun := if r.victims.contains id then r.absorb bytes (t.pagesOn c) (k.owner == some id) (last r) else r
  s.setCore c { k with sqRun := k.sqRun.map f }

/-- A core after teams of the queues `gone` have left it. -/
def State.afterLeave (s : State) (gone : List (Nat × Nat)) (c : Nat) : State := (s.endHolds c gone).passOwner c

/-! ### The life of a context -/

def Sterling.fresh (c : Nat) (incarn : Word16) : Sterling :=
  { ctx := c, incarn := incarn, closed := false, dropped := false, time := 0, laneCyc := 0, matrixCyc := 0,
    copyBytes := 0, memBytes := 0 }

/-- Begins an incarnation of a context (02 R52): no identifier, no binding, a new Sterling record. -/
def State.beginContext (s : State) (c root evqBase evqLog evqVec : Nat) : State :=
  let inc : Word16 := match tget s.ctxs c with | some x => x.incarn + 1 | none => 0
  s.setCtx c {
    live := true, incarn := inc, root := BitVec.ofNat 64 root, evqBase := BitVec.ofNat 64 evqBase, evqLog := evqLog, evqVec := evqVec, evOverflow := false, evWr := 0, ids := [],
    binds := [], sterling := Sterling.fresh c inc, folded := { Sterling.fresh c inc with time := s.refTime },
    units := 0, heapLog := [], heapUnits := [] }

def Context.none : Context :=
  { live := false, incarn := 0, root := 0, evqBase := 0, evqLog := 4, evqVec := 0, evOverflow := false, evWr := 0, ids := [], binds := [],
    sterling := Sterling.fresh 0 0, folded := Sterling.fresh 0 0, units := 0, heapLog := [], heapUnits := [] }

/-- Keeps a closed Sterling record; of more than 4,096 the oldest is dropped and the newest says so (03 R74). -/
def State.closeSterling (s : State) (r : Sterling) : State :=
  if s.closed.length < 4096 then { s with closed := s.closed ++ [r] }
  else { s with closed := s.closed.drop 1 ++ [{ r with dropped := true }] }

/-- The contributions but for those of the teams that `hit` names. -/
def Combine.without (hit : Nat → Bool) : Combine → Option Combine
  | .one t v => if hit t then none else some (.one t v)
  | .both a b => match a.without hit, b.without hit with
    | some x, some y => some (.both x y)
    | some x, none => some x
    | none, y => y

/-- A request without the work of dropped teams; the contributions that routers have merged into theirs stay (08 R189). -/
def AtomReq.without (hit : Nat → Bool) (a : AtomReq) : Option AtomReq :=
  let rest := a.riders.filter fun r => !hit r.team
  match a.brings.without hit with
  | none => none
  | some x =>
    if !hit a.team then some { a with brings := x, riders := rest }
    else match rest with
      | [] => none
      | r :: rs => some
        { a with team := r.team, core := r.core, entry := r.entry, instr := r.instr, thread := r.thread, acc := { a.acc with q := r.q }, brings := x, riders := rs }

/-- Takes the teams that satisfy `p` off the device with their groups, matrix operations, copies and engine requests. A
squeeze of a core that held one of them marks it in GFLAGS[2] (05 R119). -/
def State.dropTeams (s : State) (p : Nat → Team → Bool) : State :=
  let out := tfilter s.teams p
  let ids := out.map (·.1)
  let left := out.filter (·.2.resident)
  let cores := (left.flatMap fun (_, t) => t.cores).eraseDups
  let gone := left.filterMap fun (_, t) => (s.launchOf t).map fun l => (l.fn, l.q)
  let hit (x : Nat) : Bool := ids.contains x
  let core (_ : Nat) (x : Core) : Core :=
    { x with
      owner := x.owner.filter fun o => !hit o, latch := x.latch.filter fun l => !hit l.team,
      trapQ := x.trapQ.filter fun (c, e, _) => !((s.group? c e).map fun g => hit g.team).getD false }
  let s := forAll (fun s (x : Nat × Team) => forAll (fun s c => s.absorb hit x.1 x.2 c) s x.2.cores) s left
  let s := { s with
    teams := tfilter s.teams fun i _ => !hit i, groups := tfilter s.groups fun _ g => !hit g.team,
    mats := s.mats.filter fun m => !hit m.team, copies := tfilter s.copies fun _ c => !hit c.team,
    atoms := s.atoms.filterMap (AtomReq.without hit), caSteps := s.caSteps.filter fun a => !hit a.team,
    cores := tmap s.cores core }
  forAll (fun s c => s.afterLeave gone c) s cores

def Frame.handle (f : Frame) : Word64 := f.gen ++ (0#14) ++ (BitVec.ofNat 2 f.die) ++ (BitVec.ofNat 32 f.offset)

/-- GEN of a block whose frame is freed (11 R229). -/
def nextGen (g : Word16) : Word16 := if g = 0xFFFF then 1 else g + 1

/-- A frame becomes FREE: its block keeps its generation, plus 1 (11 R229, R237). -/
def Frame.freed (f : Frame) : Frame := { f with fstate := 0, gen := nextGen f.gen, slots := [] }

/-- Notes a creation or free of a frame on a die. -/
def State.heapNote (s : State) (ctx die units event : Nat) : State :=
  s.modCtx ctx fun c => { c with
    units := c.units + (units - (tget c.heapUnits die).getD 0), heapUnits := tset c.heapUnits die units,
    heapLog := tset c.heapLog die (event :: (tget c.heapLog die).getD []) }

/-- The heap of a die after a frame of it has been freed. -/
def State.noteFree (s : State) (f : Frame) : State :=
  s.heapNote f.ctx f.die (((tget s.ctxs f.ctx).bind fun c => tget c.heapUnits f.die).getD 0) (2 * f.offset + 1)

/-- Frees the frames of discarded launches, with the decrements on their way to them (11 R240). -/
def State.dropFrames (s : State) (ids : List Nat) : State :=
  let mine (f : Frame) : Bool := f.fstate != 0 && ids.contains f.launch
  let out := s.frames.filter mine
  let s := forAll State.noteFree s out
  { s with
    frames := s.frames.map fun f => if mine f then f.freed else f,
    decs := s.decs.filter fun d => !out.any fun f => f.ctx == d.ctx && f.handle == d.handle }

/-- Discards the launches that satisfy `p`: their teams, frames, bins, formed groups and join records. -/
def State.dropLaunches (s : State) (p : Launch → Bool) : State :=
  let ids := (tfilter s.launches fun _ l => p l).map (·.1)
  let s := s.dropTeams fun _ t => ids.contains t.launch
  let die (_ : Nat) (d : Die) : Die :=
    { d with
      bins := d.bins.filter fun b => !ids.contains b.launch, formed := d.formed.filter fun f => !ids.contains f.launch,
      joins := d.joins.filter fun j => !ids.contains j.1 }
  { s.dropFrames ids with launches := tfilter s.launches fun i _ => !ids.contains i, dies := tmap s.dies die }

/-- Writes the count of PC samples of a function to SAMPLE_BASE (06 R144), if it has sampled. -/
def State.writeSampleCount (s : State) (c : Nat) : State :=
  let f := s.func (ctxFn c)
  if !f.sampleOn && f.samples = 0 then s
  else match s.storeVa c 0 f.sampleBase.toNat (natBytes 8 f.samples) with
    | .ok s' => s'
    | .error e => s.countFailed c f.sampleBase.toNat 0 e

/-! ### Answers of the mailbox -/

/-- The request that waits for its answer. -/
def State.request (s : State) (code : Nat) : Option (List Byte) :=
  match s.mgmt.active, s.mgmt.answer with
  | some r, none => if field r 0 1 = code then some r else none
  | _, _ => none

/-- Forms the answer to a request (03 R56): CODE and ID echoed, STATUS and the body from byte 8. -/
def State.reply (s : State) (req : List Byte) (status : Nat) (body : List Byte) : State :=
  let msg := req.take 1 ++ natBytes 1 status ++ (req.drop 2).take 2 ++ natBytes 4 0 ++ body
  { s with mgmt := { s.mgmt with answer := some ((msg ++ natBytes 64 0).take 64) } }

/-- Fields that 12 R268 puts out of range: the context's function, the length, alignment, and ranges that overlap without being equal. -/
def finalFields (r : List Byte) : Bool :=
  let n := field r 12 4
  let src := field r 16 8
  let dst := field r 24 8
  decide (ctxFn (field r 8 4) ≤ 16) && within 1 n (2 ^ 20) && src % 32 == 0 && dst % 32 == 0 &&
  (src == dst || decide (src + 32 * n ≤ dst) || decide (dst + 32 * n ≤ src))

/-- Writes the native image, packet by packet. -/
def writePackets : List Acc → List Byte → State → State
  | [], _, s => s
  | a :: r, bs, s => writePackets r (bs.drop 32) (s.poke a (bs.take 32))

/-- The packets of DST that can be written now. -/
def finalDst (s : State) (r : List Byte) (ctx : Nat) : List Acc :=
  ((List.range (field r 12 4)).filterMap fun i => (s.resolve ctx 0 false (field r 24 8 + 32 * i) 32 .write).toOption).filter fun a =>
    !s.accWaits a && (s.peerRefuses a true).isNone

/-- A context ends while the mailbox holds a FINALISE for it: the request answers STATUS 5, and what DST holds is undefined (12 R271): free
values. -/
def State.endFinalise (s : State) (c : Nat) : State :=
  match s.request 0x16 with
  | none => s
  | some r =>
    if ctxBits (field r 8 4) = c && finalFields r then
      let free := (List.range (32 * field r 12 4)).map fun i => Config.freeValue 8 (2 ^ 240 + s.freeCtr * 2 ^ 28 + i)
      (writePackets (finalDst s r c) free s).reply r 5 []
    else s

/-- A core without what it was to do for a switch of a context that has ended (03 R62). -/
def Core.forget (c : Nat) (k : Core) : Core :=
  let mine : CoreReq → Bool | .switchOut x => x == c | .slice x _ => x == c | _ => false
  { k with sqQueue := k.sqQueue.filter fun x => !mine x, saving := k.saving.filter (· != c),
           savedRun := if k.saving == some c then none else k.savedRun }

/-- Ends a context (02 R52): nothing of its work is left, its identifiers and bindings are cleared, its save, spill and
frame space is returned, and its Sterling record is closed. -/
def State.endContext (s : State) (c : Nat) : State :=
  match s.ctx? c with
  | none => s
  | some _ =>
    let s := ((s.endFinalise c).writeSampleCount c).dropLaunches fun l => l.ctx == c
    let x := (tget s.ctxs c).getD Context.none
    let s := { s with
      copies := tfilter s.copies fun _ y => y.ctx != c, mats := s.mats.filter (·.ctx != c),
      atoms := s.atoms.filter (·.ctx != c), caSteps := s.caSteps.filter (·.ctx != c),
      frames := s.frames.filter (·.ctx != c), decs := s.decs.filter (·.ctx != c),
      pubPending := s.pubPending.filter (·.ctx != c), cores := tmap s.cores fun _ k => k.forget c }
    let s := s.closeSterling { x.sterling with closed := true, time := s.refTime }
    s.setCtx c { x with live := false, ids := [], binds := [], units := 0, heapLog := [], heapUnits := [] }

/-- A queue enters ERROR with a code, stops parsing and posts an error record about a packet (02 R42, R49), with DIE 0 (notes/assumptions
54). -/
def State.queueError (s : State) (f q : Nat) (code : Byte) (tag packet : Word32) (addr : Word64) : State :=
  let s := s.setQState f q .error code
  s.evqPost (s.queue f q).context
    { kind := 2, cause := code.toNat, fn := f, queue := q, tag := tag, packet := packet, addr := addr }

/-! ### Doorbells (02 R38) -/

/-- A doorbell that R38 discards counts in DISCARDS, unless it is a reconcile offer. -/
def State.discard (s : State) (f : Nat) (counted : Bool) : State :=
  if counted then s.setFunc f { s.func f with discards := (s.func f).discards + 1 } else s

/-- Applies a doorbell value to the function's queue that it names. An OVERRUN or TAIL_BACK concerns no packet: its record has 0 in TAG
and PACKET (DESIGN CHOICE, log 62). -/
def State.ring (s : State) (f : Nat) (counted : Bool) (v : Word64) : State :=
  let qi := (v.extractLsb' 32 16).toNat
  let t : Word32 := v.extractLsb' 0 32
  let x := s.queue f qi
  let newer := (v.extractLsb' 48 16 - x.lseq).toNat
  if 1024 ≤ qi then s.discard f counted
  else if x.thief.isSome then s.setQueue f qi { x with heldBells := x.heldBells ++ [(counted, v)] }
  else if x.state != .active || newer = 0 || 32767 < newer then s.discard f counted
  else
    let s := s.setQueue f qi { x with lseq := v.extractLsb' 48 16 }
    if t = x.tail then s
    else if 2 ^ 31 ≤ (t - x.tail).toNat then s.queueError f qi 0x09 0 0 0
    else if 2 ^ x.ringLog < (t - x.head).toNat then s.queueError f qi 0x01 0 0 0
    else s.setQueue f qi { s.queue f qi with tail := t }

/-! ### Handovers to a thief (04 R81, R82) -/

/-- A die's front end accepts queues (R48; 01 R10, R27). -/
def State.accepts (s : State) (d : Nat) : Bool := !(s.die d).frontFailed && !(s.die d).isolated && (s.die d).powered

/-- STEAL_DONE: the queue is at home on the thief, where the doorbells that were held are applied in order. A die that accepts no queues
takes none: it stays where it is (02 R48). -/
def State.finishHandover (s : State) (f qi : Nat) : State :=
  let x := s.queue f qi
  match x.thief with
  | none => s
  | some d =>
    let y := { x with home := if s.accepts d then d else x.home, thief := none, heldBells := [] }
    forAll (fun s b => s.ring f b.1 b.2) (s.setQueue f qi y) x.heldBells

/-- A handover is cancelled: the doorbells that were held find a queue that is not ACTIVE (R38, R82). -/
def State.cancelHandover (s : State) (f qi : Nat) : State :=
  let x := s.queue f qi
  match x.thief with
  | none => s
  | some d =>
    let s := s.setQueue f qi { x with thief := none, heldBells := [] }
    let s := s.setDie d { s.die d with stealGiven := (s.die d).stealGiven.filter (· != (f, qi)), stealAsk := 0 }
    forAll (fun s b => s.discard f b.1) s x.heldBells

/-- A queue of an ended context enters FAULTED (02 R49, R51); a handover completes first (04 R82). R49 lists no error code for FAULTED or
RESETTING, and QSTATUS shows 0 there, whatever code stood before (notes/assumptions 54). -/
def State.faultQueue (s : State) (fq : Nat × Nat) : State :=
  let s := s.finishHandover fq.1 fq.2
  let q := s.queue fq.1 fq.2
  if q.state == .active || q.state == .error then
    (s.setQueue fq.1 fq.2 { q with pkts := [], wait := none, parse := q.head }).setQState fq.1 fq.2 .faulted 0
  else s

/-- What the access that a fatal fault names counts (01 R12, R30). A fault that names no address has read nothing. -/
def State.countFault (s : State) (c : Nat) (r : Record) : State :=
  match causeOf r.cause with
  | some e => if r.addr = 0 && e == .addrPerm then s else s.countFailed c r.addr.toNat 128 e
  | none => s

/-- A context ends as by a fatal fault (02 R51): one fault record to its event queue, one completion-style record to the
physical-function event queue, every queue FAULTED, and all its work discarded. The completion-style record keeps the trap cause code in
CAUSE, which 02 R53 gives for a fault only (DESIGN CHOICE, log 62). -/
def State.contextLost (s : State) (c : Nat) (r : Record) : State :=
  match s.ctx? c with
  | none => s
  | some _ =>
    let s := (s.evqPost c { r with kind := 1 }).pfeqPost { r with kind := 3 }
    let s := (forAll State.faultQueue s (s.queuesOf c)).endContext c
    { s with freeCtr := s.freeCtr + 1 }

/-- A fatal fault ends its context (02 R51), once what it read has counted. -/
def State.contextFault (s : State) (c : Nat) (r : Record) : State :=
  if (s.ctx? c).isSome then (s.countFault c r).contextLost c r else s

/-- The launch, packet and queue that a record about a team names. -/
def Launch.record (l : Launch) (cause : Nat) : Record :=
  { kind := 1, cause := cause, fn := l.fn, queue := l.q, tag := l.tag, packet := l.pkt }

/-- An engine finds a fault after issue (06 R132): the context of the team ends. The trapping PC is that of the instruction, but 0
for MEM_UNCORR (R131). -/
def State.engineStop (s : State) (ctx team : Nat) (pc : Word64) (cause : Cause) (addr : Nat) : State :=
  let r : Record := match tget s.teams team with
    | some t =>
      match s.launchOf t with
      | some l => { l.record cause.code with die := dieOf t.core, core := t.core % 40, team := t.index }
      | none => { kind := 1, cause := cause.code, fn := ctxFn ctx }
    | none => { kind := 1, cause := cause.code, fn := ctxFn ctx }
  s.contextFault ctx { r with addr := BitVec.ofNat 64 addr, pc := if cause = .memUncorr then 0 else pc }

end Sys2Proof.Machine
end

