-- ==== Sys2Proof/Machine/Ops.lean ====
section
/-!
DEFINITION. The named operations every instruction is written over: the split that issues, how an issue ends, taking a
cause (06 R131 to R134), taking and leaving a notice (R136, 13 R284), and dividing, joining and merging splits
(R124 to R126).
-/

namespace Sys2Proof.Machine

open Sys2Proof

/-! ### Splits -/

/-- The split does not issue: it is parked, halted or stopped by a trap. A stopped split does not hold others back, since
"the other splits of the group ... keep running" (R134). -/
def Split.stopped (x : Split) : Bool := x.park.isSome || x.halted || x.trap.isSome

/-- PC by which R126 orders splits: a yielded split counts as the highest. -/
def Split.orderPc (x : Split) : Nat := x.pc.toNat + if x.held then 2 ^ 64 else 0

def Split.empty : Split :=
  { live := false, pc := 0, mask := 0, mode := 0, halted := false, park := none, held := false, trap := none,
    loadCnt := 0, nextIssue := 0, issues := 0, parkStart := 0, parkedNs := 0, inflight := [],
    draining := false }

/-- The reset value of MODE (12 R249): f32, RNE. -/
def modeReset : Word32 := 0x00000008

def Split.start (pc mask : Word64) : Split := { Split.empty with live := true, pc := pc, mask := mask, mode := modeReset }

/-- Fixed-latency results in flight have been written: a later issue comes no earlier (R123). -/
def Split.settle (x : Split) : Split :=
  { x with nextIssue := x.inflight.foldl (fun m f => max m f.whole) x.nextIssue, inflight := [] }

def Group.split (g : Group) (i : Nat) : Split := atD g.splits i Split.empty

def Group.setSplit (g : Group) (i : Nat) (x : Split) : Group := { g with splits := setAt g.splits i x }

/-- Entry numbers of the live splits, the lowest first. -/
def Group.liveSplits (g : Group) : List Nat := (List.range 4).filter fun i => (g.split i).live

/-- The split may issue under R126. -/
def Group.mayIssue (g : Group) (i : Nat) : Bool :=
  let x := g.split i
  x.live && !x.stopped && g.liveSplits.all fun j =>
    j == i || (g.split j).stopped || decide (x.orderPc ≤ (g.split j).orderPc)

/-- SFLAGS[1] (R126): held back at a merge point. -/
def Group.atMerge (g : Group) (i : Nat) : Bool := (g.split i).live && !(g.split i).stopped && !g.mayIssue i

/-- The hold of yield ends on the other splits (R126). -/
def Group.unhold (g : Group) (i : Nat) : Group :=
  { g with splits := g.splits.mapIdx fun j x => if j = i then x else { x with held := false } }

/-- Writes one late result. -/
def Group.putDest (g : Group) (d : Dest) (x : Word64) : Group :=
  match d with
  | .v n t => { g with v := writeCell g.v (n * 64 + t) (x.setWidth 32) }
  | .k n => { g with k := writeCell g.k n x }

/-- A free value for a destination: one of the element's type (00 R6). -/
def Dest.typed (ty : BitVec 5) (x : Word64) : Dest → Word64
  | .v _ _ => if tyWide ty then x else extendPat ty x
  | .k _ => x

/-- Number of a destination among a group's registers. -/
def Dest.number : Dest → Nat
  | .v n t => n * 64 + t
  | .k n => 0x4000 + n

/-- The undefined values that a covered instruction leaves, numbered from `base`. -/
def Group.leaveClobbered (base : Nat) (g : Group) (p : Pending) : Group :=
  p.clobbered.foldl (fun g d => g.putDest d (d.typed p.ty (Config.freeValue 64 (base + d.number)))) g

/-- Covers the late instructions of split `i` but for the `n` that issued last (15 R331): an lwait, a merge and an exit do. -/
def Group.cover (g : Group) (base i n : Nat) : Group :=
  let mine := g.done.filter fun p => p.split == i
  let open' := (g.pending.filter fun p => p.split == i).length
  let gone := mine.take (mine.length - (n - open'))
  gone.foldl (Group.leaveClobbered base) { g with done := g.done.filter fun p => !gone.any fun q => q.id == p.id }

/-- Some other split of the group waits at a merge point, or is parked on a barrier (R140). -/
def Group.othersWait (g : Group) (i : Nat) : Bool :=
  (List.range 4).any fun j => j != i && (g.split j).live &&
    (g.atMerge j || (match (g.split j).park with | some (.barrier ..) => true | _ => false))

/-- Results of the split, or of the threads that it was given, that have not been written yet. -/
def Group.hasPending (g : Group) (i : Nat) : Bool := g.pending.any fun p => p.split == i || (g.split i).owed.contains p.id

/-! ### The split that issues -/

/-- The split that issues, with its group, team and launch. -/
structure Site where
  core : Nat
  entry : Nat
  ix : Nat
  g : Group
  sp : Split
  tid : Nat
  team : Team
  lid : Nat
  l : Launch
  /-- `State.freeCtr`, `State.hazard`, `State.undef` and `State.dests` at the issue. -/
  ctr : Nat
  hazard : List (Reg × Word64)
  undef : Word64
  dests : List Reg
  deriving Repr

def Site.ctx (h : Site) : Nat := h.l.ctx
def Site.die (h : Site) : Nat := dieOf h.core
def Site.key (h : Site) : Nat := h.core * 64 + h.entry
def Site.mask (h : Site) : Word64 := h.sp.mask

/-- Serial number from which an issue numbers the undefined values that it leaves in covered destinations. -/
def Site.coverBase (h : Site) : Nat := h.ctr * 2 ^ 24 + 0xB00000

/-- A live split of a resident team. -/
def State.siteAt (s : State) (core entry split : Nat) : Option Site :=
  match s.group? core entry with
  | none => none
  | some g =>
    match tget s.teams g.team with
    | none => none
    | some t =>
      match tget s.launches t.launch with
      | none => none
      | some l =>
        if (g.split split).live && t.resident then
          some { core := core, entry := entry, ix := split, g := g, sp := g.split split, tid := g.team, team := t, lid := t.launch,
                 l := l, ctr := s.freeCtr, hazard := s.hazard, undef := s.undef, dests := s.dests }
        else none

/-- No switch keeps the group of a site from issuing (05 R114). -/
def State.runs (s : State) (h : Site) : Bool := !h.g.restoring && (s.core h.core).saving != some h.ctx

/-- The split that `cur` names, if it is one that could issue. -/
def State.site? (s : State) : Option Site := (s.siteAt s.cur.core s.cur.entry s.cur.split).filter s.runs

def State.modGroup (s : State) (h : Site) (f : Group → Group) : State :=
  match tget s.groups h.key with
  | some g => { s with groups := tset s.groups h.key (f g) }
  | none => s

def State.modSplit (s : State) (h : Site) (f : Split → Split) : State :=
  s.modGroup h fun g => g.setSplit h.ix (f (g.split h.ix))

/-! ### How an issue ends -/

/-- The instruction counts in RETIRED (13 R292), and later free values are new ones. -/
def State.retire (s : State) (h : Site) : State :=
  let s := s.modGroup h fun g => { g with retired := g.retired + 1 }
  { s with freeCtr := s.freeCtr + 1 }

/-- The split goes on at `pc`. -/
def State.goto (s : State) (h : Site) (pc : Word64) : State :=
  (s.modSplit h fun x => { x with pc := pc, held := false }).retire h

/-- The split goes on at the next instruction (13 R274). -/
def State.advance (s : State) (h : Site) : State := s.goto h (nextPc h.sp.pc)

/-- The split holds its next instruction until its late results are written: the drain class (12 R254). -/
def State.drain (s : State) (h : Site) : State := s.modSplit h fun x => { x.settle with draining := true }

/-- The word at an address, or 0 if it cannot be fetched. -/
def State.wordAt (s : State) (ctx die : Nat) (pc : Word64) : Word32 :=
  match s.resolve ctx die false pc.toNat 4 .fetch with
  | .error _ => 0
  | .ok a => BitVec.ofNat 32 (leNat (s.peek a))

/-- The instruction at the PC of a split, if it can be read. -/
def State.nextInstr (s : State) (h : Site) : Option Instr :=
  match decode (s.wordAt h.ctx h.die h.sp.pc) with
  | .ok i => some i
  | .error _ => none

/-- A split stops on the trap core (06 R134): its trap record is written, with the trapping PC, and the trap core will
take it in its turn. -/
def State.stopSplit (s : State) (h : Site) (c : Cause) (addr threads pc : Word64) : State :=
  let r : TrapRec :=
    { cause := c, pc := pc, addr := addr, threads := threads, word := s.wordAt h.ctx h.die h.sp.pc, time := s.refTime,
      untaken := true }
  let s := s.modSplit h fun x => { x with pc := pc, trap := some r, held := false }
  let k := s.core (pairOf h.core)
  State.setCore { s with freeCtr := s.freeCtr + 1 } (pairOf h.core) { k with trapQ := k.trapQ ++ [(h.core, h.entry, h.ix)] }

/-- The event-queue record of a fatal cause of the split (02 R53). -/
def State.siteRecord (_s : State) (h : Site) (c : Cause) (addr pc : Word64) : Record :=
  { h.l.record c.code with
    die := h.die, core := h.core % 40, addr := addr, pc := pc, team := h.team.index, group := h.g.index, split := h.ix }

/-- Taking a cause (06 R131). A fatal one ends the context (R51). A trap stops the split. -/
def State.raise (s : State) (h : Site) (c : Cause) (addr threads pc : Word64) : State :=
  if c.fatal then s.contextFault h.ctx (s.siteRecord h c addr pc) else s.stopSplit h c addr threads pc

/-- MODE fields (12 R249). -/
def modeType (m : Word32) : BitVec 5 := m.extractLsb' 0 5
def modeRound (m : Word32) : BitVec 3 := m.extractLsb' 5 3
def modeSat (m : Word32) : Bool := m.getLsbD 8
def modeFtz (m : Word32) : Bool := m.getLsbD 9
def modeBlen (m : Word32) : BitVec 2 := m.extractLsb' 10 2
def modeGen (m : Word32) : Bool := m.getLsbD 16
def modeSense (m : Word32) : Bool := m.getLsbD 17
def modeGpred (m : Word32) : BitVec 3 := m.extractLsb' 18 3

def typeValid (t : BitVec 5) : Bool := decide (t.toNat ≤ 0x0C) || (decide (0x12 ≤ t.toNat) && decide (t.toNat ≤ 0x18))

/-- The mode register is valid (12 R251). -/
def modeValid (m : Word32) : Bool :=
  typeValid (modeType m) && decide ((modeRound m).toNat ≤ 4) && modeBlen m != 3 &&
  m.extractLsb' 12 4 == 0 && m.extractLsb' 21 11 == 0

/-- A failed translation or read as a stop with its address (06 R132). -/
def lift {α : Type} (addr : Word64) : Except Cause α → Except Stop α
  | .ok x => .ok x
  | .error c => .error (.cause c addr 0)

/-- The cause follows from the instruction word and the state of the split alone, not from the values that it reads. -/
def Site.fixedCause (h : Site) : Cause → Bool
  | .encIllegal | .encReserved | .encUnsched | .brAlign | .regAllot | .modeInvalid | .contFull => true
  | .frameBound => !h.l.isFrames
  | _ => false

/-- A thread reads an undefined value. -/
def Site.readsUndef (h : Site) : Bool := h.undef &&& h.mask != 0

/-- The same split without the threads that read an undefined value. -/
def Site.defined (h : Site) : Site := { h with sp := { h.sp with mask := h.sp.mask &&& ~~~h.undef } }

/-- Free values in the destinations of the threads that read an undefined value. One of an element is of the type (00 R6). -/
def State.leaveUndefined (s : State) (h : Site) : State :=
  let free (n : Nat) : Word64 := Config.freeValue 64 (h.ctr * 2 ^ 24 + 0x40000 + n)
  let typed (x : Word64) : Word64 := if h.dests.length = 1 then extendPat (h.sp.mode.extractLsb' 0 5) x else x
  let one (g : Group) : Reg → Group
    | .v n => (threadsOf (h.mask &&& h.undef)).foldl
        (fun g t => (g.clobber (.v n t)).putDest (.v n t) (typed (free (n * 64 + t)))) g
    | .k n => (g.clobber (.k n)).putDest (.k n) (free (0x4000 + n))
    | .p n =>
      let m := h.mask &&& h.undef
      { g with p := writeCell g.p n ((readCell g.p n &&& ~~~m) ||| (free (0x4040 + n) &&& m)) }
  s.modGroup h fun g => h.dests.foldl one g

/-- What an instruction does at issue. An undefined value never raises a fault (00 R6): where the check of a value fails and some
threads read undefined ones, those threads get undefined results and the others go on. -/
def Site.perform (h : Site) (s : State) (body : Site → Except Stop State) : Except Stop State :=
  match body h with
  | .error (.cause c a t) =>
    if h.undef &&& h.mask = 0 || h.fixedCause c then .error (.cause c a t)
    else if h.defined.mask = 0 then .ok ((s.leaveUndefined h).advance h)
    else match body h.defined with
      | .ok s' => .ok (s'.leaveUndefined h)
      | .error e => .error e
  | r => r

/-- One issue of the split that `cur` names, by an instruction that does what `body` says. A split that is parked, halted or stopped
issues nothing. The mode register is checked whatever the instruction (R251); a body that stops writes nothing (06 R132). -/
def issueWhole (s : State) (body : Site → Except Stop State) : Host.Outcome State Fault Refusal :=
  match s.site? with
  | none => .refused .noIssuingSplit
  | some h =>
    if h.sp.stopped then .refused .noIssuingSplit
    else if h.sp.draining && h.g.hasPending h.ix then .next s
    else if !modeValid h.sp.mode then .next (s.raise h .modeInvalid 0 h.mask h.sp.pc)
    else match body h with
      | .ok s' => .next s'
      | .error .wait => .next s
      | .error (.cause c a t) => .next (s.raise h c a t h.sp.pc)

/-- The same for an instruction whose checks undefined values must not fail. -/
def issue (s : State) (body : Site → Except Stop State) : Host.Outcome State Fault Refusal :=
  issueWhole s fun h => h.perform s body

/-! ### Control transfer -/

/-- A valid branch target (12 R248): a word that is not word 0 of its packet. -/
def targetOk (t : Word64) : Bool := t.extractLsb' 0 2 == 0 && t.extractLsb' 2 3 != 0

/-- Target of a branch at `a` with a signed offset in words (12 R248). -/
def branchTarget {w : Nat} (a : Word64) (o : BitVec w) : Word64 := a + (o.signExtend 64 <<< 2)

/-- The value as a mode: a valid one (12 R251), if an undefined value is not (00 R6). -/
def anyMode (x : Word32) : Word32 := if modeValid x then x else modeReset

/-- A free value as a target: an undefined value never raises a fault (00 R6), so it is some valid one (12 R248). -/
def anyTarget (x : Word64) : Word64 := (x &&& ~~~0x1F#64) ||| 4#64

/-- Taking a notice (06 R136): K[62] gets the PC at the boundary, NEN and NPEND clear, and the split goes on at K[63], or
where it was if K[63] is 0. A K[63] that a late result is still to write reads as a free value (15 R331). The notice entry is of
the drain class (12 R254). -/
def State.takeNotice (s : State) (h : Site) : State :=
  let k63 : Word64 := if h.g.awaits (.k 63) then anyTarget (Config.freeValue 64 (h.ctr * 2 ^ 24 + 0x403F)) else readCell h.g.k 63
  if k63 != 0 && !targetOk k63 then s.raise h .brAlign 0 h.mask h.sp.pc
  else
    let s := s.modGroup h fun g =>
      { g.clobber (.k 62) with k := writeCell g.k 62 h.sp.pc, nen := false, npend := false }
    s.modSplit h fun x => { x.settle with pc := if k63 = 0 then x.pc else k63, draining := true }

/-- Returning from a notice handler (13 R284): to the PC that K[62] held, with NEN set. -/
def State.noticeReturn (s : State) (h : Site) (pc : Word64) : State :=
  ((s.modGroup h fun g => { g with nen := true }).goto h pc).drain h

/-! ### Dividing and merging -/

/-- A live split that threads arriving at `pc` with the issuing split's mode join (R124). -/
def Group.joinable (g : Group) (i : Nat) (pc : Word64) : Option Nat :=
  g.liveSplits.find? fun j =>
    j != i && !(g.split j).stopped && (g.split j).pc == pc && (g.split j).mode == (g.split i).mode

def Group.freeEntry (g : Group) : Option Nat := (List.range 4).find? fun i => !(g.split i).live

/-- The new split of the threads that take a divergent branch. -/
def Split.taken (x : Split) (take target : Word64) : Split :=
  { Split.empty with live := true, pc := target, mask := take, mode := x.mode, nextIssue := x.nextIssue }

/-- Adds threads of split `i` to split `j`. What either of the two issued earlier is written first (R123). -/
def Group.addThreads (g : Group) (i j : Nat) (m : Word64) : Group :=
  let y := (g.split j).settle
  g.setSplit j { y with mask := y.mask ||| m, nextIssue := max y.nextIssue (g.split i).settle.nextIssue }

/-- Divides split `i`: `stay` at `next`, `take` at `target` (R124). None if a new entry is needed and none is free. If the stayers join
another split their entry is free, and the takers, a new split, get the lowest entry that is then free (notes/assumptions 24). -/
def Group.divideAt (g : Group) (i : Nat) (take stay next target : Word64) : Option Group :=
  let x := { (g.split i).settle with held := false }
  match g.joinable i target, g.joinable i next with
  | some j, some j' => some (((g.addThreads i j take).addThreads i j' stay).setSplit i Split.empty)
  | some j, none => some ((g.addThreads i j take).setSplit i { x with mask := stay, pc := next })
  | none, some j' => (g.setSplit i Split.empty).freeEntry.map fun n => ((g.addThreads i j' stay).setSplit i Split.empty).setSplit n (x.taken take target)
  | none, none => g.freeEntry.map fun n => (g.setSplit i { x with mask := stay, pc := next }).setSplit n (x.taken take target)

/-- A division (R124). Late instructions of a split that it frees count as covered (notes/assumptions 26). -/
def Group.divide (g : Group) (base i : Nat) (take stay next target : Word64) : Option Group :=
  let g := if (g.joinable i next).isSome then g.cover base i 0 else g
  g.divideAt i take stay next target

/-- The late results of the splits a division affects have been written (R123). -/
def Group.divideReady (g : Group) (i : Nat) (next target : Word64) : Bool :=
  !g.hasPending i && ((g.joinable i target).map fun j => !g.hasPending j).getD true &&
  ((g.joinable i next).map fun j => !g.hasPending j).getD true

/-- Two splits meet at an instruction boundary (R125): equal PCs and modes, neither stopped. -/
def Group.meets (g : Group) (i j : Nat) : Bool :=
  let x := g.split i
  let y := g.split j
  x.live && y.live && !x.stopped && !y.stopped && x.pc == y.pc && x.mode == y.mode

/-- They merge once the results of both are written (R123). -/
def Group.mergeable (g : Group) (i j : Nat) : Bool := g.meets i j && !g.hasPending i && !g.hasPending j

/-- The split is about to merge, and waits for the results that come first (R123). -/
def Group.awaitsMerge (g : Group) (i : Nat) : Bool := (List.range 4).any fun j => j != i && g.meets i j

/-- Two splits merge (R123, R125). The lower entry keeps its issue count (R140; DESIGN CHOICE, log 63). -/
def Group.mergePair (base : Nat) (g : Group) (i j : Nat) : Group :=
  if g.mergeable i j then
    let g := (g.cover base i 0).cover base j 0
    let x := (g.split i).settle
    let y := (g.split j).settle
    let z := { x with
      mask := x.mask ||| y.mask, nextIssue := max x.nextIssue y.nextIssue, loadCnt := 0, held := false }
    ((g.setSplit i z).setSplit j Split.empty).unhold i
  else g

/-- The hold of yield ends once the split is the only one that can issue (R126), and an issue count starts at zero whenever no other
split of the group waits (R140). -/
def Group.boundary (g : Group) : Group :=
  let others (i : Nat) : Bool := (List.range 4).any fun j => j != i && (g.split j).live && !(g.split j).stopped
  { g with splits := g.splits.mapIdx fun i x =>
      { x with held := x.held && others i, issues := if g.othersWait i then x.issues else 0 } }

/-- Every merge of a boundary, the lowest entry numbers first (R125). -/
def Group.mergeAll (base : Nat) (g : Group) : Group :=
  [(0, 1), (0, 2), (0, 3), (1, 2), (1, 3), (2, 3)].foldl (fun g p => g.mergePair base p.1 p.2) g

/-- Serial number from which a group numbers the undefined values of a boundary. -/
def State.boundaryBase (s : State) (key : Nat) : Nat := (key + 1) * 2 ^ 200 + s.freeCtr * 2 ^ 24

/-- What happens in every group at its instruction boundary. -/
def State.boundaries (s : State) : State := { s with groups := tmap s.groups fun key g => (g.mergeAll (s.boundaryBase key)).boundary }

end Sys2Proof.Machine
end

