-- ==== Sys2Proof/Machine/Operands.lean ====
section
/-!
DEFINITION. Operands: the acting threads (12 R252), reading and writing registers as MODE.type (09 R196, 07 R152), the
pair and allotment checks (12 R247, 07 R152), and the system registers (12 R253, 13 R291).
A register whose late result has not been written reads as a free value, and an instruction issued before R122 allows
writes free values (06 R129).
-/

namespace Sys2Proof.Machine

open Sys2Proof

def Site.ty (h : Site) : BitVec 5 := modeType h.sp.mode

def Site.fctl (h : Site) : FCtl :=
  { round := roundingOf (modeRound h.sp.mode), sat := modeSat h.sp.mode, ftz := modeFtz h.sp.mode }

/-! ### Reading -/

/-- Free value number `i` of this issue. -/
def Site.free (h : Site) (w i : Nat) : BitVec w := Config.freeValue w (h.ctr * 2 ^ 24 + i)

/-- The instruction issued too early for some source (06 R129). -/
def Site.early (h : Site) : Bool := !h.hazard.isEmpty

/-- It did so for a thread. -/
def Site.earlyFor (h : Site) (t : Nat) : Bool := h.hazard.any fun x => x.2.getLsbD t

/-- Threads for which a source register is not written yet. -/
def Site.unready (h : Site) (r : Reg) : Word64 := h.hazard.foldl (fun m x => if x.1 = r then m ||| x.2 else m) 0

def Site.vr (h : Site) (n t : Nat) : Word32 :=
  if h.g.awaits (.v n t) || (h.unready (.v n)).getLsbD t then h.free 32 (n * 64 + t) else readCell h.g.v (n * 64 + t)

/-- What K[n] holds is undefined. -/
def Site.undefK (h : Site) (n : Nat) : Bool := h.g.awaits (.k n) || h.unready (.k n) != 0

def Site.kr (h : Site) (n : Nat) : Word64 :=
  if h.undefK n then h.free 64 (0x4000 + n) else readCell h.g.k n

/-- Some of k registers are undefined. -/
def Site.lostK (h : Site) (ns : List Nat) : Bool := ns.any h.undefK

/-- What V[n] of a thread holds is undefined. -/
def Site.lostV (h : Site) (n t : Nat) : Bool := h.g.awaits (.v n t) || (h.unready (.v n)).getLsbD t

/-- What is known of K[n] to a check that 0 passes if any value does: 0 in place of an undefined value, which raises no fault (00 R6). -/
def Site.known (h : Site) (n : Nat) : Word64 := if h.undefK n then 0 else h.kr n

/-- A k register as a branch target: a value that is not written yet is some valid target, since no undefined value raises a fault
(00 R6). -/
def Site.targetReg (h : Site) (n : Nat) : Word64 :=
  if h.undefK n then anyTarget (h.kr n) else h.kr n

/-- A k register as a mode register, in the same way. -/
def Site.modeReg (h : Site) (n : Nat) : Word32 :=
  let m := (h.kr n).setWidth 32
  if h.undefK n then anyMode m else m

def Site.pr (h : Site) (n : Nat) : Word64 :=
  let m := h.unready (.p n)
  if m = 0 then readCell h.g.p n else (h.free 64 (0x4040 + n) &&& m) ||| (readCell h.g.p n &&& ~~~m)

/-- Two consecutive vector registers of a thread as 64 bits (07 R152). -/
def Site.vpair (h : Site) (n t : Nat) : Word64 := h.vr (n + 1) t ++ h.vr n t

/-- An element read as a type: its low `w` bits, or the whole pair (09 R196). -/
def Site.elem (h : Site) (ty : BitVec 5) (n t : Nat) : Word64 :=
  if tyWide ty then h.vpair n t else lowBits (tyWidth ty) ((h.vr n t).setWidth 64)

/-- A source that is a vector register or, with "uniform b", a k register (14 R298). -/
inductive Src where
  | v (n : BitVec 8)
  | k (n : BitVec 6)
  deriving DecidableEq, Repr

/-- A source read as a type. -/
def Site.src (h : Site) (ty : BitVec 5) (b : Src) (t : Nat) : Word64 :=
  match b with
  | .v n => h.elem ty n.toNat t
  | .k n => lowBits (tyWidth ty) (h.kr n.toNat)

/-- A source that holds a count, index or amount: one 32-bit register, or the whole k register. -/
def Site.srcPlain (h : Site) (b : Src) (t : Nat) : Word64 :=
  match b with
  | .v n => (h.vr n.toNat t).setWidth 64
  | .k n => h.kr n.toNat

/-- Vector registers a source names. -/
def Src.regs : Src → List Nat
  | .v n => [n.toNat]
  | .k _ => []

/-- Threads in the active mask. -/
def Site.active (h : Site) : List Nat := threadsOf h.mask

/-- Threads that the guard enables (12 R249). -/
def Site.enabled (h : Site) (t : Nat) : Bool :=
  !modeGen h.sp.mode || ((h.pr (modeGpred h.sp.mode).toNat).getLsbD t != modeSense h.sp.mode)

/-- Threads that act: active, and enabled by the guard (12 R252, 14 R297). -/
def Site.acting (h : Site) : List Nat := h.active.filter h.enabled

/-! ### Writing -/

/-- Writes a thread's element, extended under R196 if it is narrower than 32 bits; a free value is one of the type (00 R6). -/
def Group.putV (h : Site) (n t : Nat) (x : Word32) (g : Group) (ty : BitVec 5 := 6) : Group :=
  let y := if h.earlyFor t then (extendPat ty ((h.free 32 (0x8000 + n * 64 + t)).setWidth 64)).setWidth 32 else x
  { g.clobber (.v n t) with v := writeCell g.v (n * 64 + t) y }

def Group.putK (h : Site) (n : Nat) (x : Word64) (g : Group) : Group :=
  let y := if h.early then h.free 64 (0x8000 + n) else x
  { g.clobber (.k n) with k := writeCell g.k n y }

/-- Writes a predicate's bits of some threads. -/
def Group.putP (h : Site) (n : Nat) (ts : List Nat) (f : Nat → Bool) (g : Group) : Group :=
  let f' (t : Nat) : Bool := if h.earlyFor t then (h.free 64 (0x8000 + n)).getLsbD t else f t
  { g with p := writeCell g.p n (mergeBits (readCell g.p n) ts f') }

/-- Writes 64 bits of a thread to a pair. -/
def Group.putPair (h : Site) (n t : Nat) (x : Word64) (g : Group) : Group :=
  (g.putV h n t (x.setWidth 32)).putV h (n + 1) t (x.extractLsb' 32 32)

/-- Writes an element of a type, extended under R196. -/
def Group.putElem (h : Site) (ty : BitVec 5) (n t : Nat) (x : Word64) (g : Group) : Group :=
  if tyWide ty then g.putPair h n t x else g.putV h n t ((extendPat ty x).setWidth 32) ty

/-- Writes an element of a register for each thread of a list. The values come from the registers before the issue. -/
def State.writeElems (s : State) (h : Site) (ty : BitVec 5) (d : Nat) (ts : List Nat) (f : Nat → Word64) : State :=
  s.modGroup h fun g => ts.foldl (fun g t => g.putElem h ty d t (f t)) g

def State.writeV (s : State) (h : Site) (d : Nat) (ts : List Nat) (f : Nat → Word32) : State :=
  s.modGroup h fun g => ts.foldl (fun g t => g.putV h d t (f t)) g

def State.writeK (s : State) (h : Site) (d : Nat) (x : Word64) : State := s.modGroup h (Group.putK h d x)

def State.writeP (s : State) (h : Site) (d : Nat) (ts : List Nat) (f : Nat → Bool) : State :=
  s.modGroup h (Group.putP h d ts f)

/-! ### Checks 4 to 7 of the decoding order (12 R265) -/

/-- Check 4: the instruction accepts MODE.type (R251). -/
def Site.accepts (h : Site) (ok : BitVec 5 → Bool) : Except Stop Unit := need (ok h.ty) .modeInvalid

/-- Check 5: pair fields are even (R247). -/
def evenAll (ns : List Nat) : Except Stop Unit := need (ns.all fun n => n % 2 == 0) .encIllegal

/-- Check 6: registers lie within the allotment (07 R152). -/
def Site.allotted (h : Site) (ns : List Nat) : Except Stop Unit :=
  need (ns.all fun n => decide (n < 8 * h.g.vgran)) .regAllot

/-- Checks 5 and 6 for registers that hold elements of a type. -/
def Site.typed (h : Site) (ty : BitVec 5) (elems plain : List Nat) : Except Stop Unit :=
  match evenAll (if tyWide ty then elems else []) with
  | .error e => .error e
  | .ok _ => h.allotted (elems ++ plain)

/-- Check 7: a branch target (R248). -/
def checkTarget (t : Word64) : Except Stop Unit := need (targetOk t) .brAlign

/-! ### System registers -/

/-- RESID (05 R108, R113): in an Invar launch it shows the level-0 values. -/
def Group.residWord (g : Group) (l : Launch) (scBytes : Nat) : Word64 :=
  let invar := l.kd.kflags.getLsbD 2
  let r := g.resid
  let bit (b : Bool) (n : Nat) : Nat := if b then 2 ^ n else 0
  BitVec.ofNat 64 (
    bit g.nen 63 + bit g.npend 62 + (if invar then (scBytes + 4095) / 4096 else r.scres) % 512 * 2 ^ 48 +
    (if invar then g.vgran else r.granRes) % 256 * 2 ^ 32 + g.vgran % 256 * 2 ^ 24 +
    (if invar then 16 else r.lanes) % 32 * 2 ^ 16 + bit (!invar && r.mspill) 8 +
    (if invar then 0 else r.tlevel % 4 * 16 + r.glevel % 4 * 4 + r.level % 4))

/-- LCNT (15 R330): the load count of split n in byte n. -/
def Group.lcnt (g : Group) : Word64 :=
  BitVec.ofNat 64 ((List.range 4).foldl (fun a i => a + min (g.split i).loadCnt 63 * 256 ^ i) 0)

/-- The eight entries of the region stack, top first (05 R117); those beyond the depth: notes/assumptions 61. DESIGN CHOICE. -/
def Group.regionAll (g : Group) : List Word16 := (g.region ++ g.regionRest ++ List.replicate 8 0).take 8

/-- The eight entries `l` with the first `n` of them on the stack. -/
def Group.setRegions (g : Group) (n : Nat) (l : List Word16) : Group := { g with region := l.take n, regionRest := l.drop n }

/-- REGION (06 R146). -/
def Group.regionWord (g : Group) : Word64 :=
  let at' (i : Nat) : Nat := (atD g.region i 0).toNat
  BitVec.ofNat 64 (min g.region.length 8 * 2 ^ 48 + at' 2 * 2 ^ 32 + at' 1 * 2 ^ 16 + at' 0)

/-- Coordinate of a team by its linear index (04 R89): X varies fastest. -/
def Launch.coord (l : Launch) (i : Nat) (axis : Nat) : Nat :=
  match axis with | 0 => i % l.tx | 1 => i / l.tx % l.ty | _ => i / (l.tx * l.ty)

/-- The value of a system register that rsr reads to a k register (13 R291). -/
def Site.sysReg (h : Site) (s : State) (n : Nat) : Word64 :=
  match n with
  | 1 => BitVec.ofNat 64 (if h.team.formed then 0 else h.g.index)
  | 2 | 3 | 4 => if h.team.formed then 0xFFFFFFFF else BitVec.ofNat 64 (h.l.coord h.team.index (n - 2))
  | 5 => BitVec.ofNat 64 h.g.width
  | 6 => h.g.residWord h.l (s.teamScratch h.team)
  | 7 => h.g.batchDone ++ h.g.batchOpen
  | 8 => h.g.lcnt
  | 9 => BitVec.ofNat 64 (if h.l.kd.kflags.getLsbD 2 then h.l.turn else s.cycleOf h.core)
  | 10 => BitVec.ofNat 64 h.g.retired
  | 11 => h.g.regionWord
  | 12 => h.sp.mode.setWidth 64
  | 13 => h.g.grantSeq ++ h.g.grantKind ++ (0#24)
  | _ => 0

end Sys2Proof.Machine
end

