-- ==== Sys2Proof/Machine/Parts.lean ====
section
/-!
DEFINITION. What a partition's own contexts run on (03 R60): its cores and copy engines that none of its children holds.
-/

namespace Sys2Proof.Machine

open Sys2Proof

/-- Children of a partition. Partition 0 is its own parent in its record, and no child of itself. -/
def State.children (s : State) (p : Nat) : List (Nat × Part) := tfilter s.parts fun i x => i != p && x.parent == p

/-- Cores of dies that are isolated or without power: out of use until the next cold reset (01 R10, R27). -/
def State.lostCores (s : State) : BitVec 160 :=
  [0, 1, 2, 3].foldl (fun m d =>
    if (s.die d).isolated || !(s.die d).powered then m ||| (BitVec.ofNat 160 (2 ^ 40 - 1) <<< (40 * d)) else m) 0

/-- Cores of a partition that no child holds. -/
def State.ownCores (s : State) (p : Nat) : BitVec 160 :=
  match tget s.parts p with
  | none => 0
  | some x => (s.children p).foldl (fun m c => m &&& ~~~c.2.cores) (x.cores &&& ~~~s.lostCores)

/-- Cores of a partition on which its own work may start: those that an open PART_SET takes away take none (03 R59; 04 R90, R95). -/
def State.openCores (s : State) (p : Nat) : BitVec 160 := s.ownCores p &&& ~~~s.plant.leavingCores

/-- Copy engines of dies that are out of use. -/
def State.lostEngines (s : State) : Word32 :=
  [0, 1, 2, 3].foldl (fun m d =>
    if (s.die d).isolated || !(s.die d).powered then m ||| (0xFF#32 <<< (8 * d)) else m) 0

/-- Copy engines of a partition that no child holds, and whose die is in use. -/
def State.ownEngines (s : State) (p : Nat) : Word32 :=
  match tget s.parts p with
  | none => 0
  | some x => (s.children p).foldl (fun m c => m &&& ~~~c.2.engines) (x.engines &&& ~~~s.lostEngines)

/-- Copy engines on which its own copies may start: those that an open PART_SET takes away only if there are no others (R59). -/
def State.openEngines (s : State) (p : Nat) : Word32 :=
  let m := s.ownEngines p &&& ~~~s.plant.leavingEngines
  if m = 0 then s.ownEngines p else m

/-- Cores of a mask on a die, in ascending order. -/
def coresOn (m : BitVec 160) (die : Nat) : List Nat := ((List.range 40).map (40 * die + ·)).filter m.getLsbD

/-- The die nearest to `d` that satisfies `ok`, in Solder hops, ties to the lowest number. -/
def State.nearestDie (s : State) (d : Nat) (ok : Nat → Bool) : Option Nat :=
  leastBy (hops s.plant.boundUp d) ((List.range 4).filter ok)

end Sys2Proof.Machine
end

