-- ==== Sys2Proof/Machine/FrameOps.lean ====
section
/-!
DEFINITION. Frames and continuation records (11 R228 to R239): the frame heap, handles, a thread's view, charging and
retirement, the gather pool (04 R92, R93), the arrival of a group at a barrier word (15 R339), and the exit of a split
(13 R281).
-/

namespace Sys2Proof.Machine

open Sys2Proof

/-! ### Handles (R229) -/

def handleDie (h : Word64) : Nat := (h.extractLsb' 32 2).toNat
def handleOff (h : Word64) : Nat := (h.extractLsb' 0 32).toNat

def Frame.at' (f : Frame) (ctx die off : Nat) : Bool := f.ctx == ctx && f.die == die && f.offset == off

/-- The frame a handle names, unless it is null or stale. -/
def State.frame? (s : State) (ctx : Nat) (h : Word64) : Option Frame :=
  s.frames.find? fun f => f.at' ctx (handleDie h) (handleOff h) && f.handle == h && f.fstate != 0 && h != 0

/-- Replaces a frame, or lists it. -/
def State.setFrame (s : State) (f : Frame) : State :=
  if s.frames.any fun x => x.at' f.ctx f.die f.offset then
    { s with frames := s.frames.map fun x => if x.at' f.ctx f.die f.offset then f else x }
  else { s with frames := s.frames ++ [f] }

/-! ### The heap (R228, R229) -/

/-- Bytes a frame occupies. -/
def frameBytes (size : Nat) : Nat := (64 + size + 63) / 64 * 64

/-- 2 MiB units of an Electrum store (10 R214). -/
def Store.units (x : Store) : Nat := (272 * 2 ^ x.linesLog + 32 * 2 ^ x.rootsLog + 0x1FFFFF) / 0x200000

/-- 2 MiB units taken from a partition: by the front end for contexts (05 R115), and for stores (10 R214). -/
def State.unitsTaken (s : State) (part : Nat) : Nat :=
  s.ctxs.foldl (fun n (c, x) => if x.live && s.partOf c == part then n + x.units else n) 0 +
  s.stores.foldl (fun n (_, x) => if x.part == part then n + x.units else n) 0

/-- Units left of a partition's HBM after its children's shares (03 R60). -/
def State.unitsFree (s : State) (part : Nat) : Nat :=
  ((tget s.parts part).map fun p => p.hbmGib * 512).getD 0 -
    (s.children part).foldl (fun n (_, x) => n + x.hbmGib * 512) 0 - s.unitsTaken part

/-- A free place of `n` bytes in a heap of `size` bytes, at or after `start` first, then from the bottom. -/
def heapPlace (used : List (Nat × Nat)) (size start n : Nat) : Option Nat :=
  let free (o : Nat) : Bool := decide (64 ≤ o) && decide (o + n ≤ size) && used.all fun (a, b) => decide (b ≤ o) || decide (o + n ≤ a)
  let cands := (start :: 64 :: used.map (·.2)).filter free
  let least (l : List Nat) : Option Nat := l.foldl (fun m x => some (match m with | none => x | some y => min x y)) none
  match least (cands.filter (start ≤ ·)) with
  | some x => some x
  | none => least cands

/-- The offset of a new frame on a die, with the units its heap then has; none if it has no room and cannot grow. -/
def State.heapAlloc (s : State) (ctx die size : Nat) : Option (Nat × Nat) :=
  let x := (tget s.ctxs ctx)
  let units := (x.bind fun c => tget c.heapUnits die).getD 0
  let log := (x.bind fun c => tget c.heapLog die).getD []
  let used := s.frames.filterMap fun f =>
    if f.ctx == ctx && f.die == die && f.fstate != 0 then some (f.offset, f.offset + frameBytes f.size) else none
  let place (u : Nat) : Option (Nat × Nat) :=
    (heapPlace used (u * 0x200000) (64 + 64 * (Config.heapSeed log % (u * 0x8000))) (frameBytes size)).map fun o => (o, u)
  match place units with
  | some r => some r
  | none => if units < 32 && 0 < s.unitsFree (s.partOf ctx) then place (units + 1) else none

/-- Creates a frame (R237, the FREE row) whose parent, if any, gains one in LIVE. None without room. The header and the slots are written in
HBM (03 R72; notes/assumptions 65). -/
def State.newFrame (s : State) (ctx die size depth : Nat) (retire : Word32) (parent creator : Word64) (isLaunch : Bool)
    (launch : Nat) : Option (State × Word64) :=
  match s.heapAlloc ctx die size with
  | none => none
  | some (off, units) =>
    let gen : Word16 := ((s.frames.find? fun f => f.at' ctx die off).map (·.gen)).getD 1
    let f : Frame :=
      { ctx := ctx, die := die, offset := off, gen := gen, parent := parent, liveN := 0, retire := retire, size := size,
        depth := depth, fstate := 1, bodyDone := false, isLaunch := isLaunch, launch := launch, creator := creator,
        slots := [] }
    let s := ((s.setFrame f).heapNote ctx die units (2 * off)).chargeHbm ctx (frameBytes size) 0
    let s := match s.frame? ctx parent with
      | some p => s.setFrame { p with liveN := p.liveN + 1 }
      | none => s
    some (s, f.handle)

/-! ### Views (R232) -/

def View (h : Site) (t k : Nat) : Word64 :=
  let d : Word64 := readCell h.g.d k
  if k ≤ 1 || d != 0 then d
  else if h.team.formed && decide (t < h.g.gathered) then
    BitVec.ofNat 64 (readLe h.team.scratch (64 * t + 8 + 8 * (k - 1)) 8)
  else 0

/-! ### Join records and the gather pool -/

/-- Ancestors of a frame by PARENT, itself first. -/
def State.ancestors (s : State) (ctx : Nat) : Nat → Word64 → List Word64
  | 0, _ => []
  | n + 1, h => match s.frame? ctx h with
    | none => []
    | some f => h :: s.ancestors ctx n f.parent

/-- The join record of a frame (R238, 21 R395). -/
def State.joinRecord (s : State) (f : Frame) : List Byte :=
  let chain := s.ancestors f.ctx (f.depth + 1) f.handle
  let at' (k : Nat) : Nat := if k ≤ f.depth then (atD chain (f.depth - k) 0).toNat else 0
  let slot (i : Nat) : Nat := if 8 * i < f.size then (readCell f.slots i : Word64).toNat else 0
  natBytes 4 f.retire.toNat ++ natBytes 4 (4 + f.depth) ++ natBytes 8 (at' 1) ++ natBytes 8 (at' 2) ++
  natBytes 8 (at' 3) ++ (List.range 4).flatMap fun i => natBytes 8 (slot i)

/-- Records a die's gather pool holds (04 R92). -/
def Die.poolCount (d : Die) : Nat := d.bins.foldl (fun n b => n + b.recs.length) 0

def poolSize : Nat := 65536

def Bin.same (a b : Bin) : Bool := a.launch == b.launch && a.entry == b.entry && a.d1 == b.d1

/-- A bin forms a group from its oldest `n` records (04 R93), which then hold no pool entry. The group's number counts
the groups that the launch formed before it (06 R148). -/
def State.formGroup (s : State) (die n : Nat) (b : Bin) : State :=
  match tget s.launches b.launch with
  | none => s
  | some l =>
    let d := s.die die
    let f : Formed := { launch := b.launch, entry := b.entry, d1 := b.d1, recs := b.recs.take n, serial := l.formedCount }
    let rest := { b with recs := b.recs.drop n }
    let bins := d.bins.map fun x => if x.same b then rest else x
    let s := s.setDie die { d with bins := bins.filter fun x => !x.recs.isEmpty, formed := d.formed ++ [f] }
    s.setLaunch b.launch { l with formedCount := l.formedCount + 1 }

/-- A record enters the pool of a die, in the bin of its launch, entry index and d1 handle (04 R92). A bin that holds WIDTH
records forms a group at once, but in an Invar launch at the end of the turn. -/
def State.pool (s : State) (die launch : Nat) (rec : List Byte) (core : Option Nat) : State :=
  match tget s.launches launch with
  | none => s
  | some l =>
    let d := s.die die
    let new : Bin :=
      { launch := launch, entry := BitVec.ofNat 32 (field rec 0 4), d1 := BitVec.ofNat 64 (field rec 8 8), recs := [] }
    let old : Bin := (d.bins.find? new.same).getD new
    let b := { old with recs := old.recs ++ [(rec, core, s.refTime)] }
    let s := s.setDie die { d with
      bins := if d.bins.any new.same then d.bins.map fun x => if x.same b then b else x else d.bins ++ [b] }
    if l.kd.width ≤ b.recs.length && !l.isInvar then s.formGroup die l.kd.width b else s

/-- Inserts in ascending order of a measure. -/
def insertBy {α : Type} (f : α → Nat) (x : α) : List α → List α
  | [] => [x]
  | y :: r => if f x < f y then x :: y :: r else y :: insertBy f x r

def sortBy {α : Type} (f : α → Nat) (l : List α) : List α := l.foldl (fun r x => insertBy f x r) []

/-- The bins of a launch, in ascending order of die, entry index and d1 handle (06 R148). -/
def State.binsOf (s : State) (launch : Nat) : List (Nat × Bin) :=
  (List.range 4).flatMap fun d =>
    (sortBy (fun b => b.entry.toNat * 2 ^ 64 + b.d1.toNat) ((s.die d).bins.filter fun b => b.launch == launch)).map fun b => (d, b)

/-- The full groups of a bin, at the end of a turn of an Invar launch. -/
def State.formFull (launch width : Nat) : Nat → State → State
  | 0, s => s
  | n + 1, s => match (s.binsOf launch).find? fun x => decide (width ≤ x.2.recs.length) with
    | some (d, b) => State.formFull launch width n (s.formGroup d width b)
    | none => s

/-! ### Retirement (R237) -/

def noRetire : Word32 := 0xFFFFFFFF

/-- The frame becomes FREE: GEN + 1, and a decrement of the parent's LIVE is on its way. -/
def State.freeFrame (s : State) (f : Frame) : State :=
  let s := (s.setFrame f.freed).noteFree f
  if f.parent = 0 then s else { s with decs := s.decs ++ [{ ctx := f.ctx, handle := f.parent }] }

/-- The row of R237 that a frame's body and LIVE select. -/
def State.settleFrame (s : State) (f : Frame) : State :=
  if f.bodyDone && f.liveN == 0 then
    if f.fstate == 3 || f.retire == noRetire then s.freeFrame f
    else
      let g := { f with fstate := 3, liveN := 1 }
      let s := s.setFrame g
      let d := s.die f.die
      s.setDie f.die { d with joins := d.joins ++ [(f.launch, s.joinRecord g)] }
  else s.setFrame { f with fstate := if f.bodyDone && f.fstate == 1 then 2 else f.fstate }

/-- A frame's body finishes; nothing happens if it already has (R237). -/
def State.finishBody (s : State) (f : Frame) : State := if f.bodyDone then s else s.settleFrame { f with bodyDone := true }

/-- LIVE − 1. -/
def State.decLive (s : State) (d : FrameDec) : State :=
  match s.frame? d.ctx d.handle with
  | some f => if f.liveN = 0 then s else s.settleFrame { f with liveN := f.liveN - 1 }
  | none => s

/-- FRAME_LIVE_DECREMENT (R237): decrement `i` reaches its frame. -/
def State.takeDec (s : State) (i : Nat) : State :=
  match s.decs[i]? with
  | some d => { s with decs := s.decs.eraseIdx i }.decLive d
  | none => s

/-- JOIN_RECORD_ENQUEUE (R238): the oldest join record that waits on a die enters its pool, if an entry is free. -/
def State.takeJoin (s : State) (die : Nat) : State :=
  let d := s.die die
  match d.joins with
  | (l, rec) :: r =>
    if d.poolCount < poolSize then (s.setDie die { d with joins := r }).pool die l rec none else s
  | [] => s

/-- Every decrement and join of a launch's context, the oldest first, within an Invar launch's turn (06 R147). -/
def State.runDecs (ctx : Nat) : Nat → State → State
  | 0, s => s
  | n + 1, s =>
    match s.decs.findIdx? fun d => d.ctx == ctx with
    | some i => State.runDecs ctx n (s.takeDec i)
    | none => match (List.range 4).find? fun d => !(s.die d).joins.isEmpty && decide ((s.die d).poolCount < poolSize) with
      | some d => State.runDecs ctx n (s.takeJoin d)
      | none => s

/-- What frames and records still do in an Invar launch's turn. -/
def State.endTurnFrames (s : State) (h : Site) : State :=
  if h.l.isInvar && h.l.isFrames then
    let joins := (List.range 4).foldl (fun n d => n + (s.die d).joins.length) 0
    let s := s.runDecs h.ctx (2 * (s.decs.length + s.frames.length) + joins + 1)
    s.formFull h.lid h.l.kd.width (1 + (s.binsOf h.lid).foldl (fun n b => n + b.2.recs.length) 0)
  else s

/-! ### Barrier arrival (15 R339) -/

/-- The word at which the group arrives: every live split has executed bara or barx on it (06 R127). -/
def Group.arrivesAt (g : Group) : Option Nat :=
  match g.liveSplits with
  | [] => none
  | i :: _ => match (g.split i).park with
    | some (.barrier off _ true _) =>
      if g.liveSplits.all fun j => match (g.split j).park with | some (.barrier o _ true _) => o == off | _ => false then some off
      else none
    | _ => none

/-- A split whose group has arrived: bara stays parked in the phase of the arrival, barx resumes. -/
def arrivedSplit (ph : Bool) (x : Split) : Split :=
  match x.park with
  | some (.barrier off _ true stays) =>
    if stays then { x with park := some (.barrier off ph false true) } else { x with park := none, pc := nextPc x.pc }
  | _ => x

/-- The group of an entry arrives at its barrier word, if it now does. -/
def State.tryArrive (s : State) (key : Nat) : State :=
  match tget s.groups key with
  | none => s
  | some g => match g.arrivesAt, tget s.teams g.team with
    | some off, some t =>
      let ph := bwPhase (t.word off)
      let s := { s with groups := tset s.groups key { g with splits := g.splits.map (arrivedSplit ph) } }
      s.updateWord g.team off fun w => if bwLeft w = 0 then w else bwWithLeft w (bwLeft w - 1)
    | _, _ => s

/-- Parks the split, which no longer holds others back (06 R126, R142). It stays at its instruction. -/
def State.parkSplit (s : State) (h : Site) (p : Park) : State :=
  let s := s.modGroup h fun g =>
    (g.setSplit h.ix { g.split h.ix with park := some p, parkStart := s.refTime, parkedNs := 0 }).unhold h.ix
  s.retire h

/-! ### Leaving -/

/-- Releases the reuse latch of a core if `p` holds of it (07 R154). -/
def State.freeLatch (s : State) (c : Nat) (p : Latch → Bool) : State :=
  let k := s.core c
  s.setCore c { k with latch := k.latch.filter fun l => !p l }

/-- A team whose last group has left leaves its cores: its barrier pages, scratchpad and matrix ownership are free
(04 R84, R85), holds and reservations may end, and a squeeze of the core notes it (05 R119). -/
def State.teamLeaves (s : State) (id : Nat) : State :=
  match tget s.teams id with
  | none => s
  | some t =>
    let gone := ((s.launchOf t).map fun l => [(l.fn, l.q)]).getD []
    let core (s : State) (c : Nat) : State :=
      let s := s.absorb (fun _ => false) id t c
      (s.freeLatch c fun l => l.team == id).setCore c { s.core c with owner := (s.core c).owner.filter (· != id) }
    let s := s.setTeam id { t with resident := false, smap := [] }
    forAll (fun s c => s.afterLeave gone c) (forAll core s t.cores) t.cores

def Launch.total (l : Launch) : Nat := l.tx * l.ty * l.tz

/-- Every team of the LAUNCH packet has been dispatched. -/
def Launch.allDispatched (l : Launch) : Bool := decide (l.total ≤ l.nextStep) && l.shares.all fun x => x.next == x.stop

/-- The launch frame's body finishes when every team dispatched from the LAUNCH packet has exited (R231). -/
def State.endLaunchFrame (s : State) (lid : Nat) : State :=
  match tget s.launches lid with
  | none => s
  | some l =>
    if l.framed && l.allDispatched && !(s.teams.any fun (_, t) => t.launch == lid && !t.formed && decide (0 < t.groupsLeft))
    then match s.frame? l.ctx l.frame with
      | some f => s.finishBody f
      | none => s
    else s

/-- Names of groups that have left their core begin here; that of a matrix operation keeps the core and entry below it, and requests keep
the core beside it. -/
def leftGroup : Nat := 2 ^ 32

def MatOp.groupLeft (m : MatOp) : Bool := decide (leftGroup ≤ m.group)

/-- A group whose last split is freed leaves the core (06 R124); its team's carving stays as it is (04 R88). Engines keep what they do for it, but deliver nothing
into it (07 R157). -/
def State.groupLeaves (s : State) (key : Nat) : State :=
  match tget s.groups key with
  | none => s
  | some g =>
    let past := leftGroup + s.freeCtr
    let ride (r : Rider) : Rider := if r.core * 64 + r.entry = key then { r with entry := past } else r
    let drop (a : AtomReq) : AtomReq :=
      { if a.core * 64 + a.entry = key then { a with entry := past, back := none } else a with riders := a.riders.map ride }
    let dropCa (a : CaStep) : CaStep := if a.core * 64 + a.entry = key then { a with entry := past, back := none } else a
    let dropCopy (_ : Nat) (c : Copy) : Copy := if c.group = key then { c with group := leftGroup } else c
    let dropMat (m : MatOp) : Option MatOp :=
      if m.group != key then some m else if m.retired then none else some { m with group := leftGroup + key }
    let s := forAll (fun s c => s.freeLatch c fun l => l.group == key) s [pairOf (key / 64), pairOf (key / 64) + 1]
    let s := { s with
      groups := terase s.groups key, mats := s.mats.filterMap dropMat, atoms := s.atoms.map drop, caSteps := s.caSteps.map dropCa,
      copies := tmap s.copies dropCopy }
    match tget s.teams g.team with
    | none => s
    | some t =>
      let gone := t.gone ++ [(t.quarterIx key, g.base, g.base + g.poolBytes)]
      let s := s.setTeam g.team { t with groupsLeft := t.groupsLeft - 1, gone := gone }
      if t.groupsLeft ≤ 1 then (s.teamLeaves g.team).endLaunchFrame t.launch else s

/-- Frames the threads created, whose bodies have not finished (R237). -/
def State.createdBy (s : State) (h : Site) (ts : List Nat) : List Frame :=
  s.frames.filter fun f => f.ctx == h.ctx && f.fstate == 1 && !f.bodyDone && !f.isLaunch &&
    f.creator.toNat / 256 == h.entry + 256 * h.core && ts.contains (f.creator.toNat % 256)

/-- Finishes the bodies of frames, each as it then stands. -/
def State.finishBodies (s : State) (fs : List Frame) : State :=
  forAll (fun s f => match s.frame? f.ctx f.handle with | some g => s.finishBody g | none => s) s fs

/-- Whose work a request is: its own, and that of the requests that routers have merged into it (08 R189). -/
def AtomReq.owners (a : AtomReq) : List Rider :=
  { team := a.team, core := a.core, entry := a.entry, q := a.acc.q, instr := a.instr, thread := a.thread } :: a.riders

/-- The request is one of the group at an entry, or a router has merged one of the group into it (08 R189). -/
def AtomReq.isOf (core entry : Nat) (r : AtomReq) : Bool :=
  (r.core == core && r.entry == entry) || r.riders.any fun x => x.core == core && x.entry == entry

/-- Takes the threads of the issuing split out of the group (13 R281): their frames' bodies finish, their charges end, the
split is freed, and the group leaves or arrives where its other splits wait. -/
def State.exitSplit (s : State) (h : Site) : State :=
  let ts := h.active
  let mine := h.g.charges.filter fun (t, _) => ts.contains t
  let s := s.finishBodies (s.createdBy h ts)
  let dec (x : Nat × Word64) : FrameDec := { ctx := h.ctx, handle := x.2 }
  let s := { s with decs := s.decs ++ mine.map dec }
  let s := s.modGroup h fun g =>
    let g := ((g.cover h.coverBase h.ix 0).setSplit h.ix Split.empty).unhold h.ix
    { g with
      alive := g.alive &&& ~~~h.mask, charges := g.charges.filter fun (t, _) => !ts.contains t,
      retired := g.retired + 1 }
  let s := { s with freeCtr := s.freeCtr + 1 }
  match tget s.groups h.key with
  | none => s
  | some g => (if g.liveSplits.isEmpty then s.groupLeaves h.key else s.tryArrive h.key).endTurnFrames h

end Sys2Proof.Machine
end

