-- ==== Sys2Proof/Machine/MemInstr.lean ====
section
/-!
DEFINITION. Loads, stores, lwait, prefetch and frame slots (15 R322 to R332). An access takes its value at issue; a load's
result is written later, by LOAD_COMPLETE, in issue order (R329).
-/

namespace Sys2Proof.Machine

open Sys2Proof

/-! ### Addresses and checks (R324) -/

/-- Checks 1 and 2: an access of `n` bytes at a virtual address. It waits with its walk (01 R13). -/
def accessVa (s : State) (h : Site) (va : Word64) (n : Nat) (k : Access) : Except Stop Acc :=
  if va.toNat % n ≠ 0 then .error (.cause .addrAlign va 0)
  else if (s.walkStall h.ctx va.toNat).isSome then .error .wait
  else lift va ((s.resolve h.ctx h.die true va.toNat n k).map fun a => { a with q := h.l.q })

/-- Checks 1 and 3: an access at a team-local offset (07 R160). -/
def accessLocal (s : State) (h : Site) (off : Word64) (n : Nat) : Except Stop Acc :=
  let o := off.toNat
  let acc (ls : List Loc) : Acc := { ctx := h.ctx, die := h.die, locs := ls, leaf := none }
  if o % n ≠ 0 then .error (.cause .addrAlign off 0)
  else if o + n ≤ s.teamScratch h.team then .ok (acc ((List.range n).map fun i => .scratch h.tid (o + i)))
  else if 0x100000 ≤ o ∧ o + n ≤ 0x101000 then .ok (acc ((List.range n).map fun i => .barrier h.tid (o - 0x100000 + i)))
  else .error (.cause .scratchBound off 0)

/-- A thread's checked access. -/
structure Piece where
  t : Nat
  va : Word64
  acc : Acc
  deriving DecidableEq, Repr

/-- Checks every thread's access, the lowest first, before anything is done (R324). -/
def pieces (f : Nat → Except Stop (Word64 × Acc)) : List Nat → Except Stop (List Piece)
  | [] => .ok []
  | t :: r => match f t with
    | .error e => .error e
    | .ok (va, a) => match pieces f r with
      | .error e => .error e
      | .ok ps => .ok ({ t := t, va := va, acc := a } :: ps)

/-- An atomic of the group is still on its way to one of the bytes: a later access to them follows it (08 R187, note 1). -/
def State.atomAhead (s : State) (h : Site) (a : Acc) : Bool :=
  s.atoms.any fun r => r.isOf h.core h.entry && r.acc.meets a

/-- The step reads a root, which makes it an acquire (10 R225, R226). -/
def CaOp.acquires : CaOp → Bool | .rootRead .. | .rootSwap .. => true | _ => false

/-- A root read of the group is still on its way: a later access is not performed before it (08 R185). -/
def State.acquireAhead (s : State) (h : Site) : Bool :=
  s.caSteps.any fun c => c.core == h.core && c.entry == h.entry && c.op.acquires

/-- A slot of a frame is accessed after a root read of the group that is on its way. -/
def rootDone (s : State) (h : Site) : Except Stop Unit := if s.acquireAhead h then .error .wait else .ok ()

/-- An access waits behind the group's own atomic or root read, or a repair copy (01 R13). -/
def mustWait (s : State) (h : Site) (ps : List Piece) : Bool :=
  ps.any fun p => s.accWaits p.acc || s.atomAhead h p.acc || s.acquireAhead h

/-- An access waits, or cannot be read (01 R12, R14). -/
def readable (s : State) (h : Site) (ps : List Piece) : Except Stop Unit :=
  if mustWait s h ps then .error .wait
  else match ps.find? fun p => s.accBad p.acc with
    | some p => .error (.cause .memUncorr p.va 0)
    | none => .ok ()

def writable (s : State) (h : Site) (ps : List Piece) : Except Stop Unit :=
  if mustWait s h ps then .error .wait else .ok ()

/-- An atomic or an Electrum step of the group is on its way to its engine. -/
def State.stepsAhead (s : State) (h : Site) : Bool :=
  (s.atoms.any fun r => r.isOf h.core h.entry) || s.caSteps.any fun c => c.core == h.core && c.entry == h.entry

/-- Every atomic and Electrum step of the group has reached its engine (15 R340), as the rows atom of 08 R182 and R183 keep before a
release, a fence, a barrier, a copy, a matrix operation or a publication. An acquire waits in the same way, since a program without a race
has a sequentially consistent result (R180). -/
def atomsDone (s : State) (h : Site) : Except Stop Unit := if s.stepsAhead h then .error .wait else .ok ()

/-- The bytes of an access as a number, the lowest address least significant. -/
def State.loadNum (s : State) (a : Acc) : Word64 := BitVec.ofNat 64 (leNat (s.peek a))

/-- The accesses of one instruction, each with the sectors that those before it are charged for (03 R72). -/
def chargedOnce : List Nat → List Piece → List Piece
  | _, [] => []
  | seen, p :: r => { p with acc := { p.acc with seen := seen } } :: chargedOnce (seen ++ p.acc.sectors) r

def State.readAll (s : State) (ps : List Piece) : State := forAll (fun s p => s.afterRead p.acc) s (chargedOnce [] ps)

/-- Stores in ascending thread order, so the highest thread's bytes stand (R325). -/
def State.storeAll (s : State) (ps : List Piece) (n : Nat) (f : Nat → Word64) : State :=
  forAll (fun s p => s.poke p.acc (natBytes n (f p.t).toNat)) s (chargedOnce [] ps)

/-! ### Late results (R329) -/

/-- Destinations of threads for which the instruction issued too early. -/
def Site.spoils (h : Site) : Dest → Bool
  | .v _ t => h.earlyFor t
  | .k _ => h.early

/-- The results of an instruction that issued too early are free values. -/
def Site.mark (h : Site) (ty : BitVec 5) (rs : List (Dest × Word64)) : List (Dest × Word64) :=
  if h.early then
    rs.mapIdx fun i (d, x) => (d, if h.spoils d then d.typed ty (h.free 64 (0x10000 + i)) else x)
  else rs

/-- Adds a late instruction to the split's, with `waits` engine answers to come; two late writes of one destination leave
a free value in it. -/
def Group.addPending (g : Group) (i : Nat) (ty : BitVec 5) (waits : Nat) (dests : List Dest) (rs : List (Dest × Word64)) : Group :=
  let p : Pending :=
    { id := g.nextPending, split := i, ty := ty, waits := waits, dests := dests, results := rs,
      clobbered := dests.filter g.awaits }
  let g := dests.foldl Group.clobber g
  let x := g.split i
  { (g.setSplit i { x with loadCnt := x.loadCnt + 1 }) with pending := g.pending ++ [p], nextPending := g.nextPending + 1 }

/-- An instruction that would raise the load count to 64 waits at issue (R329). -/
def Site.room (h : Site) : Except Stop Unit := if 63 ≤ h.sp.loadCnt then .error .wait else .ok ()

/-- The results of a variable-class instruction, of elements of a type: written later, or within the turn in an Invar launch
(06 R147). -/
def State.late (s : State) (h : Site) (rs : List (Dest × Word64)) (ty : BitVec 5 := 8) : State :=
  let rs := h.mark ty rs
  if h.l.isInvar then s.modGroup h fun g => rs.foldl (fun g r => g.putDest r.1 r.2) g
  else s.modGroup h fun g => g.addPending h.ix ty 0 (rs.map (·.1)) rs

/-- Destinations and values of an element of a type (09 R196). -/
def elemResult (ty : BitVec 5) (d t : Nat) (x : Word64) : List (Dest × Word64) :=
  if tyWide ty then [(.v d t, x), (.v (d + 1) t, x >>> 32)] else [(.v d t, extendPat ty x)]

/-- The bytes an element stores: its low n bytes, or a free value where the source is not written yet. -/
def Site.stored (h : Site) (d t : Nat) : Word64 := h.elem h.ty d t

/-! ### Loads and stores -/

/-- A per-thread load; `ok` says that the sub-function is legal. An acquire first lets the group's atomics reach their engines. -/
def loadOp (s : State) (ok acquire : Bool) (d a : BitVec 8) (va : Site → Nat → Except Stop (Word64 × Acc)) : Host.Outcome State Fault Refusal :=
  issue s fun h => do
    need ok .encIllegal 0 h.mask
    h.accepts tyScalar
    h.typed h.ty [d.toNat] [a.toNat]
    h.room
    if acquire then atomsDone s h else .ok ()
    let ps ← pieces (va h) h.acting
    readable s h ps
    let rs := ps.flatMap fun p => elemResult h.ty d.toNat p.t (s.loadNum p.acc)
    .ok (((s.readAll ps).late h rs h.ty).advance h)

/-- A per-thread store; a release first lets the group's atomics reach their engines. -/
def storeOp (s : State) (ok release : Bool) (d a : BitVec 8) (va : Site → Nat → Except Stop (Word64 × Acc)) : Host.Outcome State Fault Refusal :=
  issue s fun h => do
    need ok .encIllegal 0 h.mask
    h.accepts tyScalar
    h.typed h.ty [d.toNat] [a.toNat]
    if release then atomsDone s h else .ok ()
    let ps ← pieces (va h) h.acting
    writable s h ps
    .ok ((s.storeAll ps (tyWidth h.ty / 8) (h.stored d.toNat)).advance h)

/-- Size of an access of MODE.type. -/
def Site.size (h : Site) : Nat := tyWidth h.ty / 8

/-- K[b] + ext(V[a][t]) (R322); `e` = 1 is zero extension. -/
def Site.vaOf (h : Site) (e : BitVec 1) (a : BitVec 8) (b : BitVec 6) (t : Nat) : Word64 :=
  let x := h.vr a.toNat t
  h.kr b.toNat + (if e = 1 then x.setWidth 64 else x.signExtend 64)

/-- (V[a][t] + imm8 × n) mod 2^32. -/
def Site.offOf (h : Site) (a i : BitVec 8) (t : Nat) : Word64 :=
  (h.vr a.toNat t + i.setWidth 32 * BitVec.ofNat 32 h.size).setWidth 64

def vaPiece (s : State) (k : Access) (h : Site) (va : Word64) : Except Stop (Word64 × Acc) :=
  match accessVa s h va h.size k with
  | .ok a => .ok (va, a)
  | .error e => .error e

def localPiece (s : State) (h : Site) (off : Word64) : Except Stop (Word64 × Acc) :=
  match accessLocal s h off h.size with
  | .ok a => .ok (off, a)
  | .error e => .error e

def execLd (e : BitVec 1) (d a : BitVec 8) (b : BitVec 6) (s : State) : Host.Outcome State Fault Refusal :=
  loadOp s true false d a fun h t => vaPiece s .read h (h.vaOf e a b t)

def execSt (e : BitVec 1) (d a : BitVec 8) (b : BitVec 6) (s : State) : Host.Outcome State Fault Refusal :=
  storeOp s true false d a fun h t => vaPiece s .write h (h.vaOf e a b t)

/-- Scopes 5 to 7 are ENC_ILLEGAL (R326). -/
def scopeOk (c : BitVec 3) : Bool := decide (c.toNat ≤ 4)

/-- lda: an acquire at its scope. Accesses take effect one at a time (notes/assumptions 11), so beyond the group's atomics the scope
orders nothing more. -/
def execLda (c : BitVec 3) (d a : BitVec 8) (b : BitVec 6) (s : State) : Host.Outcome State Fault Refusal :=
  loadOp s (scopeOk c) true d a fun h t => vaPiece s .read h (h.vaOf 0 a b t)

/-- stl: a release at its scope. -/
def execStl (c : BitVec 3) (d a : BitVec 8) (b : BitVec 6) (s : State) : Host.Outcome State Fault Refusal :=
  storeOp s (scopeOk c) true d a fun h t => vaPiece s .write h (h.vaOf 0 a b t)

def execLds (d a i : BitVec 8) (s : State) : Host.Outcome State Fault Refusal :=
  loadOp s true false d a fun h t => localPiece s h (h.offOf a i t)

def execSts (d a i : BitVec 8) (s : State) : Host.Outcome State Fault Refusal :=
  storeOp s true false d a fun h t => localPiece s h (h.offOf a i t)

/-- The 8-byte access of ldk and stk: memory for space 0, team-local for space 1. -/
def uniformPiece (s : State) (h : Site) (space : BitVec 1) (a : BitVec 6) (i : BitVec 8) (k : Access) : Except Stop Piece :=
  let va := h.kr a.toNat + i.setWidth 64 * 8
  match if space = 1 then accessLocal s h va 8 else accessVa s h va 8 k with
  | .ok x => .ok { t := 0, va := va, acc := x }
  | .error e => .error e

def execLdk (m : BitVec 1) (d a : BitVec 6) (i : BitVec 8) (s : State) : Host.Outcome State Fault Refusal :=
  issue s fun h => do
    h.room
    let p ← uniformPiece s h m a i .read
    readable s h [p]
    .ok (((s.readAll [p]).late h [(.k d.toNat, s.loadNum p.acc)]).advance h)

def execStk (m : BitVec 1) (d a : BitVec 6) (i : BitVec 8) (s : State) : Host.Outcome State Fault Refusal :=
  issue s fun h => do
    let p ← uniformPiece s h m a i .write
    writable s h [p]
    .ok ((s.storeAll [p] 8 fun _ => h.kr d.toNat).advance h)

/-- lwait (R331): holds the split while its load count is above n, and covers all but the n late instructions that issued last. -/
def execLwait (n : BitVec 6) (s : State) : Host.Outcome State Fault Refusal :=
  issue s fun h =>
    if n.toNat < h.sp.loadCnt then .error .wait
    else .ok ((s.modGroup h fun g => g.cover h.coverBase h.ix n.toNat).advance h)

/-- pref (R328): changes no value that any load returns. -/
def execPref (a : BitVec 8) (_b : BitVec 6) (s : State) : Host.Outcome State Fault Refusal :=
  issue s fun h => do
    h.allotted [a.toNat]
    .ok (s.advance h)

/-! ### Frame slots (R332) -/

/-- The frame of a thread's view at a depth that holds a slot (11 R232). -/
def slotFrame (s : State) (h : Site) (k : BitVec 2) (slot : BitVec 8) (t : Nat) : Except Stop Frame :=
  if !h.l.isFrames then .error (.cause .frameBound 0 h.mask)
  else match s.frame? h.ctx (View h t k.toNat) with
    | none => .error (.cause .frameBound 0 h.mask)
    | some f => if f.size ≤ 8 * slot.toNat then .error (.cause .frameBound 0 h.mask) else .ok f

/-- The frames of several threads, all checked first. -/
def slotFrames (s : State) (h : Site) (k : BitVec 2) (slot : BitVec 8) : List Nat → Except Stop (List (Nat × Frame))
  | [] => .ok []
  | t :: r => match slotFrame s h k slot t with
    | .error e => .error e
    | .ok f => match slotFrames s h k slot r with
      | .error e => .error e
      | .ok fs => .ok ((t, f) :: fs)

def Frame.slot (f : Frame) (i : Nat) : Word64 := readCell f.slots i

/-- A plain 8-byte store to a slot. -/
def State.putSlot (s : State) (ctx : Nat) (hd : Word64) (i : Nat) (x : Word64) : State :=
  match s.frame? ctx hd with
  | some f => s.setFrame { f with slots := writeCell f.slots i x }
  | none => s

/-- Charges one access to a slot of each of some frames, as 64-byte sectors of HBM (03 R72, R75): the slots of one number lie in as many
sectors as there are frames (11 R228, R230). -/
def State.chargeSlots (s : State) (h : Site) (fs : List Frame) : State :=
  let us := (fs.map fun f => (f.die, f.offset)).eraseDups
  s.chargeHbm h.ctx (64 * us.length) (64 * (us.filter fun u => u.1 != h.die).length)

def execLdf (d : BitVec 8) (k : BitVec 2) (slot : BitVec 8) (s : State) : Host.Outcome State Fault Refusal :=
  issue s fun h => do
    evenAll [d.toNat]
    h.allotted [d.toNat]
    need h.l.isFrames .frameBound 0 h.mask
    h.room
    let fs ← slotFrames s h k slot h.acting
    rootDone s h
    let rs : List (Dest × Word64) := fs.flatMap fun (t, f) =>
      [(.v d.toNat t, f.slot slot.toNat), (.v (d.toNat + 1) t, f.slot slot.toNat >>> 32)]
    .ok (((s.chargeSlots h (fs.map (·.2))).late h rs).advance h)

/-- ldfk resolves through the lowest active thread, whatever the guard. -/
def execLdfk (d : BitVec 6) (k : BitVec 2) (slot : BitVec 8) (s : State) : Host.Outcome State Fault Refusal :=
  issue s fun h => do
    h.room
    let f ← slotFrame s h k slot (lowestThread h.mask)
    rootDone s h
    .ok (((s.chargeSlots h [f]).late h [(.k d.toNat, f.slot slot.toNat)]).advance h)

def execStf (d : BitVec 8) (k : BitVec 2) (slot : BitVec 8) (s : State) : Host.Outcome State Fault Refusal :=
  issue s fun h => do
    evenAll [d.toNat]
    h.allotted [d.toNat]
    need h.l.isFrames .frameBound 0 h.mask
    let fs ← slotFrames s h k slot h.acting
    rootDone s h
    .ok ((forAll (fun s (t, f) => s.putSlot h.ctx f.handle slot.toNat (h.vpair d.toNat t)) (s.chargeSlots h (fs.map (·.2))) fs).advance h)

end Sys2Proof.Machine
end

