-- ==== Sys2Proof/Machine/Control.lean ====
section
/-!
DEFINITION. Control and system instructions (13 R272 to R292).
-/

namespace Sys2Proof.Machine

open Sys2Proof

/-- The split stays where it is not taken and divides where it is (13 R276). -/
def branchOn (s : State) (h : Site) (target take : Word64) : Except Stop State :=
  if !targetOk target then .error (.cause .brAlign 0 h.mask)
  else
    let taken := h.mask &&& take
    let stay := h.mask &&& ~~~take
    let next := nextPc h.sp.pc
    if taken = 0 then .ok (s.advance h)
    else if stay = 0 then .ok (s.goto h target)
    else if !h.g.divideReady h.ix next target then .error .wait
    else match h.g.divide h.coverBase h.ix taken stay next target with
      | none => .error (.cause .tableBound 0 h.mask)
      | some g => .ok ((s.modGroup h fun _ => g).retire h)

/-- The threads that take a branch, if those whose condition is undefined go with the others. -/
def Site.together (h : Site) (take : Word64) : Word64 :=
  if h.mask &&& ~~~h.undef &&& take = 0 then take &&& ~~~h.undef else take ||| h.undef

/-- A branch. An undefined condition raises no fault (00 R6): where no entry is free, its threads go with the others. -/
def branch (s : State) (h : Site) (target take : Word64) : Except Stop State :=
  match branchOn s h target take with
  | .error (.cause c a t) => if h.undef &&& h.mask = 0 then .error (.cause c a t) else branchOn s h target (h.together take)
  | r => r

/-- The whole split goes to `t`, with or without a link (13 R279). -/
def transfer (s : State) (h : Site) (t : Word64) (link : Option (BitVec 6)) : Except Stop State :=
  if !targetOk t then .error (.cause .brAlign 0 h.mask)
  else
    let s := match link with
      | some d => s.writeK h d.toNat (nextPc h.sp.pc)
      | none => s
    .ok ((s.goto h t).drain h)

/-- The access to entry K[a] of the launch's dispatch table (13 R278). -/
def dispatchAcc (s : State) (h : Site) (a : BitVec 6) : Except Stop Piece :=
  let i := (h.kr a.toNat).toNat
  let va := h.l.kd.dispatch + BitVec.ofNat 64 (8 * i)
  if h.l.kd.dispatchN ≤ i then .error (.cause .tableBound 0 h.mask)
  else match s.resolve h.ctx h.die false va.toNat 8 .read with
    | .error c => .error (.cause c va h.mask)
    | .ok x => .ok { t := 0, va := va, acc := { x with q := h.l.q } }

/-- Entry K[a] of the launch's dispatch table, whose read is a plain load. An undefined index gives some valid target (00 R6). -/
def dispatchEntry (s : State) (h : Site) (a : BitVec 6) : Except Stop (Word64 × State) :=
  if h.undefK a.toNat then .ok (h.targetReg a.toNat, s)
  else match dispatchAcc s h a with
    | .error e => .error e
    | .ok p => match readable s h [p] with
      | .error .wait => .error .wait
      | .error (.cause c va _) => .error (.cause c va h.mask)
      | .ok _ => .ok (s.loadNum p.acc, s.readAll [p])

/-- Writes the split's mode register, if the value is valid (13 R289). -/
def writeMode (s : State) (h : Site) (m : Word32) : Except Stop State :=
  if !modeValid m then .error (.cause .modeInvalid 0 h.mask)
  else .ok (((s.modSplit h fun x => { x with mode := m }).advance h).drain h)

/-- Stops the split with BRK or TRAPI once its earlier results are written (13 R283). -/
def stopAfter (s : State) (h : Site) (c : Cause) : Except Stop State :=
  if h.g.hasPending h.ix then .error .wait else .ok (s.raise h c 0 h.mask (nextPc h.sp.pc))

/-- Updates the region stack; RBRK may stop the split at the region edge (06 R146). -/
def regionEdge (s : State) (h : Site) (id : Option Word16) (stk : List Word16) : Except Stop State :=
  let rb := (s.core h.core).rbrk
  let s' := s.modGroup h fun g => { g with region := stk }
  if rb.getLsbD 16 && id == some (rb.extractLsb' 0 16) then stopAfter s' h .brk else .ok (s'.advance h)

/-! ### The instructions -/

/-- nop (R274). -/
def execNop (s : State) : Host.Outcome State Fault Refusal := issue s fun h => .ok (s.advance h)

/-- Unassigned opcodes and opcode 0x7F raise ENC_ILLEGAL (12 R264), before the mode register is checked (R265). -/
def execUnassignedOpcode (_w : Word32) (s : State) : Host.Outcome State Fault Refusal :=
  match s.site? with
  | none => .refused .noIssuingSplit
  | some h =>
    if h.sp.stopped then .refused .noIssuingSplit
    else if h.sp.draining && h.g.hasPending h.ix then .next s
    else .next (s.raise h .encIllegal 0 h.mask h.sp.pc)

/-- br (R276). -/
def execBr (o : BitVec 24) (s : State) : Host.Outcome State Fault Refusal :=
  issueWhole s fun h => branch s h (branchTarget h.sp.pc o) h.mask

/-- brp (R276). -/
def execBrp (p : BitVec 3) (o : BitVec 16) (s : State) : Host.Outcome State Fault Refusal :=
  issueWhole s fun h => branch s h (branchTarget h.sp.pc o) (h.pr p.toNat)

/-- brn (R276). -/
def execBrn (p : BitVec 3) (o : BitVec 16) (s : State) : Host.Outcome State Fault Refusal :=
  issueWhole s fun h => branch s h (branchTarget h.sp.pc o) (~~~(h.pr p.toNat))

/-- bru.nz (R276). -/
def execBruNz (k : BitVec 6) (o : BitVec 16) (s : State) : Host.Outcome State Fault Refusal :=
  issueWhole s fun h => branch s h (branchTarget h.sp.pc o) (if h.kr k.toNat = 0 then 0 else h.mask)

/-- bru.z (R276). -/
def execBruZ (k : BitVec 6) (o : BitVec 16) (s : State) : Host.Outcome State Fault Refusal :=
  issueWhole s fun h => branch s h (branchTarget h.sp.pc o) (if h.kr k.toNat = 0 then h.mask else 0)

/-- call (R279). -/
def execCall (d : BitVec 6) (o : BitVec 16) (s : State) : Host.Outcome State Fault Refusal :=
  issue s fun h => transfer s h (branchTarget h.sp.pc o) (some d)

/-- callt (R279). -/
def execCallt (d a : BitVec 6) (s : State) : Host.Outcome State Fault Refusal :=
  issue s fun h => do
    let (t, s') ← dispatchEntry s h a
    transfer s' h t (some d)

/-- jmpt (R279). -/
def execJmpt (a : BitVec 6) (s : State) : Host.Outcome State Fault Refusal :=
  issue s fun h => do
    let (t, s') ← dispatchEntry s h a
    transfer s' h t none

/-- ret (R279). -/
def execRet (a : BitVec 6) (s : State) : Host.Outcome State Fault Refusal :=
  issue s fun h => transfer s h (h.targetReg a.toNat) none

/-- exit (R281). It waits for every earlier result of the split (06 R123, 15 R329), and in a FRAMES launch for the group's
atomics and Electrum steps, which precede the LIVE decrements it leads to (11 R237; 08 R188). -/
def execExit (s : State) : Host.Outcome State Fault Refusal :=
  issue s fun h =>
    if h.g.hasPending h.ix || (h.l.isFrames && s.stepsAhead h) then .error .wait else .ok (s.exitSplit h)

/-- yield (R282): the hold of 06 R126, on while another split could issue. -/
def execYield (s : State) : Host.Outcome State Fault Refusal :=
  issue s fun h =>
    let others := h.g.liveSplits.any fun j => j != h.ix && !(h.g.split j).stopped
    let s := (s.modGroup h fun g => g.unhold h.ix).advance h
    .ok (s.modSplit h fun x => { x with held := others })

/-- brk (R283). The code lies in the instruction word that the trap record holds. -/
def execBrk (_c : BitVec 16) (s : State) : Host.Outcome State Fault Refusal := issue s fun h => stopAfter s h .brk

/-- trap (R283). -/
def execTrap (_c : BitVec 16) (s : State) : Host.Outcome State Fault Refusal := issue s fun h => stopAfter s h .trapi

/-- nret (R284). -/
def execNret (s : State) : Host.Outcome State Fault Refusal :=
  issue s fun h =>
    let t := h.targetReg 62
    if !targetOk t then .error (.cause .brAlign 0 h.mask) else .ok (s.noticeReturn h t)

/-- nchk (R285). -/
def execNchk (o : BitVec 24) (s : State) : Host.Outcome State Fault Refusal :=
  issue s fun h =>
    let t := branchTarget h.sp.pc o
    if !targetOk t then .error (.cause .brAlign 0 h.mask)
    else if h.g.npend then .ok ((s.modGroup h fun g => { g with npend := false }).goto h t)
    else .ok (s.advance h)

/-- enter (R286): of nine identifiers the bottom one is discarded. -/
def execEnter (i : BitVec 16) (s : State) : Host.Outcome State Fault Refusal :=
  issue s fun h => regionEdge s h (some i) ((i :: h.g.region).take 8)

/-- leave (R286). -/
def execLeave (s : State) : Host.Outcome State Fault Refusal :=
  issue s fun h => regionEdge s h h.g.region.head? (h.g.region.drop 1)

/-- Bits of MODE that a field mask selects (12 R249). -/
def modeFieldBits (m : BitVec 5) : Word32 :=
  (if m.getLsbD 0 then 0x01F#32 else 0) ||| (if m.getLsbD 1 then 0x0E0#32 else 0) |||
  (if m.getLsbD 2 then 0x100#32 else 0) ||| (if m.getLsbD 3 then 0x200#32 else 0) |||
  (if m.getLsbD 4 then 0xC00#32 else 0)

/-- mode (R289). -/
def execMode (m : BitVec 5) (v : BitVec 12) (s : State) : Host.Outcome State Fault Refusal :=
  issue s fun h =>
    let f := modeFieldBits m
    writeMode s h ((h.sp.mode &&& ~~~f) ||| (v.setWidth 32 &&& f))

/-- mode.gd (R289). -/
def execModeGd (n : BitVec 3) (sense en : BitVec 1) (s : State) : Host.Outcome State Fault Refusal :=
  issue s fun h => writeMode s h ((h.sp.mode &&& ~~~0x1F0000#32) ||| ((n ++ sense ++ en).setWidth 32 <<< 16))

/-- modr (R289). -/
def execModr (a : BitVec 6) (s : State) : Host.Outcome State Fault Refusal :=
  issue s fun h => writeMode s h (h.modeReg a.toNat)

/-- rsr (R291): TIDX writes every active thread, whatever the guard. -/
def execRsr (d n : BitVec 8) (s : State) : Host.Outcome State Fault Refusal :=
  issue s fun h =>
    if 0x0D < n.toNat then .error (.cause .encIllegal 0 h.mask)
    else if n = 0 then do
      h.allotted [d.toNat]
      .ok ((s.writeV h d.toNat h.active fun t => BitVec.ofNat 32 t).advance h)
    else .ok ((s.writeK h (d.toNat % 64) (h.sysReg s n.toNat)).advance h)

/-- wsr (R291): only RESID can be written, and of it only NEN and NPEND. -/
def execWsr (a : BitVec 6) (n : BitVec 8) (s : State) : Host.Outcome State Fault Refusal :=
  issue s fun h =>
    if n ≠ 6 then .error (.cause .encIllegal 0 h.mask)
    else
      let x := h.kr a.toNat
      let s := s.modGroup h fun g => { g with nen := x.getLsbD 63, npend := g.npend && !x.getLsbD 62 }
      .ok ((s.advance h).drain h)

end Sys2Proof.Machine
end

