-- ==== Sys2Proof/Machine/Sha.lean ====
section
/-!
DEFINITION. SHA-256 (FIPS 180-4), which names Electrum lines (10 R217) and digests the finaliser's input (12 R270). The message and its
blocks are numbers, most significant byte first, and a word is 32 bits cut from one.
-/

namespace Sys2Proof.Machine

open Sys2Proof

/-- The number that bytes hold, the first most significant. -/
def beNat (bs : List Byte) : Nat := bs.foldl (fun a b => a * 256 + b.toNat) 0

/-- Word `i` of a number of `n` words. -/
def wordOf (n x i : Nat) : Word32 := BitVec.ofNat 32 (x >>> (32 * (n - 1 - i)))

/-- Round constants, eight to a number: the fractions of the cube roots of the first 64 primes. -/
def digestRoots : List Nat := [
  0x428a2f9871374491b5c0fbcfe9b5dba53956c25b59f111f1923f82a4ab1c5ed5,
  0xd807aa9812835b01243185be550c7dc372be5d7480deb1fe9bdc06a7c19bf174,
  0xe49b69c1efbe47860fc19dc6240ca1cc2de92c6f4a7484aa5cb0a9dc76f988da,
  0x983e5152a831c66db00327c8bf597fc7c6e00bf3d5a7914706ca635114292967,
  0x27b70a852e1b21384d2c6dfc53380d13650a7354766a0abb81c2c92e92722c85,
  0xa2bfe8a1a81a664bc24b8b70c76c51a3d192e819d6990624f40e3585106aa070,
  0x19a4c1161e376c082748774c34b0bcb5391c0cb34ed8aa4a5b9cca4f682e6ff3,
  0x748f82ee78a5636f84c878148cc7020890befffaa4506cebbef9a3f7c67178f2]

/-- Words of the first chaining value: the fractions of the square roots of the first eight primes. -/
def digestStart : Nat := 0x6a09e667bb67ae853c6ef372a54ff53a510e527f9b05688c1f83d9ab5be0cd19

/-- The chaining value: the words a to d, and e to h, each the newest first. -/
structure Chain where
  hi : Word32 × Word32 × Word32 × Word32
  lo : Word32 × Word32 × Word32 × Word32

def Chain.ofNat (n : Nat) : Chain :=
  let w := wordOf 8 n
  ⟨(w 0, w 1, w 2, w 3), (w 4, w 5, w 6, w 7)⟩

def Chain.words (x : Chain) : List Word32 :=
  let (a, b, c, d) := x.hi
  let (e, f, g, h) := x.lo
  [a, b, c, d, e, f, g, h]

/-- The exclusive or of a word turned right by each of three amounts. -/
def turned (i j k : Nat) (x : Word32) : Word32 := x.rotateRight i ^^^ (x.rotateRight j ^^^ x.rotateRight k)

/-- The same with the last one shifted. -/
def turnedShift (i j k : Nat) (x : Word32) : Word32 := x.rotateRight i ^^^ (x.rotateRight j ^^^ x >>> k)

/-- Bits of `y` where `x` is one, else of `z`; and the bits that two of three words have. -/
def pickBits (x y z : Word32) : Word32 := z ^^^ (x &&& (y ^^^ z))
def majority (x y z : Word32) : Word32 := (x &&& y) ||| (z &&& (x ||| y))

/-- One round: `u` is the sum of the round's constant and message word. -/
def Chain.round (x : Chain) (u : Word32) : Chain :=
  let (a, b, c, d) := x.hi
  let (e, f, g, h) := x.lo
  let t := h + u + turned 6 11 25 e + pickBits e f g
  ⟨(t + turned 2 13 22 a + majority a b c, a, b, c), (d + t, e, f, g)⟩

/-- Runs the rounds over a window of 16 message words, which each round slides by one word. -/
def Chain.rounds : List Word32 → List Word32 → Chain → Chain
  | k :: ks, w :: ws, x =>
    let next := w + turnedShift 7 18 3 (atD ws 0 0) + atD ws 8 0 + turnedShift 17 19 10 (atD ws 13 0)
    Chain.rounds ks (ws ++ [next]) (x.round (k + w))
  | _, _, x => x

/-- Takes a block of 512 bits into the chaining value. -/
def Chain.absorb (x : Chain) (block : Nat) : Chain :=
  let ks := digestRoots.flatMap fun n => (List.range 8).map (wordOf 8 n)
  let y := Chain.rounds ks ((List.range 16).map (wordOf 16 block)) x
  Chain.ofNat ((x.words.zip y.words).foldl (fun n (a, b) => n * 2 ^ 32 + (a + b).toNat) 0)

/-- The 32-byte digest. The padded message fills `m` blocks: the message's bits, a one, zeros, and its length in the last 64 bits. -/
def sha256 (bs : List Byte) : List Byte :=
  let bits := 8 * bs.length
  let m := (bits + 64) / 512 + 1
  let whole := (2 * beNat bs + 1) * 2 ^ (512 * m - bits - 1) + bits
  let x := (List.range m).foldl (fun (x : Chain) i => x.absorb (whole >>> (512 * (m - 1 - i)) % 2 ^ 512)) (Chain.ofNat digestStart)
  x.words.flatMap fun w => (natBytes 4 w.toNat).reverse

end Sys2Proof.Machine
end

