-- ==== Sys2Proof/Machine/CaStore.lean ====
section
/-!
DEFINITION. Electrum stores (10 R214 to R226): lines and their names, lookup-or-allocate, references and drops, root
slots, and a tree's expansion, each as an operation on one store.
-/

namespace Sys2Proof.Machine

open Sys2Proof

abbrev CaName := BitVec 128

def maxCount : Nat := 2 ^ 32 - 1

/-- Prefix of a content (R217): the first 15 bytes of the digest of the domain byte and the line. -/
def contentPrefix (interior : Bool) (content : List Byte) : BitVec 120 :=
  BitVec.ofNat 120 (beNat ((sha256 ((if interior then 0x49#8 else 0x4C#8) :: content)).take 15))

def Line.name (x : Line) : CaName := x.pre ++ BitVec.ofNat 8 x.index

/-- Child `i` of a line's bytes (R216). -/
def childOf (content : List Byte) (i : Nat) : CaName := BitVec.ofNat 128 (field content (16 * i) 16)

/-- The non-null children, in ascending order. -/
def childrenOf (content : List Byte) : List CaName := ((List.range 16).map (childOf content)).filter (· != 0)

/-- The live line of a name; every other name is stale (R218). -/
def Store.live? (x : Store) (n : CaName) : Option Line := x.lines.find? fun l => l.dying.isNone && l.name == n

/-- The line of a name, live or dying. -/
def Store.modLine (x : Store) (n : CaName) (f : Line → Line) : Store :=
  { x with lines := x.lines.map fun l => if l.name = n then f l else l }

/-- Reference added (R218): the count saturates. -/
def Store.addRef (x : Store) (n : CaName) : Store := x.modLine n fun l => { l with count := min (l.count + 1) maxCount }

/-- A drop of a live name (R218): a saturated count stays, and a count of 1 leaves the line DYING. -/
def Store.dropRef (x : Store) (team : Nat) (n : CaName) : Store :=
  x.modLine n fun l =>
    if l.dying.isSome || l.count == maxCount then l
    else if 1 < l.count then { l with count := l.count - 1 }
    else { l with count := 0, dying := some (team, if l.interior then childrenOf l.content else []) }

/-- A dying line returns to the pool. Its index stays withheld while any line of its prefix is left (R220). -/
def Store.free (x : Store) (l : Line) : Store :=
  let lines := x.lines.filter fun y => y.name != l.name
  let used := if lines.any fun y => y.pre == l.pre then (l.pre, l.index) :: x.used else x.used.filter fun u => u.1 != l.pre
  { x with lines := lines, used := used }

/-- One step that a drop has left for later: a drop that follows a swap, a child of a dying line, or its freeing. -/
def Store.cascade (x : Store) : Store :=
  match x.drops with
  | (t, n) :: r => { x with drops := r }.dropRef t n
  | [] =>
    match x.lines.find? fun l => l.dying.isSome with
    | none => x
    | some l => match l.dying with
      | some (t, c :: r) => (x.modLine l.name fun y => { y with dying := some (t, r) }).dropRef t c
      | _ => x.free l

/-- Steps are left for later. -/
def Store.pendingSteps (x : Store) : Bool := !x.drops.isEmpty || x.lines.any fun l => l.dying.isSome

/-- Steps of a team are left (20 R394). -/
def Store.pendingOf (x : Store) (team : Nat) : Bool :=
  x.drops.any (fun d => d.1 == team) || x.lines.any fun l => (l.dying.map (·.1)) == some team

def Store.drain : Nat → Store → Store
  | 0, x => x
  | n + 1, x => if x.pendingSteps then Store.drain n x.cascade else x

/-- Every step that is left, in an Invar launch's turn (06 R147): each line dies once and drops at most 16 children. -/
def Store.drainAll (x : Store) : Store := x.drain (x.drops.length + 18 * x.lines.length)

/-- The lowest collision index that R220 allows for a prefix. -/
def Store.freeIndex (x : Store) (p : BitVec 120) : Option Nat :=
  (List.range 256).find? fun i =>
    decide (p ≠ 0 ∨ i ≠ 0) && !(x.lines.any fun l => l.pre == p && l.index == i) &&
    !(x.used.any fun u => u.1 == p && u.2 == i)

/-- What lookup-or-allocate answers. -/
inductive Lookup where
  | name (n : CaName) (found : Bool) (x : Store)
  | fault (c : Cause)
  | wait
  deriving DecidableEq, Repr

/-- Lookup-or-allocate (R219). -/
def Store.lookup (x : Store) (interior : Bool) (content : List Byte) : Lookup :=
  let p := contentPrefix interior content
  let children := if interior then childrenOf content else []
  if children.any fun c => (x.live? c).isNone then .fault .caStale
  else
    match x.lines.find? fun l => l.dying.isNone && l.interior == interior && l.content == content with
    | some l => .name l.name true (x.addRef l.name)
    | none =>
      match x.freeIndex p with
      | none => .fault .caCollision
      | some i =>
        if 2 ^ x.linesLog ≤ x.lines.length then if x.pendingSteps then .wait else .fault .caFull
        else
          let l : Line := { interior := interior, pre := p, index := i, count := 1, content := content, dying := none }
          let y := children.foldl Store.addRef x
          .name l.name false { y with lines := y.lines ++ [l] }

/-- A root slot (R225); every slot starts at zeros. -/
def Store.root (x : Store) (slot : Nat) : Root := (tget x.roots slot).getD { name := 0, version := 0 }

/-- A root swap (R226): its success, and the name and version it returns. None if the new name is stale. -/
def Store.swap (x : Store) (team slot : Nat) (v : Word64) (n : CaName) : Option (Bool × CaName × Word64 × Store) :=
  let r := x.root slot
  if n != 0 && (x.live? n).isNone then none
  else if r.version = v then
    let y := if n = 0 then x else x.addRef n
    let y := { y with roots := tset y.roots slot { name := n, version := v + 1 } }
    some (true, r.name, v, if r.name = 0 then y else { y with drops := y.drops ++ [(team, r.name)] })
  else some (false, r.name, r.version, x)

/-- The 64 bytes at offset `off` of a tree's expansion (R224). None where a line's kind does not match its height. -/
def Store.treeChunk (x : Store) : Nat → CaName → Nat → Option (List Byte)
  | 0, n, off => match x.live? n with
    | some l => if l.interior then none else some ((l.content.drop (off % 256)).take 64)
    | none => none
  | h + 1, n, off => match x.live? n with
    | some l =>
      if !l.interior then none
      else
        let c := childOf l.content (off / (256 * 16 ^ h) % 16)
        if c = 0 then some (natBytes 64 0) else x.treeChunk h c off
    | none => none

end Sys2Proof.Machine
end

