-- ==== Sys2Proof/Machine/Place.lean ====
section
/-!
DEFINITION. Placing teams: what is free on a core, whether a team fits there (04 R84), role carving (R87, R88), clusters
and their aligned blocks (R86), and the state in which a team starts (R89; 11 R233).
-/

namespace Sys2Proof.Machine

open Sys2Proof

/-! ### Teams of a launch -/

/-- Teams that share a cluster (R86). -/
def KDesc.clusterCores (k : KDesc) : Nat := 2 ^ (if k.pair then max k.cluster 1 else k.cluster)
def KDesc.clusterTeams (k : KDesc) : Nat := if k.pair then k.clusterCores / 2 else k.clusterCores

def KDesc.isProducer (k : KDesc) (formed : Bool) (g : Nat) : Bool := !formed && k.roles && decide (g < k.prodGroups)

/-- Granules of a group (R84, R87). -/
def KDesc.granules (k : KDesc) (formed : Bool) (g : Nat) : Nat := if k.isProducer formed g then k.prodVgran else k.vgran

/-- Register-pool bytes of a group at residency level 0. -/
def KDesc.groupBytes (k : KDesc) (formed : Bool) (g : Nat) : Nat := k.granules formed g * 32 * k.width

/-- Groups that a team puts in quarter `q` of its even (0) or odd (1) core, in ascending order. A formed team has one. -/
def KDesc.groupsIn (k : KDesc) (formed : Bool) (half q : Nat) : List Nat :=
  (List.range (if formed then 1 else k.groups)).filter fun g => g / 64 == half && g % 4 == q

/-- Cores of a team, counted from its first. -/
def KDesc.halves (k : KDesc) : List Nat := if k.pair then [0, 1] else [0]

/-- Scratchpad bytes that a team takes from its even or odd core (R84). -/
def KDesc.scratchOn (k : KDesc) (total half : Nat) : Nat :=
  if !k.pair then total else if half = 0 then min total 524288 else total - 524288

/-! ### Room on a core -/

/-- What is free on a core: group-state entries and used runs of each quarter, among them those that exited groups of resident teams held
(04 R88), 1 KiB scratchpad blocks, barrier pages; and the bytes and blocks that are held for the physical function (19 R392). -/
structure Room where
  entries : List (List Nat)
  used : List (List (Nat × Nat))
  held : List Nat
  blocks : List Nat
  blocksHeld : Nat
  pages : List Nat
  deriving DecidableEq, Repr

def Room.empty : Room :=
  { entries := (List.range 4).map fun q => (List.range 16).map (16 * q + ·), used := [[], [], [], []],
    held := [0, 0, 0, 0], blocks := List.range 512, blocksHeld := 0, pages := List.range 8 }

/-- Barrier page that a team holds on a core. -/
def Team.slotOn (t : Team) (c : Nat) : Nat := if t.pair && c != t.core then t.slot2 else t.slot

/-- Physical blocks of a core that a team holds. -/
def Team.blocksOn (t : Team) (c : Nat) : List Nat :=
  (t.smap.filter fun (blk, _) => t.core + (if t.pair then blk / 512 else 0) == c).map (·.2)

def State.room (s : State) (c : Nat) : Room :=
  let gs := s.groups.filter fun x => x.1 / 64 == c
  let ts := s.teams.filter fun x => x.2.resident && x.2.cores.contains c
  let hs := (s.core c).holds.map (·.2)
  let takenBlocks := ts.flatMap fun x => x.2.blocksOn c
  let takenPages := ts.map fun x => x.2.slotOn c
  let entry (e : Nat) : Bool := gs.all fun x => x.1 % 64 != e
  { entries := (List.range 4).map fun q => ((List.range 16).map (16 * q + ·)).filter entry,
    used := (List.range 4).map fun q =>
      ((gs.filter fun x => quarterOf (x.1 % 64) == q).map fun x => (x.2.base, x.2.base + x.2.poolBytes)) ++
      ts.flatMap fun x => (x.2.gone.filter fun y => y.1 == 4 * (c - x.2.core) + q).map (·.2),
    held := (List.range 4).map fun q => hs.foldl (fun n h => n + 256 * atD h.pool q 0) 0,
    blocks := (List.range 512).filter fun b => !takenBlocks.contains b,
    blocksHeld := hs.foldl (fun n h => n + 4 * h.scr) 0,
    pages := (List.range 8).filter fun p => !takenPages.contains p }

/-- The lowest free run of `n` bytes of a pool at or above `low` (R88). -/
def lowestRun (used : List (Nat × Nat)) (low n : Nat) : Option Nat :=
  let free (o : Nat) : Bool := decide (low ≤ o) && decide (o + n ≤ 65536) &&
    used.all fun u => decide (u.2 ≤ o) || decide (o + n ≤ u.1)
  leastBy id ((low :: used.map (·.2)).filter free)

def runBytes (used : List (Nat × Nat)) : Nat := used.foldl (fun n u => n + (u.2 - u.1)) 0

/-- Where a group goes: its index, its entry, and its carved base. -/
structure Seat where
  index : Nat
  entry : Nat
  base : Nat
  deriving DecidableEq, Repr

/-- Seats one above the other from `base`. -/
def seatsFrom (size : Nat → Nat) : List Nat → List Nat → Nat → List Seat
  | g :: gs, e :: es, base => { index := g, entry := e, base := base } :: seatsFrom size gs es (base + size g)
  | _, _, _ => []

/-- The carving of one quarter: its groups in one contiguous run, the lowest entries first. -/
def Room.carveQuarter (r : Room) (gs : List Nat) (size : Nat → Nat) (low q : Nat) : Option (List Seat) :=
  let entries := atD r.entries q []
  let used := atD r.used q []
  let need := gs.foldl (fun n g => n + size g) 0
  if gs.isEmpty then some []
  else if entries.length < gs.length || 65536 < runBytes used + need + atD r.held q 0 then none
  else (lowestRun used low need).map fun base => seatsFrom size gs entries base

/-- All of the options, or none. -/
def allSome {α : Type} : List (Option α) → Option (List α)
  | [] => some []
  | some x :: r => (allSome r).map (x :: ·)
  | none :: _ => none

/-- A team's place on one core. -/
structure Berth where
  core : Nat
  seats : List Seat
  blocks : List Nat
  page : Nat
  deriving DecidableEq, Repr

/-- A place for groups on a core, with `n` blocks of scratchpad (R84); `gs` gives the groups of each quarter. -/
def Room.berth (r : Room) (core : Nat) (gs : Nat → List Nat) (size : Nat → Nat) (n low : Nat) : Option Berth :=
  match allSome ((List.range 4).map fun q => r.carveQuarter (gs q) size low q), r.pages with
  | some seats, page :: _ =>
    if r.blocks.length < n + r.blocksHeld then none
    else some { core := core, seats := seats.flatten, blocks := r.blocks.take n, page := page }
  | _, _ => none

/-- The room that is left once a berth is taken. -/
def Room.take (r : Room) (b : Berth) (size : Nat → Nat) : Room :=
  let mine (q : Nat) : List Seat := b.seats.filter fun x => x.entry / 16 == q
  { r with
    entries := r.entries.mapIdx fun q es => es.filter fun e => !(mine q).any fun x => x.entry == e,
    used := r.used.mapIdx fun q u => u ++ (mine q).map fun x => (x.base, x.base + size x.index),
    blocks := r.blocks.filter fun x => !b.blocks.contains x, pages := r.pages.filter (· != b.page) }

/-- Blocks of `n` bytes of scratchpad. -/
def blocksOf' (n : Nat) : Nat := (n + 1023) / 1024

/-- A team of a kernel placed on the cores from `c`, whose rooms `room` gives. -/
def placeTeam (room : Nat → Room) (k : KDesc) (formed : Bool) (scratch c : Nat) : Option (List Berth) :=
  allSome (k.halves.map fun h => (room (c + h)).berth (c + h) (k.groupsIn formed h) (k.groupBytes formed)
    (blocksOf' (k.scratchOn scratch h)) 0)

/-- Teams that fit at once on one empty core or pair. -/
def KDesc.perCore (k : KDesc) (scratch : Nat) : Nat :=
  let grow (x : Nat × Room × Room) (_ : Nat) : Nat × Room × Room :=
    let room (c : Nat) : Room := if c = 0 then x.2.1 else x.2.2
    match placeTeam room k false scratch 0 with
    | some [a] => (x.1 + 1, x.2.1.take a (k.groupBytes false), x.2.2)
    | some [a, b] => (x.1 + 1, x.2.1.take a (k.groupBytes false), x.2.2.take b (k.groupBytes false))
    | _ => x
  ((List.range 8).foldl grow (0, Room.empty, Room.empty)).1

/-! ### Clusters (R86) -/

/-- First cores of the aligned blocks of a die that lie wholly in a set of cores. -/
def blocksIn (m : BitVec 160) (die size : Nat) : List Nat :=
  ((List.range (40 / size)).map fun b => 40 * die + size * b).filter fun c => (List.range size).all fun i => m.getLsbD (c + i)

/-- Dies that hold a core of a set. -/
def diesOf (m : BitVec 160) : List Nat := (List.range 4).filter fun d => !(coresOn m d).isEmpty

/-- Clusters that fit at once on the empty cores of a die. -/
def KDesc.clustersOn (k : KDesc) (scratch : Nat) (m : BitVec 160) (die : Nat) : Nat :=
  (blocksIn m die k.clusterCores).length * k.perCore scratch

/-! ### Starting a team (R89; 11 R233) -/

/-- The group of a seat. -/
def startGroup (l : Launch) (team index : Nat) (f : Option Formed) (base : Nat) : Group :=
  let k := l.kd
  let n := (f.map fun x => x.recs.length).getD k.width
  let prod := k.isProducer f.isSome index
  let g := k.granules f.isSome index
  let entry := if prod then k.prodEntry else k.entry
  let k0 : Sparse 64 := writeCell [] 0 l.args
  let kf (x : Formed) : Sparse 64 := writeCell (writeCell k0 1 (x.entry.setWidth 64)) 2 (BitVec.ofNat 64 n)
  let d0 : Sparse 64 := writeCell [] 0 l.frame
  let charged (x : Formed) : List (Nat × Word64) :=
    x.recs.mapIdx fun t r =>
      let c := field r.1 4 4 % 4
      (t, if c = 0 then l.frame else BitVec.ofNat 64 (field r.1 (8 * c) 8))
  { team := team, index := index, width := k.width, vgran := g, producer := prod, base := base,
    splits := [Split.start (entry + 4) (maskOf n), Split.empty, Split.empty, Split.empty], alive := maskOf n, v := [],
    k := (f.map kf).getD k0, p := [], d := (f.map fun x => writeCell d0 1 x.d1).getD d0, region := [], batchOpen := 1,
    batchDone := 0, batches := [], unclosed := [], nen := false, npend := false,
    resid := { level := 0, glevel := 0, tlevel := 0, granRes := g,
               scres := (l.scratchBytes f.isSome + 4095) / 4096, lanes := 16, mspill := false },
    glevel := 0, grantSeq := 0, grantKind := 0, retired := 0, gathered := (f.map fun x => x.recs.length).getD 0,
    charges := (f.map charged).getD [], recency := [], hot := List.range g, misses := [], giveWay := false, pending := [], nextPending := 0, restoring := false }

/-- Takes the matrix state of a core that has no owner and is not held (R85). -/
def State.takeMatrix (s : State) (id c : Nat) : State :=
  if (s.core c).ownerFree then s.giveMatrix c id none else s

/-- Scratchpad blocks by number, for the berths of a team (R84). -/
def smapOf (bs : List Berth) : Table Nat :=
  (bs.mapIdx fun h b => b.blocks.mapIdx fun i phys => (512 * h + i, phys)).flatten

/-- Lowest seat of each quarter of the berths. -/
def carveOf (bs : List Berth) : List Nat :=
  bs.flatMap fun b => [0, 1, 2, 3].map fun q =>
    ((b.seats.filter fun x => quarterOf x.entry == q).map (·.base)).foldl min 65536

/-- A team starts on its berths; a formed group takes its records into its scratchpad. MSPILL is 0 at the start, by the reset value of 05
R108, also where another team owns the core's matrix state, although 04 R85 calls the team's own spilled then (notes/assumptions 59). -/
def State.startTeam (s : State) (lid : Nat) (l : Launch) (index : Nat) (f : Option Formed) (bs : List Berth) : State :=
  let id := s.nextId
  let b0 := (bs.head?).getD { core := 0, seats := [], blocks := [], page := 0 }
  let recs := (f.map fun x => x.recs.flatMap (·.1)).getD []
  let seats := bs.flatMap fun b => b.seats.map fun x => (b.core, x)
  let t : Team :=
    { launch := lid, index := index, formed := f.isSome, core := b0.core, slot := b0.page,
      slot2 := ((bs[1]?).map (·.page)).getD 0, pair := l.kd.pair, scratch := memOf recs, barrier := [], smap := smapOf bs,
      tags := [], barWords := [], tiles := [], accs := [], tlevel := 0, carve := carveOf bs, lanes := List.replicate (4 * bs.length) 16,
      mspill := false, groupCount := seats.length, groupsLeft := seats.length, serial := id, resident := true,
      savedOwner := false, savedMatrix := false, heldOut := false, saveValid := false, savedGroups := [] }
  let put (s : State) (x : Nat × Seat) : State := s.setGroup x.1 x.2.entry (startGroup l id x.2.index f x.2.base)
  let s := forAll put ({ s with nextId := id + 1 }.setTeam id t) seats
  let s := forAll (fun s b => s.takeMatrix id b.core) s bs
  let q := s.queue l.fn l.q
  s.setQueue l.fn l.q { q with
    lastDispatch := tset q.lastDispatch (dieOf b0.core) s.refTime, starvedSince := terase q.starvedSince (dieOf b0.core) }

end Sys2Proof.Machine
end

