-- ==== Sys2Proof/Machine/Sync.lean ====
section
/-!
DEFINITION. Atomics, deques, barriers, fences and publication (15 R333 to R341; 08 R188 to R190), and the events that
complete late results and atomics.
-/

namespace Sys2Proof.Machine

open Sys2Proof

/-! ### Atomics (R333) -/

/-- The value an atomic writes, for the old value and its operands (R333, 09 R212). -/
def atomNew (ty : BitVec 5) (op : Nat) (old v1 v2 : Word64) : Word64 :=
  let f := fmtOf ty
  let fx (x : Word64) : FVal := decodeF f x.toNat
  let fput (x : FVal) : Word64 := BitVec.ofNat 64 (storeF f FCtl.plain x)
  let w := tyWidth ty
  match op with
  | 0 => if tyIsInt ty then lowBits w (old + v1) else fput (addF .rne (fx old) (fx v1))
  | 1 => if tyIsInt ty then (if intOf ty v1 < intOf ty old then v1 else old) else fput (minMaxF false (fx old) (fx v1))
  | 2 => if tyIsInt ty then (if intOf ty old < intOf ty v1 then v1 else old) else fput (minMaxF true (fx old) (fx v1))
  | 3 => old &&& v1
  | 4 => old ||| v1
  | 5 => old ^^^ v1
  | 6 => v1
  | _ => if old = v1 then v2 else old

/-- The types an atomic accepts (12 R251). -/
def atomAccepts (op : Nat) (t : BitVec 5) : Bool :=
  t == 2 || t == 3 || t == 6 || t == 7 || (tyIsFloat t && decide (op ≤ 2))

/-- On a host page only add, exch and cas of 32- and 64-bit integers are allowed (R335). -/
def hostAtomOk (op : Nat) (t : BitVec 5) : Bool := (op == 0 || op == 6 || op == 7) && tyIsInt t

def Acc.isHost (a : Acc) : Bool := match a.locs.head? with | some (.host _ _) => true | _ => false
def Acc.isHbm (a : Acc) : Bool := match a.locs.head? with | some (.hbm _) => true | _ => false

/-- The access at the host itself, even to a host-published page. -/
def Acc.atHost (a : Acc) : Acc := { a with locs := a.locs.map Loc.bare }

/-- Makes every earlier write of a context to host-published pages visible in host memory. -/
def State.flushPublished (s : State) (ctx : Nat) : State := s.flushWhere fun w => w.ctx == ctx

/-- An update that the host performs follows the earlier writes to those bytes, which may become visible at any time (02 R46; 08 R187,
note 1). -/
def State.settleHost (s : State) (a : Acc) : State := s.flushQueues fun w => a.hostAddrs.contains w.addr

/-- An 8-byte word is replaced by a function of what it holds, as one step: at the host itself in a host page (08 R188). The word is
read, so a weak sector of it is corrected (01 R12). -/
def State.updateAt (s : State) (a : Acc) (f : Word64 → Word64) : State :=
  let s := (s.settleHost a).countWeak a
  s.poke a.atHost (natBytes 8 (f (s.loadNum a.atHost)).toNat)

/-- Performs an atomic at its location, as one step: the old value and the state after. On a host page the host performs it, in a
host-published page too (R188). The word is read, so a weak sector of it is corrected (01 R12). -/
def State.atomStep (s : State) (acc : Acc) (ty : BitVec 5) (op : Nat) (v1 v2 : Word64) : Word64 × State :=
  let s := (s.settleHost acc).countWeak acc
  let old := s.loadNum acc.atHost
  (old, s.poke acc.atHost (natBytes acc.locs.length (atomNew ty op old v1 v2).toNat))

/-- The checks of one thread's atomic (R324, R335). -/
def atomPiece (s : State) (h : Site) (op : Nat) (a : BitVec 8) (t : Nat) : Except Stop (Word64 × Acc) :=
  let va := h.vpair a.toNat t
  match accessVa s h va h.size .both with
  | .error e => .error e
  | .ok acc => if acc.isHost && !hostAtomOk op h.ty then .error (.cause .addrPerm va 0) else .ok (va, acc)

/-- Operands of a thread (R334): for cas the compared value in V[d] and the new one in V[d+1], or in the pairs d and d+2. -/
def Site.atomOperands (h : Site) (op : Nat) (d : BitVec 8) (t : Nat) : Word64 × Word64 :=
  let step := if tyWide h.ty then 2 else 1
  (h.elem h.ty d.toNat t, if op = 7 then h.elem h.ty (d.toNat + step) t else 0)

/-- In an Invar launch an atomic completes within its turn (06 R147). -/
def atomNow (h : Site) (op : Nat) (d : BitVec 8) (ret : Bool) (s : State) (p : Piece) : State :=
  let (v1, v2) := h.atomOperands op d p.t
  let (old, s) := s.atomStep p.acc h.ty op v1 v2
  if ret then s.modGroup h fun g => (elemResult h.ty d.toNat p.t old).foldl (fun g r => g.putDest r.1 r.2) g else s

/-- Otherwise it is sent to its engine. -/
def atomReq (s : State) (h : Site) (op : Nat) (d a : BitVec 8) (sc : BitVec 3) (back : Option Nat) (p : Piece) : AtomReq :=
  let (v1, v2) := h.atomOperands op d p.t
  { ctx := h.ctx, team := h.tid, op := op, ty := h.ty, scope := sc, addr := p.va, acc := p.acc, brings := .one h.tid v1, v2 := v2,
    core := h.core, entry := h.entry, instr := h.ctr, thread := p.t, back := back.map fun id => (id, d.toNat, p.t), riders := [],
    pc := h.sp.pc, into := (p.acc.locs.filterMap s.locHolder).eraseDups,
    undef := h.lostV a.toNat p.t || h.lostV (a.toNat + 1) p.t, kept := back.isSome }

/-- atom and atomr. -/
def atomOp (s : State) (ret : Bool) (d a : BitVec 8) (o : BitVec 4) (sc : BitVec 3) : Host.Outcome State Fault Refusal :=
  issue s fun h => do
    let op := o.toNat
    need (scopeOk sc && decide (op ≤ if ret then 7 else 5)) .encIllegal 0 h.mask
    h.accepts (atomAccepts op)
    evenAll ([a.toNat] ++ if tyWide h.ty || op == 7 then [d.toNat] else [])
    h.allotted ([d.toNat, a.toNat] ++ if op == 7 && tyWide h.ty then [d.toNat + 2] else [])
    if ret then h.room else .ok ()
    let ps ← pieces (atomPiece s h op a) h.acting
    if (ps.any fun p => s.accWaits p.acc) || s.acquireAhead h then .error .wait
    else if h.l.isInvar then
      match ps.find? fun p => s.accBad p.acc with
      | some p => .error (.cause .memUncorr p.va 0)
      | none => .ok ((forAll (atomNow h op d ret) s ps).advance h)
    else
      let id := h.g.nextPending
      let dests := ps.flatMap fun p => (elemResult h.ty d.toNat p.t 0).map (·.1)
      let reqs := ps.map (atomReq s h op d a sc (if ret then some id else none))
      let add (g : Group) : Group := (dests.filter h.spoils).foldl Group.clobber (g.addPending h.ix h.ty ps.length dests [])
      let s := if ret then s.modGroup h add else s
      .ok (State.advance { s with atoms := s.atoms ++ reqs } h)

def execAtom (d a : BitVec 8) (o : BitVec 4) (sc : BitVec 3) (s : State) : Host.Outcome State Fault Refusal := atomOp s true d a o sc
def execAtomr (d a : BitVec 8) (o : BitVec 4) (sc : BitVec 3) (s : State) : Host.Outcome State Fault Refusal := atomOp s false d a o sc

/-- The answer of an engine to the group's pending instruction. -/
def answerGroup (id : Nat) (rs : List (Dest × Word64)) (g : Group) : Group :=
  { g with pending := g.pending.map fun p =>
      if p.id = id then { p with waits := p.waits - 1, results := p.results ++ rs } else p }

def State.answer (s : State) (key id : Nat) (rs : List (Dest × Word64)) : State :=
  match tget s.groups key with
  | some g => { s with groups := tset s.groups key (answerGroup id rs g) }
  | none => s

/-- Two requests that a router may merge (08 R189): atomr requests alike, to one location. -/
def mergeableAtoms (a b : AtomReq) : Bool :=
  !a.kept && !b.kept && a.ctx == b.ctx && a.acc.locs == b.acc.locs && a.acc.isHbm && a.op == b.op &&
  a.ty == b.ty && a.scope == b.scope

/-- Two requests of one group. -/
def Rider.fellow (a b : Rider) : Bool := a.core == b.core && a.entry == b.entry

/-- Some work of request `b` comes from an earlier instruction of a group than some work of `a`. Atomics of a group are performed in the
order of its instructions, so that a program without a race has a sequentially consistent result (08 R180). -/
def AtomReq.after (a b : AtomReq) : Bool := a.owners.any fun x => b.owners.any fun y => x.fellow y && decide (y.instr < x.instr)

/-- Some work of request `b` comes from a lower thread of the same instruction, to a byte that `a` updates too: it reaches the engine first
(15 R334). -/
def AtomReq.above (a b : AtomReq) : Bool :=
  a.acc.meets b.acc && a.owners.any fun x => b.owners.any fun y => x.fellow y && x.instr == y.instr && decide (y.thread < x.thread)

/-- Request `b` reaches its engine before request `a`. -/
def AtomReq.waits (a b : AtomReq) : Bool := a.after b || a.above b

/-- The request may execute: no other one that is on its way comes before it. -/
def firstAtom (l : List AtomReq) (i : Nat) (a : AtomReq) : Bool := (l.eraseIdx i).all fun b => !a.waits b

/-- Contributions combined, as the routers did: each combination is rounded by itself (09 R213). -/
def Combine.value (ty : BitVec 5) (op : Nat) : Combine → Word64
  | .one _ v => v
  | .both a b => atomNew ty op (a.value ty op) (b.value ty op) 0

/-- The contribution that a request carries (R189). -/
def AtomReq.value (a : AtomReq) : Word64 := a.brings.value a.ty a.op

/-- Request `b`, merged into another. -/
def AtomReq.ride (b : AtomReq) : List Rider :=
  b.owners

/-- Request `a` with request `b` merged into it (R189). Its access is that of one whose address is defined, if either's is, so that it fails
as that one would (00 R6). -/
def AtomReq.with' (a b : AtomReq) : AtomReq :=
  let w := if a.undef then b else a
  { a with
    addr := w.addr, acc := { w.acc with q := a.acc.q }, pc := w.pc, into := w.into, undef := a.undef && b.undef,
    riders := a.riders ++ b.ride, brings := .both a.brings b.brings }

/-- Requests of `rest` that those of `l` wait for, over at most `n` others. -/
def AtomReq.waitedFor (rest : List AtomReq) : Nat → List AtomReq → List AtomReq
  | 0, l => l
  | n + 1, l => AtomReq.waitedFor rest n ((l ++ rest.filter fun c => l.any fun x => x.waits c).eraseDups)

/-- Merged, the two requests would wait for one that can merge with neither and that waits for them: no engine could take any of them. -/
def AtomReq.deadlock (rest : List AtomReq) (a b : AtomReq) : Bool :=
  rest.any fun z => !mergeableAtoms a z && (AtomReq.waitedFor rest rest.length [a, b]).contains z &&
    (AtomReq.waitedFor rest rest.length [z]).any fun w => w.waits a || w.waits b

/-- Request `j` merges into request `i` on the way. Any bracketing may occur (09 R213), so nothing keeps two requests apart but a third that
has to come between them and can merge with neither. What has merged past a request that it has to follow waits until that one has executed
or has merged with it (`firstAtom`), so that no engine sees them out of order (15 R334). -/
def State.mergeAtoms (s : State) (i j : Nat) (a b : AtomReq) : State :=
  let rest := (s.atoms.eraseIdx (max i j)).eraseIdx (min i j)
  if mergeableAtoms a b && !AtomReq.deadlock rest a b then
    { s with atoms := (s.atoms.set i (a.with' b)).eraseIdx j }
  else s

/-- The access of a request as its engine makes it: if the leaf entry has changed since the walk, but for A and D, it is walked again
(03 R68). In the window it reaches what the address then shows, and nothing once its holder has left (07 R157). -/
def State.walkedAgain (s : State) (a : AtomReq) : Except Cause Acc :=
  if inWindow a.addr.toNat then
    let n := a.acc.locs.length
    let ls := (List.range n).filterMap fun i => s.windowStill a.ctx a.into (a.addr.toNat + i) .both
    .ok { a.acc with locs := if ls.length = n then ls else [] }
  else match a.acc.leaf with
  | some (ea, e, _) =>
    if BitVec.ofNat 64 (readLe s.mem ea 8) ||| 0xC0#64 = e ||| 0xC0#64 then .ok a.acc
    else match s.resolve a.ctx a.acc.die true a.addr.toNat a.acc.locs.length .both with
      | .error c => .error c
      | .ok x => if x.isHost && !hostAtomOk a.op a.ty then .error .addrPerm else .ok { x with q := a.acc.q }
  | none => .ok a.acc

/-- The access that a request makes now: one that fails ends the context, but if its address was an undefined value it reaches nothing
(00 R6). -/
def State.atomAccess (s : State) (a : AtomReq) : Except Cause Acc :=
  let none' : Acc := { a.acc with locs := [], leaf := none }
  match s.walkedAgain a with
  | .error c => if a.undef then .ok none' else .error c
  | .ok acc =>
    if s.accBad acc && !s.accWaits acc then if a.undef then .ok none' else .error .memUncorr
    else .ok acc

/-- The request at place `i` executes at its engine. One that reaches nothing any more is discarded and counts as complete; what it
would have returned is a free value (07 R157). -/
def State.runAtom (s : State) (i : Nat) (a : AtomReq) : State :=
  match s.atomAccess a with
  | .error c => s.engineStop a.ctx a.team a.pc c a.addr.toNat
  | .ok acc =>
    if s.accWaits acc then s
    else
      let (old, s) := if acc.locs = [] then (Config.freeValue 64 (s.freeCtr * 2 ^ 24 + 0x30000 + i), s)
        else s.atomStep acc a.ty a.op a.value a.v2
      let s := { s with atoms := s.atoms.eraseIdx i }
      match a.back with
      | some (id, d, t) => s.answer (a.core * 64 + a.entry) id (elemResult a.ty d t old)
      | none => s

/-- ATOMIC_AT_ENGINE (R188, R189): request `i` executes, or for another `j` takes request `j` in on the way. -/
def execAtomicAtEngine (i j : Nat) (s : State) : Host.Outcome State Fault Refusal :=
  match s.atoms[i]?, s.atoms[j]? with
  | some a, some b =>
    if i ≠ j then .next (s.mergeAtoms i j a b)
    else if firstAtom s.atoms i a then .next (s.runAtom i a)
    else .next s
  | _, _ => .next s

/-- The split that `cur` names would exit next. -/
def State.exits (s : State) (g : Group) : Bool :=
  g.mayIssue s.cur.split && !g.awaitsMerge s.cur.split &&
  ((s.siteAt s.cur.core s.cur.entry s.cur.split).bind s.nextInstr) == some .exit

/-- LOAD_COMPLETE (R329): the oldest late instruction of the split that `cur` names writes its results, if its engines have
answered, and its count comes off. An element that something else wrote meanwhile gets a free value. If the split is at its exit, which
waits for the result (06 R123), the result is discarded (13 R281; notes/assumptions 24). What is written stays undefined until it is
covered (R331). -/
def execLoadComplete (s : State) : Host.Outcome State Fault Refusal :=
  match s.group? s.cur.core s.cur.entry with
  | none => .next s
  | some g =>
    match g.pending.find? fun p => p.split == s.cur.split with
    | none => .next s
    | some p =>
      if p.waits ≠ 0 then .next s
      else
        let free (i : Nat) : Word64 := Config.freeValue 64 (s.freeCtr * 2 ^ 24 + 0x20000 + i)
        let val (i : Nat) (r : Dest × Word64) : Dest × Word64 := if p.clobbered.contains r.1 then (r.1, r.1.typed p.ty (free i)) else r
        let out := if s.exits g then p.results.filter fun r => p.clobbered.contains r.1 else p.results
        let g := (out.mapIdx val).foldl (fun g r => g.putDest r.1 r.2) g
        let x := g.split s.cur.split
        let g := g.setSplit s.cur.split { x with loadCnt := x.loadCnt - 1 }
        let g := { g with
          pending := g.pending.filter fun q => q.id != p.id, done := g.done ++ [{ p with results := [], clobbered := [] }] }
        .next { s.setGroup s.cur.core s.cur.entry g with freeCtr := s.freeCtr + 1 }

/-! ### Deques (R336, R337) -/

/-- The header of a deque: TOP, BOTTOM and the capacity's log. -/
structure Deque where
  acc : Acc
  top : Word64
  bottom : Word64
  log : Nat
  deriving DecidableEq, Repr

/-- A push is parked as full on the deque at an access (R337). -/
def State.pushParked (s : State) (h : Site) (a : Acc) : Bool :=
  s.groups.any fun x =>
    ((tget s.teams x.2.team).map s.teamCtx).getD 0 == h.ctx && x.2.splits.any fun y => y.live && !y.halted && y.trap.isNone &&
      match y.park with
      | some (.deque va ..) => match s.resolve h.ctx h.die true va.toNat 64 .both with
        | .ok b => b.locs == a.locs
        | .error _ => false
      | _ => false

/-- The checks of R324 on the 64-byte header, which must lie in device memory, and the engine's on its fields. -/
def dequeHeader (s : State) (h : Site) (va : Word64) : Except Stop Deque :=
  match accessVa s h va 64 .both with
  | .error e => .error e
  | .ok acc =>
    if !acc.isHbm then .error (.cause .addrPerm va 0)
    else if mustWait s h [{ t := 0, va := va, acc := acc }] then .error .wait
    else if s.accBad acc then .error (.cause .memUncorr va 0)
    else
      let bs := s.peek acc
      let top : Word64 := BitVec.ofNat 64 (field bs 0 8)
      let bottom : Word64 := BitVec.ofNat 64 (field bs 8 8)
      let log := field bs 16 1
      if log < 4 || 20 < log || decide (2 ^ log < (bottom - top).toNat) then .error (.cause .tableBound va 0)
      else .ok { acc := acc, top := top, bottom := bottom, log := log }

/-- The deque as an instruction that issues finds it. While a parked push has room, its retry is the engine's next step there (R342). -/
def dequeFor (s : State) (h : Site) (va : Word64) : Except Stop Deque :=
  match dequeHeader s h va with
  | .error e => .error e
  | .ok q => if decide ((q.bottom - q.top).toNat < 2 ^ q.log) && s.pushParked h q.acc then .error .wait else .ok q

/-- Entry `i` of the deque, translated by the engine. -/
def dequeEntry (s : State) (h : Site) (va : Word64) (q : Deque) (i : Word64) : Except Stop Piece :=
  let ea := va + 64 + BitVec.ofNat 64 (8 * (i.toNat % 2 ^ q.log))
  match accessVa s h ea 8 .both with
  | .error e => .error e
  | .ok acc => match readable s h [{ t := 0, va := ea, acc := acc }] with
    | .error e => .error e
    | .ok _ => .ok { t := 0, va := ea, acc := acc }

/-- Writes TOP and BOTTOM. -/
def State.putHeader (s : State) (q : Deque) (top bottom : Word64) : State :=
  (s.countWeak q.acc).poke { q.acc with locs := q.acc.locs.take 16 } (natBytes 8 top.toNat ++ natBytes 8 bottom.toNat)

/-- The state after the header at `va` has been read, if it can be. -/
def State.headerRead (s : State) (h : Site) (va : Word64) : State :=
  match accessVa s h va 64 .both with
  | .ok acc => if acc.isHbm && !s.accWaits acc && !s.accBad acc then s.afterRead acc else s
  | .error _ => s

/-- A stop of an instruction that has read something: what it read counts (01 R12). One that an undefined value excuses leaves nothing. -/
def Site.stopAfter (h : Site) (s : State) : Stop → Except Stop State
  | .wait => .error .wait
  | .cause c a t => if h.readsUndef then .error (.cause c a t) else .ok (s.raise h c a t h.sp.pc)

/-- A push of a nonzero value to a deque: whether there was room, and the state after. -/
def pushStep (s : State) (h : Site) (va v : Word64) (found : Except Stop Deque) : Except Stop (Bool × State) :=
  match found with
  | .error e => .error e
  | .ok q =>
    if v = 0 then .ok (true, s.afterRead q.acc)
    else if (q.bottom - q.top).toNat = 2 ^ q.log then .ok (false, s.afterRead q.acc)
    else match dequeEntry s h va q q.bottom with
      | .error e => .error e
      | .ok p => .ok (true, (s.poke p.acc (natBytes 8 v.toNat)).putHeader q q.top (q.bottom + 1))

/-- A pop or steal: the value, 0 from an empty deque, and the state after. -/
def takeStep (s : State) (h : Site) (va : Word64) (steal : Bool) : Except Stop (Word64 × State) :=
  match dequeFor s h va with
  | .error e => .error e
  | .ok q =>
    if q.bottom = q.top then .ok (0, s.afterRead q.acc)
    else
      let i := if steal then q.top else q.bottom - 1
      match dequeEntry s h va q i with
      | .error e => .error e
      | .ok p =>
        let s' := s.afterRead p.acc
        .ok (s.loadNum p.acc, if steal then s'.putHeader q (q.top + 1) q.bottom else s'.putHeader q q.top i)

def execDqpush (d a : BitVec 6) (c : BitVec 3) (s : State) : Host.Outcome State Fault Refusal :=
  issue s fun h => do
    need (scopeOk c) .encIllegal 0 h.mask
    atomsDone s h
    let va := h.kr a.toNat
    let v := h.kr d.toNat
    match pushStep s h va v (dequeFor s h va) with
    | .ok (room, s') => .ok (if room then s'.advance h else s'.parkSplit h (.deque va v (h.undefK a.toNat)))
    | .error e => h.stopAfter (s.headerRead h va) e

def takeOp (s : State) (steal : Bool) (d a : BitVec 6) (c : BitVec 3) : Host.Outcome State Fault Refusal :=
  issue s fun h => do
    need (scopeOk c) .encIllegal 0 h.mask
    h.room
    atomsDone s h
    match takeStep s h (h.kr a.toNat) steal with
    | .ok (x, s') => .ok ((s'.late h [(.k d.toNat, x)]).advance h)
    | .error e => h.stopAfter (s.headerRead h (h.kr a.toNat)) e

def execDqpop (d a : BitVec 6) (c : BitVec 3) (s : State) : Host.Outcome State Fault Refusal := takeOp s false d a c
def execDqsteal (d a : BitVec 6) (c : BitVec 3) (s : State) : Host.Outcome State Fault Refusal := takeOp s true d a c

/-- Unparks the split at the instruction after the one it is parked on. -/
def Split.unpark (x : Split) : Split := { x with park := none, pc := nextPc x.pc, parkedNs := 0 }

/-- DQPUSH_RETRY (R337): the push of the split that `cur` names is tried again. While there is no room the engine need not look. One whose
undefined address cannot be reached any more pushes nothing (00 R6). -/
def execDqpushRetry (s : State) : Host.Outcome State Fault Refusal :=
  match s.site? with
  | none => .next s
  | some h =>
    match h.sp.park with
    | some (.deque va v lost) =>
      match pushStep s h va v (dequeHeader s h va) with
      | .ok (true, s') => .next (s'.modSplit h Split.unpark)
      | .ok (false, _) => .next s
      | .error .wait => .next s
      | .error (.cause c a t) =>
        .next (if lost then s.modSplit h Split.unpark else (s.headerRead h va).raise h c a t h.sp.pc)
    | _ => .next s

/-! ### Barriers (R339) -/

/-- The team-local word a barrier instruction names. -/
def barrierWord (s : State) (h : Site) (a : BitVec 6) : Except Stop (Nat × Word64) :=
  let off := h.kr a.toNat
  match accessLocal s h off 8 with
  | .error e => .error e
  | .ok _ => .ok (off.toNat, h.team.word off.toNat)

/-- The word bari sets up; the reserved bits are preserved (07 R163). -/
def bariWord (w : Word64) (ext : BitVec 1) (n : Byte) : Word64 := ext ++ (0#1) ++ w.extractLsb' 56 6 ++ n ++ n ++ (0#40)

/-- The team uses a word as a barrier word: a window store to it may complete its phase (R339; notes/assumptions 48). -/
def State.useWord (s : State) (h : Site) (off : Nat) : State :=
  s.modTeam h.tid fun t => { t with barWords := if t.barWords.contains off then t.barWords else off :: t.barWords }

/-- A split parked on the word waits in the phase that a bari begins: it wakes at the next completion (R339). -/
def rephaseSplit (off : Nat) (x : Split) : Split :=
  match x.park with
  | some (.barrier o _ arriving stays) => if o = off then { x with park := some (.barrier o false arriving stays) } else x
  | _ => x

def State.rephase (s : State) (team off : Nat) : State :=
  { s with groups := tmap s.groups fun _ g => if g.team = team then { g with splits := g.splits.map (rephaseSplit off) } else g }

def execBari (d a : BitVec 6) (e : BitVec 1) (s : State) : Host.Outcome State Fault Refusal :=
  issue s fun h => do
    atomsDone s h
    let (off, w) ← barrierWord s h a
    let k := h.kr d.toNat
    let sets := bwInit w = 0 || k.getLsbD 8
    let w' := if sets then bariWord w e (k.extractLsb' 0 8) else w
    let s := (s.useWord h off).modTeam h.tid fun t => t.setWord off w'
    .ok ((if sets then s.rephase h.tid off else s).advance h)

def execBarr (d a : BitVec 6) (s : State) : Host.Outcome State Fault Refusal :=
  issue s fun h => do
    h.room
    atomsDone s h
    let (off, w) ← barrierWord s h a
    .ok (((s.useWord h off).late h [(.k d.toNat, w)]).advance h)

def execBarw (d a : BitVec 6) (s : State) : Host.Outcome State Fault Refusal :=
  issue s fun h => do
    atomsDone s h
    let (off, w) ← barrierWord s h a
    let s := s.useWord h off
    if bwPhase w != (h.kr d.toNat).getLsbD 0 then .ok (s.advance h)
    else .ok (s.parkSplit h (.barrier off (bwPhase w) false false))

def execBara (a : BitVec 6) (s : State) : Host.Outcome State Fault Refusal :=
  issue s fun h => do
    atomsDone s h
    let (off, w) ← barrierWord s h a
    .ok (((s.useWord h off).parkSplit h (.barrier off (bwPhase w) true true)).tryArrive h.key)

def execBarx (d a : BitVec 6) (s : State) : Host.Outcome State Fault Refusal :=
  issue s fun h => do
    atomsDone s h
    let (off, w) ← barrierWord s h a
    let s := (s.useWord h off).modTeam h.tid fun t => t.setWord off (bwWithBytes w (bwBytes w + (h.kr d.toNat).extractLsb' 0 40))
    .ok ((s.parkSplit h (.barrier off (bwPhase w) true false)).tryArrive h.key)

/-! ### Fences and publication (R340, R341) -/

/-- fence: every other access is performed when it issues, so only atomics on their way are waited for. -/
def execFence (c : BitVec 3) (s : State) : Host.Outcome State Fault Refusal :=
  issue s fun h => do
    need (scopeOk c) .encIllegal 0 h.mask
    atomsDone s h
    .ok (s.advance h)

/-- A publication (02 R46): the writes that satisfy `p`, then the counter. The counter itself is visible at once, in a host-published
page too. -/
def State.publish (s : State) (p : PubWrite → Bool) (a : Acc) : State :=
  (s.flushWhere p).updateAt a (· + 1)

def execPub (a : BitVec 6) (s : State) : Host.Outcome State Fault Refusal :=
  issue s fun h => do
    let va := h.kr a.toNat
    need (va.toNat % 8 == 0) .addrAlign va 0
    need (!inWindow va.toNat) .addrPerm va 0
    let acc ← accessVa s h va 8 .both
    need (acc.isHbm || acc.isHost) .addrPerm va 0
    atomsDone s h
    readable s h [{ t := 0, va := va, acc := acc }]
    .ok ((s.publish (fun w => w.ctx == h.ctx) acc).advance h)

end Sys2Proof.Machine
end

