-- ==== Sys2Proof/Machine/Engines.lean ====
section
/-!
DEFINITION. Tensor identifiers and copies (16 R344 to R355; 07 R162, R166 to R172; 09 R206, R207), and the events that
deliver and complete a copy. A copy delivers one row of its box at a time, in ascending order.
-/

namespace Sys2Proof.Machine

open Sys2Proof

/-! ### Tensor identifiers (07 R171, R172) -/

structure Ident where
  base : Word64
  scale : Word64
  dims : List Nat
  strides : List Word64
  fmt : Nat
  bfp : Nat
  swz : Nat
  flags : Nat
  deriving DecidableEq, Repr

def Ident.of (m : Mem) : Ident :=
  { base := BitVec.ofNat 64 (readLe m 0 8), scale := BitVec.ofNat 64 (readLe m 8 8),
    dims := (List.range 4).map fun k => readLe m (16 + 4 * k) 4,
    strides := (List.range 3).map fun k => BitVec.ofNat 64 (readLe m (32 + 8 * k) 8),
    fmt := readLe m 56 1, bfp := readLe m 57 1, swz := readLe m 58 1, flags := readLe m 59 1 }

def Ident.dim (i : Ident) (k : Nat) : Nat := atD i.dims k 1
def Ident.m (i : Ident) : Nat := i.bfp % 16
def Ident.bl (i : Ident) : Nat := 8 * 2 ^ (i.bfp / 16 % 4)
def Ident.valid (i : Ident) : Bool := i.flags % 2 == 1
def Ident.spad (i : Ident) : Bool := i.flags / 2 % 2 == 1
def Ident.rows (i : Ident) : Nat := i.dim 1 * i.dim 2 * i.dim 3

/-- Element width in bits. -/
def Ident.width (i : Ident) : Nat := match i.fmt with | 0 | 8 => 32 | 1 | 2 => 16 | 5 => i.m | _ => 8

/-- Address of column `i0` of flat row `r`. -/
def Ident.rowAddr (i : Ident) (r i0 : Nat) : Word64 :=
  let st (k : Nat) : Word64 := atD i.strides k 0
  let ix (n : Nat) : Word64 := BitVec.ofNat 64 n
  i.base + ix (r % i.dim 1) * st 0 + ix (r / i.dim 1 % i.dim 2) * st 1 + ix (r / (i.dim 1 * i.dim 2)) * st 2 +
    ix (i0 * i.width / 8)

/-- Address of the scale of the block that holds column `i0` of flat row `r`. -/
def Ident.scaleAddr (i : Ident) (r i0 : Nat) : Word64 := i.scale + BitVec.ofNat 64 (r * (i.dim 0 / i.bl) + i0 / i.bl)

/-- Consecutive bytes of one side, with the size of their elements. -/
structure Span where
  addr : Word64
  n : Nat
  esz : Nat
  deriving DecidableEq, Repr

/-- The bytes of columns `i0` to `i0 + n - 1` of a row: elements, and scales for BFP. -/
def Ident.spans (i : Ident) (r i0 n : Nat) : List Span :=
  { addr := i.rowAddr r i0, n := n * i.width / 8, esz := if i.fmt = 5 then 1 else i.width / 8 } ::
    if i.fmt = 5 then [{ addr := i.scaleAddr r i0, n := n / i.bl, esz := 1 }] else []

/-- Entry `id` of a context's table. -/
def State.ident (s : State) (ctx id : Nat) : Mem :=
  ((tget s.ctxs ctx).map fun c => memOf (readBytes c.ids (64 * id) 64)).getD []

/-- A valid image that tdef accepts (R345). -/
def Ident.accepted (i : Ident) (m : Mem) : Bool :=
  decide (i.fmt ≤ 8) &&
  (if i.fmt = 5 then decide (2 ≤ i.m) && decide (i.m ≤ 8) && decide (i.bfp / 16 ≤ 2) else i.bfp == 0) &&
  (i.scale == 0 || i.fmt == 5) && decide (i.swz ≤ 3) && decide (i.flags ≤ 3) &&
  (List.range 4).all (fun k => decide (1 ≤ i.dim k)) && (i.fmt != 5 || i.dim 0 % i.bl == 0) &&
  (!i.spad || (decide (i.base.toNat < 2 ^ 20) && decide (i.scale.toNat < 2 ^ 20))) && readLe m 60 4 == 0

/-- tdef (R344): an image with VALID clear makes the entry 64 zero bytes. -/
def execTdef (a : BitVec 6) (i : BitVec 8) (s : State) : Host.Outcome State Fault Refusal :=
  issue s fun h => do
    let va := h.kr a.toNat
    let acc ← accessVa s h va 64 .read
    readable s h [{ t := 0, va := va, acc := acc }]
    let img := memOf (s.peek acc)
    let d := Ident.of img
    need (!d.valid || d.accepted img) .tableBound 0 h.mask
    let bytes := if d.valid then readBytes img 0 64 else natBytes 64 0
    let s := (s.afterRead acc).modCtx h.ctx fun c => { c with ids := writeBytes c.ids (64 * i.toNat) bytes }
    .ok ((s.advance h).drain h)

/-- tget (R344): it reads the entry after a root read of the group that is on its way (10 R226). -/
def execTget (d : BitVec 6) (w : BitVec 3) (i : BitVec 8) (s : State) : Host.Outcome State Fault Refusal :=
  issue s fun h => do
    rootDone s h
    .ok ((s.writeK h d.toNat (BitVec.ofNat 64 (readLe (s.ident h.ctx i.toNat) (8 * w.toNat) 8))).advance h)

/-! ### The bytes of a copy -/

/-- Where a swizzled byte lies (07 R162). -/
def swizzle (t o : Nat) : Nat :=
  let m := 2 ^ t - 1
  o / 128 * 128 + ((o / 16 % 8) ^^^ (o / 128 % 8 &&& m)) * 16 + o % 16

/-- `n` bytes from `a`, cut at 64-byte boundaries. -/
def chunks : Nat → Nat → Nat → List (Nat × Nat)
  | 0, _, _ => []
  | _ + 1, _, 0 => []
  | k + 1, a, n =>
    let c := min n (64 - a % 64)
    (a, c) :: chunks k ((a + c) % 2 ^ 64) (n - c)

/-- A stop of an engine with the address. -/
def engineError {α : Type} (c : Cause) (a : Nat) : Except Stop α := .error (.cause c (BitVec.ofNat 64 a) 0)

/-- On whose behalf a unit of the device reads and writes: the context, the die, the queue whose work it is (02 R47), and the teams whose
on-chip state it reaches, each with its stay, when the instruction issued (07 R157). -/
structure Agent where
  ctx : Nat
  die : Nat
  q : Nat
  into : List (Nat × Nat)
  deriving DecidableEq, Repr

/-- Where a window byte leads the agent; nowhere once the team or group that held it has left (07 R157). -/
def State.windowFor (s : State) (u : Agent) (a : Nat) (k : Access) : Option Loc := s.windowStill u.ctx u.into a k

/-- A copy engine reads one chunk. A window byte whose team or group has left since the issue delivers nothing, so what
would have been read is a free value (07 R157). -/
def State.readChunk (s : State) (u : Agent) (a n : Nat) : Except Stop (List Byte × State) :=
  if inWindow a then
    .ok ((List.range n).map fun i => match s.windowFor u (a + i) .read with
      | some l => s.getByte u.ctx l
      | none => Config.freeValue 8 (s.freeCtr * 2 ^ 24 + 0x400000 + i), s)
  else match s.resolve u.ctx u.die false a n .read with
    | .error e => engineError e a
    | .ok acc =>
      if s.accWaits acc then .error .wait
      else if s.accBad acc then engineError .memUncorr a
      else match s.peerRefuses acc false with
        | some e => engineError e a
        | none => .ok (s.peek acc, s.afterRead acc)

def readChunks (u : Agent) : List (Nat × Nat) → State → Except Stop (List Byte × State)
  | [], s => .ok ([], s)
  | (a, n) :: r, s => match s.readChunk u a n with
    | .error e => .error e
    | .ok (bs, s1) => match readChunks u r s1 with
      | .error e => .error e
      | .ok (cs, s2) => .ok (bs ++ cs, s2)

/-- An engine reads `n` bytes at a virtual address. -/
def State.engineRead (s : State) (u : Agent) (va : Word64) (n : Nat) : Except Stop (List Byte × State) :=
  readChunks u (chunks n va.toNat n) s

/-- A copy engine writes one chunk; window bytes whose owner has left are discarded (07 R157). -/
def State.writeChunk (s : State) (u : Agent) (a : Nat) (bs : List Byte) : Except Stop State :=
  if inWindow a then
    let put (i : Nat) (b : Byte) : Option (Loc × Byte) := (s.windowFor u (a + i) .write).map fun l => (l, b)
    let lb := (bs.mapIdx put).filterMap id
    .ok (s.poke { ctx := u.ctx, die := u.die, locs := lb.map (·.1), leaf := none, q := u.q } (lb.map (·.2)))
  else match s.resolve u.ctx u.die false a bs.length .write with
    | .error e => engineError e a
    | .ok acc =>
      if s.accWaits acc then .error .wait
      else match s.peerRefuses acc true with
        | some e => engineError e a
        | none => .ok (s.poke { acc with q := u.q } bs)

def writeChunks (u : Agent) : List (Nat × Nat) → List Byte → State → Except Stop State
  | [], _, s => .ok s
  | (a, n) :: r, bs, s => match s.writeChunk u a (bs.take n) with
    | .error e => .error e
    | .ok s1 => writeChunks u r (bs.drop n) s1

/-- An engine writes bytes at a virtual address. -/
def State.engineWrite (s : State) (u : Agent) (va : Word64) (bs : List Byte) : Except Stop State :=
  writeChunks u (chunks bs.length va.toNat bs.length) bs s

/-- Reads a span of a side: scratchpad of a team, with the identifier's swizzle, or memory. -/
def State.readSpan (s : State) (u : Agent) (team : Nat) (i : Ident) (p : Span) : Except Stop (List Byte × State) :=
  if i.spad then
    match tget s.teams team with
    | some t => .ok ((List.range p.n).map fun j => readCell t.scratch (swizzle i.swz (p.addr.toNat + j)), s)
    | none => .ok (natBytes p.n 0, s)
  else s.engineRead u p.addr p.n

def readSpans (u : Agent) (team : Nat) (i : Ident) : List Span → State → Except Stop (List (List Byte) × State)
  | [], s => .ok ([], s)
  | p :: r, s => match s.readSpan u team i p with
    | .error e => .error e
    | .ok (bs, s1) => match readSpans u team i r s1 with
      | .error e => .error e
      | .ok (cs, s2) => .ok (bs :: cs, s2)

/-- Writes swizzled bytes into a scratchpad and sets the tag of every block written (07 R162). -/
def Team.putSwizzled (t : Team) (swz a : Nat) (bs : List Byte) : Team :=
  let ix := List.range bs.length
  { t with
    scratch := (ix.zip bs).foldl (fun m (j, b) => writeCell m (swizzle swz (a + j)) b) t.scratch
    tags := ix.foldl (fun m j => writeCell m ((a + j) / 1024) (BitVec.ofNat 2 swz)) t.tags }

/-- Writes bytes of a destination. Swizzling and tags belong to an identifier with SPAD: bytes that one without it sends to scratchpad through the
window are written as they are, and no tag is set, which R162 and R351 leave open (DESIGN CHOICE, log 64). -/
def State.writeSpan (s : State) (u : Agent) (team : Nat) (i : Ident) (p : Span) (bs : List Byte) : Except Stop State :=
  if i.spad then .ok (s.modTeam team fun t => t.putSwizzled i.swz p.addr.toNat bs)
  else s.engineWrite u p.addr bs

def writeSpans (u : Agent) (team : Nat) (i : Ident) : List Span → List (List Byte) → State → Except Stop State
  | p :: ps, bs :: r, s => match s.writeSpan u team i p bs with
    | .error e => .error e
    | .ok s1 => writeSpans u team i ps r s1
  | _, _, s => .ok s

/-! ### Formats (R349, 09 R206, R207) -/

/-- The scalar type of a format that a copy converts. -/
def fmtType (f : Nat) : BitVec 5 := match f with | 0 => 8 | 1 => 9 | 2 => 10 | 3 => 11 | 4 => 12 | 6 => 0 | _ => 4

def elemValue (f x : Nat) : FVal :=
  let ty := fmtType f
  if tyIsInt ty then fOfInt (intOf ty (BitVec.ofNat 64 x)) else decodeF (fmtOf ty) x

/-- The elements of `n` bytes each. -/
def elemsOf (n : Nat) (bs : List Byte) : List Nat := (List.range (bs.length / n)).map fun j => field bs (j * n) n

/-- Mantissas as a bit string, the first in the lowest bits. -/
def packMants (m : Nat) (qs : List Int) : Nat := qs.foldr (fun q a => (q % 2 ^ m).toNat + 2 ^ m * a) 0

def blocksOf {α : Type} (bl : Nat) (xs : List α) : List (List α) :=
  (List.range (xs.length / bl)).map fun b => (xs.drop (b * bl)).take bl

/-- A row of values as BFP: its mantissa bytes and its scales. -/
def bfpRow (m bl : Nat) (xs : List FVal) : List (List Byte) :=
  let bs := blocksOf bl xs
  [natBytes (xs.length * m / 8) (packMants m (bs.flatMap (bfpMants .rne m))), bs.map fun b => BitVec.ofNat 8 (bfpExp b)]

/-- R349: bytes or mantissas unchanged, or a conversion into BFP. -/
def sameForm (a b : Ident) : Bool := a.fmt == b.fmt && (a.fmt != 5 || a.bfp == b.bfp)
def converts (a b : Ident) : Bool := b.fmt == 5 && (decide (a.fmt ≤ 4) || a.fmt == 6 || a.fmt == 7)

def rowData (a b : Ident) (bss : List (List Byte)) : List (List Byte) :=
  if sameForm a b then bss else bfpRow b.m b.bl ((elemsOf (a.width / 8) (bss.headD [])).map (elemValue a.fmt))

/-! ### The box (R348, R352) -/

/-- Coordinate k of a start value. -/
def coordOf (x : Word64) (k : Nat) : Nat := (x.extractLsb' (16 * k) 16).toNat

def Copy.extent (c : Copy) (k : Nat) : Nat :=
  min ((Ident.of c.src).dim k - coordOf c.s k) ((Ident.of c.dst).dim k - coordOf c.d k)

/-- The first source and destination columns, and how many. -/
def Copy.col (c : Copy) : Nat := if c.kind = .gather then c.first else coordOf c.s 0
def Copy.cols (c : Copy) : Nat := min ((Ident.of c.src).dim 0 - c.col) ((Ident.of c.dst).dim 0 - coordOf c.d 0)

def flatRow (i : Ident) (x : Word64) (e1 e2 e3 : Nat) : Nat :=
  coordOf x 1 + e1 + i.dim 1 * (coordOf x 2 + e2 + i.dim 2 * (coordOf x 3 + e3))

/-- A row of a gather that lies at or beyond the end of the destination: its index is read, and it is not delivered (R352). -/
def Copy.past (c : Copy) (r : Nat) : Bool :=
  decide (c.kind = .gather) && decide ((Ident.of c.dst).rows ≤ flatRow (Ident.of c.dst) c.d 0 0 0 + r)

/-- Steps of the copy: rows of the box, indices of a gather, registers, or 64-byte chunks of a tree's expansion (R224). -/
def Copy.rows (c : Copy) : Nat :=
  match c.kind with
  | .regs _ => c.count
  | .tree => (c.count + 63) / 64
  | .gather => if c.cols = 0 then 0 else c.count
  | _ => if c.cols = 0 then 0 else c.extent 1 * c.extent 2 * c.extent 3

def Copy.boxRow (c : Copy) (i : Ident) (x : Word64) (r : Nat) : Nat :=
  flatRow i x (r % c.extent 1) (r / c.extent 1 % c.extent 2) (r / (c.extent 1 * c.extent 2))

def Copy.srcSpans (c : Copy) (r : Nat) : List Span := let i := Ident.of c.src; i.spans (c.boxRow i c.s r) c.col c.cols
def Copy.dstSpans (c : Copy) (r : Nat) : List Span :=
  let i := Ident.of c.dst
  if c.past r then [] else i.spans (if c.kind = .gather then flatRow i c.d 0 0 0 + r else c.boxRow i c.d r) (coordOf c.d 0) c.cols

/-- The copy's engine at work. -/
def Copy.agent (c : Copy) : Agent := { ctx := c.ctx, die := c.engine / 8, q := c.q, into := c.into }

/-- Teams whose on-chip state the window bytes of spans belong to now (07 R157). -/
def State.reached (s : State) (ctx : Nat) (k : Access) (ps : List Span) : List (Nat × Nat) :=
  let team (a : Nat) : Option (Nat × Nat) :=
    if inWindow a then match s.windowLoc ctx a k with | .ok l => s.locHolder l | .error _ => none else none
  (ps.flatMap fun p => (List.range p.n).filterMap fun j => team ((p.addr.toNat + j) % 2 ^ 64)).eraseDups

/-- The signal word of a copy, if it has one. -/
def Copy.sigSpans (c : Copy) : List Span := if c.sig = 0 then [] else [{ addr := c.sig, n := 8, esz := 8 }]

/-! ### Teams a copy delivers to (07 R168) -/

/-- The teams that a mask names, in ascending order. A formed group's cluster is its own team (notes/assumptions 12). A team that has
exited has no share (R173). -/
def State.clusterTeams (s : State) (team : Nat) (mask : Word16) : List Nat :=
  match tget s.teams team with
  | none => []
  | some t =>
    match s.launchOf t with
    | none => []
    | some l =>
      let n := l.kd.clusterTeams
      let wide := if l.kd.pair then 2 else 1
      let named (j : Nat) : Bool := mask.getLsbD (wide * j) || (l.kd.pair && mask.getLsbD (wide * j + 1))
      if t.formed then if named 0 then [team] else []
      else (tfilter s.teams fun _ x => x.launch == t.launch && !x.formed && x.index / n == t.index / n &&
        decide (0 < x.groupsLeft) && named (x.index % n)).map (·.1)

def State.copyTeams (s : State) (c : Copy) : List Nat :=
  if c.kind = .multicast then s.clusterTeams c.team c.mask else [c.team]

/-! ### Batches (07 R170) -/

/-- DONE passes the batches that are empty. -/
def settleBatches : List (Word32 × List Nat) → Word32 → List (Word32 × List Nat) × Word32
  | (n, []) :: r, _ => settleBatches r n
  | l, d => (l, d)

/-- A number that has not been closed yet. -/
def batchFuture (g : Group) (n : Word32) : Bool := decide ((n - g.batchOpen).toNat < 2 ^ 31)

/-- A batch wait is satisfied. -/
def batchReached (g : Group) (n : Word32) : Bool := decide ((g.batchDone - n).toNat < 2 ^ 31)

/-- Wakes the splits whose batch is done. -/
def wakeBatch (g : Group) (x : Split) : Split :=
  match x.park with
  | some (.batch n closed) => if closed && batchReached g n then x.unpark else x
  | _ => x

def Group.settle (g : Group) : Group :=
  let (l, d) := settleBatches g.batches g.batchDone
  let g := { g with batches := l, batchDone := d }
  { g with splits := g.splits.map (wakeBatch g) }

/-- A copy of the group has completed. -/
def Group.copyDone (id : Nat) (g : Group) : Group :=
  Group.settle { g with
    unclosed := g.unclosed.filter (· != id), batches := g.batches.map fun (n, l) => (n, l.filter (· != id)) }

/-- Closes the group's copies into batch OPEN, which then counts on, from 2^32 - 1 to 1. -/
def Group.closeBatch (g : Group) : Group :=
  Group.settle { g with
    batches := g.batches ++ [(g.batchOpen, g.unclosed)], unclosed := [],
    batchOpen := if g.batchOpen = 0xFFFFFFFF then 1 else g.batchOpen + 1 }

/-! ### Delivering -/

/-- Bytes that a row puts in one destination. -/
def spanBytes (ps : List Span) : Nat := ps.foldl (fun n p => n + p.n) 0

/-- Counts bytes into COPY_BYTES (03 R72). -/
def State.countCopy (s : State) (ctx n : Nat) : State :=
  s.modCtx ctx fun c => { c with sterling := { c.sterling with copyBytes := satAdd c.sterling.copyBytes n } }

/-- Writes a row to each destination team, and then subtracts its bytes from the team's barrier word (07 R169). -/
def deliverTo (c : Copy) (ps : List Span) (bss : List (List Byte)) : List Nat → State → Except Stop State
  | [], s => .ok s
  | t :: r, s => match writeSpans c.agent t (Ident.of c.dst) ps bss s with
    | .error e => .error e
    | .ok s1 =>
      let n := spanBytes ps
      let s2 := s1.countCopy c.ctx n
      let sub (w : Word64) : Word64 := bwWithBytes w (bwBytes w - BitVec.ofNat 40 n)
      deliverTo c ps bss r (if c.bw then s2.updateWord t c.bar sub else s2)

/-- A span lies in the team's scratchpad. -/
def inScratch (size : Nat) (p : Span) : Bool := decide (p.addr.toNat + p.n ≤ size)

/-- The source rows of a gather, checked as the engine reads their index (R352). -/
def State.gatherSpans (s : State) (c : Copy) (k : Nat) : Except Stop (Option (List Span)) :=
  let i := Ident.of c.src
  match tget s.teams c.team with
  | none => .ok none
  | some t =>
    let row := readLe t.scratch (c.list.toNat + 4 * k) 4
    if i.rows ≤ row then .ok none
    else
      let ps := i.spans row c.first c.cols
      match ps.find? fun p => i.spad && !inScratch (s.teamScratch t) p with
      | some p => .error (.cause .scratchBound p.addr 0)
      | none => .ok (some ps)

/-- Checks the window bytes of a span: each element aligned, each byte reachable (07 R157). -/
def State.windowCheck (s : State) (ctx : Nat) (k : Access) (p : Span) : Except Stop Unit :=
  checkAll (fun j =>
    let a := (p.addr.toNat + j) % 2 ^ 64
    if !inWindow a then .ok ()
    else if j % p.esz = 0 && a % p.esz ≠ 0 then engineError .addrAlign a
    else match s.windowLoc ctx a k with
      | .ok _ => .ok ()
      | .error e => engineError e a) (List.range p.n)

/-- The bytes of row `k` of a copy between identifiers. Of a gather's row that is not delivered only the check of its index is left. -/
def State.rowBytes (s : State) (c : Copy) (k : Nat) : Except Stop (List (List Byte) × State) :=
  let a := Ident.of c.src
  let b := Ident.of c.dst
  let read (ps : List Span) (into : List (Nat × Nat)) : Except Stop (List (List Byte) × State) :=
    match readSpans { c.agent with into := into } c.team a ps s with
    | .error e => .error e
    | .ok (bss, s1) => .ok (rowData a b bss, s1)
  if c.kind = .gather then
    match s.gatherSpans c k with
    | .error e => .error e
    | .ok none => .ok ((c.dstSpans k).map fun p => natBytes p.n 0, s)
    | .ok (some ps) =>
      if c.past k then .ok ([], s)
      else match checkAll (fun p => if a.spad then .ok () else s.windowCheck c.ctx .read p) ps with
      | .error e => .error e
      | .ok _ => read ps (s.reached c.ctx .read ps)
  else read (c.srcSpans k) c.into

/-- One register of a register copy (R354). A group that has left takes no delivery. An element that a late instruction is still to write is
undefined (15 R331). -/
def State.deliverReg (s : State) (c : Copy) (toMem : Bool) (k : Nat) : Except Stop State :=
  match tget s.groups c.group with
  | none => .ok s
  | some g =>
    let va := c.list + BitVec.ofNat 64 k * c.stride
    let ix (t : Nat) : Nat := (c.first + k) * 64 + t
    if toMem then
      let bs := (List.range g.width).flatMap fun t => (List.range 4).map fun i => s.getByte c.ctx (.vreg c.group (c.first + k) t i)
      (s.engineWrite c.agent va bs).map fun s => s.countCopy c.ctx bs.length
    else match s.engineRead c.agent va (4 * g.width) with
      | .error e => .error e
      | .ok (bs, s1) =>
        let g1 := (List.range g.width).foldl (fun (g : Group) t =>
          { g.clobber (.v (c.first + k) t) with v := writeCell g.v (ix t) (BitVec.ofNat 32 (field bs (4 * t) 4)) }) g
        .ok ({ s1 with groups := tset s1.groups c.group g1 }.countCopy c.ctx (4 * g.width))

/-- Delivers row `c.next` of a copy other than a tree's. -/
def State.deliverRow (s : State) (c : Copy) : Except Stop State :=
  match c.kind with
  | .regs toMem => s.deliverReg c toMem c.next
  | _ =>
    match s.rowBytes c c.next with
    | .error e => .error e
    | .ok (bss, s1) => if c.past c.next then .ok s1 else deliverTo c (c.dstSpans c.next) bss (s1.copyTeams c) s1

/-- The signal word of cpyo + 1 (R351), in a peer page too. One in the window whose owner has left is not written (07 R157). -/
def State.signalWord (s : State) (c : Copy) : Except Stop State :=
  if c.sig = 0 then .ok s
  else if inWindow c.sig.toNat then
    let ls := (List.range 8).filterMap fun i => s.windowFor c.agent (c.sig.toNat + i) .both
    .ok (if ls.length = 8 then
      s.updateAt { ctx := c.ctx, die := c.engine / 8, locs := ls, leaf := none, va := c.sig.toNat, q := c.q } (· + 1) else s)
  else match s.resolve c.ctx (c.engine / 8) false c.sig.toNat 8 .both with
    | .error e => .error (.cause e c.sig 0)
    | .ok acc =>
      if s.accWaits acc then .error .wait
      else if s.accBad acc then .error (.cause .memUncorr c.sig 0)
      else match s.peerRefuses acc true with
        | some e => .error (.cause e c.sig 0)
        | none => .ok (s.updateAt { acc with q := c.q } (· + 1))

/-- The copy completes: its signal word, then its batch (07 R170). Bytes that it wrote to host-published pages may still wait for a publication:
R165 with R170 would let no packet whose copies write such pages complete before its own PUBLISH (DESIGN CHOICE, log 64). -/
def State.finishCopy (s : State) (id : Nat) (c : Copy) : Except Stop State :=
  match s.signalWord c with
  | .error e => .error e
  | .ok s1 =>
    let s2 := { s1 with copies := terase s1.copies id }
    match tget s2.groups c.group with
    | some g => .ok { s2 with groups := tset s2.groups c.group (g.copyDone id) }
    | none => .ok s2

/-- What an engine's step leaves: a wait changes nothing, and a failure ends the context (R343), with the PC of the copy instruction
(06 R131). -/
def State.engineStep (s : State) (c : Copy) (r : Except Stop State) : State :=
  match r with
  | .ok s' => { s' with freeCtr := s'.freeCtr + 1 }
  | .error .wait => s
  | .error (.cause e a _) => s.engineStop c.ctx c.team c.pc e a.toNat

end Sys2Proof.Machine
end

