-- ==== Sys2Proof/Machine/Copies.lean ====
section
/-!
DEFINITION. The copy and batch instructions (16 R346 to R355), and the events COPY_DELIVER and COPY_COMPLETE (07 R166 to
R170), which also carry out a caout (10 R224).
-/

namespace Sys2Proof.Machine

open Sys2Proof

/-! ### Carrying a copy out -/

/-- The store a tree copy walks. -/
def State.dropTree (s : State) (c : Copy) : State :=
  match tget s.stores c.store with
  | some x => { s with stores := tset s.stores c.store (x.dropRef c.team (BitVec.ofNat 128 c.root)) }
  | none => s

/-- The next 64 bytes of a tree's expansion (10 R224), which count as one sector of the store (03 R72; notes/assumptions 65). A store that
has been deleted meanwhile holds no line of the tree, so the copy ends with CA_STALE (DESIGN CHOICE, log 67). -/
def State.deliverTree (s : State) (c : Copy) : Except Stop State :=
  match (tget s.stores c.store).bind fun x => x.treeChunk c.height (BitVec.ofNat 128 c.root) (64 * c.next) with
  | none => .error (.cause .caStale 0 0)
  | some bs =>
    let n := min 64 (c.count - 64 * c.next)
    (s.engineWrite c.agent (c.list + BitVec.ofNat 64 (64 * c.next)) (bs.take n)).map fun s => (s.countCopy c.ctx n).chargeHbm c.ctx 64 0

/-- What fails because an operand was an undefined value raises no fault (00 R6): `other` happens. -/
def Copy.excuse (c : Copy) (other : Except Stop State) : Except Stop State → Except Stop State
  | .error (.cause e a t) => if c.undef then other else .error (.cause e a t)
  | r => r

/-- Every row of a side consists of whole 32-bit words, from column `i0` on. -/
def Ident.wholeWords (i : Ident) (i0 n : Nat) : Bool :=
  i.fmt != 5 && (i.base.toNat + i0 * i.width / 8) % 4 == 0 && n * i.width / 8 % 4 == 0 && i.strides.all fun x => x.toNat % 4 == 0

/-- Rows of the copy may begin or end within an element of a register view, which no copy may tear (07 R155). -/
def Copy.splitsWords (c : Copy) : Bool :=
  let a := Ident.of c.src
  let b := Ident.of c.dst
  let chip (i : Ident) (late : Bool) : Bool := !i.spad && if late then inWindow i.base.toNat || inWindow i.scale.toNat else !c.into.isEmpty
  (chip b false && !b.wholeWords (coordOf c.d 0) c.cols) || (chip a (c.kind == .gather) && !a.wholeWords c.col c.cols)

/-- Rows that one step of a copy delivers: one, or all that are left. -/
def Copy.stepRows (c : Copy) : Nat := if c.splitsWords then c.rows - c.next else 1

/-- Delivers `n` rows, each but for what an undefined operand keeps from its place. -/
def deliverRows (c : Copy) : Nat → State → Except Stop State
  | 0, s => .ok s
  | n + 1, s => match c.excuse (.ok s) (s.deliverRow c) with
    | .error e => .error e
    | .ok s1 => deliverRows { c with next := c.next + 1 } n { s1 with freeCtr := s1.freeCtr + 1 }

/-- Delivers the next rows of a copy (`Copy.stepRows`). A tree copy that meets a line of the wrong kind drops its reference; whatever else ends its context
leaves every count as it stands (10 R221, R224). A row that an undefined operand keeps from its place is discarded. -/
def State.copyStep (s : State) (id : Nat) (c : Copy) : State :=
  let next (n : Nat) (s : State) : State := { s with copies := tset s.copies id { c with next := c.next + n } }
  if c.kind = .tree then
    match c.excuse (.ok s) (s.deliverTree c) with
    | .error (.cause .caStale a t) => (s.dropTree c).engineStep c (.error (.cause .caStale a t))
    | r => s.engineStep c (r.map (next 1))
  else s.engineStep c ((deliverRows c c.stepRows s).map (next c.stepRows))

/-- Completes a copy whose every row is delivered. -/
def State.copyEnd (s : State) (id : Nat) (c : Copy) : State :=
  let r := c.excuse (s.finishCopy id { c with sig := 0 }) (s.finishCopy id c)
  s.engineStep c (r.map fun s => if c.kind = .tree then s.dropTree c else s)

/-- COPY_DELIVER (R169): the copy delivers its next row. -/
def execCopyDeliver (copy : Nat) (s : State) : Host.Outcome State Fault Refusal :=
  match tget s.copies copy with
  | some c => if c.next < c.rows then .next (s.copyStep copy c) else .next s
  | none => .next s

/-- COPY_COMPLETE (R170). -/
def execCopyComplete (copy : Nat) (s : State) : Host.Outcome State Fault Refusal :=
  match tget s.copies copy with
  | some c => if c.next < c.rows then .next s else .next (s.copyEnd copy c)
  | none => .next s

/-- Carries a copy out to its end, within an Invar launch's turn (06 R147). -/
def State.runCopy (id : Nat) : Nat → State → State
  | 0, s => s
  | n + 1, s => match tget s.copies id with
    | some c => State.runCopy id n (if c.next < c.rows then s.copyStep id c else s.copyEnd id c)
    | none => s

/-! ### Starting a copy (07 R166) -/

/-- Commands queued at an engine. -/
def State.queued (s : State) (e : Nat) : Nat := (tfilter s.copies fun _ c => c.engine == e).length

/-- The engine a copy of a context on a die goes to; none if the partition holds none. -/
def State.pickEngine (s : State) (ctx die : Nat) : Option Nat :=
  let m := s.openEngines (s.partOf ctx)
  let on (d : Nat) : List Nat := ((List.range 8).map (8 * d + ·)).filter m.getLsbD
  (s.nearestDie die fun d => !(on d).isEmpty).bind fun d => leastBy s.queued (on d)

def Site.engine (h : Site) (s : State) : Except Stop Nat :=
  match s.pickEngine h.ctx h.die with
  | some e => .ok e
  | none => .error (.cause .addrPerm 0 h.mask)

/-- Copies of a group in flight. -/
def State.groupCopies (s : State) (key : Nat) : Nat := (tfilter s.copies fun _ c => c.group == key).length

def Copy.blank (h : Site) (kind : CopyKind) (e : Nat) : Copy :=
  { kind := kind, ctx := h.ctx, engine := e, undef := false, team := h.tid, group := h.key, q := h.l.q, pc := h.sp.pc, into := [], src := [], dst := [], s := 0, d := 0,
    bw := false, bar := 0, mask := 0, sig := 0, list := 0, stride := 0, first := 0, count := 0, root := 0, store := 0,
    height := 0, next := 0, finished := false }

/-- What an undefined operand keeps from being done raises no fault, and nothing is done (00 R6): `r` are the checks of the operands as
they read, `go` what happens if they pass. -/
def unlessLost (s : State) (h : Site) (r : Except Stop Unit) (go : Except Stop State) : Except Stop State :=
  match r with
  | .ok _ => go
  | .error .wait => .error .wait
  | .error (.cause ..) => .ok (s.advance h)

/-- Hands a checked copy to its engine, if there is room, and goes on. An empty copy completes at once (R348). -/
def startCopy (s : State) (h : Site) (c : Copy) : Except Stop State :=
  if c.rows = 0 && c.sig = 0 && c.kind != .tree then .ok (s.advance h)
  else if 256 ≤ s.queued c.engine || 64 ≤ s.groupCopies h.key then .error .wait
  else
    let id := s.nextId
    let s := { s with copies := tset s.copies id c, nextId := id + 1 }
    let s := s.modGroup h fun g => { g with unclosed := g.unclosed ++ [id] }
    .ok ((if h.l.isInvar then s.runCopy id (c.rows + 1) else s).advance h)

/-! ### The checks of a copy (R350) -/

/-- The control value (R347). -/
def ctlDst (k : Word64) : Nat := (k.extractLsb' 16 8).toNat
def ctlSrc (k : Word64) : Nat := (k.extractLsb' 8 8).toNat
def ctlBar (k : Word64) : Nat := (k.extractLsb' 24 21).toNat

/-- R349 with its alignment clause. Without `box` the extent of the box is not known. -/
def formsOk (box : Bool) (c : Copy) : Bool :=
  let a := Ident.of c.src
  let b := Ident.of c.dst
  (sameForm a b || converts a b) &&
  (b.fmt != 5 || (coordOf c.d 0 % b.bl == 0 && (!box || c.cols % b.bl == 0) && (a.fmt != 5 || c.col % b.bl == 0)))

/-- Check 2: spans in the team scratchpad. -/
def checkScratch (size : Nat) (ps : List Span) : Except Stop Unit :=
  checkAll (fun p => need (inScratch size p) .scratchBound p.addr 0) ps

/-- Check 3: the barrier word. -/
def checkBar (s : State) (h : Site) (c : Copy) : Except Stop Unit :=
  if !c.bw then .ok ()
  else if !(Ident.of c.dst).spad then .error (.cause .tableBound 0 h.mask)
  else match accessLocal s h (BitVec.ofNat 64 c.bar) 8 with
    | .ok _ => .ok ()
    | .error e => .error e

/-- Checks 1 to 3 of R350; without `box` those that do not look at where the rows lie. -/
def checkCopy (s : State) (h : Site) (c : Copy) (box : Bool := true) : Except Stop Unit :=
  let a := Ident.of c.src
  let b := Ident.of c.dst
  let size := s.teamScratch h.team
  if !(a.valid && b.valid && formsOk box c) then .error (.cause .tableBound 0 h.mask)
  else match checkAll (fun r => checkScratch size
      ((if a.spad && c.kind != .gather then c.srcSpans r else []) ++ if b.spad then c.dstSpans r else []))
      (if box then List.range c.rows else []) with
    | .error e => .error e
    | .ok _ => checkBar s h c

/-- The signal word of a copy, at issue. -/
def checkSig (s : State) (h : Site) (c : Copy) : Except Stop Unit := checkAll (s.windowCheck h.ctx .both) c.sigSpans

/-- Window bytes that the copy will reach, at issue (07 R157). -/
def checkWindow (s : State) (h : Site) (c : Copy) : Except Stop Unit :=
  let a := Ident.of c.src
  let b := Ident.of c.dst
  let row (r : Nat) : Except Stop Unit :=
    match checkAll (s.windowCheck h.ctx .read) (if a.spad || c.kind == .gather then [] else c.srcSpans r) with
    | .error e => .error e
    | .ok _ => checkAll (s.windowCheck h.ctx .write) (if b.spad then [] else c.dstSpans r)
  match checkAll row (List.range c.rows) with
  | .error e => .error e
  | .ok _ => checkSig s h c

/-- The copy, with the teams that its window bytes belong to at issue (07 R157). The source rows of a gather are known only later. -/
def Copy.aimed (s : State) (c : Copy) : Copy :=
  let a := Ident.of c.src
  let b := Ident.of c.dst
  let rows := List.range c.rows
  let reads := if a.spad || c.kind == .gather then [] else rows.flatMap c.srcSpans
  let writes := if b.spad then [] else rows.flatMap c.dstSpans
  { c with into := s.reached c.ctx .read reads ++ s.reached c.ctx .write writes ++ s.reached c.ctx .both c.sigSpans }

/-- The checks of a copy between identifiers: `own` is check 4. Where the control value is undefined, only those that do not look at it, and
where the start of a box is, only those that do not look at where its rows lie. -/
def copyChecks (s : State) (h : Site) (ctl box : Bool) (own : Copy → Except Stop Unit) (c : Copy) : Except Stop Unit := do
  if ctl then checkCopy s h c box else .ok ()
  own c
  if ctl && box then checkWindow s h c else checkSig s h c

/-- A copy between identifiers: `form` adds its own operands, read by `rd`, and `own` is check 4. An undefined column, list or signal word is
checked as 0, which passes. -/
def copyOp (s : State) (kind : CopyKind) (pair : Bool) (d a b : BitVec 6) (form : (Nat → Word64) → Copy → Copy)
    (own : Site → Copy → Except Stop Unit) : Host.Outcome State Fault Refusal :=
  issue s fun h => do
    evenAll (if pair then [b.toNat] else [])
    let e ← h.engine s
    let k := h.kr d.toNat
    let of (rd : Nat → Word64) : Copy := form rd { Copy.blank h kind e with
      src := s.ident h.ctx (ctlSrc k), dst := s.ident h.ctx (ctlDst k), s := rd a.toNat, d := rd b.toNat,
      bw := k.getLsbD 47, bar := ctlBar k, mask := k.extractLsb' 48 16,
      undef := h.lostK ([d.toNat, a.toNat, b.toNat] ++ if pair then [b.toNat + 1] else []) }
    copyChecks s h (!h.undefK d.toNat) (!h.lostK [a.toNat, b.toNat]) (own h) (of h.known)
    atomsDone s h
    unlessLost s h (copyChecks s h true true (own h) (of h.kr)) (startCopy s h ((of h.kr).aimed s))

/-- cpy (R351). -/
def execCpy (d a b : BitVec 6) (s : State) : Host.Outcome State Fault Refusal :=
  copyOp s .box false d a b (fun _ c => c) fun _ _ => .ok ()

/-- cpyg (R352): K[a] holds the list's offset, the count and the source column. -/
def execCpyg (d a b : BitVec 6) (s : State) : Host.Outcome State Fault Refusal :=
  let form (rd : Nat → Word64) (c : Copy) : Copy :=
    let x := rd a.toNat
    { c with list := (x.extractLsb' 0 32).setWidth 64, count := (x.extractLsb' 32 16).toNat,
             first := (x.extractLsb' 48 16).toNat }
  copyOp s .gather false d a b form fun h c =>
    if c.list.toNat % 4 ≠ 0 then .error (.cause .addrAlign c.list 0)
    else need (c.count == 0 || decide (c.list.toNat + 4 * c.count ≤ s.teamScratch h.team)) .scratchBound c.list 0

/-- cpym (R353). -/
def execCpym (d a b : BitVec 6) (s : State) : Host.Outcome State Fault Refusal :=
  copyOp s .multicast false d a b (fun _ c => c) fun h c =>
    need (h.undefK d.toNat || (Ident.of c.dst).spad) .tableBound 0 h.mask

/-- cpyo (R351): K[b+1] is the signal word's address, or 0. -/
def execCpyo (d a b : BitVec 6) (s : State) : Host.Outcome State Fault Refusal :=
  copyOp s .signal true d a b (fun rd c => { c with sig := rd (b.toNat + 1) }) fun _ c =>
    need (c.sig.toNat % 8 == 0) .addrAlign c.sig 0

/-- A register copy with control value `k`, its other operands read by `rd`. -/
def regsCopy (h : Site) (toMem : Bool) (e : Nat) (k : Word64) (rd : Nat → Word64) (a b : BitVec 6) : Copy :=
  { Copy.blank h (.regs toMem) e with
    list := rd a.toNat, stride := if rd b.toNat = 0 then BitVec.ofNat 64 (4 * h.g.width) else rd b.toNat,
    first := (k.extractLsb' 0 8).toNat, count := (k.extractLsb' 8 8).toNat }

/-- Memory of register `i` of a register copy. -/
def Copy.regSpan (c : Copy) (h : Site) (i : Nat) : Span :=
  { addr := c.list + BitVec.ofNat 64 i * c.stride, n := 4 * h.g.width, esz := 4 }

/-- Checks of a register copy that look at memory addresses; those of its first `n` registers. -/
def regsChecks (s : State) (h : Site) (n : Nat) (dir : Access) (c : Copy) : Except Stop Unit := do
  need (c.list.toNat % 4 == 0 && c.stride.toNat % 4 == 0) .addrAlign c.list 0
  checkAll (fun i => s.windowCheck h.ctx dir (c.regSpan h i)) (List.range n)

/-- cpyr (R354): K[a] is the memory address and K[b] the stride. -/
def execCpyr (d a b : BitVec 6) (s : State) : Host.Outcome State Fault Refusal :=
  issue s fun h => do
    let k := h.kr d.toNat
    let ctl := !h.undefK d.toNat
    let allot := need (decide ((k.extractLsb' 0 8).toNat + (k.extractLsb' 8 8).toNat ≤ 8 * h.g.vgran)) .regAllot 0 h.mask
    if ctl then allot else .ok ()
    let e ← h.engine s
    let toMem := k.getLsbD 16
    let dir : Access := if toMem then .write else .read
    let c := regsCopy h toMem e k h.kr a b
    let known := if !ctl || h.undefK a.toNat then 0 else if h.undefK b.toNat then min c.count 1 else c.count
    regsChecks s h known dir (regsCopy h toMem e k h.known a b)
    atomsDone s h
    let lost : Except Stop Unit := do
      allot
      regsChecks s h c.count dir c
    unlessLost s h lost (startCopy s h { c with
      undef := h.lostK [d.toNat, a.toNat, b.toNat], into := s.reached h.ctx dir ((List.range c.count).map (c.regSpan h)) })

/-! ### Batches (R355) -/

/-- bclose. -/
def execBclose (s : State) : Host.Outcome State Fault Refusal :=
  issue s fun h => .ok ((s.modGroup h Group.closeBatch).advance h)

/-- bwait: a number that has not been closed yet is never reached (07 R170). -/
def execBwait (a : BitVec 6) (s : State) : Host.Outcome State Fault Refusal :=
  issue s fun h =>
    let n := (h.kr a.toNat).setWidth 32
    let closed := !batchFuture h.g n
    if closed && batchReached h.g n then .ok (s.advance h) else .ok (s.parkSplit h (.batch n closed))

end Sys2Proof.Machine
end

