-- ==== Sys2Proof/Machine/Electrum.lean ====
section
/-!
DEFINITION. The Electrum instructions (16 R366 to R371) and the steps they post (10 R219 to R226; 20 R394), with the
events ELECTRUM_STEP and CASCADE_DROP.
-/

namespace Sys2Proof.Machine

open Sys2Proof

/-- The store a handle binds and the needed right, checked at issue (R366). -/
def bound (s : State) (h : Site) (b : BitVec 4) (right : Nat) : Except Stop (Nat × Store) :=
  match (tget s.ctxs h.ctx).bind fun c => tget c.binds b.toNat with
  | none => .error (.cause .tableBound 0 h.mask)
  | some x => match tget s.stores x.store with
    | none => .error (.cause .tableBound 0 h.mask)
    | some st => if x.rights.getLsbD right then .ok (x.store, st) else .error (.cause .addrPerm 0 h.mask)

/-- A name in a pair of k registers. -/
def Site.caName (h : Site) (a : BitVec 6) : CaName := h.kr (a.toNat + 1) ++ h.kr a.toNat

/-- A name as the two results of a pair. -/
def nameResult (d : Nat) (n : CaName) : List (Dest × Word64) := [(.k d, n.setWidth 64), (.k (d + 1), n.extractLsb' 64 64)]

/-- The name and version that carswap returns, and its flag in bit 63 of K[d], whose other bits are kept (R369). -/
def rootResult (ctl : Word64) (d a : Nat) (n : CaName) (v : Word64) (flag : Bool) : List (Dest × Word64) :=
  let low : Word64 := if a = d then n.setWidth 64 else ctl
  nameResult a n ++ [(.k (d + 1), v), (.k d, (if flag then 1#1 else 0#1) ++ low.extractLsb' 0 63)]

/-- Control word of a caout in K[d+1], and the bytes it writes from K[d] on. -/
def treeHeight (k : Word64) : Nat := (k.extractLsb' 40 3).toNat
def treeSpan (dest k : Word64) : Span := { addr := dest, n := (k.extractLsb' 0 40).toNat, esz := 4 }

/-- Checks of a caout that look at its destination and its control word (R371). -/
def treeChecks (s : State) (h : Site) (dest k : Word64) : Except Stop Unit := do
  need (dest.toNat % 16 == 0) .addrAlign dest 0
  need (decide (treeHeight k ≤ 4) && decide ((treeSpan dest k).n ≤ 256 * 16 ^ treeHeight k)) .tableBound 0 h.mask
  s.windowCheck h.ctx .write (treeSpan dest k)

/-- 64-byte sectors of the store that a step reads or writes (03 R72; notes/assumptions 65): those of a line's content for a lookup, else one. -/
def CaOp.sectors : CaOp → Nat
  | .look .. => 4
  | _ => 1

/-- A step at its home slice: the registers it returns and the store after. -/
def caStepAt (s : State) (c : CaStep) (x : Store) : Except Stop (List (Dest × Word64) × State) :=
  let put (y : Store) : State := { s with stores := tset s.stores c.store y }
  let stale : Except Stop (List (Dest × Word64) × State) := .error (.cause .caStale 0 0)
  match c.op with
  | .look interior va d a =>
    match s.engineRead { ctx := c.ctx, die := dieOf c.core, q := 0, into := c.into } va 256 with
    | .error e => .error e
    | .ok (bs, s1) => match x.lookup interior bs with
      | .wait => .error .wait
      | .fault e => .error (.cause e 0 0)
      | .name n found y =>
        let flag := if a = d || a = d + 1 then [] else [(Dest.k a, if found then 1#64 else 0#64)]
        .ok (nameResult d n ++ flag, { s1 with stores := tset s1.stores c.store y })
  | .read n i d => match x.live? n with
    | some l => .ok (nameResult d (childOf l.content i), s)
    | none => stale
  | .walk n i d => match x.live? n with
    | some l => if l.interior && childOf l.content i != 0 then .ok (nameResult d (childOf l.content i), s) else stale
    | none => stale
  | .rootRead ctl d a =>
    let r := x.root (ctl.toNat % 2 ^ 32)
    .ok (rootResult ctl d a r.name r.version (r.name != 0), s)
  | .rootSwap ctl v n d a => match x.swap c.team (ctl.toNat % 2 ^ 32) v n with
    | some (ok, n', v', y) => .ok (rootResult ctl d a n' v' ok, put y)
    | none => stale
  | .ref n => if (x.live? n).isSome then .ok ([], put (x.addRef n)) else stale
  | .drop n => if (x.live? n).isSome then .ok ([], put (x.dropRef c.team n)) else stale

/-- Registers that a step writes. -/
def CaOp.dests : CaOp → List Dest
  | .look _ _ d a => [.k d, .k (d + 1)] ++ if a = d || a = d + 1 then [] else [.k a]
  | .read _ _ d | .walk _ _ d => [.k d, .k (d + 1)]
  | .rootRead _ d a | .rootSwap _ _ _ d a => [.k d, .k (d + 1), .k a, .k (a + 1)]
  | .ref _ | .drop _ => []

/-- A fault that a step finds after issue ends the context (R366). -/
def State.caStop (s : State) (c : CaStep) (e : Cause) (a : Word64) : State := s.engineStop c.ctx c.team c.pc e a.toNat

/-- The step's name or address is undefined, or the child that a walk takes is, and there is a line to take it from: what then fails raises no
fault (00 R6). -/
def State.caExcused (s : State) (c : CaStep) : Bool :=
  c.undef || (c.loose && match c.op with
    | .walk n _ _ => ((tget s.stores c.store).bind fun x => x.live? n).any fun l => l.interior
    | _ => false)

/-- Executes a step that is no longer listed; its results go to the pending instruction, if the group is still there. One that fails because
of an undefined operand changes nothing and gives undefined results (00 R6). One whose store has been deleted meanwhile fails as at issue,
with TABLE_BOUND (DESIGN CHOICE, log 67). -/
def State.caRun (s : State) (c : CaStep) : Except Stop (List (Dest × Word64) × State) :=
  match (match tget s.stores c.store with
    | some x => caStepAt s c x
    | none => .error (.cause .tableBound 0 0)) with
  | .error (.cause e a t) =>
    if s.caExcused c then .ok (c.op.dests.map fun d => (d, Config.freeValue 64 (s.freeCtr * 2 ^ 24 + 0x50000 + d.number)), s)
    else .error (.cause e a t)
  | .error .wait => .error .wait
  | .ok (rs, s1) => .ok (rs, s1.chargeHbm c.ctx (64 * c.op.sectors) 0)

/-- Steps of a thread take effect in its program order (R222): the group's earlier steps are done. -/
def firstCa (l : List CaStep) (i : Nat) (c : CaStep) : Bool :=
  (l.take i).all fun b => !(b.core == c.core && b.entry == c.entry && b.team == c.team)

/-- ELECTRUM_STEP (R222): step `i` executes, even after its split has exited. -/
def execElectrumStep (i : Nat) (s : State) : Host.Outcome State Fault Refusal :=
  match s.caSteps[i]? with
  | none => .next s
  | some c =>
    if !firstCa s.caSteps i c then .next s
    else match s.caRun c with
      | .error .wait => .next s
      | .error (.cause e a _) => .next (s.caStop c e a)
      | .ok (rs, s1) =>
        let s2 := { s1 with caSteps := s1.caSteps.eraseIdx i, freeCtr := s1.freeCtr + 1 }
        match c.back with
        | some id => .next (s2.answer (c.core * 64 + c.entry) id rs)
        | none => .next s2

/-- CASCADE_DROP (R218): one step that a drop has left for later. -/
def execCascadeDrop (store : Nat) (s : State) : Host.Outcome State Fault Refusal :=
  match tget s.stores store with
  | some x => if x.pendingSteps then .next { s with stores := tset s.stores store x.cascade } else .next s
  | none => .next s

/-- In an Invar launch a step and its cascade take place within the turn (06 R147). -/
def caNow (s : State) (h : Site) (c : CaStep) : Except Stop State :=
  match s.caRun c with
  | .error .wait => .error .wait
  | .error (.cause e a _) => .ok (s.caStop c e a)
  | .ok (rs, s1) =>
    let s2 := match tget s1.stores c.store with
      | some x => { s1 with stores := tset s1.stores c.store x.drainAll }
      | none => s1
    .ok ((s2.late h rs).advance h)

/-- Posts a step; `lost` and `loose` say which of its operands are undefined. -/
def postCa (s : State) (h : Site) (store : Nat) (op : CaOp) (lost : Bool) (loose : Bool := false) (into : List (Nat × Nat) := []) :
    Except Stop State :=
  let dests := op.dests
  let back := if dests.isEmpty then none else some h.g.nextPending
  let c : CaStep :=
    { ctx := h.ctx, store := store, team := h.tid, core := h.core, entry := h.entry, back := back, op := op, pc := h.sp.pc, into := into,
      undef := lost, loose := loose }
  if h.l.isInvar then caNow s h c
  else
    let add (g : Group) : Group :=
      if dests.isEmpty then g
      else
        (dests.filter h.spoils).foldl Group.clobber (g.addPending h.ix 8 1 dests [])
    .ok (State.advance { (s.modGroup h add) with caSteps := s.caSteps ++ [c] } h)

/-- calook (R367). -/
def calook (s : State) (interior : Bool) (d a : BitVec 6) (b : BitVec 4) : Host.Outcome State Fault Refusal :=
  issueWhole s fun h => do
    evenAll [d.toNat]
    let (id, _) ← bound s h b 1
    h.perform s fun h => do
      let va := h.kr a.toNat
      let acc ← accessVa s h va 256 .read
      h.room
      atomsDone s h
      postCa s h id (.look interior va d.toNat a.toNat) (h.undefK a.toNat) false (acc.locs.filterMap s.locHolder).eraseDups

def execCalookLeaf (d a : BitVec 6) (b : BitVec 4) (s : State) : Host.Outcome State Fault Refusal := calook s false d a b
def execCalookInt (d a : BitVec 6) (b : BitVec 4) (s : State) : Host.Outcome State Fault Refusal := calook s true d a b

/-- caread and cawalk (R368): K[d][3:0] is the chunk or the child. -/
def caTake (s : State) (d a : BitVec 6) (b : BitVec 4) (op : CaName → Nat → Nat → CaOp) : Host.Outcome State Fault Refusal :=
  issue s fun h => do
    evenAll [d.toNat, a.toNat]
    let (id, _) ← bound s h b 0
    h.room
    postCa s h id (op (h.caName a) ((h.kr d.toNat).toNat % 16) d.toNat) (h.lostK [a.toNat, a.toNat + 1]) (h.undefK d.toNat)

def execCaread (d a : BitVec 6) (b : BitVec 4) (s : State) : Host.Outcome State Fault Refusal := caTake s d a b .read
def execCawalk (d a : BitVec 6) (b : BitVec 4) (s : State) : Host.Outcome State Fault Refusal := caTake s d a b .walk

/-- The store that a carswap names, with the right that it needs; of an undefined control word, with any right that it could need. -/
def boundRoot (s : State) (h : Site) (b : BitVec 4) (read any : Bool) : Except Stop (Nat × Store) :=
  match bound s h b (if read then 0 else 2) with
  | .ok x => .ok x
  | .error e => if any then bound s h b (if read then 2 else 0) else .error e

/-- carswap (R369): a read needs right 0, a swap right 2. It is an acquire, a swap a release too. An undefined control word that asks for
what cannot be done raises no fault and gives undefined results (00 R6). -/
def execCarswap (d a : BitVec 6) (b : BitVec 4) (s : State) : Host.Outcome State Fault Refusal :=
  issue s fun h => do
    evenAll [d.toNat, a.toNat]
    let k := h.kr d.toNat
    let read := k.getLsbD 62
    let lost := h.undefK d.toNat
    let (id, x) ← boundRoot s h b read lost
    let inside := decide (k.toNat % 2 ^ 32 < 2 ^ x.rootsLog)
    need (inside || lost) .tableBound 0 h.mask
    h.room
    atomsDone s h
    let op := if read then CaOp.rootRead k d.toNat a.toNat
      else .rootSwap k (h.kr (d.toNat + 1)) (h.caName a) d.toNat a.toNat
    match bound s h b (if read then 0 else 2) with
    | .ok _ => if inside then postCa s h id op (lost || h.lostK [a.toNat, a.toNat + 1]) else .ok ((s.leaveUndefined h).advance h)
    | .error _ => .ok ((s.leaveUndefined h).advance h)

/-- caref and cadrop (R370). -/
def caCount (s : State) (a : BitVec 6) (b : BitVec 4) (op : CaName → CaOp) : Host.Outcome State Fault Refusal :=
  issue s fun h => do
    evenAll [a.toNat]
    let (id, _) ← bound s h b 1
    postCa s h id (op (h.caName a)) (h.lostK [a.toNat, a.toNat + 1])

def execCaref (a : BitVec 6) (b : BitVec 4) (s : State) : Host.Outcome State Fault Refusal := caCount s a b .ref
def execCadrop (a : BitVec 6) (b : BitVec 4) (s : State) : Host.Outcome State Fault Refusal := caCount s a b .drop

/-- caout (R371; 10 R224): the root is checked and referenced at issue, after the group's earlier steps. -/
def execCaout (d a : BitVec 6) (b : BitVec 4) (s : State) : Host.Outcome State Fault Refusal :=
  issue s fun h => do
    evenAll [d.toNat, a.toNat]
    let (id, x) ← bound s h b 0
    let e ← h.engine s
    treeChecks s h (h.known d.toNat) (h.known (d.toNat + 1))
    if s.caSteps.any fun c => c.core == h.core && c.entry == h.entry then .error .wait else .ok ()
    atomsDone s h
    let dest := h.kr d.toNat
    let k := h.kr (d.toNat + 1)
    let root := h.caName a
    let ht := treeHeight k
    let named := ((x.live? root).map fun l => l.interior == decide (0 < ht)).getD false
    let noName := h.lostK [d.toNat + 1, a.toNat, a.toNat + 1]
    need (named || noName) .caStale 0 h.mask
    let lost : Except Stop Unit := do
      treeChecks s h dest k
      need named .caStale 0 h.mask
    let span := treeSpan dest k
    unlessLost s h lost (startCopy { s with stores := tset s.stores id (x.addRef root) } h { Copy.blank h .tree e with
      list := dest, count := span.n, root := root.toNat, store := id, height := ht, undef := noName || h.undefK d.toNat,
      into := s.reached h.ctx .write [span] })

end Sys2Proof.Machine
end

