-- ==== Sys2Proof/Machine/Latency.lean ====
section
/-!
DEFINITION. Latency classes (12 R254), and which registers each instruction reads and writes: what gaps must cover
(06 R122, R129), what the checking scoreboard looks at (R130), and what the finaliser computes with (12 R269).
-/

namespace Sys2Proof.Machine

open Sys2Proof

/-- The class of an instruction (12 R254): `plain` for those with no register result of fixed latency, engine results among
them; `late` is the variable class. -/
inductive LatClass where
  | plain | fixed (latency : Nat) | drain | late
  deriving DecidableEq, Repr

/-- A register field: `v` one vector register, `e` an element of MODE.type, `s` a source of an encoded type, `w` a pair
whatever the mode, `cas` the two operands of atom.cas, `k` and `kk` one uniform register or a pair, `p` a predicate. -/
inductive Opnd where
  | v (n : Nat) | e (n : Nat) | s (ty : BitVec 5) (n : Nat) | w (n : Nat) | cas (n : Nat)
  | k (n : Nat) | kk (n : Nat) | p (n : Nat)
  deriving DecidableEq, Repr

/-- Registers of a field under a type; with no type, as the finaliser counts them (12 R269, step 3). That counts an even operand of atom.cas,
which under a 64-bit type names two pairs, as both of them is the model's reading (notes/assumptions 40). -/
def Opnd.regs (ty : Option (BitVec 5)) : Opnd → List Reg
  | .v n => [.v n]
  | .e n => if (match ty with | some t => tyWide t | none => n % 2 == 0) then [.v n, .v (n + 1)] else [.v n]
  | .s t n => if (match ty with | some _ => tyWide t | none => n % 2 == 0) then [.v n, .v (n + 1)] else [.v n]
  | .w n => [.v n, .v (n + 1)]
  | .cas n =>
    if (match ty with | some t => tyWide t | none => n % 2 == 0) then [.v n, .v (n + 1), .v (n + 2), .v (n + 3)]
    else if ty.isNone then [.v n]
    else [.v n, .v (n + 1)]
  | .k n => [.k n]
  | .kk n => [.k n, .k (n + 1)]
  | .p n => [.p n]

/-- What an instruction does to registers: `lane` says that it occupies a lane as a vector instruction (06 R121), and
`guarded` that the guard applies to it or that it treats guard-disabled threads as inactive (12 R252). -/
structure Shape where
  cls : LatClass
  defs : List Opnd := []
  uses : List Opnd := []
  lane : Bool := false
  guarded : Bool := false
  deriving DecidableEq, Repr

/-- The shape of an instruction; none for an event. -/
def instrShape : Instr → Option Shape
  | .nop => some { cls := .plain }
  | .br _ => some { cls := .plain }
  | .brp p _ => some { cls := .plain, uses := [.p p.toNat] }
  | .brn p _ => some { cls := .plain, uses := [.p p.toNat] }
  | .bruNz k _ => some { cls := .plain, uses := [.k k.toNat] }
  | .bruZ k _ => some { cls := .plain, uses := [.k k.toNat] }
  | .call d _ => some { cls := .drain, defs := [.k d.toNat] }
  | .callt d a => some { cls := .drain, defs := [.k d.toNat], uses := [.k a.toNat] }
  | .jmpt a => some { cls := .drain, uses := [.k a.toNat] }
  | .ret a => some { cls := .drain, uses := [.k a.toNat] }
  | .exit => some { cls := .plain }
  | .yield => some { cls := .plain }
  | .brk _ => some { cls := .plain }
  | .trap _ => some { cls := .plain }
  | .nchk _ => some { cls := .plain }
  | .enter _ => some { cls := .plain }
  | .leave => some { cls := .plain }
  | .nret => some { cls := .drain, uses := [.k 62] }
  | .mode _ _ => some { cls := .drain }
  | .modeGd _ _ _ => some { cls := .drain }
  | .modr a => some { cls := .drain, uses := [.k a.toNat] }
  | .wsr a _ => some { cls := .drain, uses := [.k a.toNat] }
  | .rsr d n =>
    if n = 0 then some { cls := .fixed 2, defs := [.v d.toNat], lane := true }
    else some { cls := .fixed 2, defs := [.k (d.toNat % 64)] }
  | .kli d _ => some { cls := .fixed 2, defs := [.k d.toNat] }
  | .klih _ d _ => some { cls := .fixed 2, defs := [.k d.toNat], uses := [.k d.toNat] }
  | .kmov d a => some { cls := .fixed 2, defs := [.k d.toNat], uses := [.k a.toNat] }
  | .kadd d a b => some { cls := .fixed 2, defs := [.k d.toNat], uses := [.k a.toNat, .k b.toNat] }
  | .kaddImm d a _ => some { cls := .fixed 2, defs := [.k d.toNat], uses := [.k a.toNat] }
  | .ksub d a b => some { cls := .fixed 2, defs := [.k d.toNat], uses := [.k a.toNat, .k b.toNat] }
  | .ksubImm d a _ => some { cls := .fixed 2, defs := [.k d.toNat], uses := [.k a.toNat] }
  | .kand d a b => some { cls := .fixed 2, defs := [.k d.toNat], uses := [.k a.toNat, .k b.toNat] }
  | .kandImm d a _ => some { cls := .fixed 2, defs := [.k d.toNat], uses := [.k a.toNat] }
  | .kor d a b => some { cls := .fixed 2, defs := [.k d.toNat], uses := [.k a.toNat, .k b.toNat] }
  | .korImm d a _ => some { cls := .fixed 2, defs := [.k d.toNat], uses := [.k a.toNat] }
  | .kxor d a b => some { cls := .fixed 2, defs := [.k d.toNat], uses := [.k a.toNat, .k b.toNat] }
  | .kxorImm d a _ => some { cls := .fixed 2, defs := [.k d.toNat], uses := [.k a.toNat] }
  | .kshl d a b => some { cls := .fixed 2, defs := [.k d.toNat], uses := [.k a.toNat, .k b.toNat] }
  | .kshlImm d a _ => some { cls := .fixed 2, defs := [.k d.toNat], uses := [.k a.toNat] }
  | .kshr d a b => some { cls := .fixed 2, defs := [.k d.toNat], uses := [.k a.toNat, .k b.toNat] }
  | .kshrImm d a _ => some { cls := .fixed 2, defs := [.k d.toNat], uses := [.k a.toNat] }
  | .ksar d a b => some { cls := .fixed 2, defs := [.k d.toNat], uses := [.k a.toNat, .k b.toNat] }
  | .ksarImm d a _ => some { cls := .fixed 2, defs := [.k d.toNat], uses := [.k a.toNat] }
  | .kmin _ d a b => some { cls := .fixed 2, defs := [.k d.toNat], uses := [.k a.toNat, .k b.toNat] }
  | .kmax _ d a b => some { cls := .fixed 2, defs := [.k d.toNat], uses := [.k a.toNat, .k b.toNat] }
  | .kcmp _ d a b => some { cls := .fixed 2, defs := [.k d.toNat], uses := [.k a.toNat, .k b.toNat] }
  | .ksel d a b => some { cls := .fixed 2, defs := [.k d.toNat], uses := [.k d.toNat, .k a.toNat, .k b.toNat] }
  | .kpop d a => some { cls := .fixed 2, defs := [.k d.toNat], uses := [.k a.toNat] }
  | .kpopPred d a => some { cls := .fixed 2, defs := [.k d.toNat], uses := [.p a.toNat] }
  | .kfirst d a => some { cls := .fixed 2, defs := [.k d.toNat], uses := [.k a.toNat] }
  | .kfirstPred d a => some { cls := .fixed 2, defs := [.k d.toNat], uses := [.p a.toNat] }
  | .kmul d a b => some { cls := .fixed 4, defs := [.k d.toNat], uses := [.k a.toNat, .k b.toNat] }
  | .kmulImm d a _ => some { cls := .fixed 4, defs := [.k d.toNat], uses := [.k a.toNat] }
  | .kmulh _ d a b => some { cls := .fixed 4, defs := [.k d.toNat], uses := [.k a.toNat, .k b.toNat] }
  | .pand d a b => some { cls := .fixed 2, defs := [.p d.toNat], uses := [.p a.toNat, .p b.toNat], guarded := true }
  | .por d a b => some { cls := .fixed 2, defs := [.p d.toNat], uses := [.p a.toNat, .p b.toNat], guarded := true }
  | .pxor d a b => some { cls := .fixed 2, defs := [.p d.toNat], uses := [.p a.toNat, .p b.toNat], guarded := true }
  | .pnot d a => some { cls := .fixed 2, defs := [.p d.toNat], uses := [.p a.toNat], guarded := true }
  | .pset d _ => some { cls := .fixed 2, defs := [.p d.toNat], guarded := true }
  | .psetK d a => some { cls := .fixed 2, defs := [.p d.toNat], uses := [.k a.toNat], guarded := true }
  | .vany d a => some { cls := .fixed 2, defs := [.k d.toNat], uses := [.p a.toNat], guarded := true }
  | .vall d a => some { cls := .fixed 2, defs := [.k d.toNat], uses := [.p a.toNat], guarded := true }
  | .vbal d a => some { cls := .fixed 2, defs := [.k d.toNat], uses := [.p a.toNat], guarded := true }
  | .vli d _ => some { cls := .fixed 4, defs := [.v d.toNat], lane := true, guarded := true }
  | .vliH d _ => some { cls := .fixed 4, defs := [.v d.toNat], uses := [.v d.toNat], lane := true, guarded := true }
  | .vmov d a => some { cls := .fixed 4, defs := [.e d.toNat], uses := [.e a.toNat], lane := true, guarded := true }
  | .vbc d a => some { cls := .fixed 4, defs := [.e d.toNat], uses := [.k a.toNat], lane := true, guarded := true }
  | .vadd d a b => some { cls := .fixed 4, defs := [.e d.toNat], uses := [.e a.toNat, .e b.toNat], lane := true, guarded := true }
  | .vaddUniform d a b => some { cls := .fixed 4, defs := [.e d.toNat], uses := [.e a.toNat, .k b.toNat], lane := true, guarded := true }
  | .vsub d a b => some { cls := .fixed 4, defs := [.e d.toNat], uses := [.e a.toNat, .e b.toNat], lane := true, guarded := true }
  | .vsubUniform d a b => some { cls := .fixed 4, defs := [.e d.toNat], uses := [.e a.toNat, .k b.toNat], lane := true, guarded := true }
  | .vand d a b => some { cls := .fixed 4, defs := [.e d.toNat], uses := [.e a.toNat, .e b.toNat], lane := true, guarded := true }
  | .vandUniform d a b => some { cls := .fixed 4, defs := [.e d.toNat], uses := [.e a.toNat, .k b.toNat], lane := true, guarded := true }
  | .vor d a b => some { cls := .fixed 4, defs := [.e d.toNat], uses := [.e a.toNat, .e b.toNat], lane := true, guarded := true }
  | .vorUniform d a b => some { cls := .fixed 4, defs := [.e d.toNat], uses := [.e a.toNat, .k b.toNat], lane := true, guarded := true }
  | .vxor d a b => some { cls := .fixed 4, defs := [.e d.toNat], uses := [.e a.toNat, .e b.toNat], lane := true, guarded := true }
  | .vxorUniform d a b => some { cls := .fixed 4, defs := [.e d.toNat], uses := [.e a.toNat, .k b.toNat], lane := true, guarded := true }
  | .vmin d a b => some { cls := .fixed 4, defs := [.e d.toNat], uses := [.e a.toNat, .e b.toNat], lane := true, guarded := true }
  | .vminUniform d a b => some { cls := .fixed 4, defs := [.e d.toNat], uses := [.e a.toNat, .k b.toNat], lane := true, guarded := true }
  | .vmax d a b => some { cls := .fixed 4, defs := [.e d.toNat], uses := [.e a.toNat, .e b.toNat], lane := true, guarded := true }
  | .vmaxUniform d a b => some { cls := .fixed 4, defs := [.e d.toNat], uses := [.e a.toNat, .k b.toNat], lane := true, guarded := true }
  | .vsel d a b => some { cls := .fixed 4, defs := [.e d.toNat], uses := [.e a.toNat, .e b.toNat, .e d.toNat], lane := true, guarded := true }
  | .vselUniform d a b => some { cls := .fixed 4, defs := [.e d.toNat], uses := [.e a.toNat, .k b.toNat, .e d.toNat], lane := true, guarded := true }
  | .vmul d a b => some { cls := .fixed 6, defs := [.e d.toNat], uses := [.e a.toNat, .e b.toNat], lane := true, guarded := true }
  | .vmulUniform d a b => some { cls := .fixed 6, defs := [.e d.toNat], uses := [.e a.toNat, .k b.toNat], lane := true, guarded := true }
  | .vmulh d a b => some { cls := .fixed 6, defs := [.e d.toNat], uses := [.e a.toNat, .e b.toNat], lane := true, guarded := true }
  | .vmulhUniform d a b => some { cls := .fixed 6, defs := [.e d.toNat], uses := [.e a.toNat, .k b.toNat], lane := true, guarded := true }
  | .vmad d a b => some { cls := .fixed 6, defs := [.e d.toNat], uses := [.e a.toNat, .e b.toNat, .e d.toNat], lane := true, guarded := true }
  | .vmadUniform d a b => some { cls := .fixed 6, defs := [.e d.toNat], uses := [.e a.toNat, .k b.toNat, .e d.toNat], lane := true, guarded := true }
  | .vshl d a b => some { cls := .fixed 4, defs := [.e d.toNat], uses := [.e a.toNat, .v b.toNat], lane := true, guarded := true }
  | .vshlUniform d a b => some { cls := .fixed 4, defs := [.e d.toNat], uses := [.e a.toNat, .k b.toNat], lane := true, guarded := true }
  | .vshr d a b => some { cls := .fixed 4, defs := [.e d.toNat], uses := [.e a.toNat, .v b.toNat], lane := true, guarded := true }
  | .vshrUniform d a b => some { cls := .fixed 4, defs := [.e d.toNat], uses := [.e a.toNat, .k b.toNat], lane := true, guarded := true }
  | .vnot d a => some { cls := .fixed 4, defs := [.e d.toNat], uses := [.e a.toNat], lane := true, guarded := true }
  | .vabs d a => some { cls := .fixed 4, defs := [.e d.toNat], uses := [.e a.toNat], lane := true, guarded := true }
  | .vneg d a => some { cls := .fixed 4, defs := [.e d.toNat], uses := [.e a.toNat], lane := true, guarded := true }
  | .vclz d a => some { cls := .fixed 4, defs := [.e d.toNat], uses := [.e a.toNat], lane := true, guarded := true }
  | .vpop d a => some { cls := .fixed 4, defs := [.e d.toNat], uses := [.e a.toNat], lane := true, guarded := true }
  | .vcmp _ p a b => some { cls := .fixed 4, defs := [.p p.toNat], uses := [.e a.toNat, .e b.toNat], lane := true, guarded := true }
  | .vcmpUniform _ p a b => some { cls := .fixed 4, defs := [.p p.toNat], uses := [.e a.toNat, .k b.toNat], lane := true, guarded := true }
  | .fadd d a b => some { cls := .fixed 6, defs := [.v d.toNat], uses := [.v a.toNat, .v b.toNat], lane := true, guarded := true }
  | .faddUniform d a b => some { cls := .fixed 6, defs := [.v d.toNat], uses := [.v a.toNat, .k b.toNat], lane := true, guarded := true }
  | .fsub d a b => some { cls := .fixed 6, defs := [.v d.toNat], uses := [.v a.toNat, .v b.toNat], lane := true, guarded := true }
  | .fsubUniform d a b => some { cls := .fixed 6, defs := [.v d.toNat], uses := [.v a.toNat, .k b.toNat], lane := true, guarded := true }
  | .fmul d a b => some { cls := .fixed 6, defs := [.v d.toNat], uses := [.v a.toNat, .v b.toNat], lane := true, guarded := true }
  | .fmulUniform d a b => some { cls := .fixed 6, defs := [.v d.toNat], uses := [.v a.toNat, .k b.toNat], lane := true, guarded := true }
  | .fmin d a b => some { cls := .fixed 6, defs := [.v d.toNat], uses := [.v a.toNat, .v b.toNat], lane := true, guarded := true }
  | .fminUniform d a b => some { cls := .fixed 6, defs := [.v d.toNat], uses := [.v a.toNat, .k b.toNat], lane := true, guarded := true }
  | .fmax d a b => some { cls := .fixed 6, defs := [.v d.toNat], uses := [.v a.toNat, .v b.toNat], lane := true, guarded := true }
  | .fmaxUniform d a b => some { cls := .fixed 6, defs := [.v d.toNat], uses := [.v a.toNat, .k b.toNat], lane := true, guarded := true }
  | .ffma d a b => some { cls := .fixed 6, defs := [.v d.toNat], uses := [.v a.toNat, .v b.toNat, .v d.toNat], lane := true, guarded := true }
  | .ffmaUniform d a b => some { cls := .fixed 6, defs := [.v d.toNat], uses := [.v a.toNat, .k b.toNat, .v d.toNat], lane := true, guarded := true }
  | .fabs d a => some { cls := .fixed 4, defs := [.v d.toNat], uses := [.v a.toNat], lane := true, guarded := true }
  | .fneg d a => some { cls := .fixed 4, defs := [.v d.toNat], uses := [.v a.toNat], lane := true, guarded := true }
  | .fcls d a => some { cls := .fixed 4, defs := [.v d.toNat], uses := [.v a.toNat], lane := true, guarded := true }
  | .fcmp _ p a b => some { cls := .fixed 4, defs := [.p p.toNat], uses := [.v a.toNat, .v b.toNat], lane := true, guarded := true }
  | .fcmpUniform _ p a b => some { cls := .fixed 4, defs := [.p p.toNat], uses := [.v a.toNat, .k b.toNat], lane := true, guarded := true }
  | .frcp d a => some { cls := .fixed 8, defs := [.v d.toNat], uses := [.v a.toNat], lane := true, guarded := true }
  | .frsq d a => some { cls := .fixed 8, defs := [.v d.toNat], uses := [.v a.toNat], lane := true, guarded := true }
  | .fsqrt d a => some { cls := .fixed 8, defs := [.v d.toNat], uses := [.v a.toNat], lane := true, guarded := true }
  | .fexp d a => some { cls := .fixed 8, defs := [.v d.toNat], uses := [.v a.toNat], lane := true, guarded := true }
  | .flog d a => some { cls := .fixed 8, defs := [.v d.toNat], uses := [.v a.toNat], lane := true, guarded := true }
  | .fsin d a => some { cls := .fixed 8, defs := [.v d.toNat], uses := [.v a.toNat], lane := true, guarded := true }
  | .fcos d a => some { cls := .fixed 8, defs := [.v d.toNat], uses := [.v a.toNat], lane := true, guarded := true }
  | .ftanh d a => some { cls := .fixed 8, defs := [.v d.toNat], uses := [.v a.toNat], lane := true, guarded := true }
  | .cvt d a s => some { cls := .fixed 6, defs := [.e d.toNat], uses := [.s s a.toNat], lane := true, guarded := true }
  | .bpak d a b => some { cls := .fixed 8, defs := [.v d.toNat], uses := [.v a.toNat, .v b.toNat], lane := true, guarded := true }
  | .bunp d a b => some { cls := .fixed 8, defs := [.v d.toNat], uses := [.v a.toNat, .v b.toNat], lane := true, guarded := true }
  | .bscl d a b => some { cls := .fixed 8, defs := [.v d.toNat], uses := [.v a.toNat, .v b.toNat], lane := true, guarded := true }
  | .bsclUniform d a b => some { cls := .fixed 8, defs := [.v d.toNat], uses := [.v a.toNat, .k b.toNat], lane := true, guarded := true }
  | .shfl d a b => some { cls := .drain, defs := [.e d.toNat], uses := [.e a.toNat, .v b.toNat], lane := true, guarded := true }
  | .shflUniform d a b => some { cls := .drain, defs := [.e d.toNat], uses := [.e a.toNat, .k b.toNat], lane := true, guarded := true }
  | .shfx d a b => some { cls := .drain, defs := [.e d.toNat], uses := [.e a.toNat, .v b.toNat], lane := true, guarded := true }
  | .shfxImm d a _ => some { cls := .drain, defs := [.e d.toNat], uses := [.e a.toNat], lane := true, guarded := true }
  | .gred d a _ => some { cls := .drain, defs := [.k d.toNat], uses := [.e a.toNat], lane := true, guarded := true }
  | .gscan d a _ => some { cls := .drain, defs := [.e d.toNat], uses := [.e a.toNat], lane := true, guarded := true }
  | .ld _ d a b => some { cls := .late, defs := [.e d.toNat], uses := [.v a.toNat, .k b.toNat], lane := true, guarded := true }
  | .st _ d a b => some { cls := .plain, uses := [.e d.toNat, .v a.toNat, .k b.toNat], lane := true, guarded := true }
  | .lda _ d a b => some { cls := .late, defs := [.e d.toNat], uses := [.v a.toNat, .k b.toNat], lane := true, guarded := true }
  | .stl _ d a b => some { cls := .plain, uses := [.e d.toNat, .v a.toNat, .k b.toNat], lane := true, guarded := true }
  | .lds d a _ => some { cls := .late, defs := [.e d.toNat], uses := [.v a.toNat], lane := true, guarded := true }
  | .sts d a _ => some { cls := .plain, uses := [.e d.toNat, .v a.toNat], lane := true, guarded := true }
  | .ldk _ d a _ => some { cls := .late, defs := [.k d.toNat], uses := [.k a.toNat] }
  | .stk _ d a _ => some { cls := .plain, uses := [.k d.toNat, .k a.toNat] }
  | .lwait _ => some { cls := .plain }
  | .pref a b => some { cls := .plain, uses := [.v a.toNat, .k b.toNat], lane := true, guarded := true }
  | .ldf d _ _ => some { cls := .late, defs := [.w d.toNat], lane := true, guarded := true }
  | .ldfk d _ _ => some { cls := .late, defs := [.k d.toNat] }
  | .stf d _ _ => some { cls := .plain, uses := [.w d.toNat], lane := true, guarded := true }
  | .atom d a o _ =>
    let x : Opnd := if o = 7 then .cas d.toNat else .e d.toNat
    some { cls := .late, defs := [.e d.toNat], uses := [.w a.toNat, x], lane := true, guarded := true }
  | .atomr d a _ _ => some { cls := .plain, uses := [.e d.toNat, .w a.toNat], lane := true, guarded := true }
  | .dqpush d a _ => some { cls := .plain, uses := [.k d.toNat, .k a.toNat] }
  | .dqpop d a _ => some { cls := .late, defs := [.k d.toNat], uses := [.k a.toNat] }
  | .dqsteal d a _ => some { cls := .late, defs := [.k d.toNat], uses := [.k a.toNat] }
  | .bari d a _ => some { cls := .plain, uses := [.k d.toNat, .k a.toNat] }
  | .barr d a => some { cls := .late, defs := [.k d.toNat], uses := [.k a.toNat] }
  | .barw d a => some { cls := .plain, uses := [.k d.toNat, .k a.toNat] }
  | .bara a => some { cls := .plain, uses := [.k a.toNat] }
  | .barx d a => some { cls := .plain, uses := [.k d.toNat, .k a.toNat] }
  | .fence _ => some { cls := .plain }
  | .pub a => some { cls := .plain, uses := [.k a.toNat] }
  | .tdef a _ => some { cls := .drain, uses := [.k a.toNat] }
  | .tget d _ _ => some { cls := .fixed 4, defs := [.k d.toNat] }
  | .cpy d a b => some { cls := .plain, uses := [.k d.toNat, .k a.toNat, .k b.toNat] }
  | .cpyg d a b => some { cls := .plain, uses := [.k d.toNat, .k a.toNat, .k b.toNat] }
  | .cpym d a b => some { cls := .plain, uses := [.k d.toNat, .k a.toNat, .k b.toNat] }
  | .cpyr d a b => some { cls := .plain, uses := [.k d.toNat, .k a.toNat, .k b.toNat] }
  | .cpyo d a b => some { cls := .plain, uses := [.k d.toNat, .k a.toNat, .kk b.toNat] }
  | .bclose => some { cls := .plain }
  | .bwait a => some { cls := .plain, uses := [.k a.toNat] }
  | .mma _ _ _ _ => some { cls := .plain }
  | .mmap _ _ _ _ => some { cls := .plain }
  | .accz _ => some { cls := .plain }
  | .accrd _ _ => some { cls := .plain }
  | .tld _ _ => some { cls := .plain }
  | .fenop => some { cls := .plain }
  | .mwait => some { cls := .plain }
  | .shape a => some { cls := .plain, uses := [.k a.toNat] }
  | .calookLeaf d a _ => some { cls := .late, defs := [.kk d.toNat, .k a.toNat], uses := [.k a.toNat] }
  | .calookInt d a _ => some { cls := .late, defs := [.kk d.toNat, .k a.toNat], uses := [.k a.toNat] }
  | .caread d a _ => some { cls := .late, defs := [.kk d.toNat], uses := [.k d.toNat, .kk a.toNat] }
  | .cawalk d a _ => some { cls := .late, defs := [.kk d.toNat], uses := [.k d.toNat, .kk a.toNat] }
  | .carswap d a _ => some { cls := .late, defs := [.kk d.toNat, .kk a.toNat], uses := [.kk d.toNat, .kk a.toNat] }
  | .caref a _ => some { cls := .plain, uses := [.kk a.toNat] }
  | .cadrop a _ => some { cls := .plain, uses := [.kk a.toNat] }
  | .caout d a _ => some { cls := .plain, uses := [.kk d.toNat, .kk a.toNat] }
  | .fnew d a => some { cls := .late, defs := [.w d.toNat], uses := [.k a.toNat], lane := true }
  | .fnewU d a => some { cls := .late, defs := [.k d.toNat], uses := [.k a.toNat] }
  | .fret _ => some { cls := .plain, lane := true }
  | .fretU _ => some { cls := .plain }
  | .disp _ a => some { cls := .plain, uses := [.k a.toNat] }
  | .cont a => some { cls := .plain, uses := ((List.range 16).map fun i => .v (a.toNat + i)), lane := true }
  | .contU a => some { cls := .plain, uses := ((List.range 8).map fun i => .k (a.toNat + i)) }
  | _ => none

/-- Registers an instruction reads: those of its fields, and the guard's predicate. -/
def Shape.reads (x : Shape) (ty : Option (BitVec 5)) (guard : Option Nat) : List Reg :=
  x.uses.flatMap (Opnd.regs ty) ++ match guard with
    | some p => if x.guarded then [.p p] else []
    | none => []

/-- Operands whose value no check of the instruction looks at: the data of stores, atomics, pushes and barrier words. The operands of
copies, and those of Electrum steps but for the address of calook, are here too: their meanings look at each one by itself. -/
def uncheckedOpnds : Instr → List Opnd
  | .st _ d _ _ | .stl _ d _ _ | .sts d _ _ | .atomr d _ _ _ => [.e d.toNat]
  | .stk _ d _ _ | .dqpush d _ _ | .bari d _ _ | .barw d _ | .barx d _ => [.k d.toNat]
  | .stf d _ _ => [.w d.toNat]
  | .atom d _ o _ => [if o = 7 then .cas d.toNat else .e d.toNat]
  | .cpy d a b | .cpyg d a b | .cpym d a b | .cpyr d a b => [.k d.toNat, .k a.toNat, .k b.toNat]
  | .cpyo d a b => [.k d.toNat, .k a.toNat, .kk b.toNat]
  | .caout d a _ | .carswap d a _ => [.kk d.toNat, .kk a.toNat]
  | .caread d a _ | .cawalk d a _ => [.k d.toNat, .kk a.toNat]
  | .caref a _ | .cadrop a _ => [.kk a.toNat]
  | _ => []

/-- Registers whose values an instruction may check. -/
def Shape.checks (x : Shape) (i : Instr) (ty : Option (BitVec 5)) (guard : Option Nat) : List Reg :=
  { x with uses := x.uses.diff (uncheckedOpnds i) }.reads ty guard

def Shape.writes (x : Shape) (ty : Option (BitVec 5)) : List Reg := x.defs.flatMap (Opnd.regs ty)

/-- Latency of a fixed-latency instruction. -/
def Shape.latency (x : Shape) : Option Nat := match x.cls with | .fixed l => some l | _ => none

end Sys2Proof.Machine
end

