-- ==== Sys2Proof/Machine/HostIf.lean ====
section
/-!
DEFINITION. The host interface (02 R31 to R39, R49 to R55, R400, R401): register writes and reads, doorbells, queue
commands, reconcile passes, and the mailbox.
-/

namespace Sys2Proof.Machine

open Sys2Proof

/-! ### Doorbells (R38) -/

/-- The BARs of a function are there on a link (01 R18, R25): on the link that carries it, and in recovery mode only the
management window. On the other link of dual-host mode the physical function's BAR0 discards every write, uncounted, and its
BAR2 reads zero. -/
def Plant.reaches (p : Plant) (link fn : Nat) : Bool := atD p.linkUp link false && p.linkOf fn == link

/-- The management window is there on a link: once the die of the link that carries it is isolated, it keeps working, on any link that
the device still answers (01 R10; notes/assumptions 55). -/
def State.windowReaches (s : State) (link : Nat) : Bool := s.plant.reaches link 0 || (s.die (2 * s.plant.linkOf 0)).isolated

/-- DOORBELL (R38): a write to BAR0 offsets 0x000 to 0xEFF, over a link. -/
def execDoorbell (at' : Via) (off size : Nat) (val : Word64) (s : State) : Host.Outcome State Fault Refusal :=
  if 17 ≤ at'.fn || 0xF00 ≤ off || !s.plant.reaches at'.link at'.fn || s.plant.recovery then .next s
  else if size = 8 && off % 8 = 0 then .next (s.ring at'.fn true val) else .next (s.discard at'.fn true)

/-! ### Enabling (R37, R49, R76) -/

/-- The limits of the privileged half (R33; check 2 of R37). -/
def privOk (q : Queue) : Bool :=
  decide (4 ≤ q.ringLog) && decide (q.ringLog ≤ 20) && q.ringBase % 64 == 0 && decide (field q.priv 0x09 1 < 16) &&
  decide (q.qflags < 4) && q.context / 4096 % 16 == 0 && q.context / 2097152 == 0 && q.ptRoot % 4096 == 0 &&
  decide (q.ptRoot < hbmEnd) && q.evqBase % 64 == 0 && decide (4 ≤ q.evqLog) && decide (q.evqLog ≤ 16) &&
  allZero ((q.priv.drop 0x2D).take 83)

/-- The context's other queues that are not DISABLED agree (R52). -/
def State.privAgrees (s : State) (q : Queue) : Bool :=
  (s.queuesOf q.context).all fun (f, i) =>
    let o := s.queue f i
    o.ptRoot == q.ptRoot && o.evqBase == q.evqBase && o.evqLog == q.evqLog && o.evqVec == q.evqVec

/-- Vectors of a function (01 R17). -/
def vectors (f : Nat) : Nat := if f = 0 then 64 else 16

/-- The code an enable is refused with, or none with the control block (R37). -/
def State.enableCheck (s : State) (f qi : Nat) : Byte × List Byte :=
  match if s.qreg f qi = 0 then none else s.qcbRead f qi 0 0x98 with
  | none => (0x07, [])
  | some bs =>
    let q := { Queue.reset with priv := bs.take 128 }
    if !privOk q || ctxFn q.context != f || decide (vectors f ≤ q.evqVec) then (0x07, bs)
    else if (s.func f).part.isNone then (0x08, bs)
    else if !s.privAgrees q then (0x07, bs)
    else (0, bs)

/-- Home die of a queue (04 R76): from die Q mod 4 in ring order, the first with a core of the partition and a front end that
accepts queues (R48); with none, the first that accepts queues. A queue whose home accepts none is not parsed. -/
def State.homeDie (s : State) (f qi : Nat) : Nat :=
  let m := s.ownCores ((s.func f).part.getD 0)
  let ring := ringFrom (qi % 4)
  match ring.find? fun d => !(coresOn m d).isEmpty && s.accepts d with
  | some d => d
  | none => (ring.find? s.accepts).getD (qi % 4)

/-- Begins a context when the first queue that names it comes (R52). -/
def State.joinContext (s : State) (q : Queue) : State :=
  if (s.ctx? q.context).isSome then s else s.beginContext q.context q.ptRoot q.evqBase q.evqLog q.evqVec

def State.result (s : State) (f : Nat) (op : Byte) (qi : Nat) (code res : Byte) : State :=
  s.setFunc f { s.func f with
    qpresult := op ++ (0#8) ++ BitVec.ofNat 16 qi ++ (0#16) ++ code ++ res }

/-- LAUNCH packets whose launches have not completed (R34). -/
def State.running (s : State) (l : List Pkt) : List Pkt :=
  l.filter fun p => p.lid.any fun i => (tget s.launches i).isSome

/-- An enable of a DISABLED queue (R37, R49). One that fails writes QSTATUS to the block that QREG names, be it readable or not; of a QREG
of zero, which names none, nothing is read or written. Until the queue has dispatched a team it counts as waiting since now (04 R78), which the spec
leaves open (notes/assumptions 58). Launches that still run after a tamper complete their packets apart from the
ring, which is parsed from HEAD again (R34, notes/assumptions 37). -/
def State.enable (s : State) (f qi : Nat) : State :=
  let (code, bs) := s.enableCheck f qi
  let named := s.qreg f qi != 0
  let s := if named then s.qcbCount f qi 0 0x98 else s
  let old := s.queue f qi
  if code = 0 then
    let h : Word32 := BitVec.ofNat 32 (field bs 0x90 4)
    let q := { Queue.reset with
      priv := bs.take 128, head := h, tail := h, parse := h, orphans := s.running (old.pkts ++ old.orphans), mirrorHead := old.mirrorHead, home := s.homeDie f qi,
      lseq := BitVec.ofNat 16 (field bs 0x8E 2), lastDispatch := (List.range 4).map fun d => (d, s.refTime),
      lastAble := s.refTime }
    let s := (s.setQueue f qi q).joinContext q
    (s.setQState f qi .active 0).result f 2 qi 0 0
  else
    let w := 256 * code.toNat
    let s := s.setQueue f qi { old with code := code, mirrorStatus := BitVec.ofNat 32 w }
    let s := if named then s.qcbWrite f qi 0x94 (natBytes 4 w) else s
    (s.pfeqPost { kind := 2, cause := code.toNat, fn := f, queue := qi }).result f 2 qi code 2

/-! ### Reset and disable (R49, R50) -/

/-- The context ends once its last queue is DISABLED and no launch of it is left (R52). -/
def State.maybeEnd (s : State) (c : Nat) : State :=
  if (s.queuesOf c).isEmpty && !(s.launches.any fun l => l.2.ctx == c) then s.endContext c else s

/-- Takes the work of a queue off the device (R50, steps 1 to 4). Its writes to host-published pages that no publication has
covered are discarded (R47). The context of launches that a tamper and an enable under another CONTEXT left running may end with them
(R34, R52). -/
def State.stopQueue (s : State) (f qi : Nat) : State :=
  let s := s.cancelHandover f qi
  let x := s.queue f qi
  let mine (l : Launch) : Bool := l.fn == f && l.q == qi
  let old := ((s.launches.filter fun l => mine l.2 && l.2.ctx != x.context).map fun l => l.2.ctx).eraseDups
  let s := s.dropLaunches mine
  let s := { s with pubPending := s.pubPending.filter fun w => !(ctxFn w.ctx == f && w.q == qi) }
  let s := s.setQueue f qi { x with
    pkts := [], orphans := [], wait := none, starvedSince := [], parse := x.head }
  forAll State.maybeEnd s old

/-- Starts a reset, or a disable, of a queue that is not DISABLED. -/
def State.startDrain (s : State) (f qi : Nat) (d : Drain) : State :=
  let s := s.stopQueue f qi
  (s.setQueue f qi { s.queue f qi with drain := some d }).setQState f qi .resetting 0

/-- Serves one queue command: QPCMD (R37) or a QCMD reset (R49). -/
def State.serve (s : State) (f : Nat) (viaQp : Bool) (v : Word64) : State :=
  let op := v.extractLsb' 56 8
  let qi := (v.extractLsb' 32 16).toNat
  let h : Word32 := v.extractLsb' 0 32
  let x := s.queue f qi
  let put (s : State) (res : Byte) : State := if viaQp then s.result f op qi 0 res else s
  if op = 2 then if x.state == .disabled then s.enable f qi else put s 3
  else if x.state == .disabled then put s 3
  else put (s.startDrain f qi { head := h, disable := op == 3, viaQp := viaQp, tamper := false }) 1

/-- A reset or disable of the function is in progress. -/
def State.draining (s : State) (f : Nat) : Bool := s.queues.any fun (key, q) => key / 1024 == f && q.drain.isSome

/-- Commands of one function are served one at a time, in the order written (R37). -/
def State.serveAll (f : Nat) : Nat → State → State
  | 0, s => s
  | n + 1, s => match (s.func f).cmds with
    | [] => s
    | (viaQp, v) :: r =>
      if s.draining f then s else State.serveAll f n ((s.setFunc f { s.func f with cmds := r }).serve f viaQp v)

def State.command (s : State) (f : Nat) (viaQp : Bool) (v : Word64) : State :=
  let x := s.func f
  (s.setFunc f { x with cmds := x.cmds ++ [(viaQp, v)] }).serveAll f (x.cmds.length + 1)

/-- A QPCMD write (R37): of an unlisted OP, a large QUEUE or set reserved bits it is ignored. -/
def State.qpcmd (s : State) (f : Nat) (v : Word64) : State :=
  let op := (v.extractLsb' 56 8).toNat
  if op = 0 || 3 < op || v.extractLsb' 48 8 != 0 || 1024 ≤ (v.extractLsb' 32 16).toNat then s else s.command f true v

/-- A QCMD write (R49): only a reset, and none of a DISABLED queue. -/
def State.qcmd (s : State) (f : Nat) (v : Word64) : State :=
  let qi := (v.extractLsb' 32 16).toNat
  if v.extractLsb' 56 8 != 1 || 1024 ≤ qi then s else s.command f false v

def execQcmdReset (fn : Nat) (val : Word64) (s : State) : Host.Outcome State Fault Refusal :=
  if fn < 17 && !s.plant.recovery then .next (s.qcmd fn val) else .next s
def execQpcmdReset (fn : Nat) (val : Word64) (s : State) : Host.Outcome State Fault Refusal :=
  if fn < 17 && val.extractLsb' 56 8 == 1#8 then .next (s.qpcmd fn val) else .next s
def execQpcmdEnable (fn : Nat) (val : Word64) (s : State) : Host.Outcome State Fault Refusal :=
  if fn < 17 && val.extractLsb' 56 8 == 2#8 then .next (s.qpcmd fn val) else .next s
def execQpcmdDisable (fn : Nat) (val : Word64) (s : State) : Host.Outcome State Fault Refusal :=
  if fn < 17 && val.extractLsb' 56 8 == 3#8 then .next (s.qpcmd fn val) else .next s

/-- DISABLED with TAMPER, and its record (R34). -/
def State.tamperQueue (s : State) (f qi : Nat) : State :=
  let s := (s.setQueue f qi { s.queue f qi with wait := none }).setQState f qi .disabled 0x05
  (s.pfeqPost { kind := 5, cause := 5, fn := f, queue := qi }).maybeEnd (s.queue f qi).context

/-- After a drain the function's next command is served. -/
def State.afterDrain (s : State) (f : Nat) : State := s.serveAll f ((s.func f).cmds.length)

/-- L from DB_SHADOW (R38). Where that cannot be read L stays: the spec does not say (notes/assumptions 54). -/
def State.shadowSeq (s : State) (f qi : Nat) : Word16 :=
  match s.qcbRead f qi 0x88 8 with
  | some bs => BitVec.ofNat 16 (field bs 6 2)
  | none => (s.queue f qi).lseq

/-- The privileged half as a reset loads it (R401): what the control block then holds, if an enable would take it. Else the
cached half stays, and the next reconcile pass finds the difference (R34, notes/assumptions 37). -/
def State.reloaded (s : State) (f qi : Nat) (x : Queue) : List Byte :=
  match s.qcbRead f qi 0 128 with
  | none => x.priv
  | some bs =>
    let y := { x with priv := bs }
    if privOk y && y.context == x.context && decide (y.evqVec < vectors f) && s.privAgrees { y with state := x.state } then bs
    else x.priv

/-- RESET_DONE (R50): the drain of the queue that `cur` names ends. PACKET of the reset record, which concerns no packet, is the new HEAD,
and for a disable the old one (DESIGN CHOICE, log 62). -/
def execResetDone (s : State) : Host.Outcome State Fault Refusal :=
  let (f, qi) := (s.cur.fn, s.cur.q)
  let x := s.queue f qi
  match x.drain with
  | none => .next s
  | some d =>
    if d.disable then .next s
    else
      let q := { x with
        drain := none, head := d.head, tail := d.head, parse := d.head, lseq := s.shadowSeq f qi, priv := s.reloaded f qi x,
        home := if s.accepts x.home then x.home else s.homeDie f qi }
      let s := (((s.qcbCount f qi 0 128).qcbCount f qi 0x88 8).setQueue f qi q).setHead f qi d.head
      let s := if d.viaQp then s.result f 1 qi 0 0 else s
      if d.tamper then .next ((s.tamperQueue f qi).afterDrain f)
      else
        let s := (s.joinContext q).setQState f qi .active 0
        let s := s.evqPost q.context { kind := 4, cause := 0, fn := f, queue := qi, packet := d.head }
        .next (s.afterDrain f)

/-- DISABLE_DONE (R49): the drain of a disabling queue ends as a reset's does, with a reset record unless a tamper was met (R34);
the queue is then DISABLED, and its context may end (R52). Where a fault has ended the context, no incarnation begins for the disable and
there is no event queue for the record, which R49 leaves open (notes/assumptions 54). -/
def execDisableDone (s : State) : Host.Outcome State Fault Refusal :=
  let (f, qi) := (s.cur.fn, s.cur.q)
  let x := s.queue f qi
  match x.drain with
  | none => .next s
  | some d =>
    if !d.disable then .next s
    else
      let s := s.setQueue f qi { x with drain := none }
      let s := if d.viaQp then s.result f 3 qi 0 0 else s
      let record : Record := { kind := 4, cause := 0, fn := f, queue := qi, packet := x.head }
      let s := if d.tamper then s.tamperQueue f qi
        else ((s.evqPost x.context record).setQState f qi .disabled 0).maybeEnd x.context
      .next (s.afterDrain f)

/-! ### Reconcile (R34, R39) -/

/-- The tamper check of a pass (R34). A privileged half that cannot be read is not compared: the spec does not say what a pass makes of
it (notes/assumptions 54). -/
def State.checkTamper (s : State) (f qi : Nat) : State :=
  let x := s.queue f qi
  let s1 := s.qcbCount f qi 0 128
  match s.qcbRead f qi 0 128 with
  | none => s1
  | some bs =>
    if bs = x.priv then s1
    else match x.drain with
      | some d => s1.setQueue f qi { x with drain := some { d with tamper := true } }
      | none => s1.tamperQueue f qi

/-- DB_SHADOW offered as a doorbell (R39), if it can be read. -/
def State.offerShadow (s : State) (f qi : Nat) : State :=
  let s1 := s.qcbCount f qi 0x88 8
  match s.qcbRead f qi 0x88 8 with
  | none => s1
  | some bs => s1.ring f false (BitVec.ofNat 64 (leNat bs))

/-- One queue of a pass: the tamper check, then, of a queue that it leaves enabled, DB_SHADOW. -/
def State.reconcileOne (s : State) (fq : Nat × Nat) : State :=
  let (f, qi) := fq
  if (s.queue f qi).state == .disabled then s
  else
    let s1 := s.checkTamper f qi
    if (s1.queue f qi).state == .disabled then s1 else s1.offerShadow f qi

/-- The reconcile pass that is due (R39), at each multiple of 50 µs. The queues are visited in ascending order, which R39 leaves open
(notes/assumptions 54). -/
def State.reconcile (s : State) : State :=
  if s.refTime < s.plant.nextReconcile then s
  else
    let s := { s with plant := { s.plant with nextReconcile := (s.refTime / 50000 + 1) * 50000 } }
    forAll State.reconcileOne s (s.queues.map fun (key, _) => (key / 1024, key % 1024))

/-- RECONCILE_PASS (R39). -/
def execReconcilePass (s : State) : Host.Outcome State Fault Refusal := .next s.reconcile

/-! ### Register writes (R32, R35, R55, R400) -/

/-- A register of `n` bytes at `reg` after a write of `size` bytes at `off`: the bytes that the write covers change. The spec gives
no access sizes for these registers; this is the model's choice (notes/assumptions 53). -/
def merged (old : Nat) (reg n off size : Nat) (val : Word64) : Nat :=
  leNat ((List.range n).map fun i =>
    if off ≤ reg + i && reg + i < off + size then byteOf val (reg + i - off) else BitVec.ofNat 8 (old / 256 ^ i))

/-- The write covers a byte of the register. -/
def covers (reg n off size : Nat) : Bool := decide (off < reg + n) && decide (reg < off + size)

/-- PFEQ_CTL (R55): setting ENABLE zeroes both indices and the overflow bit. -/
def State.pfeqCtl (s : State) (v : Word32) : State :=
  let m := s.mgmt
  let m := { m with pfEnable := v.getLsbD 0, pfVec := v.extractLsb' 8 6 }
  { s with mgmt := if v.getLsbD 0 && !s.mgmt.pfEnable then { m with pfWr := 0, pfRd := 0, pfOverflow := false } else m }

/-- PFEQ_CTL_WRITE (R55). -/
def execPfeqCtlWrite (val : Word32) (s : State) : Host.Outcome State Fault Refusal := .next (s.pfeqCtl val)

/-- A submit (R400): it is ignored while BUSY. -/
def Mgmt.submit (m : Mgmt) : Mgmt :=
  if m.active.isSome then m else { m with active := some (readBytes m.req 0 64), answer := none, rspReady := false }

/-- The mailbox registers. -/
def Mgmt.write (m : Mgmt) (off size : Nat) (val : Word64) : Mgmt :=
  let m := if covers 0 64 off size then
      { m with req := (List.range size).foldl (fun r i => if off + i < 64 then writeCell r (off + i) (byteOf val i) else r) m.req }
    else m
  let m := if covers 0x40 8 off size && merged 0 0x40 8 off size val % 2 == 1 then m.submit else m
  let m := if covers 0x48 8 off size then
      let w := merged 0 0x48 8 off size val
      { m with evtLost := m.evtLost && w / 4 % 2 == 0, rspReady := m.rspReady && w / 2 % 2 == 0 }
    else m
  let m := if covers 0x54 4 off size then { m with evtRd := BitVec.ofNat 31 (merged m.evtRd.toNat 0x54 4 off size val) } else m
  if covers 0x58 8 off size then
    let old := (if m.rspIe then 1 else 0) + (if m.evtIe then 2 else 0) + m.irqVec.toNat * 256
    let w := merged old 0x58 8 off size val
    { m with rspIe := w % 2 == 1, evtIe := w / 2 % 2 == 1, irqVec := BitVec.ofNat 6 (w / 256) }
  else m

/-- The registers of the physical-function event queue. -/
def State.pfeqWrite (s : State) (off size : Nat) (val : Word64) : State :=
  let m := s.mgmt
  let m := if covers 0 8 off size && !m.pfEnable then
      { m with pfBase := BitVec.ofNat 64 (merged m.pfBase.toNat 0 8 off size val / 4096 * 4096) } else m
  let n := merged m.pfLog 8 4 off size val
  let m := if covers 8 4 off size && !m.pfEnable && decide (4 ≤ n) && decide (n ≤ 16) then { m with pfLog := n } else m
  let m := if covers 0x14 4 off size then { m with pfRd := BitVec.ofNat 32 (merged m.pfRd.toNat 0x14 4 off size val) } else m
  let s := { s with mgmt := m }
  if covers 0x0C 4 off size then
    s.pfeqCtl (BitVec.ofNat 32 (merged ((if m.pfEnable then 1 else 0) + m.pfVec.toNat * 256) 0x0C 4 off size val))
  else s

/-- Bits of a QREG that can be written (R36). -/
def qregMask : Word64 := 0x800FFFFFFFFFFF00

/-- GCNT_POLICY, TRAP_POLICY and SAMPLE_CTL as registers (03 R75, 06 R133, R143). -/
def Func.gcntPolicy (f : Func) : Nat := f.gcntDelay.toNat * 2 ^ 24 + f.gcntQuant.toNat * 2 ^ 12 + if f.gcntEnable then 1 else 0
def Func.sampleCtl (f : Func) : Nat :=
  f.sampleLog.toNat * 2 ^ 16 + f.samplePeriod.toNat * 2 ^ 8 + if f.sampleOn then 1 else 0

/-- The policy registers of a function's area. SAMPLE_BASE keeps the low six bits that are written and samples go where it points: R143 calls
the address 64-byte aligned and does not say what becomes of them (DESIGN CHOICE, log 64). -/
def Func.write (x : Func) (off size : Nat) (val : Word64) : Func :=
  let x := if covers 0x3F00 8 off size then
      let w := merged x.gcntPolicy 0x3F00 8 off size val
      { x with gcntDelay := BitVec.ofNat 8 (w / 2 ^ 24), gcntQuant := BitVec.ofNat 4 (w / 2 ^ 12), gcntEnable := w % 2 == 1 }
    else x
  let x := if covers 0x3F08 8 off size then
      { x with trapPolicy := BitVec.ofNat 10 (merged x.trapPolicy.toNat 0x3F08 8 off size val) } else x
  let x := if covers 0x3F10 8 off size then
      let w := merged x.sampleCtl 0x3F10 8 off size val
      { x with sampleLog := BitVec.ofNat 5 (w / 2 ^ 16), samplePeriod := BitVec.ofNat 5 (w / 2 ^ 8), sampleOn := w % 2 == 1 }
    else x
  if covers 0x3F18 8 off size then
    { x with sampleBase := BitVec.ofNat 64 (merged x.sampleBase.toNat 0x3F18 8 off size val) } else x

/-- A count as the guest sees it: rounded down to a multiple of the quantum 2^(QUANT + 10) (R75). -/
def Func.quantise (f : Func) (n : Word64) : Word64 :=
  let q := 2 ^ (f.gcntQuant.toNat + 10)
  BitVec.ofNat 64 (n.toNat / q * q)

/-- The four counters of a function's page, exact. L2 misses depend on caches, whose behaviour is not fixed: a free value. -/
def State.guestSample (s : State) (fn : Nat) : List Word64 :=
  let f := s.func fn
  let counts := ((tget s.parts (f.part.getD 0)).map (·.counts)).getD []
  Config.freeValue 64 (s.freeCtr * 2 ^ 24) :: ([1, 2, 3].map fun i => BitVec.ofNat 64 (atD counts i 0))

/-- Nanoseconds from one refresh of the counter page to the next (03 R75). -/
def Func.gcntPeriod (f : Func) : Nat := 1000000 * max 1 f.gcntDelay.toNat

/-- ENABLE goes from 0 to 1: the values that the first refresh writes are sampled now, one period before it, and the page reads zero until
then (03 R75; notes/assumptions 45). -/
def State.gcntStart (s : State) (fn : Nat) (old : Func) : State :=
  let f := s.func fn
  if old.gcntEnable || !f.gcntEnable then s
  else
    { s.setFunc fn { f with gcnt := [0, 0, 0, 0], gcntNext := s.guestSample fn, gcntAt := s.refTime + f.gcntPeriod } with
      freeCtr := s.freeCtr + 1 }

/-- The privileged queue-control area of a function (R35). QPCMD takes an aligned write of 8 bytes and no other, which the spec
leaves open (notes/assumptions 53). -/
def State.areaWrite (s : State) (f off size : Nat) (val : Word64) : State :=
  let q := off / 8
  let s := if off < 0x2000 && (s.queue f q).state == .disabled then
      let v := BitVec.ofNat 64 (merged (s.qreg f q).toNat (8 * q) 8 off size val) &&& qregMask
      s.setFunc f { s.func f with qreg := writeCell (s.func f).qreg q v }
    else s
  let s := if off = 0x2000 && size = 8 then s.qpcmd f val else s
  (s.setFunc f ((s.func f).write off size val)).gcntStart f (s.func f)

/-- DROOP_STAT (01 R29): writing 1 to bit 1 clears OVERFLOW. -/
def State.droopWrite (s : State) (d off size : Nat) (val : Word64) : State :=
  if covers 0 8 off size && merged 0 0 8 off size val / 2 % 2 == 1 then s.setDie d { s.die d with droopOverflow := false }
  else s

/-- The management window (R32). -/
def State.windowWrite (s : State) (off size : Nat) (val : Word64) : State :=
  if 0x1000 ≤ off && off < 0x1400 then s.droopWrite ((off - 0x1000) / 0x100) (off % 0x100) size val
  else if 0x10000 ≤ off && off < 0x12000 then { s with mgmt := s.mgmt.write (off - 0x10000) size val }
  else if 0x20000 ≤ off && off < 0x20018 then s.pfeqWrite (off - 0x20000) size val
  else if 0x100000 ≤ off && off < 0x100000 + 17 * 0x4000 then
    s.areaWrite ((off - 0x100000) / 0x4000) ((off - 0x100000) % 0x4000) size val
  else s

/-- RBRK in the trap-core window of a core (06 R137). -/
def State.rbrkWrite (s : State) (c off size : Nat) (val : Word64) : State :=
  if c < 160 && covers 0x10 8 off size then
    let k := s.core c
    s.setCore c { k with rbrk := BitVec.ofNat 17 (merged k.rbrk.toNat 0x10 8 off size val) }
  else s

/-- REGISTER_WRITE: a write of `size` bytes, 1 to 8, at an offset of a BAR of a function, over a link. BAR2 is read only, and BAR4
is the physical function's (R31). QCMD takes an aligned write of 8 bytes and no other, which the spec leaves open
(notes/assumptions 53). BAR number 6 stands for the trap core's own window of core `at'.fn` (06 R137). -/
def execRegisterWrite (bar : Nat) (at' : Via) (off size : Nat) (val : Word64) (s : State) : Host.Outcome State Fault Refusal :=
  let fn := at'.fn
  if size = 0 || 8 < size then .next s
  else if bar = 6 then .next (s.rbrkWrite fn off size val)
  else if bar = 4 && fn = 0 then .next (if s.windowReaches at'.link then s.windowWrite off size val else s)
  else if 17 ≤ fn || !s.plant.reaches at'.link fn then .next s
  else if s.plant.recovery then .next s
  else if bar = 0 && off = 0xF00 && size = 8 then .next (s.qcmd fn val)
  else if bar = 0 && off < 0xF00 then
    .next (if size = 8 && off % 8 = 0 then s.ring fn true val else s.discard fn true)
  else .next s

/-! ### Register reads -/

/-- Byte of a register of the management window, as R32 and the rules it names give it. The identity word comes first and the
security versions of the six images follow it, 8 bytes each: R32 does not lay them out (notes/assumptions 4). -/
def State.windowRead (s : State) (off : Nat) : Byte :=
  let b (v reg : Nat) : Byte := BitVec.ofNat 8 (v / 256 ^ (off - reg))
  let m := s.mgmt
  if off < 8 then byteOf Config.identity off
  else if off < 0x38 then b ((tget s.plant.versions (off / 8 - 1)).getD 0) (off / 8 * 8)
  else if 0x1000 ≤ off && off < 0x1400 then
    let d := s.die ((off - 0x1000) / 0x100)
    if off % 0x100 < 8 then
      b (d.droopEvents.toNat * 65536 + (if d.droopOverflow then 2 else 0) + if d.droopActive then 1 else 0) (off / 0x100 * 0x100)
    else 0
  else if 0x10000 ≤ off && off < 0x10040 then readCell m.req (off - 0x10000)
  else if 0x10048 ≤ off && off < 0x10050 then
    b ((if m.evtLost then 4 else 0) + (if m.rspReady then 2 else 0) + if m.active.isSome then 1 else 0) 0x10048
  else if 0x10050 ≤ off && off < 0x10054 then b m.evtWr.toNat 0x10050
  else if 0x10054 ≤ off && off < 0x10058 then b m.evtRd.toNat 0x10054
  else if 0x10058 ≤ off && off < 0x10060 then
    b ((if m.rspIe then 1 else 0) + (if m.evtIe then 2 else 0) + m.irqVec.toNat * 256) 0x10058
  else if 0x10080 ≤ off && off < 0x100C0 then readCell m.rsp (off - 0x10080)
  else if 0x11000 ≤ off && off < 0x12000 then readCell m.ring (off - 0x11000)
  else if 0x20000 ≤ off && off < 0x20008 then b m.pfBase.toNat 0x20000
  else if 0x20008 ≤ off && off < 0x2000C then b m.pfLog 0x20008
  else if 0x2000C ≤ off && off < 0x20010 then b ((if m.pfEnable then 1 else 0) + m.pfVec.toNat * 256) 0x2000C
  else if 0x20010 ≤ off && off < 0x20014 then b (m.pfWr.toNat + if m.pfOverflow then 2 ^ 31 else 0) 0x20010
  else if 0x20014 ≤ off && off < 0x20018 then b m.pfRd.toNat 0x20014
  else if 0x100000 ≤ off && off < 0x100000 + 17 * 0x4000 then
    let f := s.func ((off - 0x100000) / 0x4000)
    let o := (off - 0x100000) % 0x4000
    let r (v reg : Nat) : Byte := BitVec.ofNat 8 (v / 256 ^ (o - reg))
    if o < 0x2000 then r (readCell f.qreg (o / 8)).toNat (o / 8 * 8)
    else if 0x2008 ≤ o && o < 0x2010 then r f.qpresult.toNat 0x2008
    else if 0x2010 ≤ o && o < 0x2018 then r f.discards.toNat 0x2010
    else if 0x3F00 ≤ o && o < 0x3F08 then r f.gcntPolicy 0x3F00
    else if 0x3F08 ≤ o && o < 0x3F10 then r f.trapPolicy.toNat 0x3F08
    else if 0x3F10 ≤ o && o < 0x3F18 then r f.sampleCtl 0x3F10
    else if 0x3F18 ≤ o && o < 0x3F20 then r f.sampleBase.toNat 0x3F18
    else 0
  else 0

/-- Byte of the queue-control mirror of a function (R401). -/
def State.mirrorRead (s : State) (fn off : Nat) : Byte :=
  let q := s.queue fn (off / 256)
  let o := off % 256
  let b (v reg : Nat) : Byte := BitVec.ofNat 8 (v / 256 ^ (o - reg))
  if 0x90 ≤ o && o < 0x94 then b q.mirrorHead.toNat 0x90
  else if 0x94 ≤ o && o < 0x98 then b q.mirrorStatus.toNat 0x94
  else if q.state == .disabled then 0
  else if o < 0x80 then atD q.priv o 0
  else if o < 0x84 then b q.tail.toNat 0x80
  else if o < 0x86 then b q.lseq.toNat 0x84
  else 0

/-- Byte that a read of a BAR over a link returns (R31, R32, R401; 01 R18, R25). -/
def State.barRead (s : State) (link bar fn off : Nat) : Byte :=
  if bar = 4 && fn = 0 then if s.windowReaches link then s.windowRead off else 0
  else if !s.plant.reaches link fn then 0
  else if bar = 2 && !s.plant.recovery then s.mirrorRead fn off else 0

/-! ### The mailbox (R400) -/

/-- Codes of the listed management requests. -/
def listedCodes : List Nat :=
  [0x10, 0x11, 0x12, 0x13, 0x14, 0x15, 0x16, 0x17, 0x18, 0x19, 0x1A, 0x1B, 0x20, 0x30, 0x31, 0x50]

/-- Reserved bytes 1 and 4 to 7 of a request are zero: asked only where a chapter refuses nonzero reserved bytes (00 R5). -/
def headerOk (r : List Byte) : Bool := field r 1 1 == 0 && field r 4 4 == 0

/-- MB_SUBMIT of an unlisted CODE (R56): STATUS 1. -/
def execMbSubmitUnknown (s : State) : Host.Outcome State Fault Refusal :=
  match s.mgmt.active, s.mgmt.answer with
  | some r, none => if listedCodes.contains (field r 0 1) then .next s else .next (s.reply r 1 [])
  | _, _ => .next s

/-- MB_RESPONSE (R400): the whole response is in MB_RSP. -/
def execMbResponse (s : State) : Host.Outcome State Fault Refusal :=
  match s.mgmt.answer with
  | none => .next s
  | some r =>
    let m := { s.mgmt with rsp := memOf r, active := none, answer := none, rspReady := true }
    let s := { s with mgmt := m }
    .next (if m.rspIe then s.msix 0 m.irqVec.toNat else s)

/-- EVENT_RING_WRITE (R400): the oldest event that waits is written once space frees. -/
def execEventRingWrite (s : State) : Host.Outcome State Fault Refusal :=
  match s.mgmt.waiting with
  | [] => .next s
  | e :: r =>
    if s.mgmt.ringFull then .next s
    else .next (State.ringWrite { s with mgmt := { s.mgmt with waiting := r } } e)

end Sys2Proof.Machine
end

