-- ==== Sys2Proof/Machine/Packets.lean ====
section
/-!
DEFINITION. Command packets (02 R40 to R47) and launch admission (04 R83). A packet row acts on the queue that `cur` names:
it parses and starts that queue's next packet.
-/

namespace Sys2Proof.Machine

open Sys2Proof

/-! ### Parsing (R41, R42) -/

/-- A queue is ready to parse its next packet: ACTIVE, with a packet that no WAIT, drain or handover holds. -/
def Queue.parses (x : Queue) : Bool :=
  x.state == .active && x.parse != x.tail && x.wait.isNone && x.drain.isNone && x.thief.isNone

/-- A packet of type `ty` may start after the packets that have (R41). -/
def Queue.mayStart (x : Queue) (ty : Nat) (barrier : Bool) : Bool :=
  if ty = 1 && !barrier then x.pkts.all fun p => p.ptype == 1 else x.pkts.isEmpty

def Queue.packetAddr (x : Queue) : Nat := x.ringBase + 64 * (x.parse.toNat % 2 ^ x.ringLog)

/-- A memory error of a packet or descriptor ends the context (R42; 01 R12). The record has the packet's TAG once its header has
been read. -/
def State.packetUncorr (s : State) (f qi : Nat) (x : Queue) (bs : List Byte) (addr : Nat) : State :=
  s.contextFault x.context
    { kind := 1, cause := Cause.memUncorr.code, fn := f, queue := qi, tag := BitVec.ofNat 32 (field bs 4 4), packet := x.parse,
      addr := BitVec.ofNat 64 addr }

/-- The queue enters ERROR about the packet being parsed. -/
def State.packetError (s : State) (code : Byte) (bs : List Byte) (addr : Nat) : State :=
  let (f, qi) := (s.cur.fn, s.cur.q)
  s.queueError f qi code (BitVec.ofNat 32 (field bs 4 4)) (s.queue f qi).parse (BitVec.ofNat 64 addr)

/-- What comes of a step of a packet: its new state, or what stops it, which is then the new state. -/
abbrev PacketStep := Except State State

/-- The access that a packet needs at an address: RD, W or both (R42). -/
def State.packetAcc (s : State) (bs : List Byte) (va : Nat) (k : Access) : Except State Acc :=
  let x := s.queue s.cur.fn s.cur.q
  match s.resolve x.context x.home false va 8 k with
  | .error .memUncorr => .error (s.packetUncorr s.cur.fn s.cur.q x bs va)
  | .error c => .error ((s.countFailed x.context va 0 c).packetError 2 bs va)
  | .ok a =>
    if s.accWaits a then .error s
    else if (s.peerRefuses a k.writes).isSome then .error (s.packetError 2 bs va)
    else .ok { a with q := s.cur.q }

/-- An address of a packet: not zero, 8-byte aligned, and reachable. -/
def State.packetWord (s : State) (bs : List Byte) (va : Nat) (k : Access) : Except State Acc :=
  if va = 0 || va % 8 ≠ 0 then .error (s.packetError 2 bs 0) else s.packetAcc bs va k

def packetNeed (ok : Bool) (s : State) : Except State Unit := if ok then .ok () else .error s

/-- Notes that a packet has started; `done` says that its own work is finished. -/
def State.startPacket (s : State) (bs : List Byte) (done : Bool) (lid : Option Nat := none) : State :=
  let x := s.queue s.cur.fn s.cur.q
  let p : Pkt :=
    { ix := x.parse, ptype := BitVec.ofNat 8 (field bs 0 1), event := field bs 1 1 / 2 % 2 == 1,
      tag := BitVec.ofNat 32 (field bs 4 4), doneSig := BitVec.ofNat 64 (field bs 8 8), ctx := x.context, finished := done, signalled := false,
      lid := lid }
  s.setQueue s.cur.fn s.cur.q { x with parse := x.parse + 1, pkts := x.pkts ++ [p] }

/-- Reads the next packet of the queue and checks its header. A packet of another type stays for its own row. -/
def State.readPacket (s : State) (ty : Nat) : Except State (List Byte × State) := do
  let (f, qi) := (s.cur.fn, s.cur.q)
  let x := s.queue f qi
  packetNeed (x.parses && s.accepts x.home) s
  match s.resolve x.context x.home false x.packetAddr 64 .read with
  | .error .memUncorr => .error (s.packetUncorr f qi x [] x.packetAddr)
  | .error c => .error ((s.countFailed x.context x.packetAddr 0 c).packetError 2 [] x.packetAddr)
  | .ok a =>
    packetNeed (!s.accWaits a) s
    packetNeed (!s.accBad a) (s.packetUncorr f qi x [] x.packetAddr)
    let bs := s.peek a
    let t := field bs 0 1
    packetNeed (t == ty || decide (5 < t)) s
    packetNeed (x.mayStart t (field bs 1 1 % 2 == 1)) s
    let s := s.afterRead a
    packetNeed (decide (t ≤ 5) && field bs 1 1 / 4 == 0 && field bs 2 2 == 0) (s.packetError 2 bs 0)
    let sig := field bs 8 8
    packetNeed (sig % 8 == 0) (s.packetError 2 bs 0)
    if sig ≠ 0 then let _ ← s.packetAcc bs sig .both
    .ok (bs, s)

/-- Runs a packet row. -/
def packetRow (s : State) (ty : Nat) (body : List Byte → State → PacketStep) : Host.Outcome State Fault Refusal :=
  match s.readPacket ty with
  | .error s' => .next s'
  | .ok (bs, s1) => match body bs s1 with
    | .error s' => .next s'
    | .ok s' => .next s'

/-- Reserved bytes of a body are zero (R42). -/
def zeroFrom (bs : List Byte) (off n : Nat) : Bool := allZero ((bs.drop off).take n)

/-! ### Packets other than LAUNCH -/

def execNopPacket (s : State) : Host.Outcome State Fault Refusal :=
  packetRow s 0 fun bs s => do
    packetNeed (zeroFrom bs 16 48) (s.packetError 2 bs 0)
    .ok (s.startPacket bs true)

/-- New value of a SIGNAL's word (R42). -/
def signalValue (op : Nat) (old v : Word64) : Word64 := match op with | 0 => v | 1 => old + v | _ => old ||| v

def execSignal (s : State) : Host.Outcome State Fault Refusal :=
  packetRow s 2 fun bs s => do
    let op := field bs 24 1
    packetNeed (zeroFrom bs 25 7 && zeroFrom bs 40 24 && decide (op ≤ 2)) (s.packetError 2 bs 0)
    let a ← s.packetWord bs (field bs 16 8) .both
    packetNeed (!s.accBad a) (s.packetUncorr s.cur.fn s.cur.q (s.queue s.cur.fn s.cur.q) bs (field bs 16 8))
    .ok ((s.updateAt a fun x => signalValue op x (BitVec.ofNat 64 (field bs 32 8))).startPacket bs true)

/-- The condition of a WAIT holds (R42). -/
def waitHolds (cond : Nat) (x v : Nat) : Bool :=
  match cond with | 0 => decide (v ≤ x) | 1 => x == v | 2 => x != v | _ => decide (x < v)

/-- Reads the word of a WAIT: none if it waits, an error if it fails, else whether the condition holds. -/
def State.checkWait (s : State) (w : WaitSt) : Except State (Bool × State) :=
  let (f, qi) := (s.cur.fn, s.cur.q)
  let x := s.queue f qi
  let fault (c : Cause) : State :=
    s.contextFault x.context
      { kind := 1, cause := c.code, fn := f, queue := qi, tag := (x.pkts.head?.map (·.tag)).getD 0, packet := x.head, addr := w.addr }
  match s.resolve x.context x.home false w.addr.toNat 8 .read with
  | .error c => .error (fault c)
  | .ok a =>
    if s.accWaits a then .error s
    else if s.accBad a then .error (fault .memUncorr)
    else .ok (waitHolds w.cond.toNat (leNat (s.peek a)) w.value.toNat, s.afterRead a)

/-- The WAIT of the queue that `cur` names completes. -/
def State.endWait (s : State) : State :=
  let x := s.queue s.cur.fn s.cur.q
  s.setQueue s.cur.fn s.cur.q { x with wait := none, pkts := x.pkts.map fun p => { p with finished := true } }

/-- WAIT (R43): a first read when it starts. -/
def execWait (s : State) : Host.Outcome State Fault Refusal :=
  packetRow s 3 fun bs s => do
    packetNeed (zeroFrom bs 25 3 && zeroFrom bs 40 24 && decide (field bs 24 1 ≤ 3)) (s.packetError 2 bs 0)
    let _ ← s.packetWord bs (field bs 16 8) .read
    let us := field bs 28 4
    let w : WaitSt :=
      { addr := BitVec.ofNat 64 (field bs 16 8), cond := BitVec.ofNat 8 (field bs 24 1),
        value := BitVec.ofNat 64 (field bs 32 8), deadline := if us = 0 then none else some (s.refTime + 1000 * us) }
    let s := s.startPacket bs false
    let s := s.setQueue s.cur.fn s.cur.q { s.queue s.cur.fn s.cur.q with wait := some w }
    let (met, s) ← s.checkWait w
    .ok (if met then s.endWait else s)

/-- The word of the WAIT that the queue of `cur` runs is read again, before its timeout has passed (R43). -/
def State.rereadWait (s : State) : State :=
  match (s.queue s.cur.fn s.cur.q).wait with
  | none => s
  | some w =>
    if w.deadline.any fun d => decide (d < s.refTime) then s
    else match s.checkWait w with
      | .error s' => s'
      | .ok (met, s') => if met then s'.endWait else s'

/-- WAIT_SATISFIED (R43): a re-read that meets the condition. -/
def execWaitSatisfied (s : State) : Host.Outcome State Fault Refusal := .next s.rereadWait

/-- The WAIT of the queue that `cur` names has timed out (R43). One under way when the queue enters ERROR for another reason goes on and may
still time out, with a code and a record of its own; R43 and R49 do not say (DESIGN CHOICE, log 64). -/
def State.timeoutWait (s : State) : State :=
  let (f, qi) := (s.cur.fn, s.cur.q)
  let x := s.queue f qi
  match x.wait, x.pkts.head? with
  | some w, some p =>
    if w.deadline.any fun d => decide (d ≤ s.refTime) then
      (s.setQueue f qi { x with wait := none }).queueError f qi 3 p.tag p.ix 0
    else s
  | _, _ => s

/-- WAIT_TIMEOUT (R43). -/
def execWaitTimeout (s : State) : Host.Outcome State Fault Refusal := .next s.timeoutWait

/-- When the WAIT of a queue times out. -/
def Queue.timeout (x : Queue) : Option Nat := x.wait.bind (·.deadline)

/-- The timeout of a queue's WAIT, if it has come: the word is read a last time, and if it does not hold the queue enters ERROR (R43). -/
def State.endTimeout (s : State) (key : Nat) : State :=
  if (s.queue (key / 1024) (key % 1024)).timeout.any fun d => decide (d ≤ s.refTime) then
    let t := State.rereadWait { s with cur := { s.cur with fn := key / 1024, q := key % 1024 } }
    { t.timeoutWait with cur := s.cur }
  else s

/-- PUBLISH (R46), as pub. -/
def execPublish (s : State) : Host.Outcome State Fault Refusal :=
  packetRow s 4 fun bs s => do
    packetNeed (zeroFrom bs 24 40) (s.packetError 2 bs 0)
    let a ← s.packetWord bs (field bs 16 8) .both
    packetNeed (a.isHbm || a.isHost) (s.packetError 2 bs (field bs 16 8))
    let x := s.queue s.cur.fn s.cur.q
    packetNeed (!s.accBad a) (s.packetUncorr s.cur.fn s.cur.q x bs (field bs 16 8))
    .ok ((s.publish (fun w => w.ctx == x.context && w.q == s.cur.q) a).startPacket bs true)

/-- MARKER (R42): the reference time at its start. -/
def execMarker (s : State) : Host.Outcome State Fault Refusal :=
  packetRow s 5 fun bs s => do
    packetNeed (zeroFrom bs 24 40) (s.packetError 2 bs 0)
    let a ← s.packetWord bs (field bs 16 8) .write
    .ok ((s.poke a (natBytes 8 s.refTime)).startPacket bs true)

/-! ### The kernel descriptor (R44, R45) -/

def KDesc.of (bs : List Byte) : KDesc :=
  { entry := BitVec.ofNat 64 (field bs 0 8), width := field bs 8 1, vgran := field bs 9 1, groups := field bs 0xA 1,
    cluster := field bs 0xB 1, scratch := field bs 0xC 4, kflags := BitVec.ofNat 32 (field bs 0x10 4),
    minDies := field bs 0x14 1, maxDies := field bs 0x15 1, step := field bs 0x18 4, gatherNs := field bs 0x1C 4,
    dispatch := BitVec.ofNat 64 (field bs 0x20 8), dispatchN := field bs 0x28 4, outerFrame := field bs 0x2C 4,
    prodEntry := BitVec.ofNat 64 (field bs 0x30 8), prodVgran := field bs 0x38 1, prodGroups := field bs 0x39 1 }

/-- The descriptor's fields are within their limits, with `dyn` bytes of SCRATCH_DYN and the queue's QFLAGS. -/
def KDesc.ok (k : KDesc) (bs : List Byte) (dyn qflags : Nat) : Bool :=
  k.entry.toNat % 32 == 0 && [16, 32, 64].contains k.width && within 1 k.vgran 32 &&
  within 1 k.groups (if k.pair then 128 else 64) && decide (k.cluster ≤ 4) && k.scratch % 1024 == 0 &&
  decide (k.scratch + dyn ≤ if k.pair then 1048576 else 524288) && decide (k.kflags.toNat < 64) &&
  within 1 k.minDies 4 && within k.minDies k.maxDies 4 && zeroFrom bs 0x16 2 && decide (1 ≤ k.step) &&
  k.dispatch.toNat % 8 == 0 && k.outerFrame % 8 == 0 && decide (k.outerFrame ≤ 2048) && zeroFrom bs 0x3A 70 &&
  (if k.roles then k.prodEntry != 0 && k.prodEntry.toNat % 32 == 0 && within 1 k.prodVgran 32 &&
      decide (0 < k.prodGroups) && decide (k.prodGroups < k.groups)
    else k.prodEntry == 0) &&
  (!k.kflags.getLsbD 2 || qflags % 2 == 1) && (!k.coop || qflags / 2 % 2 == 1) &&
  (!k.kflags.getLsbD 5 || decide (64 * k.width ≤ k.scratch))

/-! ### Admission (04 R83) -/

/-- A launch as its packet and descriptor give it. -/
def launchOf (s : State) (bs : List Byte) (k : KDesc) : Launch :=
  let x := s.queue s.cur.fn s.cur.q
  let pick (a b : Nat) : Nat := if a = 0 then b else a
  { fn := s.cur.fn, q := s.cur.q, pkt := x.parse, tag := BitVec.ofNat 32 (field bs 4 4), ctx := x.context, kdAddr := BitVec.ofNat 64 (field bs 16 8), kd := k,
    tx := field bs 24 4, ty := field bs 28 4, tz := field bs 32 4, args := BitVec.ofNat 64 (field bs 40 8),
    minDies := pick (field bs 48 1) k.minDies, maxDies := pick (field bs 49 1) k.maxDies, scratchDyn := field bs 52 4,
    fixedDies := none, nextStep := 0, shares := [], frontier := 0, doneAbove := [], frame := 0, framed := false,
    formedCount := 0, turn := 0, pos := 0, width := 0, pressedDies := [] }

/-- The LAUNCH body is within its own limits (R45). -/
def launchBodyOk (bs : List Byte) : Bool :=
  field bs 24 4 != 0 && field bs 28 4 != 0 && field bs 32 4 != 0 && field bs 52 4 % 1024 == 0 &&
  field bs 16 8 % 128 == 0 && decide (field bs 48 1 ≤ 4) && decide (field bs 49 1 ≤ 4)

/-- The code of the first check of R83 that fails, 0 for none; `m` holds the cores of the queue's partition. -/
def admission (l : Launch) (m : BitVec 160) : Byte :=
  let scratch := l.scratchBytes false
  let room (d : Nat) : Nat := l.kd.clustersOn scratch m d
  let clusters := (l.total + l.kd.clusterTeams - 1) / l.kd.clusterTeams
  if 2 ^ 32 ≤ l.total then 4
  else if (diesOf m).length < l.minDies then 6
  else if !((List.range 4).any fun d => decide (0 < room d)) then 6
  else if l.kd.coop && decide ((diesOf m).foldl (fun n d => n + room d) 0 < clusters) then 6
  else 0

/-- The base set of a launch (04 R90): the first MIN_DIES dies of the ring from the home die that hold a core. -/
def baseSet (home n : Nat) (m : BitVec 160) : List Nat := ((ringFrom home).filter fun d => !(coresOn m d).isEmpty).take n

/-- An admitted launch: the dies of an Invar or COOP launch, and the rotation width of an Invar one (06 R148). A launch with both INVAR and
COOP uses the dies of COOP, all of the partition's, where R83 and R90 also give the MIN_DIES of INVAR (notes/assumptions 60). -/
def admitted (l : Launch) (home : Nat) (m : BitVec 160) : Launch :=
  let fixed := if l.kd.coop then some (diesOf m) else if l.isInvar then some (baseSet home l.minDies m) else none
  let room (d : Nat) : Nat := l.kd.clustersOn (l.scratchBytes false) m d
  { l with
    fixedDies := fixed,
    width := if l.isInvar then (fixed.getD []).foldl (fun n d => n + room d * l.kd.clusterTeams) 0 else 0 }

/-- LAUNCH (R42, R45; 04 R83): the descriptor is read when the packet is parsed. -/
def execLaunch (s : State) : Host.Outcome State Fault Refusal :=
  packetRow s 1 fun bs s => do
    let x := s.queue s.cur.fn s.cur.q
    let kda := field bs 16 8
    packetNeed (zeroFrom bs 36 4 && zeroFrom bs 50 2 && zeroFrom bs 56 8) (s.packetError 2 bs 0)
    packetNeed (launchBodyOk bs) (s.packetError 4 bs 0)
    match s.resolve x.context x.home false kda 128 .read with
    | .error .memUncorr => .error (s.packetUncorr s.cur.fn s.cur.q x bs kda)
    | .error c => .error ((s.countFailed x.context kda 0 c).packetError 4 bs kda)
    | .ok a =>
      packetNeed (!s.accWaits a) s
      packetNeed (!s.accBad a) (s.packetUncorr s.cur.fn s.cur.q x bs kda)
      let ds := s.peek a
      let s := s.afterRead a
      let l := launchOf s bs (KDesc.of ds)
      packetNeed (l.kd.ok ds l.scratchDyn x.qflags && decide (l.minDies ≤ l.maxDies)) (s.packetError 4 bs 0)
      let m := s.ownCores (s.partOf x.context)
      let code := admission l m
      packetNeed (code == 0) (s.packetError code bs 0)
      let i := s.nextId
      let s := { s with launches := tset s.launches i (admitted l x.home m), nextId := i + 1 }
      .ok (s.startPacket bs false (some i))

/-! ### Completion (R41) -/

/-- DONE_SIG − 1. -/
def State.decSignal (s : State) (f qi : Nat) (x : Queue) (p : Pkt) : Except State State :=
  let fault (c : Cause) : State :=
    s.contextFault p.ctx
      { kind := 1, cause := c.code, fn := f, queue := qi, tag := p.tag, packet := p.ix, addr := p.doneSig }
  if p.doneSig = 0 then .ok s
  else match s.resolve p.ctx x.home false p.doneSig.toNat 8 .both with
    | .error c => .error (fault c)
    | .ok a =>
      if s.accWaits a then .error s
      else if s.accBad a then .error (fault .memUncorr)
      else if let some c := s.peerRefuses a true then .error (fault c)
      else .ok (s.updateAt { a with q := qi } (· - 1))

/-- HEAD passes the packets at the front that have signalled. -/
def State.passHead (s : State) (f qi : Nat) : State :=
  let x := s.queue f qi
  let n := (x.pkts.takeWhile (·.signalled)).length
  if n = 0 then s
  else
    let s := s.setQueue f qi { x with pkts := x.pkts.drop n }
    s.setHead f qi (x.head + BitVec.ofNat 32 n)

/-- The launch of a LAUNCH packet, once it is complete (04 R91): its frontier has passed the last team, and nothing of its
gathered groups, records and frames remains. -/
def State.doneLaunch (s : State) (p : Pkt) : Option Nat :=
  match p.lid.bind fun i => (tget s.launches i).map fun l => (i, l) with
  | none => none
  | some (i, l) =>
    let onDie (d : Die) : Bool :=
      d.bins.any (·.launch == i) || d.formed.any (·.launch == i) || d.joins.any (·.1 == i)
    if l.frontier == l.total && !(s.teams.any fun x => x.2.launch == i) && !((List.range 4).any fun d => onDie (s.die d)) &&
      (!l.framed || (s.frame? l.ctx l.frame).isNone) then some i else none

/-- A packet's own work is done. -/
def State.packetDone (s : State) (p : Pkt) : Bool := !p.signalled && (p.finished || (s.doneLaunch p).isSome)

/-- PACKET_COMPLETE (R41): the first finished packet of the queue that has not signalled. A launch that outlived a tamper and the
next enable has its packet signalled, which HEAD no longer waits for (R34). -/
def execPacketComplete (s : State) : Host.Outcome State Fault Refusal :=
  let (f, qi) := (s.cur.fn, s.cur.q)
  let x := s.queue f qi
  match (x.orphans ++ x.pkts).find? s.packetDone with
  | none => .next s
  | some p =>
    match s.decSignal f qi x p with
    | .error s' => .next s'
    | .ok s1 =>
      let mark (y : Pkt) : Pkt := if y.ix = p.ix && y.lid = p.lid then { y with signalled := true } else y
      let s2 := s1.setQueue f qi { s1.queue f qi with pkts := x.pkts.map mark, orphans := x.orphans.filter (· != p) }
      let s3 := if p.event then
          s2.evqPost p.ctx { kind := 3, cause := 0, fn := f, queue := qi, tag := p.tag, packet := p.ix } else s2
      let s4 := match s.doneLaunch p with
        | some i => { s3 with launches := terase s3.launches i }
        | none => s3
      .next ((s4.passHead f qi).maybeEnd p.ctx)

end Sys2Proof.Machine
end

