-- ==== Sys2Proof/Machine/Sched.lean ====
section
/-!
DEFINITION. Scheduling from queue to team (04 R76 to R95; 05 R79): charging, the choice of a queue, dispatch, steps, team
completion, stealing and the gather timeout.
-/

namespace Sys2Proof.Machine

open Sys2Proof

/-! ### Runnable queues (R77) -/

/-- The header of a queue's next packet, and what it holds, if the front end can read it now. -/
def State.nextPacket (s : State) (f qi : Nat) : Option (List Byte) :=
  let x := s.queue f qi
  match s.resolve x.context x.home false x.packetAddr 64 .read with
  | .ok a => if s.accWaits a || s.accBad a then none else some (s.peek a)
  | .error _ => none

/-- A queue is runnable (R77): ACTIVE, with a packet that is ready to start (02 R41). One that cannot be read waits for none either. -/
def State.runnable (s : State) (f qi : Nat) : Bool :=
  let x := s.queue f qi
  x.parses && ((s.nextPacket f qi).map fun bs => x.mayStart (field bs 0 1) (field bs 1 1 % 2 == 1)).getD true

/-! ### Charging (R78) -/

/-- Charges count in parts of a nanosecond, so many that a fraction of a partition's cores, and of its parent's time, is a whole number
of them. -/
def chargeUnit : Nat := 2 ^ 20 * (List.range 160).foldl (fun n i => Nat.lcm n (i + 1)) 1

/-- The queue has at least one resident team on a core. -/
def State.queueOn (s : State) (f qi c : Nat) : Bool :=
  (s.teamsOn c).any fun x => match s.launchOf x.2 with | some l => l.fn == f && l.q == qi | none => false

/-- Cores with a resident team of the queue. -/
def State.coresOf (s : State) (f qi : Nat) : List Nat :=
  ((s.teams.filter fun (_, t) => t.resident && decide (0 < t.groupsLeft) &&
    (match s.launchOf t with | some l => l.fn == f && l.q == qi | none => false)).flatMap fun x => x.2.cores).eraseDups

def bitCount {w : Nat} (m : BitVec w) : Nat := ((List.range w).filter m.getLsbD).length

/-- Charges a queue for `dt` nanoseconds: the fraction of its partition's cores that it holds. -/
def State.chargeQueue (s : State) (dt key : Nat) (x : Queue) : Queue :=
  let n := (s.coresOf (key / 1024) (key % 1024)).length
  if n = 0 then x
  else
    let all := bitCount (s.ownCores ((s.func (key / 1024)).part.getD 0))
    { x with charge := x.charge + dt * chargeUnit * n / max all 1 }

/-- A queue's charge in the period has reached its TIME_BUDGET. A budget of 0 it has always reached. -/
def Queue.isOver (x : Queue) : Bool := decide (x.timeBudget * chargeUnit ≤ x.charge)

/-! A partition's time (03 R60): a period of its parent's time, cut by TIME_SHARE. It is used in each nanosecond by the fraction of its own
cores that its own contexts hold. R60 gives no arithmetic for it (notes/assumptions 58). -/

/-- Cores on which the own contexts of a partition have a resident team. -/
def State.coresUsed (s : State) (p : Nat) : Nat :=
  ((s.teams.filter fun (_, t) => t.resident && decide (0 < t.groupsLeft) && s.partOf (s.teamCtx t) == p).flatMap
    fun x => x.2.cores).eraseDups.length

/-- Charges a partition for `dt` nanoseconds. -/
def State.chargePart (s : State) (dt p : Nat) (x : Part) : Part :=
  let n := s.coresUsed p
  if n = 0 then x else { x with timeUsed := x.timeUsed + dt * chargeUnit * n / max (bitCount (s.ownCores p)) 1 }

/-- Time of a partition in a period, its children's included; at most `n` partitions stand above it. -/
def State.timeAt (s : State) : Nat → Nat → Nat
  | 0, _ => 0
  | n + 1, p => match tget s.parts p with
    | none => 0
    | some x => if p = 0 then 1000000 * chargeUnit else s.timeAt n x.parent * x.timeShare / 1024

def State.kids (s : State) (p : Nat) : List Nat := (s.children p).map (·.1)

def natSum (f : Nat → Nat) (l : List Nat) : Nat := l.foldl (fun n i => n + f i) 0

/-- Time that is a partition's own contexts': its time without what its children have. -/
def State.ownTime (s : State) (p : Nat) : Nat := s.timeAt 4 p - natSum (s.timeAt 4) (s.kids p)

def State.usedTime (s : State) (p : Nat) : Nat := ((tget s.parts p).map (·.timeUsed)).getD 0

/-- What a partition's own contexts have left of their own time. -/
def State.spareTime (s : State) (p : Nat) : Nat := s.ownTime p - s.usedTime p

/-- What a partition's own contexts have used beyond their own time and what its children, after one another, have left: they have it from
its siblings. At most `n` levels stand below it. -/
def State.borrowed (s : State) : Nat → Nat → Nat
  | 0, p => s.usedTime p - s.ownTime p
  | n + 1, p => s.usedTime p - s.ownTime p - (natSum s.spareTime (s.kids p) - natSum (s.borrowed n) (s.kids p))

/-- What the children of a partition have left unused and have not taken from one another. -/
def State.kidsLeft (s : State) (p : Nat) : Nat := natSum s.spareTime (s.kids p) - natSum (s.borrowed 3) (s.kids p)

/-- Some of that is left once the partition's own contexts have had what they used beyond their own time. -/
def State.poolLeft (s : State) (p : Nat) : Bool := decide (s.usedTime p - s.ownTime p < s.kidsLeft p)

/-- The own contexts of a partition have work: a team on a core, a launch with teams to dispatch, or a packet that is ready to start. -/
def State.partActive (s : State) (p : Nat) : Bool :=
  decide (0 < s.coresUsed p) || (s.launches.any fun x => s.partOf x.2.ctx == p && !x.2.allDispatched) ||
  s.queues.any fun x => (s.func (x.1 / 1024)).part.getD 0 == p && s.runnable (x.1 / 1024) (x.1 % 1024)

/-- What the own contexts of a partition, if they have work, may still need in the period beyond their own time. -/
def State.siblingNeed (s : State) (p : Nat) : Nat :=
  if s.partActive p then (s.plant.nextPeriod - s.refTime) * chargeUnit - s.spareTime p else 0

/-- Some of what a partition's children leave is left for its own contexts: what the children leave passes first to their siblings. -/
def State.parentLeft (s : State) (p : Nat) : Bool :=
  decide (s.usedTime p - s.ownTime p < s.kidsLeft p - natSum s.siblingNeed (s.kids p))

/-- The own contexts of a partition have time left: of their own, of what its children leave, or of what it and its siblings leave. What a
child leaves goes to its siblings and then to its parent's own contexts, and no further. -/
def State.inTime (s : State) (p : Nat) : Bool :=
  match tget s.parts p with
  | none => false
  | some x =>
    decide (s.usedTime p < s.ownTime p) || s.parentLeft p || (p != 0 && s.poolLeft x.parent)

/-- A queue is over budget: its TIME_BUDGET, drawn from its partition's time (03 R60), is used up until the period ends. -/
def State.isOver (s : State) (f qi : Nat) : Bool := (s.queue f qi).isOver || !s.inTime ((s.func f).part.getD 0)

/-- A queue has been in budget up to the present nanosecond: its partition's own time may have come to its end with it (R78, R79). -/
def State.keptBudget (s : State) (f qi : Nat) : Bool :=
  let p := (s.func f).part.getD 0
  !(s.queue f qi).isOver && (s.inTime p || decide (s.usedTime p ≤ s.ownTime p))

/-- OVER_BUDGET (R78): a queue whose charge reaches its TIME_BUDGET is over budget from that nanosecond on, as `Queue.isOver` reads it off
the charge, so there is nothing more to change. -/
def execOverBudget (s : State) : Host.Outcome State Fault Refusal := .next s

/-! ### Dispatch (R78, R84 to R93) -/

/-- Cores of a launch's partition. -/
def State.launchCores (s : State) (l : Launch) : BitVec 160 := s.openCores (s.partOf l.ctx)

/-- The core serves a squeeze or a switch (05 R100, R114). -/
def Core.busy (k : Core) : Bool := k.sqRun.isSome || k.saving.isSome

/-- A core takes no new team meanwhile, nor once its partition is about to lose it (03 R59). -/
def State.coreOpen (s : State) (c : Nat) : Bool := !(s.core c).busy && !s.plant.leavingCores.getLsbD c

/-- Puts a request at the end of a core's queue (05 R100). No expansion is in progress when it comes to a core that serves another. -/
def Core.enqueue (x : CoreReq) (k : Core) : Core := { k with sqQueue := k.sqQueue ++ [x], cut := k.cut || k.busy }

/-- Berths of one team of a launch on the cores from `c`. -/
def State.berths (s : State) (l : Launch) (formed : Bool) (m : BitVec 160) (c : Nat) : Option (List Berth) :=
  if l.kd.halves.all fun h => m.getLsbD (c + h) && s.coreOpen (c + h) then
    placeTeam s.room l.kd formed (l.scratchBytes formed) c
  else none

/-- First cores where a single team may go. -/
def KDesc.starts (k : KDesc) (m : BitVec 160) (die : Nat) : List Nat :=
  (coresOn m die).filter fun c => !k.pair || c % 2 == 0

/-- Records of a formed group that core `c` emitted. Of a PAIR launch those of both cores of a pair count together, and the group takes
the pair: R93 speaks of single cores only (DESIGN CHOICE, log 63). -/
def Formed.from' (f : Formed) (pair : Bool) (c : Nat) : Nat :=
  (f.recs.filter fun r => match r.2.1 with | some x => x == c || (pair && x == c + 1) | none => false).length

/-- Places a formed group on a die of its launch (R93): on the core that emitted most of its records, ties to the lowest. -/
def State.placeFormed (s : State) (pool die : Nat) (f : Formed) : Option State :=
  match tget s.launches f.launch with
  | none => none
  | some l =>
    let m := s.launchCores l
    let fits := (l.kd.starts m die).filter fun c => (s.berths l true m c).isSome
    match leastBy (fun c => 65536 - f.from' l.kd.pair c) fits with
    | none => none
    | some c => (s.berths l true m c).map fun bs =>
      let d := s.die pool
      let s := s.setDie pool { d with formed := d.formed.filter fun x => !(x.launch == f.launch && x.serial == f.serial) }
      s.startTeam f.launch l (l.total + f.serial) (some f) bs

/-- Die on which a group formed on `pool` is placed. -/
def State.formedDie (s : State) (l : Launch) (pool : Nat) : Option Nat :=
  s.nearestDie pool fun d => !(coresOn (s.launchCores l) d).isEmpty

/-- Formed groups of a launch that may be placed on a die, the first of each bin. -/
def State.formedFor (s : State) (lid : Nat) (l : Launch) (die : Nat) : List (Nat × Formed) :=
  (List.range 4).flatMap fun pool =>
    if s.formedDie l pool == some die then
      let fs := (s.die pool).formed.filter fun f => f.launch == lid
      (fs.filter fun f => (fs.find? fun x => x.entry == f.entry && x.d1 == f.d1) == some f).map fun f => (pool, f)
    else []

/-! ### Turns of an Invar launch (06 R147, R148) -/

/-- Place of a group in the rotation. -/
def rotationKey (t : Team) (g : Group) : Nat := t.index * 128 + g.index

/-- Groups of a launch with their place in the rotation, the saved ones with no entry. -/
def State.rotation (s : State) (lid : Nat) : List (Nat × Option Nat × Group) :=
  let here := s.groups.filterMap fun (key, g) => match tget s.teams g.team with
    | some t => if t.launch = lid then some (rotationKey t g, some key, g) else none
    | none => none
  here ++ s.teams.flatMap fun (_, t) =>
    if t.launch = lid && !t.resident then t.savedGroups.map fun x => (rotationKey t x.2, none, x.2) else []

/-- A turn passes over a group whose live splits are all parked. -/
def Group.passedOver (g : Group) : Bool :=
  g.liveSplits.all fun i => (g.split i).park.isSome && !(g.split i).halted && (g.split i).trap.isNone

/-- The first group at or after a turn position that is not passed over. -/
def State.turnFrom (s : State) (lid pos : Nat) : Option (Nat × Option Nat × Group) :=
  leastBy (·.1) ((s.rotation lid).filter fun x => decide (pos ≤ x.1) && !x.2.2.passedOver)

/-- The group at which the turn stands. If every group from its position on is passed over, the next pass begins. -/
def State.turnGroup (s : State) (lid pos : Nat) : Option (Nat × Option Nat × Group) :=
  (s.turnFrom lid pos).orElse fun _ => s.turnFrom lid 0

/-- A turn waits at a group that is halted or stopped on the trap core (06 R147). -/
def Group.waitsTurn (g : Group) : Bool := g.liveSplits.any fun i => (g.split i).halted || (g.split i).trap.isSome

/-- The turn stands at the start of a pass: at its position 0, or because nothing from its position on can have a turn. -/
def State.passStarts (s : State) (lid pos : Nat) : Bool := pos == 0 || (s.turnFrom lid pos).isNone

/-- A launch at a point where teams may join: anywhere, but in an Invar launch only where a pass starts (06 R148). -/
def State.openTo (s : State) (lid : Nat) (l : Launch) : Bool := !l.isInvar || s.passStarts lid l.pos

/-- A team joins the rotation of an Invar launch, so a pass starts: its turn stands at the start. -/
def State.openPass (s : State) (lid : Nat) : State :=
  match tget s.launches lid with
  | some l => if l.isInvar then s.setLaunch lid { l with pos := 0 } else s
  | none => s

/-- The first of a list that has a result. -/
def firstSome {α β : Type} (f : α → Option β) : List α → Option β
  | [] => none
  | x :: r => match f x with
    | some y => some y
    | none => firstSome f r

/-- Teams of the next cluster of a share. -/
def Share.cluster (x : Share) (ct : Nat) : Nat := min ct (x.stop - x.next)

/-- Position of a team in its die's share list (R91). -/
def Launch.positionOf (l : Launch) (die i : Nat) : Nat :=
  (l.shares.filter (·.die == die)).foldl (fun n x => n + if i ≤ x.first then 0 else min (i - x.first) (x.stop - x.first)) 0

def Launch.isComplete (l : Launch) (i : Nat) : Bool := decide (i < l.frontier) || l.doneAbove.contains i

/-- Position of the oldest team of a die that is not complete. -/
def Launch.oldest (l : Launch) (die : Nat) : Nat :=
  let open' (x : Share) : Option Nat :=
    ((List.range (x.next - x.first)).map (x.first + ·)).find? fun i => !l.isComplete i
  match firstSome open' (l.shares.filter (·.die == die)) with
  | some i => l.positionOf die i
  | none => ((l.shares.filter (·.die == die)).foldl (fun n x => n + (x.next - x.first)) 0)

/-- Places `n` teams of a cluster on the block from core `b`, none or all (R86). -/
def State.placeCluster (s : State) (lid : Nat) (l : Launch) (m : BitVec 160) (first b : Nat) : Nat → Option State
  | 0 => some s
  | n + 1 =>
    match s.placeCluster lid l m first b n with
    | none => none
    | some s' =>
      let c := b + if l.kd.pair then 2 * n else n
      (s'.berths l false m c).map fun bs => s'.startTeam lid l (first + n) none bs

/-- Free slots of an Invar launch's rotation: the width less the teams that have not exited (06 R148). -/
def State.invarSlots (s : State) (lid : Nat) (l : Launch) : Nat :=
  l.width - (s.teams.filter fun (_, t) => t.launch == lid && !t.formed && decide (0 < t.groupsLeft)).length

/-- Blocks to try, the one that holds `cur.core` first. -/
def State.blocksFor (s : State) (m : BitVec 160) (die size : Nat) : List Nat :=
  let bs := blocksIn m die size
  let mine (b : Nat) : Bool := decide (b ≤ s.cur.core) && decide (s.cur.core < b + size)
  bs.filter mine ++ bs.filter fun b => !mine b

/-- A die's share that has a cluster left, and its place in the list. -/
def Launch.shareOf (l : Launch) (die : Nat) : Option (Nat × Share) :=
  (l.shares.mapIdx fun i x => (i, x)).find? fun x => x.2.die == die && decide (x.2.next < x.2.stop)

def Launch.advanceShare (l : Launch) (i n : Nat) : Launch :=
  { l with shares := l.shares.mapIdx fun j x => if j = i then { x with next := x.next + n } else x }

/-- The share of an Invar launch whose cluster enters next: clusters enter in ascending index over all dies (06 R148). -/
def Launch.nextShare (l : Launch) : Option Share := leastBy (·.next) (l.shares.filter fun x => decide (x.next < x.stop))

/-- Every free slot of an Invar launch that a cluster could take has been refilled. -/
def State.slotsFull (s : State) (lid : Nat) (l : Launch) : Bool :=
  (l.nextShare.map fun x => decide (s.invarSlots lid l < x.cluster l.kd.clusterTeams)).getD true

/-- The share of a die whose next cluster may be dispatched, room apart: it lies in the window (R91), and in an Invar launch it is the next
cluster of all and finds free slots. -/
def State.nextCluster (s : State) (lid : Nat) (l : Launch) (die : Nat) : Option (Nat × Share) :=
  match l.shareOf die with
  | none => none
  | some (i, x) =>
    if l.oldest die + 4096 ≤ l.positionOf die (x.next + x.cluster l.kd.clusterTeams - 1) then none
    else if l.isInvar && (l.nextShare != some x || s.slotsFull lid l) then none
    else some (i, x)

/-- Dispatches the next cluster of a die's share (R86, R91). -/
def State.dispatchCluster (s : State) (lid die : Nat) : Option State :=
  match tget s.launches lid with
  | none => none
  | some l => match s.nextCluster lid l die with
    | none => none
    | some (i, x) =>
      let n := x.cluster l.kd.clusterTeams
      let m := s.launchCores l
      let try' (b : Nat) : Option State := s.placeCluster lid l m x.next b n
      (firstSome try' (s.blocksFor m die l.kd.clusterCores)).map fun s' =>
        match tget s'.launches lid with
        | some l' => s'.setLaunch lid (l'.advanceShare i n)
        | none => s'

/-- Places every team of a COOP launch, or none (R83, R95). -/
def State.dispatchAll (lid : Nat) : Nat → State → Option State
  | 0, s => some s
  | n + 1, s =>
    match tget s.launches lid with
    | none => none
    | some l => match l.shares.find? fun x => decide (x.next < x.stop) with
      | none => some s
      | some x => match s.dispatchCluster lid x.die with
        | none => none
        | some s' => State.dispatchAll lid n s'

/-! ### Sequence numbers and grant records (05 R100, R107) -/

/-- Takes the core's next SEQ. -/
def State.takeSeq (s : State) (c : Nat) : Word32 × State :=
  let k := s.core c
  (k.seq, s.setCore c { k with seq := if k.seq = 0xFFFFFFFF then 1 else k.seq + 1 })

def bytes4 (l : List Nat) : List Byte := (List.range 4).flatMap fun q => natBytes 1 (atD l q 0)
def halves4 (l : List Nat) : List Byte := (List.range 4).flatMap fun q => natBytes 2 (atD l q 0)

/-- The grant record of a request (05 R107). -/
def grantRecord (r : SqRun) (core kind time : Nat) : List Byte :=
  natBytes 4 r.seq.toNat ++ natBytes 4 r.req.ctx ++ natBytes 1 core ++ natBytes 1 kind ++ natBytes 2 r.gflags.toNat ++
  bytes4 r.req.lanes ++ bytes4 r.lanesGot ++ natBytes 2 r.req.scr ++ natBytes 2 r.scrGot ++ halves4 r.req.pool ++
  halves4 r.poolGot ++ natBytes 8 time

/-- A grant record that the core produces (05 R107). -/
def State.produce (s : State) (c : Nat) (r : SqRun) (kind : Nat) : State :=
  s.setCore c { s.core c with grants := (s.core c).grants ++ [grantRecord r c kind s.refTime] }

/-- What teams hold on a core, as the GOT fields of a switch give it. -/
def State.heldOn (s : State) (c ctx : Nat) (ids : List Nat) (seq : Word32) : SqRun :=
  let ts := (s.teamsOn c).filter fun x => ids.contains x.1
  let pool (q : Nat) : Nat :=
    s.groups.foldl (fun n (key, g) =>
      if key / 64 = c && quarterOf (key % 64) = q && ids.contains g.team then n + g.poolBytes else n) 0
  let lane (q : Nat) : Nat := ts.foldl (fun n x => max n (atD x.2.lanes (4 * (c - x.2.core) + q) 16)) 0
  let owns := (s.core c).owner.any fun o => ids.contains o
  { req := { origin := 0, ctx := ctx, fn := 0, q := 0, matrix := false, scr := 0, lanes := [0, 0, 0, 0], pool := [0, 0, 0, 0] },
    victims := ids, seq := seq, scrGot := ts.foldl (fun n x => n + x.2.pagesOn c) 0, lanesGot := (List.range 4).map lane,
    poolGot := (List.range 4).map fun q => pool q / 256, matrixGot := owns,
    gflags := (if owns then 2 else 0) ||| if s.groups.any fun x => ids.contains x.2.team && x.2.halted then 8 else 0 }

/-- What teams release when they leave a core: what they hold there, with the bytes that their exited groups held (04 R88; 22 R397). -/
def State.released (s : State) (c ctx : Nat) (ids : List Nat) (seq : Word32) : SqRun :=
  let r := s.heldOn c ctx ids seq
  let gone (q : Nat) : Nat := ((s.teamsOn c).filter fun x => ids.contains x.1).foldl (fun n x => n + x.2.goneBytes c q) 0
  { r with poolGot := r.poolGot.mapIdx fun q n => n + gone q / 256 }

/-! ### Saved teams of a time-slice switch -/

/-- The groups of a saved team, for the room that they need: entries, hot sets and pinned pages (05 R114, 22 R397). -/
def Team.savedIn (t : Team) (half q : Nat) : List Nat :=
  ((t.savedGroups.mapIdx fun i x => (i, x)).filter fun x =>
    (x.2.1 / 64 - t.core) == half && quarterOf (x.2.1 % 64) == q).map (·.1)

def Team.hotBytes (t : Team) (i : Nat) : Nat := ((t.savedGroups[i]?).map fun x => 32 * x.2.width).getD 0

/-- Lanes of a quarter that a team may use: neither held nor reserved for another queue (05 R104; 19 R392). -/
def State.freeLanes (s : State) (c q : Nat) (t : Team) : Nat :=
  let k := s.core c
  let held := k.holds.foldl (fun n h => max n (atD h.2.lanes q 0)) 0
  let mine (r : Reserve) : Bool := (s.launchOf t).any fun l => l.fn == r.fn && l.q == r.q
  16 - max held ((k.reserves.filter fun r => !mine r).foldl (fun n r => max n (atD r.lanes q 0)) 0)

/-- The room for state at or above byte `low` of each quarter's pool, and in the same part of the scratchpad (05 R114). -/
def Room.above (r : Room) (low : Nat) : Room := { r with blocks := r.blocks.filter fun b => decide (low / 128 ≤ b) }

/-- Berths for a saved team at level 3 on the cores from `c`, its registers at or above byte `low` of each quarter. -/
def State.restoreBerths (s : State) (t : Team) (c low : Nat) : Option (List Berth) :=
  let pinned := min (s.teamScratch t) 4096
  let one (h : Nat) : Option Berth :=
    ((s.room (c + h)).above low).berth (c + h) (t.savedIn h) t.hotBytes (if h = 0 then blocksOf' pinned else 0) low
  allSome ((if t.pair then [0, 1] else [0]).map one)

/-- Number that stands for the place of a saved group in CREATOR of its frames, while it has none. -/
def savedCreator (id i t : Nat) : Nat := t + 256 * i + 2 ^ 32 * (id + 1)

/-- The same for the group of a matrix operation that has retired and is not waited for. -/
def savedKey (id i : Nat) : Nat := 2 ^ 40 + 256 * id + i

/-- Renames the creators of frames. -/
def State.renameCreators (s : State) (ctx : Nat) (f : Nat → Option Nat) : State :=
  { s with frames := s.frames.map fun x =>
      if x.ctx = ctx && x.fstate == 1 && !x.isLaunch then
        match f (x.creator.toNat / 256) with
        | some n => { x with creator := BitVec.ofNat 64 (x.creator.toNat % 256 + 256 * n) }
        | none => x
      else x }

/-- A restored group at level 3, in cycle `cycle` of its core: its watchdog counts go on (06 R141), and the cycles left on its gaps are still to
pass (R117). -/
def restoreGroup (now cycle base : Nat) (restoring : Bool) (g : Group) : Group :=
  { g.setLevel 3 with
    base := base, restoring := restoring,
    splits := g.splits.map fun x => { x with parkStart := now, nextIssue := cycle + x.nextIssue } }

/-- Restores a saved team on the cores of its berths (05 R114, R118): hot sets and pinned pages first; the rest stays spilled. Its trapped
splits wait for the trap core again. A team whose scratchpad is at most 4 KiB shows TLEVEL 0, every other team and every group level 3
(DESIGN CHOICE, log 63). -/
def State.restoreTeam (s : State) (id : Nat) (t : Team) (bs : List Berth) (restoring : Bool) : State :=
  let b0 := (bs.head?).getD { core := t.core, seats := [], blocks := [], page := 0 }
  let seats := bs.flatMap fun b => b.seats.map fun x => (b.core, x)
  let put (s : State) (x : Nat × Seat) : State :=
    match t.savedGroups[x.2.index]? with
    | none => s
    | some (_, g) =>
      let s := s.setGroup x.1 x.2.entry (restoreGroup s.refTime (s.cycleOf x.1) x.2.base restoring g)
      let traps := ((List.range 4).filter fun i => ((g.split i).trap.map (·.untaken)).getD false).map fun i => (x.1, x.2.entry, i)
      let p := pairOf x.1
      let s := s.setCore p { s.core p with trapQ := (s.core p).trapQ ++ traps }
      s.renameCreators (s.teamCtx t) fun n =>
        if n = savedCreator id x.2.index 0 / 256 then some (x.2.entry + 256 * x.1) else none
  let t' : Team :=
    { t with
      core := b0.core, resident := true, stay := t.stay + 1, heldOut := false, saveValid := false, savedGroups := [], extra := 0, gone := [], slot := b0.page,
      slot2 := ((bs[1]?).map (·.page)).getD 0, smap := smapOf bs, tlevel := if s.teamScratch t ≤ 4096 then 0 else 3,
      carve := carveOf bs,
      lanes := bs.flatMap fun b => [0, 1, 2, 3].map fun q => max 1 (s.freeLanes b.core q t), mspill := t.savedMatrix }
  let mat (m : MatOp) : MatOp :=
    if m.team != id then m
    else { m with
      core := m.core - t.core + b0.core
      group := ((seats.find? fun x => savedKey id x.2.index == m.group).map fun x => x.1 * 64 + x.2.entry).getD m.group }
  let s := forAll put ({ s with mats := s.mats.map mat }.setTeam id t') seats
  forAll (fun s b => s.takeMatrix id b.core) s bs

/-- Teams of a context that OP 1 holds out of a core. -/
def State.heldOut (s : State) (c ctx : Nat) : List (Nat × Team) :=
  s.teams.filter fun (_, t) => t.heldOut && t.saveValid && t.cores.contains c && s.teamCtx t == ctx

/-- Restores teams one after the other, all or none. -/
def State.restoreAll (low : Nat) (restoring : Bool) : List (Nat × Team) → State → Option State
  | [], s => some s
  | (id, t) :: r, s =>
    match s.restoreBerths t t.core low with
    | none => none
    | some bs => State.restoreAll low restoring r (s.restoreTeam id t bs restoring)

/-- The teams that OP 2 is to bring back to a core fit there now, on cores that serve nothing, or have all been discarded. -/
def State.switchFits (s : State) (c ctx : Nat) : Bool :=
  let ts := s.heldOut c ctx
  ts.isEmpty || (ts.all fun x => x.2.cores.all s.coreOpen) && (State.restoreAll 0 false ts s).isSome

/-- The first request of a core's queue that can be served: one that brings teams back waits until they fit, and holds no other work back
meanwhile (22 R397). -/
def State.nextReq (s : State) (c : Nat) : Option CoreReq :=
  (s.core c).sqQueue.find? fun x => match x with | .switchIn i ctx => s.switchFits i ctx | _ => true

/-- The core serves nothing, and has nothing to serve. -/
def State.coreFree (s : State) (c : Nat) : Bool := s.coreOpen c && (s.nextReq c).isNone

/-- Teams of a launch on a die that a time-slice switch, or a partition change, has saved. -/
def State.savedOn (s : State) (lid die : Nat) : List (Nat × Team) :=
  s.teams.filter fun (_, t) => t.launch == lid && !t.resident && !t.heldOut && t.saveValid && dieOf t.core == die

/-- Where a saved team may come back: on its cores, or, if its partition has lost one of them, on others of its die. -/
def State.returnCores (s : State) (l : Launch) (t : Team) : List Nat :=
  let m := s.launchCores l
  if t.cores.all m.getLsbD then [t.core]
  else (coresOn m (dieOf t.core)).filter fun c => !t.pair || (c % 2 == 0 && m.getLsbD (c + 1))

/-- Teams of a context have been restored on a core: the switch takes its SEQ and writes its grant record of KIND 3, and the teams' GRANT and
NPEND change with their RESID (05 R114; 19 R391): those of `shown` by this core's grant, where a PAIR team has come back on two. -/
def State.switchedIn (s : State) (c ctx : Nat) (shown ids : List Nat) : State × List Byte :=
  let (seq, s) := s.takeSeq c
  let s := forAll (fun s id => s.showTeam (some (seq, 3)) id) s shown
  let run := s.heldOn c ctx ids seq
  (s.produce c run 3, grantRecord run c 3 s.refTime)

/-- The scheduler brings a saved team back once it fits, as the incoming half of a switch, after what arrived at its cores before. -/
def State.bringBack (s : State) (l : Launch) (x : Nat × Team) : Option State :=
  let open' (c : Nat) : Bool := s.coreFree c && (!x.2.pair || s.coreFree (c + 1))
  let try' (c : Nat) : Option State := (s.restoreBerths x.2 c 0).map fun bs =>
    ((s.restoreTeam x.1 x.2 bs true).switchedIn c l.ctx [x.1] [x.1]).1
  firstSome try' ((s.returnCores l x.2).filter open')

/-- The launch has a team or a formed group that it could place on the die, room apart. -/
def State.hasWork (s : State) (lid : Nat) (l : Launch) (die : Nat) : Bool :=
  !(s.savedOn lid die).isEmpty ||
  (s.openTo lid l && (l.framed || !l.isFrames) && ((s.nextCluster lid l die).isSome || !(s.formedFor lid l die).isEmpty))

/-- Places the next team of a launch on a die: saved teams first, then formed groups, then a cluster of its share. -/
def State.placeNext (s : State) (die : Nat) (x : Nat × Launch) : Option State :=
  let (lid, l) := x
  match firstSome (s.bringBack l) (s.savedOn lid die) with
  | some s' => some s'
  | none => if !s.openTo lid l || (l.isFrames && !l.framed) then none
    else match firstSome (fun y => s.placeFormed y.1 die y.2) (s.formedFor lid l die) with
      | some s' => some (s'.openPass lid)
      | none => (if l.kd.coop then State.dispatchAll lid (l.total + 1) s else s.dispatchCluster lid die).map fun s' => s'.openPass lid

/-- Time at which the queue last dispatched a team. -/
def Queue.lastAny (q : Queue) : Nat := q.lastDispatch.foldl (fun n x => max n x.2) 0

/-- The order in which a die considers launches of in-budget queues (R78): by level, then by the time since the queue last dispatched a
team, then in order of admission. -/
def State.choiceRank (s : State) (x : Nat × Launch) : Nat :=
  let q := s.queue x.2.fn x.2.q
  (q.priority * 2 ^ 80 + q.lastAny) * 2 ^ 40 + x.1

/-- Those of in-budget queues come first (R78). -/
def State.launchRank (s : State) (x : Nat × Launch) : Nat :=
  (if s.isOver x.2.fn x.2.q then 1 else 0) * 2 ^ 124 + s.choiceRank x

def State.candidates (s : State) (die : Nat) : List (Nat × Launch) :=
  sortBy s.launchRank (s.launches.filter fun x => s.hasWork x.1 x.2 die)

/-! ### Victims (R79) -/

/-- Register-pool bytes that a team holds resident on a core. -/
def State.teamBytes (s : State) (c id : Nat) : Nat :=
  s.groups.foldl (fun n (key, g) => if key / 64 = c && g.team = id then n + g.poolBytes else n) 0

/-- A queue may take resources from a team: one of another queue, at a greater level number or over budget. -/
def State.mayTake (s : State) (f qi : Nat) (t : Team) : Bool :=
  match s.launchOf t with
  | some l =>
    !(l.fn == f && l.q == qi) && (decide ((s.queue f qi).priority < (s.queue l.fn l.q).priority) || s.isOver l.fn l.q)
  | none => false

/-- The order of victims: the greatest level number first, and then the most register-pool bytes. -/
def State.victimRank (s : State) (c : Nat) (x : Nat × Team) : Nat := (16 - s.teamLevel x.2) * 2 ^ 32 - s.teamBytes c x.1

/-- Teams on a core that a queue may take resources from, in that order. -/
def State.takeable (s : State) (f qi c : Nat) : List (Nat × Team) :=
  sortBy (s.victimRank c) ((s.teamsOn c).filter fun x => s.mayTake f qi x.2)

/-- Their contexts, each once. -/
def State.victims (s : State) (f qi c : Nat) : List Nat := ((s.takeable f qi c).map fun x => s.teamCtx x.2).eraseDups

/-- What one team of a launch needs on a core, in the units of a squeeze request (05 R99). -/
def Launch.squeezeNeed (l : Launch) (half : Nat) : Nat × List Nat :=
  let pool (q : Nat) : Nat :=
    min 256 (((l.kd.groupsIn false half q).foldl (fun n g => n + l.kd.groupBytes false g) 0 + 255) / 256)
  (min 128 ((l.kd.scratchOn (l.scratchBytes false) half + 4095) / 4096), (List.range 4).map pool)

/-- The die issues squeeze requests for a launch that it cannot place, on the core with the first of the die's victims; of cores with equal
ones on the core that `cur` names, or the lowest. Nothing is asked of a core that already has a request. -/
def State.askSqueeze (s : State) (die : Nat) (x : Nat × Launch) : State :=
  let l := x.2
  let able (c : Nat) : Bool := (s.core c).sqQueue.isEmpty && s.coreOpen c && !(s.victims l.fn l.q c).isEmpty
  let cs := (coresOn (s.launchCores l) die).filter able
  let rank (c : Nat) : Nat := (((s.takeable l.fn l.q c).head?).map (s.victimRank c)).getD 0 * 2 + if c = s.cur.core then 0 else 1
  match leastBy rank cs with
  | none => s
  | some c =>
    let (scr, pool) := l.squeezeNeed (if l.kd.pair then c % 2 else 0)
    let req (v : Nat) : CoreReq := .squeeze
      { origin := 1, ctx := v, fn := l.fn, q := l.q, matrix := false, scr := scr, lanes := [0, 0, 0, 0], pool := pool }
    s.setCore c ((s.victims l.fn l.q c).foldl (fun k v => k.enqueue (req v)) (s.core c))

/-- A queue that could not place a team on a die has waited since now, or since before; the steps of less urgent launches take note of
the die (R90). -/
def State.starve (die : Nat) (s : State) (x : Nat × Launch) : State :=
  let q := s.queue x.2.fn x.2.q
  let press (l : Launch) : Launch :=
    if q.priority < (s.queue l.fn l.q).priority && !l.pressedDies.contains die then { l with pressedDies := die :: l.pressedDies } else l
  let s := s.setQueue x.2.fn x.2.q { q with
    starvedSince := tset q.starvedSince die ((tget q.starvedSince die).getD s.refTime) }
  { s with launches := tmap s.launches fun _ l => press l }

/-- TEAM_DISPATCH (R78, R84): the die places the next team of the first queue, in its order of choice, that can place one. The queues before
it wait, and the die may take resources from victims for the first of them (R79). -/
def execTeamDispatch (die : Nat) (s : State) : Host.Outcome State Fault Refusal :=
  let cs := if (s.die die).frontFailed then [] else s.candidates die
  let late := cs.takeWhile fun x => (s.placeNext die x).isNone
  let s1 := match late with
    | [] => s
    | x :: _ => (forAll (State.starve die) s late).askSqueeze die x
  match cs.drop late.length with
  | [] => .next s1
  | x :: _ => .next ((s1.placeNext die x).getD s1)

/-! ### Steps (R90) -/

/-- The launch of a queue's next packet, if it is a LAUNCH packet that is ready to start. -/
def State.readyLaunch (s : State) (f qi : Nat) : Option Launch :=
  let s := { s with cur := { s.cur with fn := f, q := qi } }
  let x := s.queue f qi
  if !s.runnable f qi then none
  else match s.nextPacket f qi with
    | none => none
    | some bs => match s.resolve x.context x.home false (field bs 16 8) 128 .read with
      | .error _ => none
      | .ok a =>
        let ds := s.peek a
        let l := Machine.launchOf s bs (KDesc.of ds)
        if field bs 0 1 = 1 && launchBodyOk bs && l.kd.ok ds l.scratchDyn x.qflags then some l else none

/-- A cluster of `n` teams could be placed so that one of them takes the core (R86). -/
def State.clusterFits (s : State) (lid : Nat) (l : Launch) (die first n c : Nat) : Bool :=
  let m := s.launchCores l
  let wide := if l.kd.pair then 2 else 1
  (blocksIn m die l.kd.clusterCores).any fun b =>
    decide (b ≤ c) && decide (c < b + wide * n) && (s.placeCluster lid l m first b n).isSome

/-- The shares of `n` teams from `start` of the step that begins at `base` (R90). -/
def stepShares (ds : List Nat) (base start n ct : Nat) : List Share :=
  let k := ds.length
  let b (j : Nat) : Nat := min n ((j * n / k + ct - 1) / ct * ct)
  (sortBy id ds).mapIdx fun j d => { die := d, base := base, first := start + b j, next := start + b j, stop := start + b (j + 1) }

/-- Every team of a COOP launch could be placed now, one of them on the core (R83). -/
def State.coopFits (s : State) (lid : Nat) (l : Launch) (c : Nat) : Bool :=
  (State.dispatchAll lid (l.total + 1) s).any fun s' => (s'.teamsOn c).any fun x => (tget s.teams x.1).isNone

/-- A launch that a queue's next packet would start could place its first team on the core (R86). -/
def State.firstFits (s : State) (l : Launch) (die c : Nat) : Bool :=
  let ct := l.kd.clusterTeams
  if l.kd.coop then
    let l := { l with nextStep := l.total, shares := stepShares (diesOf (s.launchCores l)) 0 0 l.total ct }
    State.coopFits { s with launches := tset s.launches s.nextId l, nextId := s.nextId + 1 } s.nextId l c
  else s.clusterFits s.nextId l die 0 (min ct l.total) c

/-- A launch could place its next team on the core now: a saved team, a formed group, or a team of its next cluster. -/
def State.couldPlace (s : State) (die c : Nat) (x : Nat × Launch) : Bool :=
  let (lid, l) := x
  let saved (y : Nat × Team) : Bool := (s.returnCores l y.2).any fun b =>
    (b == c || (y.2.pair && b + 1 == c)) && s.coreOpen b && (s.restoreBerths y.2 b 0).isSome
  (s.savedOn lid die).any saved ||
  (s.openTo lid l && (l.framed || !l.isFrames) &&
    ((!(s.formedFor lid l die).isEmpty && (s.berths l true (s.launchCores l) (if l.kd.pair then c / 2 * 2 else c)).isSome) ||
      if l.kd.coop then s.coopFits lid l c
      else ((s.nextCluster lid l die).map fun y => s.clusterFits lid l die y.2.next (y.2.cluster l.kd.clusterTeams) c).getD false))

/-- A runnable queue of the die could place a team on the core: of a launch that has started, or of its next packet's (R77, R80). -/
def State.coreWanted (s : State) (die c : Nat) : Bool :=
  (s.candidates die).any (s.couldPlace die c) ||
  s.queues.any fun (key, q) => q.home == die && (s.readyLaunch (key / 1024) (key % 1024)).any fun l => s.firstFits l die c

/-- A queue could place a team on its home die now (R81). -/
def State.queueAble (s : State) (f qi : Nat) : Bool :=
  let die := (s.queue f qi).home
  let mine := (s.candidates die).filter fun x => x.2.fn == f && x.2.q == qi
  let next := s.readyLaunch f qi
  (coresOn (s.openCores ((s.func f).part.getD 0)) die).any fun c =>
    mine.any (s.couldPlace die c) || next.any fun l => s.firstFits l die c

/-- Notes that the queues which could place a team could do so up to a time. -/
def State.noteAble (s : State) (till : Nat) : State :=
  { s with queues := tmap s.queues fun key q =>
      if q.state == .active && s.queueAble (key / 1024) (key % 1024) then { q with lastAble := till } else q }

/-- Cores of a set on a die with no resident team, on which no runnable queue could place one. -/
def State.idleCores (s : State) (die : Nat) (m : BitVec 160) : List Nat :=
  (coresOn m die).filter fun c => (s.teamsOn c).isEmpty && !s.coreWanted die c

/-- A die is idle for a partition (R80): it has had an idle core of it for 5 µs. -/
def State.idleFor (s : State) (die part : Nat) : Bool :=
  ((tget (s.die die).idleSince part).any fun t => decide (t + 5000 ≤ s.refTime)) && !(s.idleCores die (s.openCores part)).isEmpty

/-- Notes since when a die, and each partition on it, has had an idle core. -/
def State.noteIdle (s : State) (die : Nat) : State :=
  let x := s.die die
  let since := x.idleSince
  let keep (p : Nat) : Option (Nat × Nat) :=
    if (s.idleCores die (s.openCores p)).isEmpty then none else some (p, (tget since p).getD s.refTime)
  let now := s.parts.filterMap fun y => keep y.1
  let all := if now.isEmpty then none else some (x.idleDie.getD s.refTime)
  if now = since && all = x.idleDie then s else s.setDie die { x with idleSince := now, idleDie := all }

/-- The dies of an Invar launch (R90): those fixed at admission that still hold a core, and for each of the others the next die of the
ring that holds one. -/
def State.fixedNow (s : State) (l : Launch) (ds : List Nat) : List Nat :=
  let holds (d : Nat) : Bool := !(coresOn (s.launchCores l) d).isEmpty
  let alive := ds.filter holds
  let next := (ringFrom (ds.headD 0)).filter fun d => holds d && !ds.contains d
  alive ++ next.take (ds.length - alive.length)

/-- Dies that serve the next step (R90): every die of a COOP launch's partition; the fixed dies of an Invar launch; else the base set; dies of the last step that no more urgent queue has pressed; and dies idle for the
launch's partition, in ring order. -/
def State.stepDies (s : State) (l : Launch) : List Nat :=
  if l.kd.coop then diesOf (s.launchCores l)
  else match l.fixedDies with
  | some ds => s.fixedNow l ds
  | none =>
    let m := s.launchCores l
    let ring := (ringFrom (s.queue l.fn l.q).home).filter fun d => !(coresOn m d).isEmpty
    let last := l.shares.foldl (fun n x => max n x.base) 0
    let serving (d : Nat) : Bool := l.shares.any fun x => x.die == d && x.base == last
    let more := ring.drop l.minDies
    let kept := more.filter fun d => serving d && !l.pressedDies.contains d
    let new := more.filter fun d => !serving d && s.idleFor d (s.partOf l.ctx)
    ring.take l.minDies ++ (kept ++ new).take (l.maxDies - l.minDies)

/-- Teams of a step: STEP rounded up to whole clusters; a COOP launch is one step. -/
def Launch.stepLen (l : Launch) : Nat :=
  let ct := l.kd.clusterTeams
  min (if l.kd.coop then l.total else (l.kd.step + ct - 1) / ct * ct) (l.total - l.nextStep)

/-- The launch frame (11 R231), on the lowest die of the first step's set. -/
def State.frameLaunch (s : State) (lid : Nat) (l : Launch) (ds : List Nat) : Except State State :=
  if !l.isFrames || l.framed then .ok s
  else match s.newFrame l.ctx (ds.foldl min 3) l.kd.outerFrame 0 noRetire 0 (BitVec.allOnes 64) true lid with
    | none => .error (s.contextFault l.ctx (l.record Cause.frameBound.code))
    | some (s1, h) => .ok (s1.setLaunch lid { l with frame := h, framed := true })

/-- Agrees the steps of a launch, at most `n` of them. -/
def State.agree (lid : Nat) : Nat → State → State
  | 0, s => s
  | n + 1, s =>
    match tget s.launches lid with
    | none => s
    | some l =>
      let ds := s.stepDies l
      if l.total ≤ l.nextStep || ds.isEmpty then s
      else match s.frameLaunch lid l ds with
        | .error s' => s'
        | .ok s1 => match tget s1.launches lid with
          | none => s1
          | some l1 =>
            let l2 := { l1 with
              shares := l1.shares ++ stepShares ds l1.nextStep l1.nextStep l1.stepLen l1.kd.clusterTeams, pressedDies := [],
              fixedDies := l1.fixedDies.map fun _ => ds,
              nextStep := l1.nextStep + l1.stepLen }
            State.agree lid n (s1.setLaunch lid l2)

/-- STEP_AGREE (R90). The dies of an Invar launch never change, so all of its steps are agreed at once. -/
def execStepAgree (launch : Nat) (s : State) : Host.Outcome State Fault Refusal :=
  match tget s.launches launch with
  | some l => .next (s.agree launch (if l.isInvar then l.total else 1))
  | none => .next s

/-- Steps of which no team has been dispatched are agreed anew once one of their dies holds no core any more, so that the next die of the
ring joins the base set (R90). -/
def State.agreeAnew (s : State) (l : Launch) : Launch :=
  let begun := (l.shares.filter fun x => decide (x.first < x.next)).map (·.base)
  let later := l.shares.filter fun x => begun.all fun b => decide (b < x.base)
  let gone (d : Nat) : Bool := (coresOn (s.launchCores l) d).isEmpty
  match leastBy id (later.map (·.base)) with
  | some b =>
    if later.any fun x => gone x.die then { l with shares := l.shares.filter (fun x => decide (x.base < b)), nextStep := b } else l
  | none => l

/-- The undispatched share of a die that a launch has lost moves to the remaining dies of its step, or, if none is left, to the dies that
still hold a core (R95). -/
def State.moveShares (s : State) (l : Launch) : Launch :=
  let l := s.agreeAnew l
  let m := s.launchCores l
  let gone (d : Nat) : Bool := (coresOn m d).isEmpty
  let spread (x : Share) : List Share :=
    let rest := ((l.shares.filter fun y => y.base == x.base && !gone y.die).map (·.die)).eraseDups
    let ds := if rest.isEmpty then diesOf m else rest
    if decide (x.next < x.stop) && gone x.die && !ds.isEmpty then
      (if x.first < x.next then [{ x with stop := x.next }] else []) ++
        stepShares ds x.base x.next (x.stop - x.next) l.kd.clusterTeams
    else [x]
  { l with shares := l.shares.flatMap spread }

def State.moveAllShares (s : State) : State := { s with launches := tmap s.launches fun _ l => s.moveShares l }

/-! ### Completion (R91) -/

/-- Work that a team still has: groups, copies, matrix operations, atomics, and Electrum steps with their cascades
(20 R394). -/
def State.teamBusy (s : State) (id : Nat) (t : Team) : Bool :=
  decide (0 < t.groupsLeft) || s.copies.any (·.2.team == id) ||
  (s.mats.any fun m => m.team == id && !m.retired) || (s.atoms.any fun a => a.team == id || a.riders.any (·.team == id)) ||
  s.caSteps.any (·.team == id) || s.stores.any fun x => x.2.pendingOf id

/-- The frontier after the team of an index completes. -/
def Launch.complete (l : Launch) (i : Nat) : Launch :=
  let done := i :: l.doneAbove
  let rec go : Nat → Nat → Nat
    | 0, f => f
    | n + 1, f => if done.contains f then go n (f + 1) else f
  let f := go done.length l.frontier
  { l with frontier := f, doneAbove := done.filter (f ≤ ·) }

/-- TEAM_COMPLETE (R91). -/
def execTeamComplete (team : Nat) (s : State) : Host.Outcome State Fault Refusal :=
  match tget s.teams team with
  | none => .next s
  | some t =>
    if s.teamBusy team t then .next s
    else
      let s := { s with teams := terase s.teams team }
      match tget s.launches t.launch with
      | some l => .next (if t.formed then s else s.setLaunch t.launch (l.complete t.index))
      | none => .next s

/-! ### Stealing (R80, R81) -/

/-- Partitions that have an idle core on a die. -/
def State.idleParts (s : State) (die : Nat) : List Nat :=
  (s.parts.filter fun x => !(s.idleCores die (s.openCores x.1)).isEmpty).map (·.1)

/-- Sends STEAL_REQ to a neighbour. -/
def State.sendSteal (s : State) (thief victim ask : Nat) : State :=
  let s := s.setDie thief { s.die thief with stealAsk := ask }
  s.setDie victim { s.die victim with stealInbox := (s.die victim).stealInbox ++ [(thief, s.idleParts thief)] }

/-- DIE_IDLE (R80): the die has had an idle core, now of one partition and now of another, for 5 µs. -/
def execDieIdle (die : Nat) (s : State) : Host.Outcome State Fault Refusal :=
  let d := s.die die
  if 4 ≤ die || !s.accepts die || d.stealAsk ≠ 0 || decide (s.refTime < d.backoffUntil) || (s.idleParts die).isEmpty ||
    !d.idleDie.any fun t => decide (t + 5000 ≤ s.refTime) then .next s
  else .next (s.sendSteal die (ringNext die) 1)

/-- A queue that the victim may give (R81): it can place no team now, and could place none in the last 5 µs. -/
def State.givable (s : State) (victim : Nat) (parts : List Nat) (key : Nat) (q : Queue) : Bool :=
  let (f, qi) := (key / 1024, key % 1024)
  q.home == victim && s.runnable f qi && parts.contains ((s.func f).part.getD 0) &&
  !(s.launches.any fun x => x.2.fn == f && x.2.q == qi && !x.2.allDispatched) &&
  !s.queueAble f qi && decide (q.lastAble + 5000 ≤ s.refTime) &&
  ((tget q.lastDispatch victim).map fun t => decide (t + 5000 ≤ s.refTime)).getD true

/-- A launch is to agree its next step on a die, which comes before a STEAL_REQ (R95): nothing of its earlier steps is left to dispatch
there. -/
def State.agreeDue (s : State) (die : Nat) : Bool :=
  s.launches.any fun (_, l) => decide (l.nextStep < l.total) && (l.shareOf die).isNone && (s.stepDies l).contains die

/-- STEAL_REQ (R81): the victim serves the first message of its inbox. -/
def execStealReq (victim : Nat) (s : State) : Host.Outcome State Fault Refusal :=
  let d := s.die victim
  match d.stealInbox with
  | [] => .next s
  | (thief, parts) :: r =>
    if s.agreeDue victim then .next s else
    let s := s.setDie victim { d with stealInbox := r }
    let rank (x : Nat × Queue) : Nat := (x.2.priority * 2 ^ 80 + x.2.lastAny) * 2 ^ 20 + x.1
    match leastBy rank (s.queues.filter fun x => s.accepts thief && s.givable victim parts x.1 x.2) with
    | some (key, q) =>
      let s := s.setQueue (key / 1024) (key % 1024) { q with thief := some thief }
      .next (s.setDie thief { s.die thief with stealGiven := some (key / 1024, key % 1024) })
    | none =>
      let t := s.die thief
      .next (s.setDie thief { t with stealAsk := if t.stealAsk = 0 then 0 else if t.stealAsk ≤ 2 then t.stealAsk + 2 else t.stealAsk })

/-- STEAL_GIVE (R81): the thief takes the queue and answers STEAL_DONE. -/
def execStealGive (thief : Nat) (s : State) : Host.Outcome State Fault Refusal :=
  let d := s.die thief
  if d.stealGiven.isSome then .next (s.setDie thief { d with stealGiven := none, stealAsk := 0 }) else .next s

/-- STEAL_NONE (R80): the thief asks its other neighbour, or waits 20 µs after two refusals. -/
def execStealNone (thief : Nat) (s : State) : Host.Outcome State Fault Refusal :=
  let d := s.die thief
  if d.stealAsk = 3 then .next (s.sendSteal thief (ringPrev thief) 2)
  else if d.stealAsk = 4 then .next (s.setDie thief { d with stealAsk := 0, backoffUntil := s.refTime + 20000 })
  else .next s

/-- STEAL_DONE (R81): a queue of the victim that its thief has taken is at home there. -/
def execStealDone (victim : Nat) (s : State) : Host.Outcome State Fault Refusal :=
  let taken (x : Nat × Queue) : Bool := x.2.home == victim && match x.2.thief with
    | some t => (s.die t).stealGiven != some (x.1 / 1024, x.1 % 1024)
    | none => false
  match s.queues.find? taken with
  | some (key, _) => .next (s.finishHandover (key / 1024) (key % 1024))
  | none => .next s

/-! ### Gather timeout (R93) -/

/-- The bin's oldest record has waited GATHER_NS. A record that comes at that very time comes first (R95). -/
def State.binWaited (s : State) (l : Launch) (b : Bin) : Bool :=
  match b.recs.head? with
  | some r => decide (r.2.2 + (if l.kd.gatherNs = 0 then 2000 else l.kd.gatherNs) < s.refTime)
  | none => false

/-- Some group of an Invar launch can issue: one that turns do not pass over. A turn that waits for a group that is halted, stopped or
switched out shows only as time (06 R147), so such a group counts. -/
def State.canIssue (s : State) (lid : Nat) : Bool := (s.rotation lid).any fun x => !x.2.2.passedOver

/-- All bins of an Invar launch form partial groups, in order (06 R148). -/
def State.formAll (lid : Nat) : Nat → State → State
  | 0, s => s
  | n + 1, s => match s.binsOf lid with
    | [] => s
    | (d, b) :: _ => State.formAll lid n (s.formGroup d b.recs.length b)

/-- GATHER_TIMEOUT (R93). In an Invar launch partial groups form only when no group of it can issue, whether placed or still to be placed.
Groups form only at points that turn order fixes (06 R148), so every bin then forms one (notes/assumptions 60). -/
def execGatherTimeout (die bin : Nat) (s : State) : Host.Outcome State Fault Refusal :=
  match (s.die die).bins[bin]? with
  | none => .next s
  | some b => match tget s.launches b.launch with
    | none => .next s
    | some l =>
      if !l.isInvar then if s.binWaited l b then .next (s.formGroup die b.recs.length b) else .next s
      else
        let waiting := (List.range 4).any fun d => (s.die d).formed.any (·.launch == b.launch)
        let all := s.binsOf b.launch
        if s.canIssue b.launch || waiting || !s.binWaited l b || !s.slotsFull b.launch l then .next s
        else .next (s.formAll b.launch all.length)

/-! ### Faults that engines find (06 R132) -/

/-- What engines do for a context: the team and the PC of the instruction of each. -/
def State.engineWork (s : State) (ctx : Nat) : List (Nat × Word64) :=
  (s.copies.filter (·.2.ctx == ctx)).map (fun x => (x.2.team, x.2.pc)) ++
  (s.mats.filter fun m => m.ctx == ctx && !m.retired).map (fun m => (m.team, m.pc)) ++
  (s.atoms.filter (·.ctx == ctx)).map (fun a => (a.team, a.pc)) ++ (s.caSteps.filter (·.ctx == ctx)).map fun c => (c.team, c.pc)

/-- ENGINE_FAULT: an engine that works for the context finds a fatal fault, and the context ends. -/
def execEngineFault (ctx cause : Nat) (addr : Word64) (s : State) : Host.Outcome State Fault Refusal :=
  match causeOf cause, s.engineWork ctx with
  | some c, (t, pc) :: _ => if c.fatal then .next (s.engineStop ctx t pc c addr.toNat) else .next s
  | _, _ => .next s

end Sys2Proof.Machine
end

