-- ==== Sys2Proof/Machine/Squeeze.lean ====
section
/-!
DEFINITION. Squeeze, expansion and switch (05 R96 to R119; 19 R391, R392; 22 R397). A fold changes what is resident; the
handover then changes RESID, GRANT and NPEND in one step (R391).
-/

namespace Sys2Proof.Machine

open Sys2Proof

/-! ### The fold (R101 to R105) -/

/-- Groups of a team on a core, in ascending group index. -/
def State.groupsOn (s : State) (c id : Nat) : List (Nat × Group) :=
  sortBy (fun x => x.2.index) (s.groups.filter fun (key, g) => key / 64 == c && g.team == id)

/-- The victims of a request: the context's teams on the core, the most register-pool bytes first, then in ascending team
index (R100). -/
def State.victimTeams (s : State) (c ctx : Nat) : List Nat :=
  (sortBy (fun x => (2 ^ 20 - s.teamBytes c x.1) * 2 ^ 40 + x.2.index)
    ((s.teamsOn c).filter fun x => s.teamCtx x.2 == ctx)).map (·.1)

/-- The teams of a request that it squeezes: for a scheduler's request those that R79 (04) lets its queue take resources from. -/
def State.reqVictims (s : State) (c : Nat) (r : SqReq) : List Nat :=
  (s.victimTeams c r.ctx).filter fun id => r.origin != 1 || ((tget s.teams id).map (s.mayTake r.fn r.q)).getD false

/-- A team of `ids` is a victim of a squeeze that the other core of the pair has folded and not handed over. What a PAIR team shows of that
fold changes with that core's handover alone (19 R391), so its own core begins nothing with the team before. -/
def State.foldsElse (s : State) (c : Nat) (ids : List Nat) : Bool :=
  (s.core (pairOf c + 1 - c % 2)).sqRun.any fun r => ids.any r.victims.contains

/-- A team's groups in a quarter of a core, in ascending group index. -/
def State.inQuarter (s : State) (c id q : Nat) : List (Nat × Group) := (s.groupsOn c id).filter fun x => quarterOf (x.1 % 64) == q

/-- The bytes of a quarter's pool that a group holds. -/
def Group.span (g : Group) : Nat × Nat := (g.base, g.base + g.poolBytes)

/-- Lays the groups of a team in a quarter out from byte `low`, in ascending group order. -/
def State.layFrom (s : State) (c id q low : Nat) : State :=
  ((s.inQuarter c id q).foldl (fun (r : State × Nat) x =>
    ({ r.1 with groups := tset r.1.groups x.1 { x.2 with base := r.2 } }, r.2 + x.2.poolBytes)) (s, low)).1

/-- What other teams have of a quarter's pool, the bytes of their exited groups among it. -/
def State.othersIn (s : State) (c id q : Nat) : List (Nat × Nat) :=
  ((s.groups.filter fun (key, x) => key / 64 == c && quarterOf (key % 64) == q && x.team != id).map fun x => x.2.span) ++
  ((s.teamsOn c).filter fun x => x.1 != id).flatMap fun x => (x.2.gone.filter fun y => y.1 == 4 * (c - x.2.core) + q).map (·.2)

/-- A team's groups in a quarter meet nothing of another team's. -/
def State.clearIn (s : State) (c id q : Nat) : Bool :=
  (s.inQuarter c id q).all fun x => decide (x.2.span.2 ≤ 65536) && (s.othersIn c id q).all fun o =>
    decide (o.2 ≤ x.2.span.1) || decide (x.2.span.2 ≤ o.1)

/-- The lowest byte of a team's carving in a quarter. -/
def State.carveAt (s : State) (c id q : Nat) : Nat := ((tget s.teams id).map fun t => atD t.carve (4 * (c - t.core) + q) 0).getD 0

/-- What exited groups of a team held in a quarter is free. -/
def State.freeGone (s : State) (c id q : Nat) : State :=
  s.modTeam id fun t => { t with gone := t.gone.filter fun x => x.1 != 4 * (c - t.core) + q }

/-- Lays the groups of a team in a quarter out from the lowest byte of its carving, which stays fixed (04 R88), in ascending group
order (R102). What exited groups held is then free. Groups that an expansion has put elsewhere (`State.fitRun`) stay where they are. -/
def State.relay (s : State) (c id q : Nat) : State :=
  let s := s.freeGone c id q
  let t := s.layFrom c id q (s.carveAt c id q)
  if t.clearIn c id q then t else s

def State.relayAll (s : State) (c id : Nat) : State := forAll (fun s q => s.relay c id q) s [0, 1, 2, 3]

/-- Sets the register level of a group, and the granules that it holds beyond it. -/
def State.setLevel (s : State) (key lvl : Nat) (extra : Nat := 0) : State :=
  match tget s.groups key with
  | some g => { s with groups := tset s.groups key (g.setLevel lvl extra) }
  | none => s

/-- A halted group goes to GLEVEL 3, which RESID shows at once, and which sets neither NPEND nor GRANT (R112). An Invar launch shows
nothing (R113). -/
def State.foldHaltedOne (s : State) (key : Nat) : State :=
  let s := s.setLevel key 3
  match tget s.groups key with
  | none => s
  | some g =>
    let invar := ((tget s.teams g.team).bind s.launchOf).any (·.isInvar)
    let r := { g.resid with glevel := 3, granRes := g.granules, level := 3 }
    if invar then s else { s with groups := tset s.groups key { g with resid := r } }

/-- Halted groups of the victims go to GLEVEL 3 (R112): the state, and the bytes freed in each quarter. -/
def State.foldHalted (s : State) (c : Nat) (vs : List Nat) : State × List Nat :=
  let gs := (vs.flatMap (s.groupsOn c)).filter fun x => x.2.halted
  let freed (q : Nat) : Nat := gs.foldl (fun n x =>
    if quarterOf (x.1 % 64) = q then n + (x.2.poolBytes - 32 * x.2.width) else n) 0
  (forAll (fun s x => s.foldHaltedOne x.1) s gs, (List.range 4).map freed)

/-- One group of a pass: it goes to level `lvl` unless enough is freed. -/
def foldOne (want lvl : Nat) (r : State × Nat) (key : Nat) : State × Nat :=
  match tget r.1.groups key with
  | none => r
  | some g =>
    if want ≤ r.2 || lvl ≤ g.glevel then r
    else (r.1.setLevel key lvl,
      r.2 + (g.granules - residentGranules g.vgran lvl) * 32 * g.width)

/-- The passes of R101 over one quarter. -/
def State.foldQuarter (s : State) (c q want freed : Nat) (vs : List Nat) : State × Nat :=
  let keys := vs.flatMap fun v =>
    (((s.groupsOn c v).filter fun x => quarterOf (x.1 % 64) == q).map (·.1)).reverse
  [1, 2, 3].foldl (fun r lvl => keys.foldl (foldOne want lvl) r) (s, freed)

/-- Spills a team's scratchpad down to what a level keeps: its lowest offsets (R103). -/
def State.setTlevel (s : State) (id lvl : Nat) : State :=
  match tget s.teams id with
  | none => s
  | some t =>
    let keep := blocksOf' (min (residentScratch (s.teamScratch t) lvl) (s.teamScratch t))
    s.setTeam id { t with tlevel := lvl, extra := 0, smap := t.smap.filter fun x => decide (x.1 < keep) }

/-- The passes of R103: pages freed on the core until they reach the request. -/
def State.foldScratch (s : State) (c want : Nat) (vs : List Nat) : State × Nat :=
  let one (lvl : Nat) (r : State × Nat) (id : Nat) : State × Nat :=
    match tget r.1.teams id with
    | none => r
    | some t =>
      if want ≤ r.2 || lvl ≤ t.tlevel then r
      else
        let s1 := r.1.setTlevel id lvl
        (s1, r.2 + (t.pagesOn c - (((tget s1.teams id).map fun x => x.pagesOn c).getD 0)))
  [1, 2, 3].foldl (fun r lvl => vs.foldl (one lvl) r) (s, 0)

/-- The lane set of every victim in a quarter becomes max(16 − n, 1) lanes (R104), but takes none that is held or reserved (R104; 19 R392). -/
def State.foldLanes (s : State) (c q n : Nat) (vs : List Nat) : State :=
  if n = 0 then s
  else forAll (fun s id => s.modTeam id fun t =>
    let i := 4 * (c - t.core) + q
    { t with lanes := setAt t.lanes i (max (min (16 - n) (s.freeLanes c q t)) 1) }) s vs

/-! ### Spill space (R115) -/

/-- The matrix state of a team is present in its save block (R116): it is saved or spilled there, or the team owns a core's. -/
def State.matrixPresent (s : State) (id : Nat) (t : Team) : Bool :=
  if t.resident then t.mspill || t.cores.any fun c => (s.core c).owner == some id else t.savedMatrix

/-- Sizes in a team's save block (R116): its scratchpad, and the swizzle tags. -/
def State.saveScratch (s : State) (t : Team) : Nat := (s.teamScratch t + 4095) / 4096 * 4096
def State.saveTags (s : State) (t : Team) : Nat := (s.saveScratch t / 4096 + 255) / 256 * 256

/-- Bytes of a team's save block. -/
def State.saveBytes (s : State) (id : Nat) (t : Team) : Nat :=
  let gs := (s.groups.filter fun x => x.2.team == id) ++ t.savedGroups
  gs.foldl (fun n x => n + 1024 + 32 * x.2.width * x.2.vgran)
    (0x2000 + s.saveScratch t + s.saveTags t + if s.matrixPresent id t then 655360 else 0)

/-- Takes spill and save space for teams of a context, in 2 MiB units; none if the partition has too little. -/
def State.takeSpill (s : State) (ctx : Nat) (ids : List Nat) : Option State :=
  match s.ctx? ctx with
  | none => none
  | some x =>
    let all := s.teams.filter fun (i, t) => s.teamCtx t == ctx && (ids.contains i || !t.resident || t.tlevel != 0 || t.mspill ||
      (s.groups.any fun y => y.2.team == i && y.2.glevel != 0))
    let need := (all.foldl (fun n y => n + s.saveBytes y.1 y.2) 0 + 0x1FFFFF) / 0x200000
    let have' := x.units - x.heapUnits.foldl (fun n y => n + y.2) 0
    if need ≤ have' then some s
    else if need - have' ≤ s.unitsFree (s.partOf ctx) then some (s.setCtx ctx { x with units := x.units + (need - have') })
    else none

/-! ### SQUEEZE (R99, R100, R105, R106) -/

/-- A request as the mailbox gives it; none if a field is out of range or a reserved field is nonzero. -/
def SqReq.of (r : List Byte) : Option SqReq :=
  let q : SqReq :=
    { origin := 0, ctx := field r 8 4, fn := 0, q := 0, matrix := field r 13 1 == 1, scr := field r 14 2,
      lanes := (List.range 4).map fun i => field r (16 + i) 1, pool := (List.range 4).map fun i => field r (24 + 2 * i) 2 }
  if headerOk r && ctxWellFormed q.ctx && decide (field r 12 1 < 160) && decide (field r 13 1 ≤ 1) && decide (q.scr ≤ 128) &&
    q.lanes.all (· ≤ 16) && q.pool.all (· ≤ 256) && field r 20 4 == 0 && zeroFrom r 32 32 then some q else none

/-- Matrix operations of a team on a core that have not retired. -/
def State.matsOn (s : State) (c id : Nat) : Bool := s.mats.any fun m => m.team == id && !m.retired && (m.core == c || m.kind.paired)

/-- The owner of a core's matrix state, if it is one of the victims. -/
def State.ownerVictim (s : State) (c : Nat) (vs : List Nat) : Option Nat := (s.core c).owner.filter vs.contains

/-- Gives matrix ownership up: the owner's t and a state is spilled (R105), and the reuse latch is released (07 R154). -/
def State.spillMatrix (s : State) (c : Nat) (vs : List Nat) : State :=
  match s.ownerVictim c vs with
  | none => s
  | some id => (s.modTeam id fun t => { t with mspill := true }).setCore c { s.core c with owner := none, latch := none }

/-- Folds for a request that is served: registers, scratchpad, lanes. The matrix state follows at the handover, once the owner's matrix
operations have retired (R105). -/
def State.serveSqueeze (s : State) (c : Nat) (r : SqReq) (vs : List Nat) : State :=
  let halted := (vs.flatMap (s.groupsOn c)).any fun x => x.2.halted
  let (seq, s) := s.takeSeq c
  let base : Word16 := (if r.matrix then 1 else 0) ||| (if halted then 8 else 0)
  match s.takeSpill r.ctx vs with
  | none =>
    let run : SqRun :=
      { req := r, victims := vs, seq := seq, scrGot := 0, lanesGot := [0, 0, 0, 0], poolGot := [0, 0, 0, 0], matrixGot := false,
        gflags := base ||| 16 }
    s.setCore c { s.core c with sqRun := some run }
  | some s =>
    let (s, freed) := s.foldHalted c vs
    let step (x : State × List Nat) (q : Nat) : State × List Nat :=
      let want := atD r.pool q 0 * 256
      let (s, n) := if want = 0 then (x.1, atD freed q 0) else x.1.foldQuarter c q want (atD freed q 0) vs
      (s, x.2 ++ [n / 256])
    let (s, pool) := [0, 1, 2, 3].foldl step (s, [])
    let s := forAll (fun s id => s.relayAll c id) s vs
    let (s, scr) := s.foldScratch c r.scr vs
    let s := forAll (fun s q => s.foldLanes c q (atD r.lanes q 0) vs) s [0, 1, 2, 3]
    let lanes := (List.range 4).map fun q => min (atD r.lanes q 0) 15
    let run : SqRun :=
      { req := r, victims := vs, seq := seq, scrGot := scr, lanesGot := lanes, poolGot := pool, matrixGot := false, gflags := base }
    s.setCore c { s.core c with sqRun := some run }

/-- The request is the mailbox's. -/
def CoreReq.ofMailbox : CoreReq → Bool | .squeeze r => r.origin == 0 | _ => false

/-- Queues the mailbox's SQUEEZE on its core, or answers it (R99; 03 R399); none if it has nothing to queue or answer there. -/
def State.queueSqueeze (s : State) (c : Nat) : Option State :=
  match s.request 0x12 with
  | none => none
  | some r => match SqReq.of r with
    | none => some (s.reply r 1 [])
    | some q =>
      let k := s.core c
      let mine := k.sqQueue.any (CoreReq.ofMailbox) || (k.sqRun.map fun x => x.req.origin == 0).getD false
      if field r 12 1 ≠ c || mine then none
      else if (s.ctx? q.ctx).isNone || (s.victimTeams c q.ctx).isEmpty then some (s.reply r 5 [])
      else some (s.setCore c (k.enqueue (.squeeze q)))

/-- The matrix step of a request (R105): the owner gives its state up, if it is a victim; if not, the request is granted and nothing
moves. A request that found no spill space takes nothing (R106). -/
def State.reclaim (s : State) (c : Nat) (r : SqRun) : State × SqRun :=
  if !r.req.matrix || r.gflags.getLsbD 4 then (s, r)
  else match s.ownerVictim c r.victims with
    | some _ => (s.spillMatrix c r.victims, { r with matrixGot := true, gflags := r.gflags ||| 2 })
    | none => (s, { r with gflags := r.gflags ||| 2 })

/-- Matrix operations of a victim that owns the core's matrix state have not retired, so the handover waits (R105). -/
def State.reclaimWaits (s : State) (c : Nat) (r : SqRun) : Bool :=
  r.req.matrix && !r.gflags.getLsbD 4 && (s.ownerVictim c r.victims).any (s.matsOn c)

/-- Register-pool units that a squeeze hands over: what it frees beyond the request stays free in the pool (R101). -/
def SqRun.poolHeld (r : SqRun) : List Nat := (List.range 4).map fun q => min (atD r.poolGot q 0) (atD r.req.pool q 0)

/-- Adds what a mailbox squeeze handed over, if anything, to what is held for its context (19 R392). -/
def Core.hold (k : Core) (r : SqRun) : Core :=
  if r.scrGot = 0 && r.lanesGot.all (· == 0) && r.poolHeld.all (· == 0) && !r.matrixGot then k else
  let h := (tget k.holds r.req.ctx).getD { scr := 0, lanes := [0, 0, 0, 0], pool := [0, 0, 0, 0], matrix := false }
  let at' (f : Nat → Nat → Nat) (a b : List Nat) : List Nat := (List.range 4).map fun q => f (atD a q 0) (atD b q 0)
  { k with holds := tset k.holds r.req.ctx {
      scr := h.scr + r.scrGot, lanes := at' max h.lanes r.lanesGot, pool := at' (· + ·) h.pool r.poolHeld,
      matrix := h.matrix || r.matrixGot } }

/-- The oldest team of the requesting queue on the core becomes matrix owner (R105). -/
def State.grantMatrix (s : State) (c : Nat) (r : SqRun) (grant : Option (Word32 × Byte)) : State :=
  let mine (x : Nat × Team) : Bool := match s.launchOf x.2 with | some l => l.fn == r.req.fn && l.q == r.req.q | none => false
  match leastBy (fun x : Nat × Team => x.2.serial) ((s.teamsOn c).filter mine) with
  | some (id, _) => s.giveMatrix c id grant
  | none => s

/-- SQUEEZE_HANDOVER (R100, step 4; 19 R391): the resources are handed over, RESID, GRANT and NPEND change, and the grant
record is written. Lanes of a scheduler's request are reserved (R104); a mailbox's resources are held (19 R392). -/
def execSqueezeHandover (core : Nat) (s : State) : Host.Outcome State Fault Refusal :=
  let k := s.core core
  match k.sqRun with
  | none => .next s
  | some r =>
    if s.reclaimWaits core r then .next s else
    let grant := some (r.seq, 1#8)
    let (s, r) := s.reclaim core r
    let k := { s.core core with sqRun := none }
    let k := if r.req.origin = 0 then k.hold r
      else if r.req.origin = 1 then { k with reserves := k.reserves ++ [{ fn := r.req.fn, q := r.req.q, lanes := r.lanesGot }] }
      else k
    let s := s.setCore core k
    let s := forAll (fun s id => s.showTeam grant id) s r.victims
    let s := if r.req.origin = 1 && r.matrixGot then s.grantMatrix core r grant else s
    let s := (if r.req.origin = 0 then s.endHolds core [] else s).produce core r 1
    match r.req.origin, s.request 0x12 with
    | 0, some m => .next (s.reply m 0 (grantRecord r core 1 s.refTime))
    | _, _ => .next s

/-- UNSQUEEZE (19 R392): every hold of the context on the core ends. R392 refuses reserved bytes, not the reserved bits of CONTEXT, which
are ignored (00 R5). -/
def execUnsqueeze (s : State) : Host.Outcome State Fault Refusal :=
  match s.request 0x17 with
  | none => .next s
  | some r =>
    let (ctx, c) := (ctxBits (field r 8 4), field r 12 1)
    if !headerOk r || 160 ≤ c || !zeroFrom r 13 51 then .next (s.reply r 1 [])
    else
      let k := s.core c
      if (s.ctx? ctx).isNone || (tget k.holds ctx).isNone then .next (s.reply r 5 [])
      else .next ((s.setCore c { k with holds := terase k.holds ctx }).reply r 0 [])

/-! ### Expansion (R111) -/

/-- Bytes of a quarter that are free for expansion. -/
def Room.freeBytes (r : Room) (q : Nat) : Nat := 65536 - runBytes (atD r.used q []) - atD r.held q 0

/-- A raise of an expansion: of a group's registers or a team's scratchpad to a level, or of a team's lane sets. -/
inductive Raise where
  | regs (lvl key : Nat)
  | scratch (lvl id : Nat)
  | lanes (id : Nat)
  deriving DecidableEq, Repr

/-- Finds room for a group that an expansion has made larger: its team's groups in one run from the lowest byte of their carving; or, as that
of a restored team may lie under another team's, in another run at or above byte `low`, from which the team is then carved; or, where no run
is long enough for all of them, the group by itself. No other team's bytes move (04 R84). -/
def State.fitRun (s : State) (c id q low key : Nat) : Option State :=
  let others := s.othersIn c id q
  let t := s.layFrom c id q (s.carveAt c id q)
  if t.clearIn c id q then some t
  else match lowestRun others low ((s.inQuarter c id q).foldl (fun n x => n + x.2.poolBytes) 0) with
    | some b => some ((s.layFrom c id q b).modTeam id fun t => { t with carve := setAt t.carve (4 * (c - t.core) + q) b })
    | none => match tget s.groups key with
      | none => none
      | some g =>
        let mine := ((s.inQuarter c id q).filter fun x => x.1 != key).map fun x => x.2.span
        (lowestRun (others ++ mine) low g.poolBytes).map fun b => { s with groups := tset s.groups key { g with base := b } }

/-- Raises a group to a level while the room allows, or by `part` granules of what it lacks. What its team's exited groups held is free for
it. -/
def State.raiseRegs (s : State) (c lvl low key : Nat) (part : Option Nat) : State :=
  match tget s.groups key with
  | none => s
  | some g =>
    let q := quarterOf (key % 64)
    let n := residentGranules g.vgran lvl - g.granules
    let s0 := s.freeGone c g.team q
    if g.glevel ≤ lvl || (s0.room c).freeBytes q < n * 32 * g.width then s
    else
      let up := match part with
        | some m => if m < n then s0.setLevel key g.glevel (g.extra + m) else s0.setLevel key lvl
        | none => s0.setLevel key lvl
      (up.fitRun c g.team q low key).getD s

/-- Blocks that a team's scratchpad lacks at a level, with their cores. -/
def State.lacking (s : State) (t : Team) (lvl : Nat) : List (Nat × Nat) :=
  let n := blocksOf' (min (residentScratch (s.teamScratch t) lvl) (s.teamScratch t))
  ((List.range n).filter fun b => (tget t.smap b).isNone).map fun b => (b, t.core + if t.pair then b / 512 else 0)

/-- Raises a team's scratchpad to a level while the room of its cores allows, or by `part` pages of what it lacks, into the part of the
scratchpad that `low` begins. -/
def State.raiseScratch (s : State) (id lvl low : Nat) (part : Option Nat) : State :=
  match tget s.teams id with
  | none => s
  | some t =>
    let need := s.lacking t lvl
    let room (c : Nat) : Room := (s.room c).above low
    let on (c : Nat) : List Nat := (need.filter (·.2 == c)).map (·.1)
    let fits (c : Nat) : Bool := decide ((on c).length + (room c).blocksHeld ≤ (room c).blocks.length)
    if t.tlevel ≤ lvl || !t.cores.all fits then s
    else
      let add := t.cores.flatMap fun c => (on c).zip (room c).blocks
      let put (add : List (Nat × Nat)) : Table Nat := add.foldl (fun m x => tset m x.1 x.2) t.smap
      match part with
      | some m =>
        if 4 * m < need.length then s.setTeam id { t with extra := t.extra + m, smap := put (add.take (4 * m)) }
        else s.setTeam id { t with tlevel := lvl, extra := 0, smap := put add }
      | none => s.setTeam id { t with tlevel := lvl, extra := 0, smap := put add }

/-- Lane sets grow to what is free. -/
def State.growLanes (s : State) (c id : Nat) : State :=
  s.modTeam id fun t => forAll (fun t q =>
    let i := 4 * (c - t.core) + q
    { t with lanes := setAt t.lanes i (max (atD t.lanes i 16) (s.freeLanes c q t)) }) t [0, 1, 2, 3]

/-- A runnable in-budget queue of a lower level number could place a team on the core (R111). -/
def State.wanted (s : State) (c level : Nat) : Bool :=
  let urgent (f qi : Nat) : Bool := !s.isOver f qi && decide ((s.queue f qi).priority < level)
  let die := dieOf c
  ((s.candidates die).any fun x => urgent x.2.fn x.2.q && s.couldPlace die c x) ||
  s.queues.any fun (key, q) => q.home == die && urgent (key / 1024) (key % 1024) &&
    (s.readyLaunch (key / 1024) (key % 1024)).any fun l => s.firstFits l die c

/-- Teams in reverse victim order. -/
def State.expandOrder (s : State) (c : Nat) (ts : List (Nat × Team)) : List Nat :=
  ((sortBy (fun x => (2 ^ 20 - s.teamBytes c x.1) * 2 ^ 40 + x.2.index) ts).map (·.1)).reverse

/-- The raises of an expansion of teams, in order: registers from level 2 down to 0 with halted groups last (R112), scratchpad, lanes. -/
def State.raises (s : State) (c : Nat) (ids : List Nat) : List Raise :=
  let keys (halted : Bool) : List Nat :=
    ids.flatMap fun id => ((s.groupsOn c id).filter fun x => x.2.halted == halted).map (·.1)
  let regs (halted : Bool) : List Raise := [2, 1, 0].flatMap fun lvl => (keys halted).map (.regs lvl)
  regs false ++ regs true ++ ([2, 1, 0].flatMap fun lvl => ids.map (.scratch lvl)) ++ ids.map .lanes

/-- Carries out a raise, or with `part` so many granules or pages of it, in the part of the pool and of the scratchpad that `low` begins. -/
def State.doRaise (c low : Nat) (part : Option Nat) (s : State) : Raise → State
  | .regs lvl key => s.raiseRegs c lvl low key part
  | .scratch lvl id => s.raiseScratch id lvl low part
  | .lanes id => if part.isNone then s.growLanes c id else s

/-- Carries out raises: all of them, or `n`, and `m` granules or pages of the next (R119). -/
def State.doRaises (s : State) (c : Nat) (rs : List Raise) : Option (Nat × Nat) → State
  | none => forAll (State.doRaise c 0 none) s rs
  | some (n, m) =>
    let s := forAll (State.doRaise c 0 none) s (rs.take n)
    match rs[n]? with
    | some r => State.doRaise c 0 (some m) s r
    | none => s

/-- Free matrix ownership of a core returns to the first of the teams whose t and a state is spilled (R111). If no team there has spilled
state it passes on as in 04 R85. -/
def State.returnTo (s : State) (c : Nat) (ids : List Nat) : Option Nat :=
  if (s.core c).ownerFree then ids.find? fun id => ((tget s.teams id).map (·.mspill)).getD false else none

def State.returnMatrix (s : State) (c : Nat) (ids : List Nat) (grant : Option (Word32 × Byte)) : State :=
  match s.returnTo c ids with
  | some id => s.giveMatrix c id grant
  | none => if (s.teamsOn c).any (·.2.mspill) then s else s.passOwner c

/-- The GOT fields of an expansion: what its teams hold beyond what they had. -/
def SqRun.minus (r had : SqRun) : SqRun :=
  let sub (a b : List Nat) : List Nat := (List.range 4).map fun q => atD a q 0 - atD b q 0
  { r with scrGot := r.scrGot - had.scrGot, lanesGot := sub r.lanesGot had.lanesGot, poolGot := sub r.poolGot had.poolGot,
           matrixGot := r.matrixGot && !had.matrixGot, gflags := r.gflags &&& ~~~(had.gflags &&& 2) }

/-- Expands the teams of a core by all of its raises, or by those made before it was interrupted; a PAIR team only while its other core
serves nothing and has nothing to serve (R100). Matrix ownership returns with them, the
grant included. A record's CONTEXT is that of the first team in the order (notes/assumptions 59). -/
def State.expand (s : State) (c : Nat) (n : Option (Nat × Nat) := none) : State :=
  let alone (x : Nat × Team) : Bool := x.2.cores.all fun b => b == c || s.coreFree b
  let ids := s.expandOrder c ((s.teamsOn c).filter fun x => !s.wanted c (s.teamLevel x.2) && alone x)
  let ctx := (ids.head?.bind fun id => (tget s.teams id).map s.teamCtx).getD 0
  let had := s.heldOn c ctx ids 0
  let s1 := s.doRaises c (s.raises c ids) n
  let back := n.isNone && (s1.returnTo c ids).isSome
  if s1 == s && !back then (if n.isNone then s.returnMatrix c ids none else s)
  else
    let (seq, s2) := s1.takeSeq c
    let s3 := if n.isNone then s2.returnMatrix c ids (some (seq, 2)) else s2
    let s4 := forAll (fun s id => s.showTeam (some (seq, 2)) id) s3 ids
    s4.produce c ((s4.heldOn c ctx ids seq).minus had) 2

/-- EXPANSION (R111), when the core serves nothing else. If a request waits, one expansion was in progress when it came, and has stopped
at some granule or page (R119). -/
def execExpansion (core : Nat) (s : State) : Host.Outcome State Fault Refusal :=
  if !s.coreOpen core then .next s
  else if (s.nextReq core).isNone then .next (s.expand core)
  else if (s.core core).cut then .next s
  else
    let s1 := s.expand core (some (Config.expandSteps s.freeCtr))
    .next (State.setCore { s1 with freeCtr := s1.freeCtr + 1 } core { s1.core core with cut := true })

/-! ### Saving and restoring (R114 to R118) -/

/-- The outgoing teams have finished what they have issued. -/
def State.quiet (s : State) (ids : List Nat) : Bool :=
  s.groups.all (fun (_, g) => !ids.contains g.team || g.pending.isEmpty) && !(s.mats.any fun m => !m.retired && ids.contains m.team) &&
  !(s.copies.any fun x => ids.contains x.2.team) && !(s.atoms.any fun a => ids.contains a.team || a.riders.any fun r => ids.contains r.team) &&
  !(s.caSteps.any fun a => ids.contains a.team)

/-- A split as it is saved in cycle `cycle` of its core: its watchdog count pauses (06 R141), its fixed-latency results have been written, and
of its gap the cycles left are kept (R117). -/
def Split.pause (now cycle : Nat) (x : Split) : Split :=
  let x := { x with nextIssue := min 16 (x.nextIssue - cycle), inflight := [] }
  if x.park.isSome && !x.halted then { x with parkedNs := x.parkedNs + (now - x.parkStart), parkStart := now } else x

def pauseGroup (now cycle : Nat) (g : Group) : Group :=
  { g with restoring := false, passedAt := 0, splits := g.splits.map (Split.pause now cycle) }

/-- Saves a team off its cores (R118): VALID is set, and everything it held there is free. -/
def State.saveTeam (s : State) (held : Bool) (id : Nat) : State :=
  match tget s.teams id with
  | none => s
  | some t =>
    let gs := t.cores.flatMap fun c => s.groupsOn c id
    let keys := gs.map (·.1)
    let core (s : State) (c : Nat) : State :=
      let k := s.core c
      s.setCore c { k with
        owner := k.owner.filter (· != id), latch := k.latch.filter (·.team != id),
        trapQ := k.trapQ.filter fun x => !keys.contains (x.1 * 64 + x.2.1) }
    let name (n : Nat) : Option Nat :=
      (gs.findIdx? fun (x : Nat × Group) => x.1 % 64 + 256 * (x.1 / 64) == n).map fun i => savedCreator id i 0 / 256
    let owner := t.cores.any fun c => (s.core c).owner == some id
    let mat (m : MatOp) : MatOp := match gs.findIdx? fun (x : Nat × Group) => x.1 == m.group with
      | some i => { m with group := savedKey id i }
      | none => m
    let present := s.matrixPresent id t
    let s := { s with mats := s.mats.map mat }
    let s := forAll core (s.renameCreators (s.teamCtx t) name) (t.cores.map pairOf ++ t.cores).eraseDups
    let saved : List (Nat × Group) := gs.map fun (key, g) => (key, pauseGroup s.refTime (s.cycleOf (key / 64)) g)
    let t' : Team :=
      { t with
        resident := false, heldOut := held, saveValid := true, smap := [], savedGroups := saved, savedOwner := owner,
        savedMatrix := present }
    State.setTeam { s with groups := tfilter s.groups fun key _ => !keys.contains key } id t'

/-- Queues of the teams `ids` that stand, or stood last, on a core. -/
def State.queuesOn (s : State) (ids : List Nat) (c : Nat) : List (Nat × Nat) :=
  ids.filterMap fun id => (((tget s.teams id).filter fun t => t.cores.contains c).bind s.launchOf).map fun l => (l.fn, l.q)

/-- Cores after the teams `ids` have been saved off them: a queue that has no team left on a core has no lanes reserved there (R104). -/
def State.afterSave (s : State) (ids cs : List Nat) : State := forAll (fun s c => s.afterLeave (s.queuesOn ids c) c) s cs

/-- Marks or clears the context that a switch is moving off cores. -/
def State.setSaving (s : State) (cs : List Nat) (x : Option Nat) (by' : SavedBy := .mailbox) : State :=
  forAll (fun s c => s.setCore c { s.core c with saving := x, savingBy := by', savedRun := none }) s cs

/-- A core's switch moves a context off it for a given reason. -/
def Core.savedFor (k : Core) (ctx : Nat) (by' : SavedBy) : Bool := k.saving == some ctx && k.savingBy == by'

/-- The cores that a context's teams on a core reach. -/
def State.switchCores (s : State) (c ctx : Nat) : List Nat :=
  ((s.victimTeams c ctx).flatMap fun id => ((tget s.teams id).map Team.cores).getD []).eraseDups

/-! ### Switches in the queue of a core (R100, R119) -/

/-- A switch has its turn on all of its cores: each serves nothing else, and the switch is the first that can be served there, or none
can. -/
def State.hasCores (s : State) (cs : List Nat) (x : CoreReq) : Bool :=
  cs.all fun c => !(s.core c).busy && ((s.nextReq c).isNone || s.nextReq c == some x)

/-- The teams of a context on some cores. -/
def State.leaving (s : State) (cs : List Nat) (ctx : Nat) : List Nat := (cs.flatMap fun c => s.victimTeams c ctx).eraseDups

/-- Takes a request out of a core's queue. No expansion is in progress there when the next one's turn comes. -/
def Core.without (x : CoreReq) (k : Core) : Core :=
  let rest := k.sqQueue.filter (· != x)
  { k with sqQueue := rest, cut := !rest.isEmpty }

/-- Takes a switch out of the queues of cores, or of all. -/
def State.takeReq (s : State) (cs : List Nat) (x : CoreReq) : State :=
  forAll (fun s c => s.setCore c ((s.core c).without x)) s cs

def State.dropReq (s : State) (x : CoreReq) : State :=
  { s with cores := tmap s.cores fun _ k => if k.sqQueue.contains x then k.without x else k }

/-- Puts a switch at the end of the queues of cores that do not hold it yet. -/
def State.putReq (s : State) (cs : List Nat) (x : CoreReq) : State :=
  forAll (fun s c => if (s.core c).sqQueue.contains x then s else s.setCore c ((s.core c).enqueue x)) s cs

/-! ### Step 1 of a switch (R114) -/

/-- Lays the groups `keys` of a quarter, at level 3, into the lowest bytes of its pool that nothing else holds. -/
def State.layQuarter (s : State) (c q : Nat) (keys : List Nat) : State :=
  let mine := keys.filter fun key => quarterOf (key % 64) == q
  let used := (s.groups.filter fun x => x.1 / 64 == c && quarterOf (x.1 % 64) == q && !mine.contains x.1).map
    fun x => (x.2.base, x.2.base + x.2.poolBytes)
  let one (r : State × List (Nat × Nat)) (key : Nat) : State × List (Nat × Nat) :=
    match tget r.1.groups key with
    | none => r
    | some g =>
      let base := (lowestRun r.2 0 g.poolBytes).getD g.base
      ({ r.1 with groups := tset r.1.groups key { g with base := base } }, (base, base + g.poolBytes) :: r.2)
  (mine.foldl one (s, used)).1

/-- Moves a team's resident scratchpad into the lowest blocks of its cores that no other team holds. -/
def State.layScratch (s : State) (id : Nat) : State :=
  s.modTeam id fun t =>
    let on (c : Nat) : List Nat := (t.smap.filter fun x => t.core + (if t.pair then x.1 / 512 else 0) == c).map (·.1)
    let lay (c : Nat) : List (Nat × Nat) :=
      let other := (s.teams.filter fun x => x.1 != id && x.2.resident && x.2.cores.contains c).flatMap fun x => x.2.blocksOn c
      (on c).zip ((List.range 512).filter fun b => !other.contains b)
    { t with smap := (t.cores.flatMap lay).foldl (fun m x => tset m x.1 x.2) t.smap }

/-- Step 1 (R114): the outgoing teams fold to level 3, into the lowest bytes of each quarter's pool and the lowest scratchpad. -/
def State.foldOut (s : State) (cs ids : List Nat) : State :=
  let keys (c : Nat) : List Nat := ids.flatMap fun id => (s.groupsOn c id).map (·.1)
  let s := forAll (fun s key => s.setLevel key 3) s (cs.flatMap keys)
  let s := forAll (fun s c => forAll (fun s q => s.layQuarter c q (keys c)) s [0, 1, 2, 3]) s cs
  forAll (fun s id => ((s.setTlevel id 3).layScratch id).modTeam id fun t => { t with gone := [] }) s ids

/-! ### SWITCH (22 R397) -/

/-- Fields of a SWITCH request, or the STATUS that refuses it. The reserved bits of CONTEXT are ignored (00 R5). -/
def State.switchCheck (s : State) (r : List Byte) : Except Nat (Nat × Nat) :=
  let (ctx, c) := (ctxBits (field r 8 4), field r 12 1)
  if !headerOk r || 160 ≤ c || !zeroFrom r 14 50 then .error 1
  else if s.plant.openSwitch.contains (ctx, c) then .error 4
  else if (s.ctx? ctx).isNone then .error 5
  else .ok (ctx, c)

/-- Starts a switch-out (R114, steps 1 and 2): the teams fold and stop issuing. The core keeps what they held for the record. -/
def State.startSwitchOut (s : State) (c ctx : Nat) (ids cs : List Nat) : State :=
  let run := s.released c ctx ids 0
  let s := ((s.dropReq (.switchOut ctx)).foldOut cs ids).setSaving cs (some ctx)
  s.setCore c { s.core c with savedRun := some run }

/-- The cores off which a SWITCH in progress moves a context. -/
def State.switchingOff (s : State) (ctx : Nat) : List Nat := (List.range 160).filter fun i => (s.core i).savedFor ctx .mailbox

/-- Saves the quiet teams of a context off a core: SEQ, the grant record of KIND 3 with what the teams held when the switch began, and the
save blocks. -/
def State.switchOut (s : State) (c ctx : Nat) (ids cs : List Nat) : State × List Byte :=
  let had := (s.core c).savedRun.getD (s.released c ctx ids 0)
  let (seq, s) := s.takeSeq c
  let run := { had with seq := seq }
  let s := ((forAll (fun s id => s.saveTeam true id) s ids).afterSave ids cs).setSaving cs none
  (s.produce c run 3, grantRecord run c 3 s.refTime)

/-- SWITCH, OP 1: once the cores have served what arrived before, the context's teams fold and stop issuing; once they are quiet they are
saved, and the request answers. Without spill space it waits. -/
def execSwitchOut (s : State) : Host.Outcome State Fault Refusal :=
  match s.request 0x19 with
  | none => .next s
  | some r =>
    if field r 13 1 = 2 then .next s
    else if field r 13 1 ≠ 1 then .next (s.reply r 1 [])
    else match s.switchCheck r with
      | .error n => .next (s.reply r n [])
      | .ok (ctx, c) =>
        let ids := s.victimTeams c ctx
        let cs := s.switchCores c ctx
        let x := CoreReq.switchOut ctx
        let begun := s.switchingOff ctx
        if ids.isEmpty then .next (((s.dropReq x).setSaving begun none).reply r 5 [])
        else if !(s.core c).savedFor ctx .mailbox then
          match if s.hasCores cs x then s.takeSpill ctx ids else none with
          | none => .next (s.putReq cs x)
          | some s => .next (s.startSwitchOut c ctx ids cs)
        else if !s.quiet ids then .next s
        else let (s, rec) := s.switchOut c ctx ids begun; .next (s.reply r 0 rec)

/-- The cores that the held-out teams of a context on a core reach. -/
def State.inCores (s : State) (c ctx : Nat) : List Nat := (c :: (s.heldOut c ctx).flatMap (·.2.cores)).eraseDups

/-- SWITCH, OP 2: the teams wait to be restored, in the queues of their cores. -/
def execSwitchIn (s : State) : Host.Outcome State Fault Refusal :=
  match s.request 0x19 with
  | none => .next s
  | some r =>
    let (ctx, c) := (ctxBits (field r 8 4), field r 12 1)
    if field r 13 1 ≠ 2 || (s.plant.openSwitch.contains (ctx, c) && (s.core c).sqQueue.contains (.switchIn c ctx)) then .next s
    else match s.switchCheck r with
      | .error n => .next (s.reply r n [])
      | .ok (ctx, c) =>
        if (s.heldOut c ctx).isEmpty then .next (s.reply r 5 [])
        else
          .next { s.putReq (s.inCores c ctx) (.switchIn c ctx) with
            plant := { s.plant with openSwitch := s.plant.openSwitch ++ [(ctx, c)] } }

/-- The context that waits in a core's queue to be brought back there. -/
def State.switchInCtx (s : State) (c : Nat) : Option Nat :=
  (s.core c).sqQueue.findSome? fun x => match x with
    | .switchIn i ctx => if i = c then some ctx else none
    | _ => none

/-- A SWITCH, OP 2, has been served. -/
def State.switchInDone (s : State) (c ctx : Nat) : State :=
  { s.dropReq (.switchIn c ctx) with plant := { s.plant with openSwitch := s.plant.openSwitch.filter (· != (ctx, c)) } }

/-- SWITCH_IN_RESTORE (22 R397): the first waiting context of the core comes back once all of its teams fit and their cores have served what
arrived before (R100). If a reset or fault has discarded them, there is nothing left to restore. -/
def execSwitchInRestore (core : Nat) (s : State) : Host.Outcome State Fault Refusal :=
  match s.switchInCtx core with
  | none => .next s
  | some ctx =>
    let ts := s.heldOut core ctx
    let cs := s.inCores core ctx
    let answer (s : State) (status : Nat) (body : List Byte) : State :=
      match s.request 0x19 with | some r => s.reply r status body | none => s
    if ts.isEmpty then .next (answer (s.switchInDone core ctx) 5 [])
    else if !cs.all s.coreOpen || !s.hasCores cs (.switchIn core ctx) then .next s
    else match State.restoreAll 0 false ts s with
      | none => .next s
      | some s1 =>
        let (s2, rec) := s1.switchedIn core ctx (ts.map (·.1)) (ts.map (·.1))
        .next (answer (s2.switchInDone core ctx) 0 rec)

/-! ### The time-slice switch (R114; 04 R79) -/

/-- Restores each team that fits into the upper halves (R114, step 3), and raises it there while they have room. Those for which
there is no entry yet come back later. -/
def State.restoreUp (s : State) (cs : List Nat) (back : List (Nat × Team)) : State × List Nat :=
  let one (r : State × List Nat) (x : Nat × Team) : State × List Nat :=
    match r.1.restoreBerths x.2 x.2.core 0x8000 with
    | some bs => (r.1.restoreTeam x.1 x.2 bs true, r.2 ++ [x.1])
    | none => r
  let (s, ids) := back.foldl one (s, [])
  (forAll (fun s c => forAll (State.doRaise c 0x8000 none) s (s.raises c ids)) s cs, ids)

/-- Starts the time-slice switch that a core serves next. A PAIR team of the outgoing context takes the other core's switch with it: the switch
then has its turn on both cores, and serves the requests of both. The outgoing teams fold and stop issuing, and the incoming context's saved
teams, if it has any there, are restored beside them; a PAIR team among these only while its other core is in the switch or has nothing to
serve. Each core takes its SEQ and writes its grant record, which is the incoming context's. Without spill space, or with no outgoing
team left, nothing is replaced. -/
def State.serveSlice (s : State) (c : Nat) : State :=
  match s.nextReq c with
  | some (.slice out incoming) =>
    let x := CoreReq.slice out incoming
    let cs := s.switchCores c out
    let ids := s.leaving cs out
    if ids.isEmpty then s.takeReq [c] x
    else if !s.hasCores cs x then s
    else match s.takeSpill out ids with
      | none => s.takeReq cs x
      | some s =>
        let s := ((s.takeReq cs x).foldOut cs ids).setSaving cs (some out) .slice
        let back := s.teams.filter fun (_, t) =>
          !t.resident && !t.heldOut && t.saveValid && cs.contains t.core && s.teamCtx t == incoming &&
            t.cores.all fun b => cs.contains b || s.coreFree b
        let (s, up) := s.restoreUp cs back
        let first (c : Nat) : List Nat := up.filter fun id => (tget s.teams id).any fun t => t.core == c
        forAll (fun s c => (s.switchedIn c incoming (first c) up).1) s cs
  | _ => s

/-- The core serves its next request, in order of arrival: a squeeze or a time-slice switch. A request whose victims have left applies to
nothing. -/
def State.serveNext (s : State) (core : Nat) : State :=
  let k := s.core core
  match s.nextReq core with
  | none | some (.switchOut _) | some (.switchIn ..) => s
  | some (.slice ..) => s.serveSlice core
  | some (.squeeze r) =>
    if k.busy then s
    else
      let vs := s.reqVictims core r
      let rest := k.sqQueue.erase (.squeeze r)
      let s1 := s.setCore core { k with sqQueue := rest, cut := !rest.isEmpty }
      if vs.isEmpty then
        match r.origin, s.request 0x12 with
        | 0, some m => s1.reply m 5 []
        | _, _ => s1
      else if s.foldsElse core vs then s
      else s1.serveSqueeze core r vs

/-- SQUEEZE (R100): the mailbox's request arrives at the core, which then may still stop an expansion that is in progress (R119); or, with
none to arrive, the core serves its next request. -/
def execSqueeze (core : Nat) (s : State) : Host.Outcome State Fault Refusal :=
  .next ((s.queueSqueeze core).getD (s.serveNext core))

/-- SAVE_DRAIN_DONE (R114, step 5): the save has drained, and the incoming teams expand. -/
def execSaveDrainDone (core : Nat) (s : State) : Host.Outcome State Fault Refusal :=
  match (s.core core).saving with
  | none => .next s
  | some ctx =>
    let cs := (core :: s.switchCores core ctx).eraseDups
    let ids := s.leaving cs ctx
    if (s.core core).savingBy ≠ .slice || !s.quiet ids then .next s
    else
      let s := ((forAll (fun s id => s.saveTeam false id) s ids).afterSave ids cs).setSaving cs none
      .next (forAll (fun s c => if (s.nextReq c).isNone then s.expand c else s) s cs)

/-- INCOMING_STATE_RESTORED (R114, step 4): the group that `cur` names may issue. -/
def execIncomingStateRestored (s : State) : Host.Outcome State Fault Refusal :=
  match s.group? s.cur.core s.cur.entry with
  | some g => .next (s.setGroup s.cur.core s.cur.entry { g with restoring := false })
  | none => .next s

/-- The resident context of a die that is over budget and at the greatest level number. -/
def State.outgoing (s : State) (die : Nat) : Option Nat :=
  let late (x : Nat × Team) : Bool := x.2.resident && dieOf x.2.core == die && decide (0 < x.2.groupsLeft) &&
    match s.launchOf x.2 with | some l => !s.keptBudget l.fn l.q | none => false
  (leastBy (fun x : Nat × Team => 16 - s.teamLevel x.2) (s.teams.filter late)).map fun x => s.teamCtx x.2

/-- A queue of the die that was unable to place a team for a whole period, runnable and in budget all through it: the first in the order of
04 R78 among them. -/
def State.starved (s : State) (die since : Nat) : Option Nat :=
  (leastBy s.choiceRank ((s.candidates die).filter fun x =>
    s.keptBudget x.2.fn x.2.q && (tget (s.queue x.2.fn x.2.q).starvedSince die).any fun t => decide (t ≤ since))).map (·.2.ctx)

/-- A period ends on a die: a starved queue replaces the outgoing context on the die's cores by a full switch (04 R79), which each core
serves when its turn comes. -/
def State.endPeriod (since : Nat) (s : State) (die : Nat) : State :=
  match s.starved die since, s.outgoing die with
  | some inc, some out =>
    if inc = out then s
    else
      let cs := ((List.range 40).map (40 * die + ·)).filter fun c => !(s.victimTeams c out).isEmpty
      forAll State.serveSlice (s.putReq cs (.slice out inc)) cs
  | _, _ => s

/-- A period of 1 ms ends, and charges start again (04 R78). -/
def State.periodEnd (s : State) : State :=
  let u := forAll (State.endPeriod (s.plant.nextPeriod - 1000000)) s [0, 1, 2, 3]
  { u with
    plant := { u.plant with nextPeriod := s.plant.nextPeriod + 1000000 },
    queues := tmap u.queues fun _ q => { q with charge := 0 }, parts := tmap u.parts fun _ x => { x with timeUsed := 0 } }

/-- SCHED_PERIOD (04 R78). -/
def execSchedPeriod (s : State) : Host.Outcome State Fault Refusal :=
  if s.refTime < s.plant.nextPeriod then .next s else .next s.periodEnd

end Sys2Proof.Machine
end

