-- ==== Sys2Proof/Machine/Mgmt.lean ====
section
/-!
DEFINITION. Management requests (03 R56 to R59, R67, R72 to R74; 01 R30; 10 R214, R215; 20 R393). Each acts on the request
that the mailbox holds, if its CODE is the row's, and forms the answer.
-/

namespace Sys2Proof.Machine

open Sys2Proof

/-- Runs a request row. -/
def requestRow (s : State) (code : Nat) (body : List Byte → State) : Host.Outcome State Fault Refusal :=
  match s.request code with
  | some r => .next (body r)
  | none => .next s

/-- Body bytes from `a` up to byte 63 are zero. -/
def tailZero (r : List Byte) (a : Nat) : Bool := zeroFrom r a (64 - a)

/-! ### Stacks and power (01 R30) -/

/-- STATE of a stack. -/
def Stack.stateCode (k : Stack) : Nat := if k.outOfUse then 3 else if k.copying.isSome then 2 else if k.training then 1 else 0

def execStackStat (s : State) : Host.Outcome State Fault Refusal :=
  requestRow s 0x1A fun r =>
    let i := field r 8 1
    if !headerOk r || 8 ≤ i || !tailZero r 9 then s.reply r 1 []
    else
      let k := s.stack i
      s.reply r 0 (natBytes 1 k.stateCode ++ natBytes 1 (k.temp % 256).toNat ++ natBytes 2 0 ++ natBytes 4 k.spareUsed ++
        natBytes 8 k.corrected ++ natBytes 8 k.uncorr ++ natBytes 4 k.remapUsed ++ natBytes 4 k.granUsed ++
        natBytes 4 k.retired ++ natBytes 4 0 ++ natBytes 8 k.lastScrub)

/-- The answer of POWER_LIMIT. -/
def State.powerAnswer (s : State) (r : List Byte) : State :=
  let p := s.plant
  s.reply r 0 (natBytes 2 p.powerLimit ++ natBytes 2 p.measured ++ natBytes 1 (p.hottest % 256).toNat ++
    natBytes 1 ((if p.lowPower then 1 else 0) + if p.lowTemp then 2 else 0))

/-- POWER_LIMIT, OP 1; the row also answers an OP that is not listed. R30 has a WATTS field for OP 2 only, so for OP 1 its bytes count
as reserved, and a nonzero one answers STATUS 1 (notes/assumptions 57). -/
def execPowerLimitRead (s : State) : Host.Outcome State Fault Refusal :=
  requestRow s 0x1B fun r =>
    if field r 8 1 = 2 then s
    else if !headerOk r || field r 8 1 ≠ 1 || !tailZero r 9 then s.reply r 1 [] else s.powerAnswer r

/-- POWER_LIMIT, OP 2. The clock stays lowered for power only while the measured power reaches the limit (01 R27). -/
def execPowerLimitSet (s : State) : Host.Outcome State Fault Refusal :=
  requestRow s 0x1B fun r =>
    let w := field r 10 2
    if field r 8 1 ≠ 2 then s
    else if !headerOk r || field r 9 1 ≠ 0 || !tailZero r 12 || w < 1200 || 2400 < w || w % 25 ≠ 0 then s.reply r 1 []
    else State.powerAnswer { s with plant := { s.plant with powerLimit := w, lowPower := decide (w ≤ s.plant.measured) } } r

/-! ### Partitions (03 R57 to R59, R402) -/

/-- A partition record, from byte 8 of a request. -/
def Part.of (r : List Byte) : Part :=
  { parent := field r 10 2, level := field r 12 1, migrate := field r 13 1 % 2 == 1, cores := BitVec.ofNat 160 (field r 16 20),
    engines := BitVec.ofNat 32 (field r 36 4), slices := BitVec.ofNat 64 (field r 40 8), hbmGib := field r 48 2,
    timeShare := field r 50 2, bwGbps := field r 52 4, counts := [0, 0, 0, 0], windowBytes := 0, timeUsed := 0, finals := [], routes := [] }

/-- Fields in range, reserved fields zero, and a parent that may be one (STATUS 1). -/
def State.partFields (s : State) (r : List Byte) (id : Nat) (x : Part) : Bool :=
  headerOk r && within 1 id 255 && field r 13 1 / 2 == 0 && field r 14 2 == 0 && decide (x.hbmGib ≤ 640) &&
  within 1 x.timeShare 1024 && decide (field r 56 4 < 2 ^ 17) && field r 60 4 == 0 &&
  (if x.level = 1 then x.parent == 0
   else x.level == 2 && x.parent != id && ((tget s.parts x.parent).map fun p => p.level == 1).getD false)

def subMask {w : Nat} (a b : BitVec w) : Bool := a &&& ~~~b == 0

/-- Children of `p` other than `id`. -/
def State.siblings (s : State) (p id : Nat) : List Part := ((s.children p).filter (·.1 != id)).map (·.2)

def sumOf (f : Part → Nat) (l : List Part) : Nat := l.foldl (fun n x => n + f x) 0

/-- The partition is a subset of its parent (STATUS 2). -/
def State.partInParent (s : State) (id : Nat) (x : Part) : Bool :=
  match tget s.parts x.parent with
  | none => false
  | some p =>
    let all := x :: s.siblings x.parent id
    subMask x.cores p.cores && subMask x.engines p.engines && subMask x.slices p.slices &&
    decide (sumOf (·.hbmGib) all ≤ p.hbmGib) && decide (sumOf (·.bwGbps) all ≤ p.bwGbps) &&
    decide (sumOf (·.timeShare) all ≤ 1024)

/-- Functions that a record names. -/
def partFuncs (r : List Byte) : List Nat := (List.range 17).filter fun f => (field r 56 4).testBit f

/-- Functions that move: into the partition, or back to its parent. -/
def State.partMoves (s : State) (id : Nat) (named : List Nat) : List Nat :=
  (List.range 17).filter fun f => ((s.func f).part == some id) != named.contains f

def State.queueEnabled (s : State) (f : Nat) : Bool := s.queues.any fun (key, q) => key / 1024 == f && q.state != .disabled

/-- The STATUS that refuses a PART_SET, 0 for none (R58). One that gives LEVEL 2 to a partition that has children is not refused: R58 does
not say what becomes of them, and they keep their parent (notes/assumptions 14). -/
def State.partStatus (s : State) (r : List Byte) : Nat :=
  let id := field r 8 2
  let x := Part.of r
  let named := partFuncs r
  let kids := (s.children id).map (·.2)
  if !s.partFields r id x then 1
  else if !s.partInParent id x then 2
  else if (s.siblings x.parent id).any fun y =>
    x.cores &&& y.cores != 0 || x.engines &&& y.engines != 0 || x.slices &&& y.slices != 0 then 3
  else if !named.all fun f => (s.func f).part == some x.parent || (s.func f).part == some id then 3
  else if (s.partMoves id named).any s.queueEnabled then 4
  else if !(kids.all fun y => subMask y.cores x.cores && subMask y.engines x.engines && subMask y.slices x.slices) ||
    decide (x.hbmGib < sumOf (·.hbmGib) kids) || decide (x.bwGbps < sumOf (·.bwGbps) kids) then 3
  else 0

/-- The partition as PART_SET leaves it: what it holds beside its record stays. Functions that it leaves out return to the parent that the
record names, also where the change gives it another one, which R402 leaves open (notes/assumptions 14). -/
def State.putPart (s : State) (id : Nat) (x : Part) (named : List Nat) : State :=
  let old := tget s.parts id
  let x := match old with
    | some o =>
      { x with
        counts := o.counts, windowBytes := o.windowBytes, timeUsed := o.timeUsed, finals := o.finals, routes := o.routes }
    | none => x
  let move (s : State) (f : Nat) : State :=
    if named.contains f then s.setFunc f { s.func f with part := some id }
    else if (s.func f).part == some id then s.setFunc f { s.func f with part := some x.parent }
    else s
  forAll move { s with parts := tset s.parts id x } (List.range 17)

/-- Resident teams that stand on cores their partition no longer holds in `after`. -/
def State.displaced (s after : State) : List Nat :=
  ((s.teams.filter fun (_, t) => t.resident && decide (0 < t.groupsLeft) &&
    !(t.cores.all fun c => (after.ownCores (s.partOf (s.teamCtx t))).getLsbD c))).map (·.1)

/-- Copies of contexts on engines that their partition no longer holds in `after`. -/
def State.strayCopies (s after : State) : Bool :=
  s.copies.any fun (_, c) => !(after.ownEngines (s.partOf c.ctx)).getLsbD c.engine

/-- The cores that displaced contexts lose, with the contexts. -/
def State.displacedAt (s after : State) : List (Nat × Nat) :=
  ((s.displaced after).flatMap fun id => match tget s.teams id with
    | some t => (t.cores.filter fun c => !(after.ownCores (s.partOf (s.teamCtx t))).getLsbD c).map fun c => (c, s.teamCtx t)
    | none => []).eraseDups

/-- The request that squeezes a context off a core (05 R99): all that it holds there. -/
def SqReq.offCore (ctx : Nat) : SqReq :=
  { origin := 2, ctx := ctx, fn := 0, q := 0, matrix := true, scr := 128, lanes := [16, 16, 16, 16], pool := [256, 256, 256, 256] }

/-- The squeeze of a context off a core is waiting or under way. -/
def Core.squeezesOff (k : Core) (ctx : Nat) : Bool :=
  k.sqQueue.contains (.squeeze (SqReq.offCore ctx)) || k.sqRun.any fun r => r.req == SqReq.offCore ctx

/-- A displaced team stops issuing once it is squeezed on all of its cores; what the minimum of 05 R97 keeps there is saved once the team is
quiet and the partition has the save space for it (05 R115). -/
def State.vacateTeam (s : State) (id : Nat) : State :=
  match tget s.teams id with
  | none => s
  | some t =>
    let ctx := s.teamCtx t
    if t.cores.any fun c => (s.core c).squeezesOff ctx then s
    else if t.cores.all fun c => (s.core c).savedFor ctx .partition then
      match if s.quiet [id] then s.takeSpill ctx [id] else none with
      | some s => (s.saveTeam false id).afterSave [id] t.cores
      | none => s
    else if t.cores.all fun c => (s.core c).sqRun.isNone && ((s.core c).saving.isNone || (s.core c).savedFor ctx .partition) then
      s.setSaving t.cores (some ctx) .partition
    else s

/-- What a change takes away from the own contexts of partitions. -/
def State.withdraw (put : State → State) (s : State) : State :=
  let after := put s
  let cores := s.parts.foldl (fun m x => m ||| (s.ownCores x.1 &&& ~~~after.ownCores x.1)) 0
  let engines := s.parts.foldl (fun m x => m ||| (s.ownEngines x.1 &&& ~~~after.ownEngines x.1)) 0
  { s with plant := { s.plant with leavingCores := cores, leavingEngines := engines } }

/-- One step of vacating (R59): nothing new starts on what a change `put` takes away, and shares of dies that lose all of their cores move
at once (04 R90, R95); squeezes for the cores of displaced teams; then the displaced teams. -/
def State.vacate (put : State → State) (s : State) : State :=
  let s := (s.withdraw put).moveAllShares
  let ids := s.displaced (put s)
  let new := (s.displacedAt (put s)).filter fun x => !s.plant.vacated.contains x
  let ask (s : State) (x : Nat × Nat) : State :=
    s.setCore x.1 ((s.core x.1).enqueue (.squeeze (SqReq.offCore x.2)))
  let s := forAll ask { s with plant := { s.plant with vacated := s.plant.vacated ++ new } } new
  let s := forAll State.vacateTeam s ids
  let left := (s.displaced (put s)).flatMap fun id => ((tget s.teams id).map Team.cores).getD []
  let free (c : Nat) (k : Core) : Core :=
    if k.saving.any (fun x => k.savingBy == .partition && s.plant.vacated.any fun y => y.2 == x) && !left.contains c then
      { k with saving := none }
    else k
  { s with cores := tmap s.cores free }

/-- Ends what a request has vacated. -/
def State.endVacate (s : State) : State :=
  let free (k : Core) : Core :=
    if k.saving.any fun x => k.savingBy == .partition && s.plant.vacated.any fun y => y.2 == x then { k with saving := none } else k
  { s with cores := tmap s.cores fun _ k => free k, plant := { s.plant with vacated := [], leavingCores := 0, leavingEngines := 0 } }

/-- PART_SET (R58, R59): the answer comes once the resources that the change takes away are vacated. Displaced teams come back on other
cores (04 R95). -/
def execPartSet (s : State) : Host.Outcome State Fault Refusal :=
  requestRow s 0x10 fun r =>
    let n := s.partStatus r
    if n ≠ 0 then s.endVacate.reply r n []
    else
      let put (s : State) : State := s.putPart (field r 8 2) (Part.of r) (partFuncs r)
      let s := s.vacate put
      let after := put s
      if !(s.displaced after).isEmpty || s.strayCopies after then s
      else after.endVacate.moveAllShares.reply r 0 []

/-- PART_DEL (R59, R402): the functions and stores of the partition return to its parent (notes/assumptions 14). A PART_ID
out of range answers 1 and one that names no partition 5, for which R56 names no STATUS (DESIGN CHOICE, log 62). -/
def execPartDel (s : State) : Host.Outcome State Fault Refusal :=
  requestRow s 0x11 fun r =>
    let id := field r 8 2
    if !within 1 id 255 then s.reply r 1 []
    else match tget s.parts id with
      | none => s.reply r 5 []
      | some x =>
        let mine := (List.range 17).filter fun f => (s.func f).part == some id
        if !(s.children id).isEmpty || mine.any s.queueEnabled then s.reply r 4 []
        else
          let s := forAll (fun s f => s.setFunc f { s.func f with part := some x.parent }) s mine
          State.reply { s with
            parts := terase s.parts id, stores := tmap s.stores fun _ y => if y.part = id then { y with part := x.parent } else y } r 0 []

/-! ### Invalidation (03 R67) -/

/-- An atomic of the context that still uses a translation in the range. -/
def AtomReq.inRange (a : AtomReq) (ctx va size : Nat) : Bool :=
  a.ctx == ctx && decide (va ≤ a.addr.toNat) && decide (a.addr.toNat < va + size)

/-- INVAL: no translation is kept between accesses, so the answer waits only for atomics on their way. Writes to host-published
pages under an old translation then reach their point of coherence, as 02 R46 lets them at any time. -/
def execInval (s : State) : Host.Outcome State Fault Refusal :=
  requestRow s 0x20 fun r =>
    let (ctx, n, va) := (ctxBits (field r 8 4), field r 12 1, field r 16 8)
    if 16 < ctxFn ctx || !within 16 n 57 || va % 2 ^ n ≠ 0 then s.reply r 1 []
    else if (s.ctx? ctx).isSome && s.atoms.any fun a => a.inRange ctx va (2 ^ n) then s
    else (s.flushPublished ctx).reply r 0 []

/-! ### Sterling records (03 R72 to R74; 02 R52) -/

/-- Estimated energy from the weights of the configuration image (R72). -/
def Sterling.energy (x : Sterling) : Nat :=
  min (2 ^ 64 - 1) ((x.laneCyc * Config.energyWeight 0 + x.matrixCyc * Config.energyWeight 1 +
    x.copyBytes * Config.energyWeight 2 + x.memBytes * Config.energyWeight 3) / 2 ^ 20)

/-- A Sterling record (R72). -/
def Sterling.bytes (x : Sterling) : List Byte :=
  natBytes 4 x.ctx ++ natBytes 4 (x.incarn.toNat * 65536 + (if x.dropped then 2 else 0) + if x.closed then 1 else 0) ++
  natBytes 8 x.time ++ natBytes 8 x.laneCyc ++ natBytes 8 x.matrixCyc ++ natBytes 8 x.copyBytes ++ natBytes 8 x.memBytes ++
  natBytes 8 x.energy

/-- The record that a read of a context returns: the oldest closed one, or else the live one (R399). -/
def State.sterlingOf (s : State) (ctx : Nat) : Option Sterling :=
  match s.closed.find? fun x => x.ctx == ctx with
  | some x => some x
  | none => (s.ctx? ctx).map fun c => c.folded

/-- The CONTEXT of a request that holds nothing else; reserved bytes are ignored (00 R5). -/
def contextOnly (r : List Byte) : Option Nat :=
  if ctxFn (field r 8 4) ≤ 16 then some (ctxBits (field r 8 4)) else none

def execSterlingRead (s : State) : Host.Outcome State Fault Refusal :=
  requestRow s 0x30 fun r => match contextOnly r with
    | none => s.reply r 1 []
    | some ctx => match s.sterlingOf ctx with
      | some x => s.reply r 0 x.bytes
      | none => s.reply r 5 []

/-- MCTP_STERLING_READ (R73): the same record out of band. -/
def execMctpSterlingRead (ctx : Nat) (s : State) : Host.Outcome State Fault Refusal :=
  match s.sterlingOf ctx with
  | some x => .next { s with plant := { s.plant with mctpOut := s.plant.mctpOut ++ [x.bytes] } }
  | none => .next s

/-- STERLING_ACK releases the oldest closed record of the context (R74). -/
def execSterlingAck (s : State) : Host.Outcome State Fault Refusal :=
  requestRow s 0x31 fun r => match contextOnly r with
    | none => s.reply r 1 []
    | some ctx => match s.closed.findIdx? fun x => x.ctx == ctx with
      | some i => State.reply { s with closed := s.closed.eraseIdx i } r 0 []
      | none => s.reply r 5 []

/-- DIE_STATS (R56). A die of 4 or more answers 1, for which R56 names no STATUS (DESIGN CHOICE, log 62). -/
def execDieStats (s : State) : Host.Outcome State Fault Refusal :=
  requestRow s 0x50 fun r =>
    let d := field r 8 1
    if 4 ≤ d then s.reply r 1 []
    else s.reply r 0 (natBytes 8 (s.die d).hotMoved ++ natBytes 8 (s.die d).hotRefused)

/-! ### Electrum stores (10 R214, R215; 20 R393) -/

/-- CA_STORE, OP 1; the row also answers an OP that is not listed. -/
def execCaStoreCreate (s : State) : Host.Outcome State Fault Refusal :=
  requestRow s 0x14 fun r =>
    let (id, part, op, lines, roots) := (field r 8 2, field r 10 2, field r 12 1, field r 13 1, field r 14 1)
    let x : Store :=
      { part := part, linesLog := lines, rootsLog := roots, share := BitVec.ofNat 256 (field r 16 32), lines := [], used := [],
        roots := [], drops := [] }
    if op = 2 then s
    else if !within 1 id 255 || op ≠ 1 || !within 12 lines 28 || 16 < roots then s.reply r 1 []
    else if (tget s.parts part).isNone then s.reply r 5 []
    else if (tget s.stores id).isSome then s.reply r 3 []
    else if s.unitsFree part < x.units then s.reply r 2 []
    else State.reply { s with stores := tset s.stores id x } r 0 []

/-- CA_STORE, OP 2. -/
def execCaStoreDelete (s : State) : Host.Outcome State Fault Refusal :=
  requestRow s 0x14 fun r =>
    let id := field r 8 2
    if field r 12 1 ≠ 2 then s
    else if (tget s.stores id).isNone then s.reply r 5 []
    else if s.ctxs.any fun (_, c) => c.live && c.binds.any fun b => b.2.store == id then s.reply r 4 []
    else State.reply { s with stores := terase s.stores id } r 0 []

/-- Fields of CA_BIND in range. RIGHTS[7:4] and the other reserved bits are ignored (00 R5). -/
def bindOk (r : List Byte) : Bool := decide (ctxFn (field r 8 4) ≤ 16) && decide (field r 12 1 < 16)

/-- CA_BIND with RIGHTS[3] clear (10 R215). -/
def execCaBind (s : State) : Host.Outcome State Fault Refusal :=
  requestRow s 0x15 fun r =>
    let (ctx, handle, rights, id) := (ctxBits (field r 8 4), field r 12 1, field r 13 1, field r 14 2)
    if rights / 8 % 2 = 1 then s
    else if !bindOk r then s.reply r 1 []
    else match s.ctx? ctx, tget s.stores id with
      | some c, some x =>
        let p := s.partOf ctx
        if p != x.part && !x.share.getLsbD p then s.reply r 2 []
        else
          let b : Binding := { store := id, rights := BitVec.ofNat 4 rights }
          (s.setCtx ctx { c with binds := tset c.binds handle b }).reply r 0 []
      | _, _ => s.reply r 5 []

/-- CA_BIND with RIGHTS[3] set: the handle is cleared. -/
def execCaUnbind (s : State) : Host.Outcome State Fault Refusal :=
  requestRow s 0x15 fun r =>
    let (ctx, handle) := (ctxBits (field r 8 4), field r 12 1)
    if field r 13 1 / 8 % 2 = 0 then s
    else if !bindOk r then s.reply r 1 []
    else match s.ctx? ctx with
      | some c => (s.setCtx ctx { c with binds := terase c.binds handle }).reply r 0 []
      | none => s.reply r 5 []

/-- STATE, KIND and COUNT of a name. -/
def Store.lineState (x : Store) (n : CaName) : Nat × Nat × Nat :=
  match x.lines.find? fun l => l.name == n with
  | some l => (if l.dying.isNone then 1 else 2, if l.interior then 1 else 0, l.count)
  | none => (0, 0, 0)

/-- CA_LINE, OP 1 (20 R393); the row also answers an OP that is not listed. -/
def execCaLineRead (s : State) : Host.Outcome State Fault Refusal :=
  requestRow s 0x18 fun r =>
    if field r 10 1 = 2 then s
    else if !headerOk r || field r 10 1 ≠ 1 || field r 11 1 ≠ 0 || field r 12 4 ≠ 0 || !tailZero r 32 then s.reply r 1 []
    else match tget s.stores (field r 8 2) with
      | none => s.reply r 5 []
      | some x =>
        let (st, kind, count) := x.lineState (BitVec.ofNat 128 (field r 16 16))
        s.reply r 0 (natBytes 1 st ++ natBytes 1 kind ++ natBytes 2 0 ++ natBytes 4 count)

/-- CA_LINE, OP 2: the slot's 32 bytes at byte 16. -/
def execCaRootRead (s : State) : Host.Outcome State Fault Refusal :=
  requestRow s 0x18 fun r =>
    let slot := field r 12 4
    if field r 10 1 ≠ 2 then s
    else if !headerOk r || field r 11 1 ≠ 0 || !tailZero r 16 then s.reply r 1 []
    else match tget s.stores (field r 8 2) with
      | none => s.reply r 5 []
      | some x =>
        if 2 ^ x.rootsLog ≤ slot then s.reply r 1 []
        else
          let y := x.root slot
          s.reply r 0 (natBytes 8 0 ++ natBytes 16 y.name.toNat ++ natBytes 8 y.version.toNat ++
            natBytes 8 (if y.name = 0 then 0 else 1))

end Sys2Proof.Machine
end

