-- ==== Sys2Proof/Machine/Finaliser.lean ====
section
/-!
DEFINITION. The firmware finaliser (12 R267 to R270; 03 R399): the management request FINALISE fills in the gaps of a
Camtupo image, or writes a cached result.
-/

namespace Sys2Proof.Machine

open Sys2Proof

/-! ### The gaps (R269) -/

/-- Results in flight at a word: registers with the cycles that remain. -/
abbrev InFlight := List (Reg × Nat)

def InFlight.of (m : InFlight) (r : Reg) : Nat := match m with
  | [] => 0
  | (x, n) :: rest => if x = r then n else InFlight.of rest r

/-- The maximum for one register. -/
def InFlight.raise (m : InFlight) (r : Reg) (n : Nat) : InFlight := match m with
  | [] => [(r, n)]
  | (x, k) :: rest => if x = r then (x, max k n) :: rest else (x, k) :: InFlight.raise rest r n

def InFlight.merge (a b : InFlight) : InFlight := b.foldl (fun m x => m.raise x.1 x.2) a

/-- A word of an image that is an instruction: its index counted in words, the instruction, and its own gap if its packet
is native. -/
structure ImgWord where
  ix : Nat
  i : Instr
  gap : Option Nat
  deriving DecidableEq, Repr

def packetNative (sched : Word32) : Bool := !sched.getLsbD 31

/-- Gap field of slot `j` of a schedule word (R242). -/
def slotGap (sched : Word32) (j : Nat) : Nat := sched.toNat / 16 ^ (j - 1) % 8

/-- Give-way flag of slot `j`. -/
def slotGiveWay (sched : Word32) (j : Nat) : Bool := sched.getLsbD (4 * j - 1)

def imgWords (ws : List Word32) : List ImgWord :=
  (List.range ws.length).filterMap fun ix =>
    if ix % 8 = 0 then none
    else match decode (atD ws ix 0) with
      | .error _ => none
      | .ok i =>
        let sched := atD ws (ix / 8 * 8) 0
        some { ix := ix, i := i, gap := if packetNative sched then some (slotGap sched (ix % 8)) else none }

/-- The word a split executes after word `ix` (13 R274). -/
def nextIx (ix : Nat) : Nat := if ix % 8 = 7 then ix + 2 else ix + 1

/-- Index of a direct target. -/
def targetIx {w : Nat} (ix : Nat) (o : BitVec w) : Int := (ix : Int) + o.toInt

/-- Ends of the direct edges that leave a word, inside the image; a target in slot 0 is none. -/
def ImgWord.next (n : Nat) (x : ImgWord) : List Nat :=
  let nx : Int := nextIx x.ix
  let ends : List Int := match x.i with
    | .br o => [targetIx x.ix o]
    | .brp _ o | .brn _ o | .bruNz _ o | .bruZ _ o => [nx, targetIx x.ix o]
    | .nchk o => [nx, targetIx x.ix o]
    | .call _ o => [targetIx x.ix o]
    | .callt _ _ | .jmpt _ | .ret _ | .nret | .exit | .unassignedOpcode _ => []
    | _ => [nx]
  (ends.filter fun e => decide (0 ≤ e) && decide (e < (n : Int)) && e % 8 != 0).map Int.toNat

/-- Cycles by which a word must wait beyond the cycle after its predecessor, after which `m` is in flight (R254). -/
def ImgWord.delay (x : ImgWord) (m : InFlight) : Nat :=
  match instrShape x.i with
  | none => 0
  | some sh => (sh.reads none none ++ sh.writes none).foldl (fun d r => max d (m.of r)) 0

/-- What is left after some cycles. -/
def InFlight.age (m : InFlight) (n : Nat) : InFlight := (m.map fun x => (x.1, x.2 - n)).filter fun x => x.2 != 0

/-- Results in flight one cycle after a word issues, with `m` in flight when it does: none if it is in the drain class (step 2). -/
def ImgWord.leaves (x : ImgWord) (m : InFlight) : InFlight :=
  match instrShape x.i with
  | none => []
  | some sh =>
    if sh.cls = .drain then []
    else
      let news : InFlight := match sh.latency with
        | some l => ((sh.writes none).map fun r => (r, l - 1)).filter fun x => x.2 != 0
        | none => []
      (m.age 1).merge news

/-- What is in flight when the successor `e` of a word issues, at the earliest cycle that R254 allows on that edge. -/
def ImgWord.edge (ws : List ImgWord) (x : ImgWord) (out : InFlight) (e : Nat) : InFlight :=
  match ws.find? fun y => y.ix == e with
  | some y => out.age (x.gap.getD (y.delay out))
  | none => []

/-- A control-transfer instruction (R248, R255). -/
def isTransfer : Instr → Bool
  | .br _ | .brp .. | .brn .. | .bruNz .. | .bruZ .. | .call .. | .callt .. | .jmpt _ | .ret _ | .nchk _ | .exit | .nret => true
  | _ => false

/-- The leaders (step 1): word 1, direct targets, and the words that follow control transfers. -/
def leaders (n : Nat) (ws : List ImgWord) : List Nat :=
  1 :: ws.flatMap fun x => if isTransfer x.i then nextIx x.ix :: x.next n else []

/-- One pass over the direct edges, in ascending order: what may be in flight when each word issues, by its index. At a leader it is for
each register the maximum over every edge, as the values `ins` of the pass before give it (step 3), and at least what `low` has; inside a
block it follows from the leader's. -/
def flowPass (n : Nat) (ws : List ImgWord) (ls : List Nat) (low ins : Table InFlight) : Table InFlight :=
  forAll (fun t x =>
    let out := x.leaves ((tget (if ls.contains x.ix then ins else t) x.ix).getD [])
    forAll (fun t e =>
      let on := x.edge ws out e
      if on.isEmpty then t else tset t e (((tget t e).getD []).merge on)) t (x.next n)) low ws

/-- Two tables have the same results in flight, in whatever order. -/
def flowSame (a b : Table InFlight) : Bool :=
  let within (a b : Table InFlight) : Bool := a.all fun x => x.2.all fun r => ((tget b x.1).getD []).of r.1 == r.2
  within a b && within b a

/-- Passes repeated until nothing changes (step 3): each takes the maxima anew, or, with `rise`, no maximum ever falls. -/
def flowFix (n : Nat) (ws : List ImgWord) (ls : List Nat) (rise : Bool) : Nat → Table InFlight → Table InFlight × Bool
  | 0, t => (t, false)
  | k + 1, t =>
    let t' := flowPass n ws ls (if rise then tfilter t fun e _ => ls.contains e else []) t
    if flowSame t' t then (t', true) else flowFix n ws ls rise k t'

/-- Every register has at most 7 cycles left, and there are 328 registers, so this many passes are enough where none falls. -/
def flowFuel (n : Nat) : Nat := n * 2296 + 1

/-- The results in flight of an image (step 3). A longer wait for one register leaves less in flight of another, so passes that take each
maximum anew may go round for ever, which the rule does not decide: the model then lets no maximum fall (DESIGN CHOICE, log 40). -/
def flowOf (n : Nat) (ws : List ImgWord) : Table InFlight :=
  match flowFix n ws (leaders n ws) false (flowFuel n) [] with
  | (t, true) => t
  | (t, false) => (flowFix n ws (leaders n ws) true (flowFuel n) t).1

/-- The gap of a word (step 4): for each successor what the results in flight on that edge ask for, and of two the larger. -/
def gapOf (n : Nat) (ws : List ImgWord) (ins : Table InFlight) (x : ImgWord) : Nat :=
  let out := x.leaves ((tget ins x.ix).getD [])
  (x.next n).foldl (fun g e =>
    match ws.find? fun y => y.ix == e with
    | some y => max g (y.delay out)
    | none => g) 0

/-- The schedule word of a packet with its gaps filled in (step 5). -/
def fillSched (sched : Word32) (gaps : Nat → Nat) : Word32 :=
  BitVec.ofNat 32 ((List.range 7).foldl (fun a j =>
    a + ((if slotGiveWay sched (j + 1) then 8 else 0) + gaps (j + 1)) * 16 ^ j) 0)

/-- The native image of a Camtupo image, word by word (R269). -/
def finaliseWords (ws : List Word32) : List Word32 :=
  let n := ws.length
  let iw := imgWords ws
  let ins := flowOf n iw
  let gap (ix : Nat) : Nat := match iw.find? fun x => x.ix == ix with
    | some x => gapOf n iw ins x
    | none => 0
  ws.mapIdx fun ix w =>
    if ix % 8 = 0 && !packetNative w then fillSched w fun j => gap (ix + j) else w

/-! ### The request (R268, R270) -/

def wordsOf : List Byte → List Word32
  | b0 :: b1 :: b2 :: b3 :: r => wordOfBytes b0 b1 b2 b3 :: wordsOf r
  | _ => []

/-- Resolves the packets of a range. -/
def packetAccs (s : State) (ctx : Nat) (k : Access) (a n : Nat) : Except Cause (List Acc) :=
  collect (fun i => s.resolve ctx 0 false (a + 32 * i) 32 k) (List.range n)

/-- Body of the answer. -/
def finalBody (hit : Bool) (bad : Nat) (digest : List Byte) : List Byte :=
  [if hit then 1 else 0] ++ natBytes 3 0 ++ natBytes 4 bad ++ (digest ++ natBytes 16 0).take 16

def noPacket : Nat := 0xFFFFFFFF

/-- Moves a result to the front of a partition's cache, which keeps 1,024 (R270). -/
def State.cacheFinal (s : State) (part : Nat) (e : List Byte × Nat × List Byte) : State :=
  match tget s.parts part with
  | some p =>
    let rest := p.finals.filter fun x => !(x.1 == e.1 && x.2.1 == e.2.1)
    { s with parts := tset s.parts part { p with finals := (e :: rest).take 1024 } }
  | none => s

/-- Carries out a request whose accesses resolved. -/
def State.finaliseInto (s : State) (r : List Byte) (ctx : Nat) (src dst : List Acc) : State :=
  let bs := src.flatMap s.peek
  let ws := wordsOf bs
  let n := src.length
  match (List.range n).find? fun p => (atD ws (8 * p) 0).extractLsb' 28 3 != 0 with
  | some p => (forAll State.afterRead s src).reply r 1 (finalBody false p [])
  | none =>
    let part := s.partOf ctx
    let digest := sha256 bs
    let hit := ((tget s.parts part).map (·.finals)).getD [] |>.find? fun x => x.1 == digest && x.2.1 == n
    let out := match hit with
      | some x => x.2.2
      | none => (finaliseWords ws).flatMap wordBytes
    let s1 := forAll State.afterRead s src
    let s2 := writePackets dst out s1
    (s2.cacheFinal part (digest, n, out)).reply r 0 (finalBody hit.isSome noPacket digest)

/-- A read of the packet at `a`, or of its page walk, that completes as MEM_UNCORR ends the context, and the request answers STATUS 5, with
undefined values in DST (R271; `State.endFinalise`). -/
def State.finalUncorr (s : State) (r : List Byte) (ctx a : Nat) : State :=
  let x : Record := { kind := 1, cause := Cause.code .memUncorr, fn := ctxFn ctx, addr := BitVec.ofNat 64 a }
  (s.contextFault ctx x).reply r 5 []

/-- Address of the first packet of a range that does not resolve. -/
def packetStop (s : State) (ctx : Nat) (k : Access) (a n : Nat) : Nat :=
  a + 32 * ((List.range n).findIdx fun i => (s.resolve ctx 0 false (a + 32 * i) 32 k).toOption.isNone)

/-- A range of the request is refused (R268), its walk having counted its corrections (01 R12). -/
def State.finalRefuse (s : State) (r : List Byte) (ctx : Nat) (k : Access) (a : Nat) (c : Cause) : State :=
  (s.countFailed ctx (packetStop s ctx k a (field r 12 4)) 0 c).reply r 1 (finalBody false noPacket [])

/-- FINALISE (R268). An access that waits for a repair copy holds the request. -/
def execFinalise (s : State) : Host.Outcome State Fault Refusal :=
  match s.request 0x16 with
  | none => .next s
  | some r =>
    let ctx := ctxBits (field r 8 4)
    let n := field r 12 4
    if !finalFields r then .next (s.reply r 1 (finalBody false noPacket []))
    else if (s.ctx? ctx).isNone then .next (s.reply r 5 [])
    else match packetAccs s ctx .read (field r 16 8) n, packetAccs s ctx .write (field r 24 8) n with
      | .ok src, .ok dst =>
        if dst.any fun a => (s.peerRefuses a true).isSome then .next (s.reply r 1 (finalBody false noPacket [])) else
        if (src ++ dst).any s.accWaits then .next s
        else match src.findIdx? s.accBad with
          | some i => .next (s.finalUncorr r ctx (field r 16 8 + 32 * i))
          | none => .next (s.finaliseInto r ctx src dst)
      | .error .memUncorr, _ => .next (s.finalUncorr r ctx (packetStop s ctx .read (field r 16 8) n))
      | .ok _, .error .memUncorr => .next (s.finalUncorr r ctx (packetStop s ctx .write (field r 24 8) n))
      | .error c, _ => .next (s.finalRefuse r ctx .read (field r 16 8) c)
      | .ok _, .error c => .next (s.finalRefuse r ctx .write (field r 24 8) c)

end Sys2Proof.Machine
end

