-- ==== Sys2Proof/Machine/Transcend.lean ====
section
/-!
DEFINITION. The functions of opcode 0x3F (14 R308): the exact real value rounded once. A result that is no dyadic rational
is given to the rounding as an interval of width 2^e with no rounding boundary inside: `jam` makes its midpoint. The
irrational functions are computed in fixed point of `prec` fraction bits, far finer than any boundary comes to a value
(notes/assumptions 30).
-/

namespace Sys2Proof.Machine

open Sys2Proof

/-- A value strictly between m × 2^e and (m + 1) × 2^e. -/
def jam (neg : Bool) (m : Nat) (e : Int) : FVal := .fin neg (2 * m + 1) (e - 1)

/-- A value at m × 2^e if exact, otherwise strictly above it. -/
def jamUnless (exact : Bool) (neg : Bool) (m : Nat) (e : Int) : FVal := if exact then .fin neg m e else jam neg m e

/-- ⌊√n⌋, from bit `k` down. -/
def sqrtFrom (n : Nat) : Nat → Nat → Nat
  | 0, r => r
  | k + 1, r => let c := r + 2 ^ k; sqrtFrom n k (if c * c ≤ n then c else r)

def isqrt (n : Nat) : Nat := sqrtFrom n (bitLen n / 2 + 1) 0

/-- 1/x (R308). -/
def rcpF : FVal → FVal
  | .nan => .nan
  | .inf n => .fin n 0 0
  | .fin n m e =>
    if m = 0 then .inf n
    else let k := bitLen m + 64; jamUnless (2 ^ k % m == 0) n (2 ^ k / m) (-(k : Int) - e)

/-- √x. -/
def sqrtF : FVal → FVal
  | .nan => .nan
  | .inf n => if n then .nan else .inf false
  | .fin n m e =>
    if m = 0 then .fin n 0 e
    else if n then .nan
    else
      let odd := e % 2 = 1
      let m' := (if odd then 2 * m else m) * 2 ^ 128
      let e' := (if odd then e - 1 else e) - 128
      let r := isqrt m'
      jamUnless (r * r == m') false r (e' / 2)

/-- 1/√x. -/
def rsqF : FVal → FVal
  | .nan => .nan
  | .inf n => if n then .nan else .fin false 0 0
  | .fin n m e =>
    if m = 0 then .inf n
    else if n then .nan
    else
      let odd := e % 2 = 1
      let m' := if odd then 2 * m else m
      let e' := if odd then e - 1 else e
      let k := bitLen m' + 128
      let r := isqrt (2 ^ (2 * k) / m')
      jamUnless (r * r * m' == 2 ^ (2 * k)) false r (-(k : Int) - e' / 2)

/-! ### Fixed point -/

def prec : Nat := 576

def one : Nat := 2 ^ prec

/-- Σ x^(2i+1) / (2i+1), alternating in sign if `alt`, for `x` = 1/n: arctangent or its hyperbolic kin. -/
def atanInv (n : Nat) (alt : Bool) : Nat → Nat → Nat → Int → Int
  | 0, _, _, acc => acc
  | k + 1, i, pw, acc =>
    let t : Int := (pw / (2 * i + 1) : Nat)
    atanInv n alt k (i + 1) (pw / (n * n)) (if alt && i % 2 == 1 then acc - t else acc + t)

/-- π by Machin's formula. -/
def piFix : Nat := (16 * atanInv 5 true 260 0 (one / 5) 0 - 4 * atanInv 239 true 80 0 (one / 239) 0).toNat

/-- ln 2 = 2 artanh (1/3). -/
def ln2Fix : Nat := (2 * atanInv 3 false 380 0 (one / 3) 0).toNat

/-- Σ x^j / j! from term `j`, each term divided down from the last; `step` skips a sign (cosine and sine). -/
def expTaylor (x : Nat) : Nat → Nat → Nat → Nat → Nat
  | 0, _, _, acc => acc
  | k + 1, j, t, acc => let t' := t * x / one / j; expTaylor x k (j + 1) t' (acc + t')

/-- e^x for x in [0, 1). -/
def expFix (x : Nat) : Nat := expTaylor x 120 1 one one

def trigTaylor (x2 : Nat) : Nat → Nat → Nat → Int → Int → Int
  | 0, _, _, _, acc => acc
  | k + 1, j, t, sgn, acc =>
    let t' := t * x2 / one / (j * (j + 1))
    trigTaylor x2 k (j + 2) t' (-sgn) (acc - sgn * t')

/-- sin x and cos x for x in [0, 2). -/
def sinFix (x : Nat) : Int := trigTaylor (x * x / one) 70 2 x 1 x
def cosFix (x : Nat) : Int := trigTaylor (x * x / one) 70 1 one 1 one

/-- A fixed-point result that is no dyadic rational. -/
def ofFix (neg : Bool) (x : Int) : FVal :=
  if x < 0 then jam (!neg) (x.natAbs - 1) (-(prec : Int)) else jam neg x.natAbs (-(prec : Int))

/-- A magnitude in fixed point, exact for the values that reach it. -/
def toFix (m : Nat) (e : Int) : Nat :=
  if 0 ≤ e + prec then m * 2 ^ (e + prec).toNat else m / 2 ^ (-(e + prec)).toNat

/-- 2^x. -/
def expF : FVal → FVal
  | .nan => .nan
  | .inf n => if n then .fin false 0 0 else .inf false
  | .fin n m e =>
    if m = 0 then .fin false 1 0
    else if 0 ≤ floorLog2 m e - 9 then (if n then jam false 0 (-300) else .fin false 1 300)
    else
      let x : Int := if n then -(toFix m e : Int) else toFix m e
      let i := x / one
      let f := (x % one).toNat
      if f = 0 then .fin false 1 i
      else jam false (expFix (f * ln2Fix / one)) (i - prec)

/-- Fraction bits of log2 y for y in [1, 2), one for each squaring. -/
def log2Bits : Nat → Nat → Nat → Nat
  | 0, _, acc => acc
  | k + 1, y, acc =>
    let y2 := y * y / one
    if 2 * one ≤ y2 then log2Bits k (y2 / 2) (2 * acc + 1) else log2Bits k y2 (2 * acc)

/-- log2 x. -/
def logF : FVal → FVal
  | .nan => .nan
  | .inf n => if n then .nan else .inf false
  | .fin n m e =>
    if m = 0 then .inf true
    else if n then .nan
    else
      let k := floorLog2 m e
      if m = 2 ^ (bitLen m - 1) then fOfInt k
      else
        let y := m * one / 2 ^ (bitLen m - 1)
        let t : Int := k * 2 ^ 160 + log2Bits 160 y 0
        if t < 0 then jam true (t.natAbs - 1) (-160) else jam false t.natAbs (-160)

/-- The quadrant of a magnitude and the rest, in [0, π/2). -/
def quadrant (m : Nat) (e : Int) : Nat × Nat :=
  let x := 2 * toFix m e
  ((x / piFix) % 4, (x % piFix) / 2)

def sinQ (q r : Nat) : Int :=
  match q with | 0 => sinFix r | 1 => cosFix r | 2 => -sinFix r | _ => -cosFix r

def sinF : FVal → FVal
  | .fin n m e => if m = 0 then .fin n 0 e else let (q, r) := quadrant m e; ofFix n (sinQ q r)
  | _ => .nan

def cosF : FVal → FVal
  | .fin _ m e => if m = 0 then .fin false 1 0 else let (q, r) := quadrant m e; ofFix false (sinQ ((q + 1) % 4) r)
  | _ => .nan

/-- tanh x = (1 − T) / (1 + T) with T = e^(−2|x|). -/
def tanhF : FVal → FVal
  | .nan => .nan
  | .inf n => .fin n 1 0
  | .fin n m e =>
    if m = 0 then .fin n 0 e
    else if 7 ≤ floorLog2 m e then jam n (2 ^ 200 - 1) (-200)
    else
      let y := 2 * toFix m e
      let i := y / ln2Fix
      let t := one * one / expFix (y % ln2Fix) / 2 ^ i
      jam n ((one - t) * one / (one + t)) (-(prec : Int))

/-- The sub-functions of opcode 0x3F. -/
inductive FFun where
  | rcp | rsq | sqrt | exp | log | sin | cos | tanh
  deriving DecidableEq, Repr

def applyF : FFun → FVal → FVal
  | .rcp => rcpF | .rsq => rsqF | .sqrt => sqrtF | .exp => expF | .log => logF | .sin => sinF | .cos => cosF
  | .tanh => tanhF

end Sys2Proof.Machine
end

