-- ==== Sys2Proof/Machine/Vector.lean ====
section
/-!
DEFINITION. Vector integer, compare and predicate instructions (14 R297 to R305).
-/

namespace Sys2Proof.Machine

open Sys2Proof

/-- Writes the acting threads' elements of V[d], each from the registers at issue (R297). -/
def vecWrite (s : State) (h : Site) (d : BitVec 8) (f : Nat → Word64) : State :=
  (s.writeElems h h.ty d.toNat h.acting f).advance h

/-- An element-wise integer operation of two sources: the exact result, narrowed under 09 R197. -/
def vecInt (s : State) (d a : BitVec 8) (b : Src) (op : BitVec 5 → Int → Int → Int) : Host.Outcome State Fault Refusal :=
  issue s fun h => do
    h.accepts tyIsInt
    h.typed h.ty ([d.toNat, a.toNat] ++ b.regs) []
    .ok (vecWrite s h d fun t =>
      intTo h.ty h.fctl.sat (op h.ty (intOf h.ty (h.elem h.ty a.toNat t)) (intOf h.ty (h.src h.ty b t))))

/-- A bitwise operation on the w-bit patterns. -/
def vecBits (s : State) (d a : BitVec 8) (b : Src) (op : Word64 → Word64 → Word64) : Host.Outcome State Fault Refusal :=
  issue s fun h => do
    h.accepts tyIsInt
    h.typed h.ty ([d.toNat, a.toNat] ++ b.regs) []
    .ok (vecWrite s h d fun t => lowBits (tyWidth h.ty) (op (h.elem h.ty a.toNat t) (h.src h.ty b t)))

/-- A shift: b holds the amount, in one register that is never a pair (R300). -/
def vecShift (s : State) (d a : BitVec 8) (b : Src) (op : Int → Nat → Int) : Host.Outcome State Fault Refusal :=
  issue s fun h => do
    h.accepts tyIsInt
    h.typed h.ty [d.toNat, a.toNat] b.regs
    .ok (vecWrite s h d fun t =>
      intTo h.ty h.fctl.sat (op (intOf h.ty (h.elem h.ty a.toNat t)) (h.srcPlain b t).toNat))

/-- A one-source integer operation on the pattern and its value. -/
def vecUnary (s : State) (d a : BitVec 8) (op : Nat → Word64 → Int → Int) : Host.Outcome State Fault Refusal :=
  issue s fun h => do
    h.accepts tyIsInt
    h.typed h.ty [d.toNat, a.toNat] []
    .ok (vecWrite s h d fun t =>
      let x := h.elem h.ty a.toNat t
      intTo h.ty h.fctl.sat (op (tyWidth h.ty) x (intOf h.ty x)))

/-- vmad (R300): A × B + D, narrowed once. -/
def vecMad (s : State) (d a : BitVec 8) (b : Src) : Host.Outcome State Fault Refusal :=
  issue s fun h => do
    h.accepts tyIsInt
    h.typed h.ty ([d.toNat, a.toNat] ++ b.regs) []
    .ok (vecWrite s h d fun t =>
      intTo h.ty h.fctl.sat
        (intOf h.ty (h.elem h.ty a.toNat t) * intOf h.ty (h.src h.ty b t) + intOf h.ty (h.elem h.ty d.toNat t)))

/-- vcmp (R302). -/
def vecCmp (s : State) (c p : BitVec 3) (a : BitVec 8) (b : Src) : Host.Outcome State Fault Refusal :=
  issue s fun h => do
    need (decide (c.toNat ≤ 5)) .encIllegal 0 h.mask
    h.accepts tyIsInt
    h.typed h.ty (a.toNat :: b.regs) []
    .ok ((s.writeP h p.toNat h.acting fun t =>
      vcmpCond c.toNat (intOf h.ty (h.elem h.ty a.toNat t)) (intOf h.ty (h.src h.ty b t))).advance h)

/-- vsel (R303): the test is on the bit pattern of the old V[d]. -/
def vecSel (s : State) (d a : BitVec 8) (b : Src) : Host.Outcome State Fault Refusal :=
  issue s fun h => do
    h.accepts tyScalar
    h.typed h.ty ([d.toNat, a.toNat] ++ b.regs) []
    .ok (vecWrite s h d fun t =>
      if h.elem h.ty d.toNat t = 0 then h.src h.ty b t else h.elem h.ty a.toNat t)

/-- Predicate logic (R305). -/
def predOp (s : State) (d : BitVec 3) (f : Site → Nat → Bool) : Host.Outcome State Fault Refusal :=
  issue s fun h => .ok ((s.writeP h d.toNat h.acting (f h)).advance h)

/-- Leading zeros of the low `w` bits. -/
def clzOf (w : Nat) (x : Word64) : Int := (w : Int) - bitLen (x.toNat % 2 ^ w)

def popOf (w : Nat) (x : Word64) : Int := ((List.range w).filter fun i => x.getLsbD i).length

/-! ### The instructions -/

/-- vli (R299) ignores MODE.type: one 32-bit register. -/
def execVli (d : BitVec 8) (i : BitVec 16) (s : State) : Host.Outcome State Fault Refusal :=
  issue s fun h => do
    h.allotted [d.toNat]
    .ok ((s.writeV h d.toNat h.acting fun _ => i.signExtend 32).advance h)

def execVliH (d : BitVec 8) (i : BitVec 16) (s : State) : Host.Outcome State Fault Refusal :=
  issue s fun h => do
    h.allotted [d.toNat]
    .ok ((s.writeV h d.toNat h.acting fun t => i ++ (h.vr d.toNat t).extractLsb' 0 16).advance h)

def execVmov (d a : BitVec 8) (s : State) : Host.Outcome State Fault Refusal :=
  issue s fun h => do
    h.accepts tyScalar
    h.typed h.ty [d.toNat, a.toNat] []
    .ok (vecWrite s h d fun t => h.elem h.ty a.toNat t)

def execVbc (d : BitVec 8) (a : BitVec 6) (s : State) : Host.Outcome State Fault Refusal :=
  issue s fun h => do
    h.accepts tyScalar
    h.typed h.ty [d.toNat] []
    .ok (vecWrite s h d fun t => h.src h.ty (.k a) t)

def opAdd (_ : BitVec 5) (x y : Int) : Int := x + y
def opSub (_ : BitVec 5) (x y : Int) : Int := x - y
def opMul (_ : BitVec 5) (x y : Int) : Int := x * y
/-- ⌊A × B / 2^w⌋ (R300); `/` rounds down for a positive divisor. -/
def opMulh (t : BitVec 5) (x y : Int) : Int := x * y / 2 ^ tyWidth t
def opMin (_ : BitVec 5) (x y : Int) : Int := min x y
def opMax (_ : BitVec 5) (x y : Int) : Int := max x y
def opShl (x : Int) (n : Nat) : Int := x * 2 ^ (n % 64)
def opShr (x : Int) (n : Nat) : Int := x / 2 ^ (n % 64)

def execVadd (d a b : BitVec 8) (s : State) : Host.Outcome State Fault Refusal := vecInt s d a (.v b) opAdd
def execVaddUniform (d a : BitVec 8) (b : BitVec 6) (s : State) : Host.Outcome State Fault Refusal := vecInt s d a (.k b) opAdd
def execVsub (d a b : BitVec 8) (s : State) : Host.Outcome State Fault Refusal := vecInt s d a (.v b) opSub
def execVsubUniform (d a : BitVec 8) (b : BitVec 6) (s : State) : Host.Outcome State Fault Refusal := vecInt s d a (.k b) opSub
def execVmul (d a b : BitVec 8) (s : State) : Host.Outcome State Fault Refusal := vecInt s d a (.v b) opMul
def execVmulUniform (d a : BitVec 8) (b : BitVec 6) (s : State) : Host.Outcome State Fault Refusal := vecInt s d a (.k b) opMul
def execVmulh (d a b : BitVec 8) (s : State) : Host.Outcome State Fault Refusal := vecInt s d a (.v b) opMulh
def execVmulhUniform (d a : BitVec 8) (b : BitVec 6) (s : State) : Host.Outcome State Fault Refusal := vecInt s d a (.k b) opMulh
def execVmad (d a b : BitVec 8) (s : State) : Host.Outcome State Fault Refusal := vecMad s d a (.v b)
def execVmadUniform (d a : BitVec 8) (b : BitVec 6) (s : State) : Host.Outcome State Fault Refusal := vecMad s d a (.k b)
def execVand (d a b : BitVec 8) (s : State) : Host.Outcome State Fault Refusal := vecBits s d a (.v b) (· &&& ·)
def execVandUniform (d a : BitVec 8) (b : BitVec 6) (s : State) : Host.Outcome State Fault Refusal := vecBits s d a (.k b) (· &&& ·)
def execVor (d a b : BitVec 8) (s : State) : Host.Outcome State Fault Refusal := vecBits s d a (.v b) (· ||| ·)
def execVorUniform (d a : BitVec 8) (b : BitVec 6) (s : State) : Host.Outcome State Fault Refusal := vecBits s d a (.k b) (· ||| ·)
def execVxor (d a b : BitVec 8) (s : State) : Host.Outcome State Fault Refusal := vecBits s d a (.v b) (· ^^^ ·)
def execVxorUniform (d a : BitVec 8) (b : BitVec 6) (s : State) : Host.Outcome State Fault Refusal := vecBits s d a (.k b) (· ^^^ ·)

def execVnot (d a : BitVec 8) (s : State) : Host.Outcome State Fault Refusal :=
  issue s fun h => do
    h.accepts tyIsInt
    h.typed h.ty [d.toNat, a.toNat] []
    .ok (vecWrite s h d fun t => lowBits (tyWidth h.ty) (~~~(h.elem h.ty a.toNat t)))

def execVshl (d a b : BitVec 8) (s : State) : Host.Outcome State Fault Refusal := vecShift s d a (.v b) opShl
def execVshlUniform (d a : BitVec 8) (b : BitVec 6) (s : State) : Host.Outcome State Fault Refusal := vecShift s d a (.k b) opShl
def execVshr (d a b : BitVec 8) (s : State) : Host.Outcome State Fault Refusal := vecShift s d a (.v b) opShr
def execVshrUniform (d a : BitVec 8) (b : BitVec 6) (s : State) : Host.Outcome State Fault Refusal := vecShift s d a (.k b) opShr
def execVmin (d a b : BitVec 8) (s : State) : Host.Outcome State Fault Refusal := vecInt s d a (.v b) opMin
def execVminUniform (d a : BitVec 8) (b : BitVec 6) (s : State) : Host.Outcome State Fault Refusal := vecInt s d a (.k b) opMin
def execVmax (d a b : BitVec 8) (s : State) : Host.Outcome State Fault Refusal := vecInt s d a (.v b) opMax
def execVmaxUniform (d a : BitVec 8) (b : BitVec 6) (s : State) : Host.Outcome State Fault Refusal := vecInt s d a (.k b) opMax
def execVabs (d a : BitVec 8) (s : State) : Host.Outcome State Fault Refusal := vecUnary s d a fun _ _ x => x.natAbs
def execVneg (d a : BitVec 8) (s : State) : Host.Outcome State Fault Refusal := vecUnary s d a fun _ _ x => -x
def execVclz (d a : BitVec 8) (s : State) : Host.Outcome State Fault Refusal := vecUnary s d a fun w p _ => clzOf w p
def execVpop (d a : BitVec 8) (s : State) : Host.Outcome State Fault Refusal := vecUnary s d a fun w p _ => popOf w p
def execVcmp (c p : BitVec 3) (a b : BitVec 8) (s : State) : Host.Outcome State Fault Refusal := vecCmp s c p a (.v b)
def execVcmpUniform (c p : BitVec 3) (a : BitVec 8) (b : BitVec 6) (s : State) : Host.Outcome State Fault Refusal := vecCmp s c p a (.k b)
def execVsel (d a b : BitVec 8) (s : State) : Host.Outcome State Fault Refusal := vecSel s d a (.v b)
def execVselUniform (d a : BitVec 8) (b : BitVec 6) (s : State) : Host.Outcome State Fault Refusal := vecSel s d a (.k b)

def execPand (d a b : BitVec 3) (s : State) : Host.Outcome State Fault Refusal :=
  predOp s d fun h t => (h.pr a.toNat).getLsbD t && (h.pr b.toNat).getLsbD t
def execPor (d a b : BitVec 3) (s : State) : Host.Outcome State Fault Refusal :=
  predOp s d fun h t => (h.pr a.toNat).getLsbD t || (h.pr b.toNat).getLsbD t
def execPxor (d a b : BitVec 3) (s : State) : Host.Outcome State Fault Refusal :=
  predOp s d fun h t => (h.pr a.toNat).getLsbD t != (h.pr b.toNat).getLsbD t
def execPnot (d a : BitVec 3) (s : State) : Host.Outcome State Fault Refusal :=
  predOp s d fun h t => !(h.pr a.toNat).getLsbD t
def execPset (d : BitVec 3) (i : BitVec 1) (s : State) : Host.Outcome State Fault Refusal := predOp s d fun _ _ => i == 1
def execPsetK (d : BitVec 3) (a : BitVec 6) (s : State) : Host.Outcome State Fault Refusal :=
  predOp s d fun h t => (h.kr a.toNat).getLsbD t

end Sys2Proof.Machine
end

