-- ==== Sys2Proof/Machine/Float.lean ====
section
/-!
DEFINITION. Floating-point, conversion and block-format instructions (14 R306 to R316).
-/

namespace Sys2Proof.Machine

open Sys2Proof

/-- A source element as a floating-point value, flushed with FTZ (09 R203). -/
def Site.fval (h : Site) (n t : Nat) : FVal := loadF (fmtOf h.ty) h.fctl.ftz (h.elem h.ty n t).toNat
def Site.fsrc (h : Site) (b : Src) (t : Nat) : FVal := loadF (fmtOf h.ty) h.fctl.ftz (h.src h.ty b t).toNat

/-- A floating-point result as a pattern. -/
def Site.fput (h : Site) (x : FVal) : Word64 := BitVec.ofNat 64 (storeF (fmtOf h.ty) h.fctl x)

/-- An element-wise operation of two sources and the old destination (R306). -/
def vecF (s : State) (d a : BitVec 8) (b : Src) (op : Rounding → FVal → FVal → FVal → FVal) :
    Host.Outcome State Fault Refusal :=
  issue s fun h => do
    h.accepts tyIsFloat
    h.typed h.ty ([d.toNat, a.toNat] ++ b.regs) []
    .ok (vecWrite s h d fun t =>
      h.fput (op h.fctl.round (h.fval a.toNat t) (h.fsrc b t) (h.fval d.toNat t)))

/-- A one-source operation (R307, R308). -/
def vecF1 (s : State) (d a : BitVec 8) (op : FVal → FVal) : Host.Outcome State Fault Refusal :=
  issue s fun h => do
    h.accepts tyIsFloat
    h.typed h.ty [d.toNat, a.toNat] []
    .ok (vecWrite s h d fun t => h.fput (op (h.fval a.toNat t)))

/-- fcmp (R309). -/
def vecFCmp (s : State) (c p : BitVec 3) (a : BitVec 8) (b : Src) : Host.Outcome State Fault Refusal :=
  issue s fun h => do
    h.accepts tyIsFloat
    h.typed h.ty (a.toNat :: b.regs) []
    .ok ((s.writeP h p.toNat h.acting fun t => fcmpCond c.toNat (h.fval a.toNat t) (h.fsrc b t)).advance h)

def fAdd (r : Rounding) (a b _ : FVal) : FVal := addF r a b
def fSub (r : Rounding) (a b _ : FVal) : FVal := addF r a b.neg
def fMul (_ : Rounding) (a b _ : FVal) : FVal := mulF a b
def fFma (r : Rounding) (a b d : FVal) : FVal := addF r (mulF a b) d
def fMin (_ : Rounding) (a b _ : FVal) : FVal := minMaxF false a b
def fMax (_ : Rounding) (a b _ : FVal) : FVal := minMaxF true a b

def FVal.abs : FVal → FVal
  | .nan => .nan
  | .inf _ => .inf false
  | .fin _ m e => .fin false m e

def execFadd (d a b : BitVec 8) (s : State) : Host.Outcome State Fault Refusal := vecF s d a (.v b) fAdd
def execFaddUniform (d a : BitVec 8) (b : BitVec 6) (s : State) : Host.Outcome State Fault Refusal := vecF s d a (.k b) fAdd
def execFsub (d a b : BitVec 8) (s : State) : Host.Outcome State Fault Refusal := vecF s d a (.v b) fSub
def execFsubUniform (d a : BitVec 8) (b : BitVec 6) (s : State) : Host.Outcome State Fault Refusal := vecF s d a (.k b) fSub
def execFmul (d a b : BitVec 8) (s : State) : Host.Outcome State Fault Refusal := vecF s d a (.v b) fMul
def execFmulUniform (d a : BitVec 8) (b : BitVec 6) (s : State) : Host.Outcome State Fault Refusal := vecF s d a (.k b) fMul
def execFfma (d a b : BitVec 8) (s : State) : Host.Outcome State Fault Refusal := vecF s d a (.v b) fFma
def execFfmaUniform (d a : BitVec 8) (b : BitVec 6) (s : State) : Host.Outcome State Fault Refusal := vecF s d a (.k b) fFma
def execFmin (d a b : BitVec 8) (s : State) : Host.Outcome State Fault Refusal := vecF s d a (.v b) fMin
def execFminUniform (d a : BitVec 8) (b : BitVec 6) (s : State) : Host.Outcome State Fault Refusal := vecF s d a (.k b) fMin
def execFmax (d a b : BitVec 8) (s : State) : Host.Outcome State Fault Refusal := vecF s d a (.v b) fMax
def execFmaxUniform (d a : BitVec 8) (b : BitVec 6) (s : State) : Host.Outcome State Fault Refusal := vecF s d a (.k b) fMax
def execFabs (d a : BitVec 8) (s : State) : Host.Outcome State Fault Refusal := vecF1 s d a FVal.abs
def execFneg (d a : BitVec 8) (s : State) : Host.Outcome State Fault Refusal := vecF1 s d a FVal.neg
def execFrcp (d a : BitVec 8) (s : State) : Host.Outcome State Fault Refusal := vecF1 s d a (applyF .rcp)
def execFrsq (d a : BitVec 8) (s : State) : Host.Outcome State Fault Refusal := vecF1 s d a (applyF .rsq)
def execFsqrt (d a : BitVec 8) (s : State) : Host.Outcome State Fault Refusal := vecF1 s d a (applyF .sqrt)
def execFexp (d a : BitVec 8) (s : State) : Host.Outcome State Fault Refusal := vecF1 s d a (applyF .exp)
def execFlog (d a : BitVec 8) (s : State) : Host.Outcome State Fault Refusal := vecF1 s d a (applyF .log)
def execFsin (d a : BitVec 8) (s : State) : Host.Outcome State Fault Refusal := vecF1 s d a (applyF .sin)
def execFcos (d a : BitVec 8) (s : State) : Host.Outcome State Fault Refusal := vecF1 s d a (applyF .cos)
def execFtanh (d a : BitVec 8) (s : State) : Host.Outcome State Fault Refusal := vecF1 s d a (applyF .tanh)
def execFcmp (c p : BitVec 3) (a b : BitVec 8) (s : State) : Host.Outcome State Fault Refusal := vecFCmp s c p a (.v b)
def execFcmpUniform (c p : BitVec 3) (a : BitVec 8) (b : BitVec 6) (s : State) : Host.Outcome State Fault Refusal := vecFCmp s c p a (.k b)

/-- fcls (R310): the class index fills the whole 32-bit element. -/
def execFcls (d a : BitVec 8) (s : State) : Host.Outcome State Fault Refusal :=
  issue s fun h => do
    h.accepts tyIsFloat
    h.allotted [d.toNat, a.toNat]
    .ok ((s.writeV h d.toNat h.acting fun t => BitVec.ofNat 32 (classOf (fmtOf h.ty) (h.fval a.toNat t))).advance h)

/-- cvt (R312): each side is a pair when its own type is 64 bits wide. -/
def execCvt (d a : BitVec 8) (src : BitVec 5) (s : State) : Host.Outcome State Fault Refusal :=
  issue s fun h => do
    need (tyScalar src) .encIllegal 0 h.mask
    h.accepts tyScalar
    evenAll ((if tyWide h.ty then [d.toNat] else []) ++ (if tyWide src then [a.toNat] else []))
    h.allotted [d.toNat, a.toNat]
    .ok (vecWrite s h d fun t => convert src h.ty h.fctl (h.elem src a.toNat t))

/-! ### Block floating point (R314, R315) -/

/-- m and BL of the split's mode. -/
def Site.bfpM (h : Site) : Nat := h.ty.toNat - 0x10
def Site.bfpLen (h : Site) : Nat := 8 * 2 ^ (modeBlen h.sp.mode).toNat

/-- The exponent of thread t's block: of its first thread, whatever that thread's state (R314). -/
def Site.blockExp (h : Site) (b t : Nat) : Nat := (h.vr b (t - t % h.bfpLen)).toNat % 256

def execBpak (d a b : BitVec 8) (s : State) : Host.Outcome State Fault Refusal :=
  issue s fun h => do
    h.accepts tyIsBfp
    h.allotted [d.toNat, a.toNat, b.toNat]
    .ok ((s.writeV h d.toNat h.acting fun t =>
      let ex := h.blockExp b.toNat t
      if ex = 0xFF then 0
      else BitVec.ofInt 32 (bfpMant h.fctl.round h.bfpM ex (decodeF fmtF32 (h.vr a.toNat t).toNat))).advance h)

/-- bunp. Of q = -2^(m-1) with E = 0xFE, whose value -2^128 no f32 holds, R315 calls the conversion exact: the model rounds it to nearest, to
-infinity, whatever MODE.round and MODE.saturate say (DESIGN CHOICE, log 67). -/
def execBunp (d a b : BitVec 8) (s : State) : Host.Outcome State Fault Refusal :=
  issue s fun h => do
    h.accepts tyIsBfp
    h.allotted [d.toNat, a.toNat, b.toNat]
    .ok ((s.writeV h d.toNat h.acting fun t =>
      let q := (h.vr a.toNat t).toNat % 2 ^ h.bfpM
      let q' : Int := if 2 ^ (h.bfpM - 1) ≤ q then (q : Int) - 2 ^ h.bfpM else q
      let c : FCtl := { FCtl.plain with ftz := h.fctl.ftz }
      BitVec.ofNat 32 (storeF fmtF32 c (bfpVal h.bfpM (h.blockExp b.toNat t) q'))).advance h)

/-- The exponent of a magnitude with a bias (R315). -/
def bsclExp (x : FVal) (bias : Int) : Nat :=
  match x with
  | .fin _ m e => if m = 0 then 0 else (clampInt 0 254 (floorLog2 m e + 127 + bias)).toNat
  | _ => 0xFF

def vecBscl (s : State) (d a : BitVec 8) (b : Src) : Host.Outcome State Fault Refusal :=
  issue s fun h => do
    h.accepts tyIsBfp
    h.allotted ([d.toNat, a.toNat] ++ b.regs)
    .ok ((s.writeV h d.toNat h.acting fun t =>
      BitVec.ofNat 32 (bsclExp (decodeF fmtF32 (h.vr a.toNat t).toNat) ((h.srcPlain b t).setWidth 32).toInt)).advance h)

def execBscl (d a b : BitVec 8) (s : State) : Host.Outcome State Fault Refusal := vecBscl s d a (.v b)
def execBsclUniform (d a : BitVec 8) (b : BitVec 6) (s : State) : Host.Outcome State Fault Refusal := vecBscl s d a (.k b)

end Sys2Proof.Machine
end

