-- ==== Sys2Proof/Machine/Frames.lean ====
section
/-!
DEFINITION. Frame and continuation instructions (16 R372 to R376), and the events FRAME_LIVE_DECREMENT and
JOIN_RECORD_ENQUEUE (11 R237, R238).
-/

namespace Sys2Proof.Machine

open Sys2Proof

def frameBound {α : Type} (h : Site) : Except Stop α := .error (.cause .frameBound 0 h.mask)

/-- Every form needs KFLAGS.FRAMES (R372). -/
def needFrames (h : Site) : Except Stop Unit := need h.l.isFrames .frameBound 0 h.mask

/-! ### fnew (R373) -/

/-- Fields of K[a]. -/
structure FrameSpec where
  size : Nat
  retire : Word32
  pdepth : Nat
  depth : Nat
  deriving DecidableEq, Repr

def FrameSpec.of (x : Word64) : FrameSpec :=
  { size := (x.extractLsb' 0 16).toNat, retire := x.extractLsb' 16 32, pdepth := (x.extractLsb' 48 2).toNat,
    depth := (x.extractLsb' 50 2).toNat }

/-- The parent of thread `t`'s frame, checked; `n` counts the frames of the instruction with the same parent. -/
def newParent (s : State) (h : Site) (f : FrameSpec) (ts : List Nat) (t : Nat) : Except Stop Unit :=
  let p := View h t f.pdepth
  let n := (ts.filter fun u => View h u f.pdepth == p).length
  if f.size = 0 || f.size % 8 ≠ 0 || 2048 < f.size || f.depth = 0 then frameBound h
  else if f.retire != noRetire && decide (h.l.kd.dispatchN ≤ f.retire.toNat) then .error (.cause .tableBound 0 h.mask)
  else match s.frame? h.ctx p with
    | none => frameBound h
    | some x => if maxLive < x.liveN + n then frameBound h else .ok ()
where
  maxLive : Nat := 2 ^ 32 - 1

/-- CREATOR of a frame (11 R230). -/
def Site.creator (h : Site) (t : Nat) : Word64 := BitVec.ofNat 64 (t + 256 * h.entry + 65536 * h.core)

/-- Creates the frames in ascending thread order; none if the die's heap cannot hold them all. -/
def newFrames (h : Site) (f : FrameSpec) : List Nat → State → Option (State × List (Nat × Word64))
  | [], s => some (s, [])
  | t :: r, s =>
    match s.newFrame h.ctx h.die f.size f.depth f.retire (View h t f.pdepth) (h.creator t) false h.lid with
    | none => none
    | some (s1, hd) => (newFrames h f r s1).map fun x => (x.1, (t, hd) :: x.2)

/-- The frames of the threads, created, or the fault. -/
def createAll (s : State) (h : Site) (f : FrameSpec) (ts : List Nat) : Except Stop (State × List (Nat × Word64)) :=
  match checkAll (newParent s h f ts) ts with
  | .error e => .error e
  | .ok _ => match newFrames h f ts s with
    | none => frameBound h
    | some x => .ok x

/-- Writes the view word of a thread of a gathered group (11 R232). -/
def Team.setView (depth : Nat) (t : Team) (x : Nat × Word64) : Team :=
  { t with scratch := writeLe t.scratch (64 * x.1 + 8 + 8 * (depth - 1)) 8 x.2.toNat }

def execFnew (d : BitVec 8) (a : BitVec 6) (s : State) : Host.Outcome State Fault Refusal :=
  issue s fun h => do
    evenAll [d.toNat]
    h.allotted [d.toNat]
    needFrames h
    h.room
    rootDone s h
    let f := FrameSpec.of (h.kr a.toNat)
    let (s1, hs) ← createAll s h f h.active
    let view := decide (2 ≤ f.depth) && h.team.formed && (readCell h.g.d f.depth : Word64) == 0
    let s2 := if view then s1.modTeam h.tid fun t => hs.foldl (Team.setView f.depth) t else s1
    let rs : List (Dest × Word64) := hs.flatMap fun (t, x) => [(.v d.toNat t, x), (.v (d.toNat + 1) t, x >>> 32)]
    .ok ((s2.late h rs).advance h)

def execFnewU (d a : BitVec 6) (s : State) : Host.Outcome State Fault Refusal :=
  issue s fun h => do
    needFrames h
    h.room
    rootDone s h
    let f := FrameSpec.of (h.kr a.toNat)
    let (s1, hs) ← createAll s h f [lowestThread h.mask]
    let x : Word64 := ((hs.head?).map (·.2)).getD 0
    let s2 := s1.modGroup h fun g => { g with d := writeCell g.d f.depth x }
    .ok ((s2.late h [(.k d.toNat, x)]).advance h)

/-! ### fret, disp (R374, R375) -/

/-- The frames that threads view at a depth, each once. -/
def viewed (s : State) (h : Site) (k : Nat) : List Nat → Except Stop (List Frame)
  | [] => .ok []
  | t :: r => match s.frame? h.ctx (View h t k) with
    | none => frameBound h
    | some f => match viewed s h k r with
      | .error e => .error e
      | .ok fs => .ok (if fs.any fun x => x.handle == f.handle then fs else f :: fs)

/-- Finishes the bodies; a fret that names the launch frame does nothing (11 R231). -/
def retFrames (s : State) (ts : Site → List Nat) (k : BitVec 2) : Host.Outcome State Fault Refusal :=
  issue s fun h => do
    needFrames h
    let fs ← viewed s h k.toNat (ts h)
    atomsDone s h
    .ok (((s.finishBodies (fs.filter fun f => !f.isLaunch)).advance h).endTurnFrames h)

def execFret (k : BitVec 2) (s : State) : Host.Outcome State Fault Refusal := retFrames s Site.active k
def execFretU (k : BitVec 2) (s : State) : Host.Outcome State Fault Refusal :=
  retFrames s (fun h => [lowestThread h.mask]) k

def execDisp (k : BitVec 2) (a : BitVec 6) (s : State) : Host.Outcome State Fault Refusal :=
  issue s fun h => do
    need (k != 0) .encIllegal 0 h.mask
    needFrames h
    let x := h.kr a.toNat
    need (x == 0 || (s.frame? h.ctx x).isSome) .frameBound 0 h.mask
    .ok ((s.modGroup h fun g => { g with d := writeCell g.d k.toNat x }).advance h)

/-! ### cont (R376) -/

/-- A record as cont forms it: FLAGS[31:2] clear, and an all-ones handle replaced by the view of thread `t`. -/
def fixRecord (h : Site) (t : Nat) (bs : List Byte) : List Byte :=
  let handle (k : Nat) : Nat :=
    let x := field bs (8 * k) 8
    if x = 2 ^ 64 - 1 then (View h t k).toNat else x
  bs.take 4 ++ natBytes 4 (field bs 4 4 % 4) ++ natBytes 8 (handle 1) ++ natBytes 8 (handle 2) ++
  natBytes 8 (handle 3) ++ bs.drop 32

/-- Handle of the frame a record is charged to (11 R235). -/
def chargedTo (l : Launch) (rec : List Byte) : Word64 :=
  let c := field rec 4 4 % 4
  if c = 0 then l.frame else BitVec.ofNat 64 (field rec (8 * c) 8)

/-- The checks of one record; `all` are the records of the instruction. Each comes with whether the frame that it is charged to is known. -/
def checkRecord (s : State) (h : Site) (all : List (List Byte × Bool)) (x : List Byte × Bool) : Except Stop Unit :=
  let rec' := x.1
  let fine (k : Nat) : Bool := let x := field rec' (8 * k) 8; x == 0 || (s.frame? h.ctx (BitVec.ofNat 64 x)).isSome
  let c := chargedTo h.l rec'
  let n := (all.filter fun r => r.2 && chargedTo h.l r.1 == c).length
  if h.l.kd.dispatchN ≤ field rec' 0 4 then .error (.cause .tableBound 0 h.mask)
  else if !((List.range 3).all fun k => fine (k + 1)) then frameBound h
  else if !x.2 then .ok ()
  else match s.frame? h.ctx c with
    | none => frameBound h
    | some f => if 2 ^ 32 - 1 < f.liveN + n then frameBound h else .ok ()

/-- The checks of the records of an instruction. -/
def checkRecords (s : State) (h : Site) (recs : List (List Byte × Bool)) : Except Stop Unit := checkAll (checkRecord s h recs) recs

/-- LIVE + 1 of the charged frame, and the record enters the pool of the core's die. -/
def State.emit (s : State) (h : Site) (rec : List Byte) : State :=
  let s := match s.frame? h.ctx (chargedTo h.l rec) with
    | some f => s.setFrame { f with liveN := f.liveN + 1 }
    | none => s
  s.pool h.die h.lid rec (some h.core)

/-- cont and cont.u: a release at device scope (11 R236). All records or none. -/
def emitAll (s : State) (h : Site) (recs : List (List Byte)) : Except Stop State :=
  match checkRecords s h (recs.map (·, true)) with
  | .error e => .error e
  | .ok _ =>
    if poolSize < (s.die h.die).poolCount + recs.length then .error (.cause .contFull 0 h.mask)
    else match atomsDone s h with
      | .error e => .error e
      | .ok _ => .ok (((forAll (fun s r => s.emit h r) s recs).advance h).endTurnFrames h)

/-- The record of thread `t` with these 16 words. -/
def recordOf (h : Site) (t : Nat) (word : Nat → Word32) : List Byte :=
  fixRecord h t ((List.range 16).flatMap fun i => natBytes 4 (word i).toNat)

/-- Word `i` of a record in V[a] to V[a+15] of a thread, and of one in K[a] to K[a+7]. -/
def Site.vWord (h : Site) (a t i : Nat) : Word32 := h.vr (a + i) t
def Site.kWord (h : Site) (a i : Nat) : Word32 := (h.kr (a + i / 2)).extractLsb' (32 * (i % 2)) 32

/-- What is known of the words of a record of which some are undefined: 0 for an index or a handle that is lost. No check of these fails
because of an undefined word (00 R6). -/
def knownWord (lost : Nat → Bool) (word : Nat → Word32) (i : Nat) : Word32 :=
  if lost i || (decide (1 < i) && lost (i / 2 * 2 + (i + 1) % 2)) then 0 else word i

/-- The frame that such a record is charged to is known. -/
def chargeKnown (lost : Nat → Bool) (word : Nat → Word32) : Bool :=
  let charge := (word 1).toNat % 4
  !lost 1 && (charge == 0 || !(lost (2 * charge) || lost (2 * charge + 1)))

/-- What is known of the record of thread `t` with these words. -/
def knownRecord (h : Site) (t : Nat) (lost : Nat → Bool) (word : Nat → Word32) : List Byte × Bool :=
  (recordOf h t (knownWord lost word), chargeKnown lost word)

def execCont (a : BitVec 8) (s : State) : Host.Outcome State Fault Refusal :=
  issueWhole s fun h => do
    need (a.toNat % 16 == 0) .encIllegal 0 h.mask
    h.allotted [a.toNat + 15]
    needFrames h
    checkRecords s h (h.active.map fun t => knownRecord h t (fun i => h.lostV (a.toNat + i) t) (h.vWord a.toNat t))
    h.perform s fun h => emitAll s h (h.active.map fun t => recordOf h t (h.vWord a.toNat t))

def execContU (a : BitVec 6) (s : State) : Host.Outcome State Fault Refusal :=
  issueWhole s fun h => do
    need (a.toNat % 8 == 0) .encIllegal 0 h.mask
    needFrames h
    let t := lowestThread h.mask
    checkRecords s h [knownRecord h t (fun i => h.undefK (a.toNat + i / 2)) (h.kWord a.toNat)]
    h.perform s fun h => emitAll s h [recordOf h t (h.kWord a.toNat)]

/-! ### Events -/

/-- FRAME_LIVE_DECREMENT (R237). -/
def execFrameLiveDecrement (i : Nat) (s : State) : Host.Outcome State Fault Refusal := .next (s.takeDec i)

/-- JOIN_RECORD_ENQUEUE (R238). -/
def execJoinRecordEnqueue (die : Nat) (s : State) : Host.Outcome State Fault Refusal := .next (s.takeJoin die)

end Sys2Proof.Machine
end

