-- ==== Sys2Proof/Machine/Links.lean ====
section
/-!
DEFINITION. The package (01 R8 to R30), function-level reset (03 R61, R62), row-hammer attribution (03 R71), and the front
ends' lock-step pairs (02 R48).
-/

namespace Sys2Proof.Machine

open Sys2Proof

/-! ### Start-up (R24, R25) -/

/-- Numbers of the images of the start-up sequence (R24), step by step: the Wielo controller's own; the configuration; and the stack
management, command front end, trap core and finaliser firmware. -/
def bootSteps : List (List Nat) := [[0], [1], [2, 3, 4, 5]]

/-- An image verifies, and its security version is not below the fused minimum (R25). -/
def State.imageOk (s : State) (ok : BitVec 6) (image : Nat) : Bool :=
  ok.getLsbD image && decide ((tget s.plant.fuseMin image).getD 0 ≤ (tget s.plant.versions image).getD 0)

/-- Images that fail in the first step of the sequence in which one does. -/
def State.failedImages (s : State) (ok : BitVec 6) : List Nat :=
  ((bootSteps.map fun l => l.filter fun i => !s.imageOk ok i).find? fun l => !l.isEmpty).getD []

/-- Granules retired against each stack so far (R14, R30). -/
def retiredOn (l : List (Nat × Nat × Nat)) (stack : Nat) : Nat := (l.filter fun x => x.2.1 == stack).length

/-- The state after a cold reset: what flash, fuses, the configuration image and the outside world hold stays. -/
def State.cold (s : State) : State :=
  let p := s.plant
  let hbm := (List.range 8).filterMap fun i =>
    let n := retiredOn p.retireList i
    if n = 0 then none else some (i, { Stack.reset with retired := n })
  { State.reset with
    sched := s.sched, freeCtr := s.freeCtr + 1, cur := s.cur, hostMem := s.hostMem, peers := s.peers, hbm := hbm,
    plant := { Plant.reset with
      dualHost := p.dualHost, vf0 := p.vf0, ownerLink := p.ownerLink, powerLimit := p.imageLimit, imageLimit := p.imageLimit,
      watchdogNs := p.watchdogNs, versions := p.versions, fuseMin := p.fuseMin, retireList := p.retireList } }

/-- Recovery mode (R25): no function is bound, no work runs, and the recovery status names what failed. The stacks have not been
trained, which is the step after the images (R24). -/
def State.recover (s : State) (images : List Nat) : State :=
  { s with
    plant := { s.plant with recovery := true, recoveryStatus := images },
    hbm := (List.range 8).map fun i => (i, { s.stack i with training := true }),
    funcs := (List.range 17).map fun f => (f, { Func.reset with part := none }) }

/-- COLD_RESET (R24): each step starts only when the step before it has succeeded. `restOk` says which of images 2 to 5 verify. -/
def execColdReset (wieloOk configOk : Bool) (restOk : BitVec 4) (s : State) : Host.Outcome State Fault Refusal :=
  let ok : BitVec 6 := restOk ++ BitVec.ofBool configOk ++ BitVec.ofBool wieloOk
  let c := s.cold
  let failed := s.failedImages ok
  .next (if failed.isEmpty then c else c.recover failed)

/-- RECOVERY_IMAGE (R25): in recovery mode a verified image whose version is not below the fused minimum is accepted. -/
def execRecoveryImage (image version : Nat) (ok : Bool) (s : State) : Host.Outcome State Fault Refusal :=
  let p := s.plant
  if !p.recovery || !ok || decide (version < (tget p.fuseMin image).getD 0) then .next s
  else .next { s with plant := { p with
    versions := tset p.versions image version, recoveryStatus := p.recoveryStatus.filter (· != image) } }

/-- SPDM_REQUEST (R26): versions 1.2 and 1.3 are answered, over MCTP. -/
def execSpdmRequest (version request : Nat) (s : State) : Host.Outcome State Fault Refusal :=
  if version ≠ 0x12 && version ≠ 0x13 then .next s
  else
    let answer := natBytes 1 version ++ natBytes 1 request ++ (List.range 62).map (Config.spdmByte version request)
    .next { s with plant := { s.plant with mctpOut := s.plant.mctpOut ++ [answer] } }

/-! ### Function-level reset (03 R61, R62) -/

/-- Discards every context of a function, as a fatal fault would, with no record. -/
def State.discardContexts (s : State) (f : Nat) : State :=
  forAll State.endContext s ((s.ctxs.filter fun x => x.2.live && ctxFn x.1 == f).map (·.1))

/-- A queue enters DISABLED with nothing cached; a handover is cancelled (04 R82). -/
def State.clearQueue (s : State) (f qi : Nat) : State :=
  let s := s.cancelHandover f qi
  let x := s.queue f qi
  if x.state == .disabled then s
  else
    let y := { Queue.reset with mirrorHead := x.mirrorHead, mirrorStatus := x.mirrorStatus }
    (s.setQueue f qi y).setQState f qi .disabled 0

/-- QPRESULT once every queue is DISABLED: RESULT no longer reads 1 (02 R37). -/
def doneResult (w : Word64) : Word64 := if w.extractLsb' 0 8 = 1 then w &&& ~~~(0xFF#64) else w

/-- Contexts and queues of a function go; its partition and Sterling records stay. -/
def State.wipeFunction (s : State) (f : Nat) : State :=
  let s := s.discardContexts f
  let s := forAll (fun s key => s.clearQueue f (key % 1024)) s ((s.queues.filter fun x => x.1 / 1024 == f).map (·.1))
  s.setFunc f { s.func f with cmds := [], qpresult := doneResult (s.func f).qpresult }

/-- FUNCTION_LEVEL_RESET: one KIND 4 record to the physical-function event queue. -/
def execFunctionLevelReset (fn : Nat) (s : State) : Host.Outcome State Fault Refusal :=
  if 17 ≤ fn then .next s else .next ((s.wipeFunction fn).pfeqPost { kind := 4, cause := 0, fn := fn })

/-- Functions that a link carries (R18): in dual-host mode the virtual functions that the image assigns to it. -/
def Plant.functionsOn (p : Plant) (link : Nat) : List Nat :=
  if !p.dualHost then if link = 0 then List.range 17 else []
  else
    let vfs := ((List.range 17).drop 1).filter fun f => p.vf0.contains f == (link == 0)
    if p.ownerLink = link then 0 :: vfs else vfs

/-- HOT_RESET (R17): the functions on the link are reset (notes/assumptions 15). -/
def execHotReset (link : Nat) (s : State) : Host.Outcome State Fault Refusal :=
  let one (s : State) (f : Nat) : State := (s.wipeFunction f).pfeqPost { kind := 4, cause := 0, fn := f }
  .next (forAll one s (s.plant.functionsOn link))

/-- Functions whose contexts the loss of a link discards (R19). -/
def Plant.lostWith (p : Plant) (link : Nat) : List Nat :=
  if !p.dualHost then if link = 0 then List.range 17 else [] else (p.functionsOn link).filter (· != 0)

/-- A link goes down (R19), with its event. -/
def State.loseLink (s : State) (link : Nat) : State :=
  if !atD s.plant.linkUp link false then s
  else
    let lost := s.plant.lostWith link
    let had := lost.filter fun f => s.ctxs.any fun x => x.2.live && ctxFn x.1 == f
    let s := { s with plant := { s.plant with linkUp := setAt s.plant.linkUp link false } }
    let s := forAll State.wipeFunction s lost
    s.event 0x44 (natBytes 1 link ++ natBytes 1 (if s.plant.dualHost then 1 else 0) ++ natBytes 2 0 ++
      natBytes 4 (had.foldl (fun n f => n + 2 ^ f) 0))

/-- LINK_DOWN (R19). -/
def execLinkDown (link : Nat) (s : State) : Host.Outcome State Fault Refusal := .next (s.loseLink link)

/-! ### The Solder fabric (R8 to R10) -/

/-- Dies that stay in use: of those that are not isolated yet, the largest joined group, or of two pairs the one with die 0 (R10).
Of groups of equal size the one with the lowest die stays, which R10 does not say of single dies (notes/assumptions 55). -/
def State.keptDies (s : State) : List Nat :=
  let up := s.plant.boundUp
  let inUse := (List.range 4).filter fun d => !(s.die d).isolated
  match leastBy (fun d => (4 - (joined up d).length) * 4 + d) inUse with
  | some d => joined up d
  | none => []

/-- Some leaf of a context's tree lies on a die. Only table entries that memory lists can be valid. -/
def State.mapsDie (s : State) (die : Nat) : List (Nat × Nat × Nat) → Nat → Bool
  | [], _ => false
  | (_, sh, bits) :: rest, tab =>
    let eas := ((s.mem.filter fun x => decide (tab ≤ x.1) && decide (x.1 < tab + 8 * 2 ^ bits)).map fun x => x.1 / 8 * 8).eraseDups
    eas.any fun ea =>
      let e : Word64 := BitVec.ofNat 64 (readLe s.mem ea 8)
      if !e.getLsbD 0 then false
      else if e.getLsbD 1 then
        let base := (e.extractLsb' 16 36).toNat * 65536
        decide (sh ≤ 30) && !e.getLsbD 53 && e.extractLsb' 56 8 == 0 && decide (base < hbmEnd) && base / 0x2800000000 == die
      else s.mapsDie die rest ((e.extractLsb' 8 44).toNat * 256)

/-- A launch of the context is numbered `i`. -/
def State.isLaunchOf (s : State) (ctx i : Nat) : Bool := (tget s.launches i).any fun l => l.ctx == ctx

/-- A context has work resident on a die, or pages in its stacks: teams, gathered records, formed groups, join records, frames, and
copies on the die's engines. -/
def State.onDie (s : State) (ctx die : Nat) : Bool :=
  let d := s.die die
  (s.teams.any fun (_, t) => t.resident && dieOf t.core == die && s.teamCtx t == ctx) ||
  (d.bins.any fun b => s.isLaunchOf ctx b.launch) || (d.formed.any fun f => s.isLaunchOf ctx f.launch) ||
  (d.joins.any fun j => s.isLaunchOf ctx j.1) || (s.frames.any fun f => f.ctx == ctx && f.die == die && f.fstate != 0) ||
  (s.copies.any fun x => x.2.ctx == ctx && x.2.engine / 8 == die) ||
  (match s.ctx? ctx with | some c => s.mapsDie die walkLevels c.root.toNat | none => false)

/-- Queues that are not DISABLED and whose home accepts queues no more get another home (04 R76, notes/assumptions 55). -/
def State.rehome (s : State) : State :=
  { s with queues := tmap s.queues fun key x =>
      if x.state != .disabled && !s.accepts x.home then { x with home := s.homeDie (key / 1024) (key % 1024) } else x }

/-- A die is isolated (R10): contexts on it fault MEM_UNCORR, its stacks and host link leave use. Teams not yet dispatched that were
its share of a step go to the other dies of the step. -/
def State.isolate (s : State) (die : Nat) : State :=
  let hit := (s.ctxs.filter fun x => x.2.live && s.onDie x.1 die).map (·.1)
  let s := forAll (fun s c => s.contextLost c { kind := 1, cause := Cause.memUncorr.code, die := die, fn := ctxFn c }) s hit
  let s := (State.moveAllShares (s.setDie die { s.die die with isolated := true })).rehome
  let out (s : State) (i : Nat) : State := s.setStack i { s.stack i with outOfUse := true }
  let s := (out (out s (2 * die)) (2 * die + 1)).event 0x46 (natBytes 8 die ++ natBytes 8 s.refTime)
  if die = 0 then s.loseLink 0 else if die = 2 then s.loseLink 1 else s

/-- SOLDER_CRC_RETRY (R10): a retry of a flit succeeds, or fails; the 64th failure in a row takes the boundary down. -/
def execSolderCrcRetry (boundary : Nat) (ok : Bool) (s : State) : Host.Outcome State Fault Refusal :=
  let p := s.plant
  let n := atD p.retries boundary 0 + 1
  if 4 ≤ boundary || !atD p.boundUp boundary false then .next s
  else if ok then .next { s with plant := { p with retries := setAt p.retries boundary 0 } }
  else if n < 64 then .next { s with plant := { p with retries := setAt p.retries boundary n } }
  else
    let (a, b) := boundDies boundary
    let s := { s with plant := { p with retries := setAt p.retries boundary 0, boundUp := setAt p.boundUp boundary false } }
    let s := s.event 0x42 (natBytes 1 a ++ natBytes 1 b ++ natBytes 6 0 ++ natBytes 8 s.refTime)
    let keep := s.keptDies
    .next (forAll State.isolate s ((List.range 4).filter fun d => !keep.contains d && !(s.die d).isolated))

/-! ### Peers (R20 to R23) -/

/-- PORT_DOWN (R23). -/
def execPortDown (port : Nat) (s : State) : Host.Outcome State Fault Refusal :=
  if !atD s.plant.portUp port false then .next s
  else
    let s := { s with plant := { s.plant with portUp := setAt s.plant.portUp port false } }
    let up := match s.peers.find? fun x => x.2.ports.contains port with
      | some (_, p) => (p.ports.filter fun x => atD s.plant.portUp x false).length
      | none => 0
    .next (s.event 0x45 (natBytes 1 port ++ natBytes 1 up ++ natBytes 6 0 ++ natBytes 8 s.refTime))

/-- Bytes from `a` on, cut where 256-byte flits end (R22). -/
def flits : Nat → Nat → Nat → List (Nat × Nat)
  | 0, _, _ => []
  | _ + 1, _, 0 => []
  | k + 1, a, n =>
    let c := min n (256 - a % 256)
    (a, c) :: flits k ((a + c) % 2 ^ 64) (n - c)

/-- Access of an incoming peer write to bytes of a pinned page of a context (R21). The leaf must allow writes as well, which R21
does not say; without that the write is dropped (notes/assumptions 56). Which port brings a flit is not said. -/
def State.pinnedAcc (s : State) (ctx va n : Nat) : Option Acc :=
  match s.resolve ctx (Config.flitPort (va / 256) % 16 / 4) false va n .write with
  | .ok a => if a.leaf.any fun x => x.2.1.getLsbD 54 then some a else none
  | .error _ => none

/-- What the walk of one part of a refused peer write counts (R12, R30). -/
def State.countPeerPart (ctx : Nat) (s : State) (x : Nat × Nat) : State :=
  match s.resolve ctx 0 false x.1 x.2 .write with
  | .ok a => s.countWalk a
  | .error c => s.countFailed ctx x.1 0 c

/-- A refused peer write has walked to its parts up to the first that is refused. -/
def State.countPeerBad (s : State) (ctx : Nat) (parts : List (Nat × Nat)) : State :=
  let fine := parts.takeWhile fun x => (s.pinnedAcc ctx x.1 x.2).isSome
  forAll (State.countPeerPart ctx) s (parts.take (fine.length + 1))

/-- The update of a signal word that a peer asks for (R22). A word that cannot be read stays, and no context of this device has issued
the read (R12; notes/assumptions 56). -/
def State.peerSignal (s : State) (a : Acc) : State :=
  let s := s.addCount (s.partOf a.ctx) 3 8
  let s := s.countWeak a
  match a.locs.find? s.locBad with
  | some (.hbm x) => s.countBad x
  | _ => s.poke a (natBytes 8 (s.loadNum a + 1).toNat)

/-- PEER_WRITE_IN (R21, R22): the pin of every page is checked before any byte is written; the signal word follows the data. A
signal address that is not 8-byte aligned signals nothing, which R22 does not say (notes/assumptions 56). The bytes count in the
context's partition as Myandua bytes (03 R75). -/
def execPeerWriteIn (ctx : Nat) (va : Word64) (data : List Byte) (sig : Word64) (s : State) :
    Host.Outcome State Fault Refusal :=
  let parts := flits (data.length + 1) va.toNat data.length
  let all := parts ++ if sig = 0 then [] else [(sig.toNat, 8)]
  let word := if sig = 0 then some none else (s.pinnedAcc ctx sig.toNat 8).map some
  if all.any fun x => (s.walkStall ctx x.1).isSome then .next (s.meetsCopy true)
  else match allSome (parts.map fun (a, n) => s.pinnedAcc ctx a n), word with
  | some accs, some w =>
    let put (x : State × List Byte) (a : Acc) : State × List Byte :=
      ((x.1.addCount (x.1.partOf ctx) 3 a.locs.length).poke a (x.2.take a.locs.length), x.2.drop a.locs.length)
    let s := (accs.foldl put (s.meetsCopy ((accs ++ w.toList).any s.accWaits), data)).1
    match w with
    | some a => if sig.toNat % 8 = 0 then .next (s.peerSignal a) else .next s
    | none => .next s
  | _, _ => .next (s.countPeerBad ctx all)

/-! ### Memory stacks (R12 to R16; 03 R71) -/

/-- PATROL_SCRUB (R12): every correctable error is corrected and counted. -/
def execPatrolScrub (stack : Nat) (s : State) : Host.Outcome State Fault Refusal :=
  let k := s.stack stack
  if 8 ≤ stack || k.outOfUse then .next s
  else .next (s.setStack stack { k with corrected := k.corrected + k.weak.length, weak := [], lastScrub := s.refTime })

/-- The STACK_REPAIR event. -/
def State.repairEvent (s : State) (stack used bank row granule : Nat) : State :=
  s.event 0x49 (natBytes 1 stack ++ natBytes 1 used ++ natBytes 2 bank ++ natBytes 4 row ++ natBytes 8 granule)

/-- Retires a granule (R14). -/
def State.retireGranule (s : State) (stack bank granule : Nat) : State :=
  let k := s.stack stack
  let s := s.setStack stack { k with retired := k.retired + 1 }
  let s := { s with plant := { s.plant with retireList := s.plant.retireList ++ [(granule, stack, bank)] } }
  s.event 0x43 (natBytes 2 stack ++ natBytes 2 bank ++ natBytes 4 (s.stack stack).retired ++ natBytes 8 granule)

/-- ROW_REPAIR (R13): a spare row, a remap entry, a spare granule, or else retirement. `granule` is a device physical address in the
granule that holds the row. A stack carries out one copy at a time. -/
def execRowRepair (stack bank row granule : Nat) (s : State) : Host.Outcome State Fault Refusal :=
  let k := s.stack stack
  let o := s.stack (otherStack stack)
  let g := granuleOf granule
  let (rows, maps, grans) := (tget k.bankUse bank).getD (0, 0, 0)
  if 8 ≤ stack || k.outOfUse || k.copying.isSome || hbmEnd ≤ granule || g / 0x2800000000 ≠ stack / 2 || s.granuleRetired g then .next s
  else if rows < Config.spareRows then
    let k := { k with
      copying := some (.row bank row), spareUsed := k.spareUsed + 1, bankUse := tset k.bankUse bank (rows + 1, maps, grans) }
    .next ((s.setStack stack k).repairEvent stack 1 bank row g)
  else if maps < Config.remapEntries then
    let k := { k with
      copying := some (.row bank row), remapUsed := k.remapUsed + 1, bankUse := tset k.bankUse bank (rows, maps + 1, grans) }
    .next ((s.setStack stack k).repairEvent stack 2 bank row g)
  else if grans < Config.spareGranules then
    if o.copying.isSome then .next s
    else
      let k := { k with
        copying := some (.granule g), granUsed := k.granUsed + 1, bankUse := tset k.bankUse bank (rows, maps, grans + 1) }
      let s := (s.setStack stack k).setStack (otherStack stack) { o with copying := some (.granule g) }
      .next (s.repairEvent stack 3 bank row g)
  else .next (s.retireGranule stack bank g)

/-- REPAIR_COPY_DONE (R13): the corrected data is at its new place. A granule's copy ends on both stacks. -/
def execRepairCopyDone (stack : Nat) (s : State) : Host.Outcome State Fault Refusal := .next (s.repairDone stack)

/-- ROW_HAMMER (03 R71): the function is throttled in the bank, and each deferred activation costs 2 KiB of bandwidth. -/
def execRowHammer (fn stack bank deferred : Nat) (s : State) : Host.Outcome State Fault Refusal :=
  let k := s.stack stack
  let part := ((s.func fn).part).getD 0
  let s := s.setStack stack { k with throttled := if k.throttled.contains (fn, bank) then k.throttled else k.throttled ++ [(fn, bank)] }
  let s := match tget s.parts part with
    | some p => { s with parts := tset s.parts part { p with windowBytes := p.windowBytes + 2048 * deferred } }
    | none => s
  .next (s.event 0x40 (natBytes 1 fn ++ natBytes 1 stack ++ natBytes 2 bank ++ natBytes 4 deferred))

/-- HAMMER_WINDOW_END (03 R71). -/
def execHammerWindowEnd (stack : Nat) (s : State) : Host.Outcome State Fault Refusal :=
  .next (s.setStack stack { s.stack stack with throttled := [] })

/-! ### Power and droop (R27, R28) -/

/-- THERMAL_LIMIT (R27): the clock is reduced at 105 °C; at 115 °C the compute dies lose power. The spec does not say when the clock
is no longer reduced, nor when HOTTEST falls: both stay until a cold reset (notes/assumptions 9). -/
def execThermalLimit (die temp : Nat) (s : State) : Host.Outcome State Fault Refusal :=
  let body (action : Nat) : List Byte := natBytes 1 die ++ natBytes 1 action ++ natBytes 2 temp
  let hot := { s with plant := { s.plant with hottest := max s.plant.hottest temp, lowTemp := true } }
  if 4 ≤ die || temp < 105 then .next s
  else if temp < 115 then .next (hot.event 0x48 (body 0))
  else .next ((forAll (fun s d => s.setDie d { s.die d with powered := false }) hot [0, 1, 2, 3]).event 0x48 (body 1))

/-- POWER_LIMIT_REACHED (R27). -/
def execPowerLimitReached (watts : Nat) (s : State) : Host.Outcome State Fault Refusal :=
  .next { s with plant := { s.plant with measured := watts, lowPower := decide (s.plant.powerLimit ≤ watts) } }

/-- DROOP (R28, R29): one stretch event. -/
def execDroop (die : Nat) (s : State) : Host.Outcome State Fault Refusal :=
  let d := s.die die
  if 4 ≤ die then .next s
  else .next (s.setDie die { d with
    droopEvents := d.droopEvents + 1, droopOverflow := d.droopOverflow || d.droopEvents == 0xFFFFFFFF, droopActive := true,
    clockSteps := d.clockSteps + 1 })

/-- DROOP_RECOVER (R28): the clock comes back by one step. R28 says only that a stretch is undone in steps: the model takes one for each
droop, and ACTIVE clears at the last (notes/assumptions 31). -/
def execDroopRecover (die : Nat) (s : State) : Host.Outcome State Fault Refusal :=
  let d := s.die die
  if 4 ≤ die then .next s
  else .next (s.setDie die { d with clockSteps := d.clockSteps - 1, droopActive := decide (1 < d.clockSteps) })

/-! ### The lock-step pair (02 R48) -/

/-- Contexts with an enabled queue whose home is a die. -/
def State.contextsAt (s : State) (die : Nat) : List Nat :=
  ((s.queues.filter fun x => x.2.state != .disabled && x.2.home == die).map fun x => x.2.context).eraseDups

/-- The die's front end fails: its contexts fault, with a cause that the spec does not give, so a free value. A queue that was being handed
over to the die stays where it is. -/
def State.frontEndFails (s : State) (die : Nat) : State :=
  let cause := (Config.freeValue 8 (s.freeCtr * 2 ^ 24)).toNat
  let s := { s.setDie die { s.die die with frontFailed := true } with freeCtr := s.freeCtr + 1 }
  let s := s.event 0x47 (natBytes 8 die ++ natBytes 8 s.refTime)
  let taken := (s.queues.filter fun x => x.2.thief == some die).map fun x => (x.1 / 1024, x.1 % 1024)
  let s := forAll (fun s c => s.contextFault c { kind := 1, cause := cause, die := die, fn := ctxFn c }) s (s.contextsAt die)
  let s := forAll (fun s x => s.finishHandover x.1 x.2) s taken
  s.setDie die { s.die die with stealGiven := none, stealAsk := 0 }

/-- LOCKSTEP_MISMATCH (02 R48): the third within 1 s fails the front end. A front-end operation is one step here, so no
step's work lies between a checkpoint and a mismatch. -/
def execLockstepMismatch (die : Nat) (s : State) : Host.Outcome State Fault Refusal :=
  let d := s.die die
  let recent := (d.mismatches.filter fun t => decide (s.refTime < t + 1000000000)) ++ [s.refTime]
  if 4 ≤ die || d.frontFailed then .next s
  else
    let s := s.setDie die { d with mismatches := recent }
    .next (if 3 ≤ recent.length then s.frontEndFails die else s)

/-- FRONT_END_CHECKPOINT (02 R48). -/
def execFrontEndCheckpoint (die : Nat) (s : State) : Host.Outcome State Fault Refusal :=
  if 4 ≤ die then .next s else .next (s.setDie die { s.die die with checkpoint := s.refTime })

end Sys2Proof.Machine
end

