-- ==== Sys2Proof/Machine/Timed.lean ====
section
/-!
DEFINITION. What the device does at its own periods (03 R60, R69, R70, R73, R75).
-/

namespace Sys2Proof.Machine

open Sys2Proof

/-! ### Counters -/

/-- The refresh of a function's counter page that is due (R75): once every DELAY milliseconds the page shows what was sampled one period
earlier, in multiples of the quantum as QUANT now gives it. -/
def State.gcntRefresh (s : State) (fn : Nat) : State :=
  let f := s.func fn
  if !f.gcntEnable || decide (s.refTime < f.gcntAt) then s
  else
    let f' := { f with
      gcnt := f.gcntNext.map f.quantise, gcntNext := s.guestSample fn, gcntAt := s.refTime + f.gcntPeriod }
    { s.setFunc fn f' with freeCtr := s.freeCtr + 1 }

/-- GCNT_REFRESH (R75). -/
def execGcntRefresh (fn : Nat) (s : State) : Host.Outcome State Fault Refusal := .next (s.gcntRefresh fn)

/-- Every live record takes its accumulators in, in one snapshot (R73). -/
def State.foldSterling (s : State) : State :=
  { s with ctxs := tmap s.ctxs fun _ c => if c.live then { c with folded := { c.sterling with time := s.refTime } } else c }

/-- STERLING_FOLD (R73). -/
def execSterlingFold (s : State) : Host.Outcome State Fault Refusal := .next s.foldSterling

/-- BANDWIDTH_WINDOW (R60): a new window of 10 µs starts for every partition. -/
def execBandwidthWindow (s : State) : Host.Outcome State Fault Refusal :=
  .next { s with parts := tmap s.parts fun _ p => { p with windowBytes := 0 } }

/-! ### Hot pages (R69, R70) -/

/-- Accesses of a die to a leaf in the window. -/
def Die.countOf (d : Die) (x : HotCount) (from' : Nat) : Nat :=
  ((d.hotCounts.find? fun y => y.leaf == x.leaf && y.die == from').map (·.count)).getD 0

/-- A remote die that makes a page a candidate: at least 4,096 accesses, and more than four times the home die's. -/
def Die.qualifies (d : Die) (home : Nat) (x : HotCount) : Bool :=
  x.die != home && decide (4096 ≤ x.count) && decide (4 * d.countOf x home < x.count)

/-- The candidates of a die at the end of a window, each page once: of several remote dies that qualify, the page goes to the one with the
most accesses, then the lowest number, which R69 leaves open (notes/assumptions 46). -/
def Die.candidates (d : Die) (home : Nat) : List HotCount :=
  let cs := d.hotCounts.filter (d.qualifies home)
  cs.filter fun x => cs.all fun y => y.leaf != x.leaf || decide (y.count < x.count) || (y.count == x.count && decide (x.die ≤ y.die))

/-- A leaf of a local page, PIN apart: valid, with neither HOST nor PEER_IX set (R65). -/
def isLocalLeaf (e : Word64) : Bool := e.getLsbD 0 && e.getLsbD 1 && !e.getLsbD 53 && e.extractLsb' 56 8 == 0

/-- A table entry that the device reads by its address: none if it cannot be read (01 R12, R14). -/
def State.entryAt (s : State) (ea : Nat) : Option Word64 :=
  if s.locBad (.hbm ea) then none else some (BitVec.ofNat 64 (readLe s.mem ea 8))

/-- What such a read counts (01 R12, R30). -/
def State.countEntry (s : State) (ea : Nat) : State := if s.locBad (.hbm ea) then s.countBad ea else s.countCorrected [ea / 64]

/-- The window ends on a die: pinned candidates are refused, the others are selected if capacity allows, which the model takes to be one
free 2 MiB unit of the partition, whatever the page's size (notes/assumptions 46). An entry that cannot be read, or no longer maps a local
page, is no candidate. -/
def State.hotWindow (s : State) (home : Nat) : State :=
  let d := s.die home
  if s.refTime < d.hotEnd then s
  else
    let entry (x : HotCount) : Word64 := (s.entryAt x.leaf).getD 0
    let all := d.candidates home
    let s := s.meetsCopy (all.any fun x => s.locWaits (.hbm x.leaf))
    let s := forAll State.countEntry s (all.map (·.leaf))
    let cs := all.filter fun x => isLocalLeaf (entry x)
    let pinned := cs.filter fun x => (entry x).getLsbD 54
    let fine := cs.filter fun x => !(entry x).getLsbD 54 && decide (0 < s.unitsFree (s.partOf x.ctx))
    let pick (x : HotCount) : Migration := { ctx := x.ctx, leaf := x.leaf, entry := entry x, size := x.size, target := x.die }
    s.setDie home { d with
      hotEnd := (s.refTime / 1000000 + 1) * 1000000, hotCounts := [], hotRefused := d.hotRefused + pinned.length,
      migrations := d.migrations ++ fine.map pick }

/-- HOT_PAGE_WINDOW (R69), on every die whose window of 1 ms is over. -/
def execHotPageWindow (s : State) : Host.Outcome State Fault Refusal := .next (forAll State.hotWindow s [0, 1, 2, 3])

/-- A page leaf without its A and D bits, which the device itself sets. -/
def leafKey (e : Word64) : Word64 := e &&& ~~~0xC0#64

/-- Moves the bytes of a page. -/
def movePage (m : Mem) (a b size : Nat) : Mem :=
  (m.filter fun x => decide (a ≤ x.1) && decide (x.1 < a + size)).foldl (fun m x => writeCell m (b + (x.1 - a)) x.2) m

def Loc.moved (a b size : Nat) : Loc → Loc
  | .hbm x => if a ≤ x ∧ x < a + size then .hbm (b + (x - a)) else .hbm x
  | l => l

/-- Some byte of a page reads as MEM_UNCORR (01 R12, R14), by its stacks, granules and sectors. -/
def State.pageBad (s : State) (a size : Nat) : Bool :=
  let within (x : Nat) : Bool := decide (a ≤ x) && decide (x < a + size)
  let ks := [s.stack (stackOf a), s.stack (stackOf (a + 4096))]
  (s.plant.retireList.any fun x => within x.1) || ks.any fun k => k.outOfUse || k.bad.any fun i => within (64 * i)

/-- Sectors of a page that are read with a correction. -/
def State.weakIn (s : State) (a size : Nat) : List Nat :=
  [stackOf a, stackOf (a + 4096)].flatMap fun i => (s.stack i).weak.filter fun x => decide (a ≤ 64 * x) && decide (64 * x < a + size)

/-- A repair copy moves some byte of the leaf entry or of either page (01 R13). -/
def State.pageWaits (s : State) (leaf a b size : Nat) : Bool :=
  let hit (k : Stack) : Bool := k.copying.any fun c => match c with
    | .granule g => granuleOf leaf == g || [a, b].any fun x => decide (granuleOf x ≤ g) && decide (g < x + size)
    | .row .. => c.moves leaf || (List.range (size / 64)).any fun i => c.moves (a + 64 * i) || c.moves (b + 64 * i)
  [leaf, a, a + 4096, b, b + 4096].any fun x => hit (s.stack (stackOf x))

/-- PAGE_MIGRATION (R70): the first selected page of a die, as one step, so that every access sees it wholly before or wholly
after. If the driver has changed the entry, the migration is abandoned, and so it is when the context that made the counted
access has ended since, when the place that the device would take is in use, or when the entry or a byte of either page cannot be read
(notes/assumptions 46). The copy counts in no partition's HBM bytes, and neither do the spills and saves of squeezes and switches: R73 takes
them out of the contexts' records and says nothing of R75's counts (DESIGN CHOICE, log 65). -/
def execPageMigration (die : Nat) (s : State) : Host.Outcome State Fault Refusal :=
  let d := s.die die
  match d.migrations with
  | [] => .next s
  | m :: rest =>
    let s0 := s.countEntry m.leaf
    let s1 := { s0.setDie die { s0.die die with migrations := rest } with freeCtr := s.freeCtr + 1 }
    let e := (s.entryAt m.leaf).getD 0
    let a := (e.extractLsb' 16 36).toNat * 65536
    let pages := 0x2800000000 / m.size
    let b := 0x2800000000 * m.target + m.size * (Config.migrationPage m.target m.size s.freeCtr % pages)
    let busy := s.mem.any fun x => decide (b ≤ x.1) && decide (x.1 < b + m.size)
    if s.pageWaits m.leaf a b m.size then .next (s.meetsCopy true)
    else if leafKey e != leafKey m.entry || (s.ctx? m.ctx).isNone || busy || s.pageBad a m.size || s.pageBad b m.size then .next s1
    else
      let e' : Word64 := (e &&& ~~~0x000FFFFFFFFF0000#64) ||| BitVec.ofNat 64 b
      let s1 := s1.countCorrected (s.weakIn a m.size)
      let d1 := s1.die die
      .next { s1.setDie die { d1 with hotMoved := d1.hotMoved + 1 } with
        mem := writeLe (movePage s1.mem a b m.size) m.leaf 8 e'.toNat,
        atoms := s1.atoms.map fun x => { x with acc := { x.acc with locs := x.acc.locs.map (Loc.moved a b m.size) } } }

end Sys2Proof.Machine
end

