-- ==== Sys2Proof/Machine/Quarter.lean ====
section
/-!
DEFINITION. What a quarter gives an instruction (06 R120, R121; 07 R153, R154): operand collectors and lanes, how long each is taken,
and the cycle in which an instruction finds them free.
-/

namespace Sys2Proof.Machine

open Sys2Proof

/-- The instruction occupies a lane (06 R121). -/
def needsLane (i : Instr) : Bool := ((instrShape i).map (·.lane)).getD false

/-- The instruction reads or writes t or a registers, so that it waits while they are spilled (05 R105). -/
def usesMatrix : Instr → Bool
  | .mma .. | .mmap .. | .accz .. | .accrd .. | .tld .. | .shape .. => true
  | _ => false

/-- A matrix operation holds its collector until the array has read its operands, unless the reuse latch holds A (07 R153). The array reads
them as the operation retires (notes/assumptions 35). -/
def MatOp.holdsCollector (k : Core) (m : MatOp) : Bool :=
  !m.retired && match m.kind with
    | .mma _ _ t | .mmap _ _ t => !k.latch.any fun l => l.team == m.team && l.tile == t
    | _ => false

/-- Collectors of a quarter: eight, or seven while a group of the quarter has latched an operand, in its own core's latch or, for a
paired operation, in the leader core's (07 R154). -/
def State.collectorCount (s : State) (core q : Nat) : Nat :=
  let mine (l : Latch) : Bool := l.group / 64 == core && quarterOf (l.group % 64) == q
  if [pairOf core, pairOf core + 1].any fun c => (s.core c).latch.any mine then 7 else 8

/-- A collector of a quarter is free in cycle `c`. -/
def State.collectorFree (s : State) (core q c : Nat) : Bool :=
  let k := s.core core
  let timed := (k.collectors.filter fun x => x.1 == q && decide (c < x.2)).length
  let mats := (s.mats.filter fun m => m.core == core && quarterOf (m.group % 64) == q && m.holdsCollector k).length
  decide (timed + mats < s.collectorCount core q)

/-- Lanes of a team's lane set in a quarter: the lowest ones that are neither held nor reserved for others, and one at least (05 R97,
R104). -/
def State.laneSet (s : State) (h : Site) : List Nat :=
  let q := quarterOf h.entry
  List.range (max 1 (min (atD h.team.lanes (4 * (h.core - h.team.core) + q) 16) (s.freeLanes h.core q h.team)))

/-- The lowest lane of the team's set that is free in cycle `c`. -/
def State.freeLane (s : State) (h : Site) (c : Nat) : Option Nat :=
  (s.laneSet h).find? fun n => !(s.core h.core).laneUse.any fun x => x.1 == 16 * quarterOf h.entry + n && decide (c < x.2)

/-- The quarter has what the instruction needs in cycle `c`. -/
def State.unitsFor (s : State) (h : Site) (i : Instr) (c : Nat) : Bool :=
  s.collectorFree h.core (quarterOf h.entry) c && (!needsLane i || (s.freeLane h c).isSome)

/-- The first cycle from `c` on in which the quarter has what the instruction needs; none if only a retiring matrix operation frees it. -/
def State.unitsFrom (s : State) (h : Site) (i : Instr) (c : Nat) : Option Nat :=
  let k := s.core h.core
  let times := c :: ((k.collectors ++ k.laneUse).map (·.2)).filter fun x => decide (c < x)
  leastBy id (times.filter (s.unitsFor h i))

/-- The collector and the lane that an instruction takes when it issues in cycle `c` from a split with `n` threads (06 R121; 07 R153);
what is free again by then is dropped. The collector of a matrix operation that the array still reads from is counted with the
operation (`State.collectorFree`). -/
def State.takeUnits (s : State) (h : Site) (i : Instr) (c : Nat) : State :=
  let byArray := (match i with | .mma .. | .mmap .. => true | _ => false) &&
    (s.mats.filter fun m => m.core == h.core && m.group == h.key).getLast?.any (MatOp.holdsCollector (s.core h.core))
  let k := s.core h.core
  let q := quarterOf h.entry
  let n := h.active.length
  let live (l : List (Nat × Nat)) : List (Nat × Nat) := l.filter fun x => decide (c < x.2)
  let lane := if needsLane i then ((s.freeLane h c).map fun l => [(16 * q + l, c + n)]).getD [] else []
  s.setCore h.core { k with
    collectors := (if byArray then [] else [(q, if needsLane i then c + n + 1 else c + 1)]) ++ live k.collectors, laneUse := lane ++ live k.laneUse }

end Sys2Proof.Machine
end

