-- ==== Sys2Proof/Machine/Trap.lean ====
section
/-!
DEFINITION. The trap core (06 R133 to R139), watchdogs (R140, R141), notices (R136), and PC sampling (R143 to R145).
-/

namespace Sys2Proof.Machine

open Sys2Proof

/-! ### Halting and resuming -/

/-- Halts a split; its team watchdog count pauses (R141). -/
def Split.halt (now : Nat) (x : Split) : Split :=
  if x.live && !x.halted then
    { x with halted := true, parkedNs := x.parkedNs + (if x.park.isSome then now - x.parkStart else 0) }
  else x

/-- A halted split goes on: every result that it has under way is waited for (R123). -/
def Split.unhalt (now : Nat) (x : Split) : Split :=
  if x.halted then { x.settle with halted := false, parkStart := now, draining := true } else x

/-- A stopped split goes on: every result that it has under way is waited for (R123), and a watchdog that stopped it counts from zero
again (R134). A split that is still parked returns to its wait. -/
def Split.resume (now : Nat) (x : Split) : Split :=
  match x.trap with
  | none => x
  | some r =>
    let x := { x.settle with trap := none, draining := true, issues := if r.cause = .watchdogSplit then 0 else x.issues }
    if r.cause = .watchdogTeam then { x with parkStart := now, parkedNs := 0 } else x

/-- Every live split of the group of an entry. -/
def State.modSplits (s : State) (core entry : Nat) (f : Split → Split) : State :=
  match s.group? core entry with
  | some g => s.setGroup core entry { g with splits := g.splits.map f }
  | none => s

/-- Traps of an entry are no longer waiting for the trap core. -/
def State.dropTraps (s : State) (core entry : Nat) (split : Option Nat) : State :=
  let k := s.core (pairOf core)
  let keep (x : Nat × Nat × Nat) : Bool := x.1 != core || x.2.1 != entry || (split.map fun i => x.2.2 != i).getD false
  s.setCore (pairOf core) { k with trapQ := k.trapQ.filter keep }

/-! ### Taking a trap (R133, R134) -/

/-- The action that TRAP_POLICY selects for a cause: 1 halt, 2 resume, else fatal (R133). -/
def trapAction (policy : BitVec 10) (c : Cause) : Nat :=
  match c with
  | .schedShort => (policy.extractLsb' 0 2).toNat
  | .watchdogSplit => (policy.extractLsb' 2 2).toNat
  | .watchdogTeam => (policy.extractLsb' 4 2).toNat
  | .brk => (policy.extractLsb' 6 2).toNat
  | .trapi => (policy.extractLsb' 8 2).toNat
  | _ => 0

/-- The TRAP event of the mailbox (R134). -/
def State.trapEvent (s : State) (h : Site) (r : TrapRec) : State :=
  s.event 0x41 (natBytes 4 h.ctx ++ natBytes 1 h.core ++ natBytes 1 h.entry ++ natBytes 1 r.cause.code ++ natBytes 1 h.ix ++
    natBytes 8 r.pc.toNat)

/-- TRAP_TAKE (R134): the trap core of a core's pair takes the first trap that waits on either core (R120). -/
def execTrapTake (core : Nat) (s : State) : Host.Outcome State Fault Refusal :=
  let k := s.core (pairOf core)
  match k.trapQ with
  | [] => .next s
  | (c, e, i) :: rest =>
    let s1 := s.setCore (pairOf core) { k with trapQ := rest }
    match s.siteAt c e i with
    | none => .next s1
    | some h => match h.sp.trap with
      | none => .next s1
      | some r =>
        match trapAction (s.func (ctxFn h.ctx)).trapPolicy r.cause with
        | 1 =>
          let mark (x : Split) : Split := { x with trap := x.trap.map fun t => { t with untaken := false } }
          .next (((s1.modSplit h mark).modSplits c e (Split.halt s.refTime)).trapEvent h r)
        | 2 => .next ((s1.modSplit h (Split.resume s.refTime)).trapEvent h r)
        | _ => .next (s1.contextFault h.ctx (s1.siteRecord h r.cause r.addr r.pc))

/-! ### TRAP_CTL (R135, R139) -/

/-- The split table of a group is sound: disjoint masks within NTHR that cover every thread that has not exited, and valid
PCs. -/
def Group.tableOk (g : Group) : Bool :=
  let live := g.splits.filter (·.live)
  let all : Word64 := live.foldl (fun m x => m ||| x.mask) 0
  let sum := live.foldl (fun n x => n + bitCount x.mask) 0
  bitCount all == sum && (all &&& ~~~maskOf g.width) == 0 && (g.alive &&& ~~~all) == 0 && live.all fun x => targetOk x.pc

/-- The context of a group faults TABLE_BOUND. No instruction raised it: the record has 0 for PC and address and names the lowest live
split (DESIGN CHOICE, log 63). -/
def State.tableFault (s : State) (core entry : Nat) : State :=
  match (List.range 4).findSome? fun i => s.siteAt core entry i with
  | some h => s.contextFault h.ctx (s.siteRecord h .tableBound 0 0)
  | none => s

/-- Operations 1 and 3: the stopped splits go on, all of them or, of several trapped ones, the lowest, whose halted flag operation 1
clears as well (DESIGN CHOICE, log 63). -/
def State.trapResume (s : State) (core entry : Nat) (all : Bool) : State :=
  match s.group? core entry with
  | none => s
  | some g =>
    if !g.tableOk then s.tableFault core entry
    else if all then
      (s.dropTraps core entry none).modSplits core entry fun x => (x.unhalt s.refTime).resume s.refTime
    else match (List.range 4).find? fun i => (g.split i).trap.isSome with
      | none => s
      | some i =>
        (s.dropTraps core entry (some i)).setGroup core entry (g.setSplit i (((g.split i).unhalt s.refTime).resume s.refTime))

/-- Operation 4: the context ends with the recorded cause. -/
def State.trapEnd (s : State) (core entry : Nat) : State :=
  let of (i : Nat) : Option (Site × TrapRec) :=
    (s.siteAt core entry i).bind fun h => h.sp.trap.map fun r => (h, r)
  match (List.range 4).findSome? of with
  | some (h, r) => s.contextFault h.ctx (s.siteRecord h r.cause r.addr r.pc)
  | none => s

/-- A TRAP_CTL value (R139). -/
def State.trapCtl (s : State) (core : Nat) (v : Word64) : State :=
  let e := (v.extractLsb' 0 6).toNat
  match (v.extractLsb' 56 8).toNat with
  | 1 => s.trapResume core e false
  | 2 => s.modSplits core e (Split.halt s.refTime)
  | 3 => s.trapResume core e true
  | 4 => s.trapEnd core e
  | _ => s

/-- TRAP_CMD (R135). A core that does not exist is a malformed request (03 R56); reserved bytes are ignored (00 R5). -/
def execTrapCmd (s : State) : Host.Outcome State Fault Refusal :=
  requestRow s 0x13 fun r =>
    let c := field r 8 1
    if 160 ≤ c then s.reply r 1 []
    else (s.trapCtl c (BitVec.ofNat 64 (field r 16 8))).reply r 0 []

def execTrapCtlResume (s : State) : Host.Outcome State Fault Refusal := .next (s.trapResume s.cur.core s.cur.entry false)
def execTrapCtlHalt (s : State) : Host.Outcome State Fault Refusal :=
  .next (s.modSplits s.cur.core s.cur.entry (Split.halt s.refTime))
def execTrapCtlClearResume (s : State) : Host.Outcome State Fault Refusal := .next (s.trapResume s.cur.core s.cur.entry true)
def execTrapCtlEnd (s : State) : Host.Outcome State Fault Refusal := .next (s.trapEnd s.cur.core s.cur.entry)

/-! ### Group-state blocks (05 R117; 06 R137 to R139) -/

/-- SFLAGS of a split. -/
def Group.sflags (g : Group) (i : Nat) : Nat :=
  let x := g.split i
  (if x.live then 1 else 0) + (if g.atMerge i then 2 else 0) +
  (match x.park with | some (.barrier ..) => 4 | _ => 0) + if x.halted then 8 else 0

/-- Cycles left on a split's gap after the cycle that runs now, at most 15. A saved split holds its cycle from cycle 0 (`pauseGroup`). -/
def Split.gapLeft (x : Split) (cycle : Nat) : Nat := min 15 (x.nextIssue - (cycle + 1))

/-- A trap record (R138). -/
def TrapRec.bytes (r : TrapRec) (split : Nat) : List Byte :=
  natBytes 1 r.cause.code ++ natBytes 1 split ++ natBytes 6 0 ++ natBytes 8 r.pc.toNat ++ natBytes 8 r.addr.toNat ++
  natBytes 8 r.threads.toNat ++ natBytes 4 r.word.toNat ++ natBytes 4 0 ++ natBytes 8 r.time ++ natBytes 16 0

/-- The 1,024 bytes of a live group-state block. With no split stopped by a trap the bytes of the trap record are 0, and with several
they are those of the lowest (DESIGN CHOICE, log 63). `k` gives the uniform registers. -/
def State.groupBlock (s : State) (cycle : Nat) (g : Group) (k : Nat → Word64) : List Byte :=
  let split (i : Nat) : List Byte :=
    let x := g.split i
    natBytes 8 x.pc.toNat ++ natBytes 8 x.mask.toNat ++ natBytes 4 x.mode.toNat ++ natBytes 4 (g.sflags i) ++ natBytes 8 0
  let words (m : Nat → Word64) (n : Nat) : List Byte := (List.range n).flatMap fun i => natBytes 8 (m i).toNat
  let resid := match tget s.teams g.team with
    | some t => match s.launchOf t with
      | some l => (g.residWord l (s.teamScratch t)).toNat
      | none => 0
    | none => 0
  let gaps := (List.range 4).foldl (fun n i => n + (g.split i).gapLeft cycle * 16 ^ i) 0
  let trap := ((List.range 4).findSome? fun i => (g.split i).trap.map fun r => r.bytes i).getD (natBytes 64 0)
  (List.range 4).flatMap split ++ words k 64 ++ words (readCell g.p) 8 ++ words (readCell g.d) 4 ++
  g.regionAll.flatMap (fun x => natBytes 2 x.toNat) ++ natBytes 1 g.region.length ++ natBytes 15 0 ++
  natBytes 8 (g.batchDone ++ g.batchOpen).toNat ++ natBytes 8 g.lcnt.toNat ++ natBytes 8 resid ++
  natBytes 8 (g.grantSeq ++ g.grantKind ++ (0#24)).toNat ++ natBytes 8 gaps ++ natBytes 24 0 ++ trap ++ natBytes 128 0

/-! ### The save block of a team (05 R116) -/

/-- Bytes of a group's vector granules, v0 upwards in register order. -/
def Group.vectorByte (g : Group) (i : Nat) : Byte :=
  let w := 4 * g.width
  byteOf ((readCell g.v (i / w * 64 + i % w / 4)).setWidth 64) (i % 4)

/-- Byte of a list of group blocks that follow one another, each group with the cycle in which its block shows it. -/
def State.blocksByte (s : State) : List (Nat × Group) → Nat → Byte
  | [], _ => 0
  | (cycle, g) :: rest, i =>
    let n := 1024 + 32 * g.width * g.vgran
    if i < 1024 then atD (s.groupBlock cycle g (readCell g.k)) i 0
    else if i < n then g.vectorByte (i - 1024)
    else s.blocksByte rest (i - n)

/-- The first 48 bytes of a team's save block. A group that has exited before the save has no group block, and Group count counts it all
the same (DESIGN CHOICE, log 63). -/
def State.saveHeader (s : State) (id : Nat) (t : Team) : List Byte :=
  let gs := (s.groups.filter fun x => x.2.team == id) ++ t.savedGroups
  let halted := gs.foldl (fun n x => n + if x.2.halted then 2 ^ x.2.index else 0) 0
  let owner := if t.resident then t.cores.any fun c => (s.core c).owner == some id else t.savedOwner
  let l := s.launchOf t
  natBytes 8 (if t.saveValid then 1 else 0) ++ natBytes 4 (s.teamCtx t) ++ natBytes 4 t.index ++
  natBytes 8 ((l.map fun x => x.kdAddr.toNat).getD 0) ++ natBytes 1 t.tlevel ++
  (List.range 4).flatMap (fun q => natBytes 1 (atD t.lanes q 0)) ++
  natBytes 1 ((if owner then 1 else 0) + if s.matrixPresent id t then 2 else 0) ++ natBytes 2 t.groupCount ++ natBytes 16 halted

/-- Byte of a team's save block, as R116 lays it out. Of a PAIR team the lane sets and the matrix state are those of the even core
(notes/assumptions 59). -/
def State.saveByte (s : State) (id : Nat) (t : Team) (off : Nat) : Byte :=
  let a := 0x2000 + s.saveScratch t
  let b := a + s.saveTags t
  let m := if s.matrixPresent id t then 655360 else 0
  let tag (i : Nat) : Nat := (readCell t.tags i).toNat
  let here := (s.groups.filter fun x => x.2.team == id).map fun x => (s.cycleOf (x.1 / 64), x.2)
  let saved := t.savedGroups.map fun x => (0, x.2)
  if off < 0x30 then atD (s.saveHeader id t) off 0
  else if off < 0x1000 then 0
  else if off < 0x2000 then readCell t.barrier (off - 0x1000)
  else if off < a then readCell t.scratch (off - 0x2000)
  else if off < b then
    let i := 4 * (off - a)
    BitVec.ofNat 8 (tag i + tag (i + 1) * 4 + tag (i + 2) * 16 + tag (i + 3) * 64)
  else if off < b + m then
    let i := off - b
    if i < 0x20000 then readCell t.tiles i else readCell t.accs (i - 0x20000)
  else s.blocksByte (sortBy (fun x => x.2.index) (here ++ saved)) (off - b - m)

/-! ### The trap core's window -/

/-- TRAP_PEND (R137). -/
def State.trapPend (s : State) (core : Nat) : Nat :=
  (List.range 64).foldl (fun n e =>
    n + if ((s.group? core e).map fun g => g.splits.any fun x => x.trap.isSome).getD false then 2 ^ e else 0) 0

/-- K[n] of a group as the trap core reads it: undefined while a late instruction that is not covered writes it (15 R331). -/
def State.trapK (s : State) (key : Nat) (g : Group) (n : Nat) : Word64 :=
  if g.awaits (.k n) then Config.freeValue 64 ((key + 1) * 2 ^ 200 + s.freeCtr * 2 ^ 24 + 0xC10000 + n) else readCell g.k n

/-- Byte of the trap core's window of a core (R137). -/
def State.trapRead (s : State) (core off : Nat) : Byte :=
  if off < 8 then BitVec.ofNat 8 (s.trapPend core / 256 ^ off)
  else if 0x10 ≤ off && off < 0x18 then BitVec.ofNat 8 ((s.core core).rbrk.toNat / 256 ^ (off - 0x10))
  else if 0x10000 ≤ off && off < 0x20000 then
    let e := (off - 0x10000) / 0x400
    match s.group? core e with
    | some g => atD (s.groupBlock (s.cycleOf core) g (s.trapK (core * 64 + e) g)) (off % 0x400) 0
    | none => 0
  else 0

/-- An 8-byte write of a split's words. SFLAGS[3] halts the split or clears its halted flag, as TRAP_CTL does (R141). A split that becomes live
waits for every result under way. -/
def Split.writeWord (x : Split) (now off : Nat) (v : Word64) : Split :=
  match off with
  | 0 => { x with pc := v }
  | 8 => { x with mask := v }
  | 16 =>
    let y := { (if x.live then x else x.settle) with mode := v.setWidth 32, live := v.getLsbD 32 }
    if v.getLsbD 35 then y.halt now else y.unhalt now
  | _ => x

/-- An 8-byte write of a trap record (R138). A code that is no cause leaves the cause. -/
def TrapRec.writeWord (r : TrapRec) (off : Nat) (v : Word64) : TrapRec :=
  match off with
  | 0 => { r with cause := (causeOf (v.toNat % 256)).getD r.cause }
  | 0x08 => { r with pc := v }
  | 0x10 => { r with addr := v }
  | 0x18 => { r with threads := v }
  | 0x20 => { r with word := v.setWidth 32 }
  | 0x28 => { r with time := v.toNat }
  | _ => r

/-- A write of the trap record that the block shows: that of the group's first stopped split. -/
def Group.writeTrap (g : Group) (off : Nat) (v : Word64) : Group :=
  match (List.range 4).find? fun i => (g.split i).trap.isSome with
  | some i => g.setSplit i { g.split i with trap := (g.split i).trap.map fun r => r.writeWord off v }
  | none => g

/-- Threads may pass from any split of the group to any other: what each of them has issued is to be written before any of them goes on
(R123). -/
def Group.oweAll (g : Group) : Group :=
  let flights := (g.splits.flatMap (·.inflight)).eraseDups
  let owe (x : Split) : Split := { x with inflight := flights, draining := true, owed := g.pending.map (·.id) }
  { g with splits := g.splits.map owe }

/-- An 8-byte write of a group-state block. BATCH, LCNT and GRANT are read only (07 R170, 15 R330, 05 R109), and so is RESID but for NEN, and
NPEND, which 1 clears (05 R108): a write to them is ignored (00 R4). A write of a K register that a late instruction still writes leaves an
undefined value there (15 R331). -/
def Group.writeBlock (g : Group) (cycle now off : Nat) (v : Word64) : Group :=
  if off < 0x80 then
    let g := if off % 32 = 0 then g else g.oweAll
    g.setSplit (off / 32) ((g.split (off / 32)).writeWord now (off % 32) v)
  else if off < 0x280 then { g.clobber (.k ((off - 0x80) / 8)) with k := writeCell g.k ((off - 0x80) / 8) v }
  else if off < 0x2C0 then { g with p := writeCell g.p ((off - 0x280) / 8) v }
  else if off < 0x2E0 then { g with d := writeCell g.d ((off - 0x2C0) / 8) v }
  else if off < 0x2F0 then
    g.setRegions g.region.length <| g.regionAll.mapIdx fun i x =>
      if i / 4 = (off - 0x2E0) / 8 then v.extractLsb' (16 * (i % 4)) 16 else x
  else if off = 0x2F0 then g.setRegions (v.extractLsb' 0 8).toNat g.regionAll
  else if off = 0x310 then { g with nen := v.getLsbD 63, npend := g.npend && !v.getLsbD 62 }
  else if off = 0x320 then
    { g with splits := g.splits.mapIdx fun i x => { x with nextIssue := cycle + 1 + (v.extractLsb' (4 * i) 4).toNat } }
  else if 0x340 ≤ off && off < 0x380 then g.writeTrap (off - 0x340) v
  else g

/-- GROUP_STATE_WRITE (R139): it takes effect only while every live split is halted or stopped by a trap. -/
def execGroupStateWrite (core entry off : Nat) (val : Word64) (s : State) : Host.Outcome State Fault Refusal :=
  match s.group? core entry with
  | none => .next s
  | some g =>
    if off % 8 ≠ 0 || !(g.splits.all fun x => !x.live || x.halted || x.trap.isSome) then .next s
    else .next (s.setGroup core entry (g.writeBlock (s.cycleOf core) s.refTime off val))

/-! ### Watchdogs (R140, R141) -/

/-- The issue count of the split has reached 2^24 while another split of its group waits (R140). -/
def Site.watchDue (h : Site) : Bool := !h.sp.stopped && decide (2 ^ 24 ≤ h.sp.issues) && h.g.othersWait h.ix

/-- Such a split stops, at its next instruction. -/
def State.splitWatch (s : State) (h : Site) : State := if h.watchDue then s.stopSplit h .watchdogSplit 0 h.mask h.sp.pc else s

/-- WATCHDOG_SPLIT (R140), for the split that `cur` names, once the cycle of its quarter's last issue is over: a barrier that completes in
that cycle comes first (R150). -/
def execWatchdogSplit (s : State) : Host.Outcome State Fault Refusal :=
  match s.site? with
  | none => .next s
  | some h => if s.cycleOf h.core < atD (s.core h.core).issuedAt (quarterOf h.entry) 0 then .next s else .next (s.splitWatch h)

/-- What the team watchdog has counted for a split. -/
def Split.parkedFor (x : Split) (now : Nat) : Nat := x.parkedNs + if x.halted then 0 else now - x.parkStart

/-- The wait of a split is exempt: its word has EXT set (R142). -/
def Team.exempt (t : Team) (x : Split) : Bool :=
  match x.park with
  | some (.barrier off ..) => (t.word off).getLsbD 63
  | _ => false

/-- The team watchdog counts for the split: it is parked, neither halted nor stopped, and its wait is not exempt. -/
def Site.watched (h : Site) : Bool := h.sp.park.isSome && !h.sp.halted && h.sp.trap.isNone && !h.team.exempt h.sp

/-- A split stops once the period is past: a barrier that completes at its very end completes (R150). -/
def State.teamWatch (s : State) (h : Site) : State :=
  if h.watched && decide (s.plant.watchdogNs < h.sp.parkedFor s.refTime) then s.stopSplit h .watchdogTeam 0 h.mask h.sp.pc else s

/-- WATCHDOG_TEAM (R141), for the split that `cur` names. -/
def execWatchdogTeam (s : State) : Host.Outcome State Fault Refusal :=
  match s.site? with
  | none => .next s
  | some h => .next (s.teamWatch h)

/-- Every live split. -/
def State.sites (s : State) : List Site :=
  s.groups.flatMap fun (key, g) => g.liveSplits.filterMap fun i => s.siteAt (key / 64) (key % 64) i

/-- The watchdog of every team, at the present time. -/
def State.teamWatches (s : State) : State := forAll State.teamWatch s s.sites

/-- The times at which team watchdogs come to their period's end. -/
def State.watchEnds (s : State) : List Nat :=
  (s.sites.filter Site.watched).map fun h => max (s.refTime + 1) (h.sp.parkStart + (s.plant.watchdogNs + 1 - h.sp.parkedNs))

/-- A split of the group would take a notice at its boundary (R136; 05 R113). -/
def Site.noticed (h : Site) : Bool :=
  h.g.nen && h.g.npend && !h.l.isInvar && !h.sp.stopped && h.g.mayIssue h.ix && !(h.sp.draining && h.g.hasPending h.ix)

/-- NOTICE (R136), by the split that `cur` names. -/
def execNotice (s : State) : Host.Outcome State Fault Refusal :=
  match s.site? with
  | none => .next s
  | some h => if h.noticed then .next (s.takeNotice h) else .next s

/-! ### PC sampling (R143 to R145) -/

/-- The period in cycles, and the log of the ring. -/
def Func.sampleN (f : Func) : Nat := 2 ^ max 8 f.samplePeriod.toNat
def Func.sampleRing (f : Func) : Nat := min 20 (max 6 f.sampleLog.toNat)

/-- The group of a site issued in the cycle that runs. -/
def State.justIssued (s : State) (h : Site) : Bool :=
  let k := s.core h.core
  let q := quarterOf h.entry
  atD k.issuedAt q 0 == s.cycleOf h.core + 1 && atD k.lastIssue q 16 == h.entry % 16

/-- The late results that hold the split (R145): it drains, its next instruction is an lwait that they hold, or its load count is full
(15 R329, R331). -/
def Site.loadWait (h : Site) (i : Option Instr) : Bool :=
  (h.sp.draining && h.g.hasPending h.ix) ||
  match i with
  | some (.lwait n) => decide (n.toNat < h.sp.loadCnt)
  | some i => decide (63 ≤ h.sp.loadCnt) && ((instrShape i).map fun x => x.cls == .late).getD false
  | none => false

/-- What holds a split apart from its gap and the units: late results, matrix operations, or a fetch (R128). -/
def State.heldUp (s : State) (h : Site) (i : Option Instr) : Bool :=
  h.loadWait i || (s.core h.core).late.contains h.entry || h.g.restoring ||
  (match i with | some .mwait => s.mats.any fun m => m.group == h.key && !m.retired | _ => false) ||
  h.team.mspill && (i.map usesMatrix).getD false

/-- The split of a site is ready in the cycle that runs (R128). -/
def State.isReady (s : State) (h : Site) : Bool :=
  let i := s.nextInstr h
  let c := s.cycleOf h.core
  !h.sp.stopped && h.g.mayIssue h.ix && decide (h.sp.nextIssue ≤ c) && s.collectorFree h.core (quarterOf h.entry) c &&
  !((i.map needsLane).getD false && (s.freeLane h c).isNone) && !s.heldUp h i

/-- Another group of the site's quarter is ready, so that a walk passes over one that gave way (R129). -/
def State.othersReady (s : State) (h : Site) : Bool :=
  s.groups.any fun (key, g) => key / 64 == h.core && quarterOf (key % 64) == quarterOf h.entry && key != h.key &&
    g.liveSplits.any fun i => (s.siteAt h.core (key % 64) i).any s.isReady

/-- Stall reason of a split in the cycle that runs (R145): the first that holds, for its next instruction `i`. -/
def State.stallReason (s : State) (h : Site) (i : Option Instr) : Nat :=
  let k := s.core h.core
  let c := s.cycleOf h.core
  let q := quarterOf h.entry
  let x := h.sp
  let lane := (i.map needsLane).getD false
  let matrix := match i with | some .mwait => s.mats.any fun m => m.group == h.key && !m.retired | _ => false
  let spilled := h.team.mspill && (i.map usesMatrix).getD false
  if s.justIssued h then 0
  else if c < x.nextIssue then 1
  else if h.g.passedAt == c + 1 || (h.g.giveWay && s.othersReady h) then 2
  else if !s.collectorFree h.core q c then 3
  else if lane && (s.freeLane h c).isNone then 4
  else if h.g.atMerge h.ix then 5
  else match x.park with
    | some (.barrier ..) => 6
    | some _ => 7
    | none =>
      if h.loadWait i then 8
      else if matrix then 9
      else if h.g.restoring then 10
      else if spilled then 11
      else if k.late.contains h.entry then 12
      else if atD k.issuedAt q 0 == c + 1 then 13
      else if x.halted then 14
      else if x.trap.isSome then 15
      else if h.g.nen && h.g.npend then 16
      else 13

/-- A sample record (R144). -/
def State.sampleBytes (s : State) (h : Site) : List Byte :=
  let why := s.stallReason h (s.nextInstr h)
  natBytes 8 (h.sp.pc.toNat % 2 ^ 57) ++ natBytes 1 (why + if why = 0 then 32 else 0) ++ natBytes 1 h.entry ++ natBytes 2 h.core ++
  natBytes 2 (atD h.g.region 0 0).toNat ++ natBytes 2 (atD h.g.region 1 0).toNat ++ natBytes 4 h.team.index ++
  natBytes 2 h.g.index ++ natBytes 1 h.ix ++ natBytes 1 0 ++ natBytes 8 s.refTime

/-- The split that a sample of an entry describes: the lowest that may issue. If none may, R144 names none, and the model takes the lowest live
one (DESIGN CHOICE, log 67). -/
def State.sampleSite (s : State) (core entry : Nat) : Option Site :=
  match s.group? core entry with
  | none => none
  | some g =>
    let i := (g.liveSplits.find? g.mayIssue).orElse fun _ => g.liveSplits.head?
    i.bind fun i => s.siteAt core entry i

/-- The group of an entry is eligible: its function samples, and the cycle is a multiple of its period. -/
def State.eligible (s : State) (core entry : Nat) : Option Site :=
  (s.sampleSite core entry).filter fun h =>
    let f := s.func (ctxFn h.ctx)
    f.sampleOn && s.cycleOf core % f.sampleN == 0

/-- The sample of a quarter in the cycle that runs, once (R144): of the next eligible group after the one it sampled last. A record that
cannot be written is lost; no cycle waits for one that meets a range under repair. -/
def State.sample (s : State) (core quarter : Nat) : State :=
  let k := s.core core
  let last := atD k.lastSample quarter 15
  let order := (List.range 16).map fun i => 16 * quarter + (last + 1 + i) % 16
  if atD k.sampledAt quarter 0 = s.cycleOf core + 1 then s
  else match order.findSome? (s.eligible core) with
    | none => s
    | some h =>
      let fn := ctxFn h.ctx
      let f := s.func fn
      let base := f.sampleBase.toNat
      let s1 := s.setCore core { k with
        lastSample := setAt k.lastSample quarter (h.entry % 16), sampledAt := setAt k.sampledAt quarter (s.cycleOf core + 1) }
      let s2 := match s1.storeVa h.ctx h.die (base + 64 + 32 * (f.samples % 2 ^ f.sampleRing)) (s.sampleBytes h) with
        | .ok x => x
        | .error e => s1.countFailed h.ctx (base + 64 + 32 * (f.samples % 2 ^ f.sampleRing)) 0 e
      let s3 := s2.setFunc fn { s2.func fn with samples := f.samples + 1 }
      { if (f.samples + 1) % 64 = 0 then s3.writeSampleCount h.ctx else s3 with repairWait := s.repairWait }

/-- Some function samples on a core. -/
def State.samples (s : State) (core : Nat) : Bool :=
  s.groups.any fun (key, g) => key / 64 == core && match tget s.teams g.team with
    | some t => (s.func (ctxFn (s.teamCtx t))).sampleOn
    | none => false

/-- The core's cycle becomes `c`, and the samples of the cycles before it have been taken. Periods are multiples of 2^8 cycles. -/
def State.toCycle (s : State) (core c : Nat) : State :=
  let at' (s : State) (d : Nat) : State := s.setCore core { s.core core with cycle := d - s.dieClock core }
  let now := s.cycleOf core
  let due := ((List.range (c / 256 + 1 - now / 256)).map fun i => 256 * (now / 256 + i)).filter fun d => decide (now ≤ d) && decide (d < c)
  let s := if s.samples core then forAll (fun s d => forAll (fun s q => s.sample core q) (at' s d) [0, 1, 2, 3]) s due else s
  at' s c

end Sys2Proof.Machine
end

