-- ==== Sys2Proof/Machine/Issue.lean ====
section
/-!
DEFINITION. Issuing (06 R120 to R130, R147 to R149): the fetch of a packet and the checks of its schedule word (12 R241 to
R243), the choice of the split, gaps and give-way, results in flight, and what an issue counts.
-/

namespace Sys2Proof.Machine

open Sys2Proof

/-! ### Fetch -/

/-- A packet's schedule word and the word at the PC. A packet is fetched whole (R241). -/
def fetchWords (s : State) (h : Site) : Except Stop (Word32 × Word32 × Acc) :=
  let pc := h.sp.pc.toNat
  match s.resolve h.ctx h.die false (pc / 32 * 32) 32 .fetch with
  | .error c => .error (.cause c h.sp.pc h.mask)
  | .ok a =>
    if s.accWaits a then .error .wait
    else if s.accBad a then .error (.cause .memUncorr h.sp.pc h.mask)
    else
      let bs := s.peek a
      .ok (BitVec.ofNat 32 (field bs 0 4), BitVec.ofNat 32 (field bs (pc % 32 / 4 * 4) 4), a)

/-- What a split is about to issue: the instruction, its gap and its give-way flag, and the packet's access. -/
structure Fetched where
  i : Instr
  gap : Nat
  giveWay : Bool
  acc : Acc
  deriving DecidableEq, Repr

/-- What the fetch of a packet counts and sets (01 R12; 03 R68, R72), whatever its words then turn out to be. -/
def State.noteFetch (s : State) (h : Site) : State :=
  match fetchWords s h with
  | .ok (_, _, a) => s.afterRead a
  | .error _ => s

/-- Checks 1 to 3 of the decoding order (12 R265). -/
def fetched (s : State) (h : Site) : Except Stop Fetched :=
  match fetchWords s h with
  | .error e => .error e
  | .ok (sched, w, a) =>
    if sched.getLsbD 31 then .error (.cause .encUnsched 0 h.mask)
    else if sched.extractLsb' 28 3 != 0 then .error (.cause .encReserved 0 h.mask)
    else match decode w with
      | .error .illegal => .error (.cause .encIllegal 0 h.mask)
      | .error .reserved => .error (.cause .encReserved 0 h.mask)
      | .ok i =>
        let slot := sched.toNat / 16 ^ (h.sp.pc.toNat % 32 / 4 - 1) % 16
        .ok { i := i, gap := slot % 8, giveWay := decide (8 ≤ slot), acc := a }

/-! ### Results in flight (R122, R129, R130) -/

def Site.guardPred (h : Site) : Option Nat := if modeGen h.sp.mode then some (modeGpred h.sp.mode).toNat else none

def Site.checksOf (h : Site) (i : Instr) : List Reg := ((instrShape i).map fun x => x.checks i (some h.ty) h.guardPred).getD []
def Site.readsOf (h : Site) (i : Instr) : List Reg := ((instrShape i).map fun x => x.reads (some h.ty) h.guardPred).getD []
def Site.writesOf (h : Site) (i : Instr) : List Reg := ((instrShape i).map fun x => x.writes (some h.ty)).getD []

/-- The first cycle in which the split may issue, units apart: not before the one that runs, after its quarter's last issue (R121), and
when its gap has elapsed. -/
def State.gapCycle (s : State) (h : Site) : Nat :=
  max (max (s.cycleOf h.core) h.sp.nextIssue) (atD (s.core h.core).issuedAt (quarterOf h.entry) 0)

/-- The instruction moves values between threads, so that one early source reaches every thread. -/
def crossLane : Instr → Bool
  | .shfl .. | .shflUniform .. | .shfx .. | .shfxImm .. | .gred .. | .gscan .. => true
  | _ => false

/-- Registers that the instruction would read or overwrite before R122 allows, with the threads for which it would. -/
def Site.earlyRegs (h : Site) (i : Instr) (c : Nat) : List (Reg × Word64) :=
  let rs := h.readsOf i ++ h.writesOf i
  (h.sp.inflight.filter fun f => decide (c < f.ready) && rs.contains f.reg).map fun f =>
    (f.reg, if crossLane i then BitVec.allOnes 64 else f.threads)

/-- An instruction that reads a predicate as a whole waits, by hardware, for every thread's part of it (12 R254), and an exit for every
result of its split (06 R123). -/
def Site.wholeCycle (h : Site) (i : Instr) (c : Nat) : Nat :=
  match instrShape i with
  | some x =>
    if x.lane then c
    else h.sp.inflight.foldl (fun c f => if i = .exit || (h.readsOf i).contains f.reg then max c f.whole else c) c
  | none => c

/-- Threads for which a value that the instruction may check is undefined (00 R6): a register that a late instruction not yet covered
writes (15 R331), or one that is read before R122 allows. A uniform source, and one that moves between threads, is every thread's. -/
def Site.undefThreads (h : Site) (i : Instr) (early : List (Reg × Word64)) : Word64 :=
  let late : Reg → Word64
    | .v n => (List.range 64).foldl (fun m t => if h.g.awaits (.v n t) then m ||| (1#64 <<< t) else m) 0
    | .k n => if h.g.awaits (.k n) then BitVec.ofNat 64 (2 ^ 64 - 1) else 0
    | .p _ => 0
  let rs := h.checksOf i
  let m := rs.foldl (fun m r => m ||| late r) 0
  let m := (early.filter fun x => rs.contains x.1).foldl (fun m x => m ||| x.2) m
  if crossLane i && m != 0 then BitVec.ofNat 64 (2 ^ 64 - 1) else m

/-- Results that the instruction puts in flight when it issues at cycle `c`. -/
def Site.flightsOf (h : Site) (i : Instr) (c : Nat) : List Flight :=
  match instrShape i with
  | some x => match x.latency with
    | some l =>
      let n := if x.lane then h.active.length else 1
      let ts := if x.lane then h.mask else BitVec.allOnes 64
      (x.writes (some h.ty)).map fun r => { reg := r, threads := ts, ready := c + l, whole := c + l + (n - 1) }
    | none => []
  | none => []

/-! ### Turns of an Invar launch (R147, R148) -/

/-- A split is parked on a deque that has room, so that its push is the next thing its engine does there (15 R342). -/
def State.pushReady (s : State) (h : Site) : Bool :=
  !h.sp.halted && h.sp.trap.isNone && match h.sp.park with
    | some (.deque va ..) => match dequeHeader s h va with
      | .ok q => decide ((q.bottom - q.top).toNat < 2 ^ q.log)
      | .error _ => true
    | _ => false

/-- Nothing that an earlier turn started is still to take effect. -/
def State.launchQuiet (s : State) (lid : Nat) : Bool :=
  let mine (t : Nat) : Bool := ((tget s.teams t).map fun x => x.launch == lid).getD false
  !(s.groups.any fun x => mine x.2.team && !x.2.pending.isEmpty) &&
  !(s.atoms.any fun a => mine a.team || a.riders.any fun r => mine r.team) && !(s.copies.any fun c => mine c.2.team) &&
  !(s.mats.any fun m => mine m.team && !m.retired) && !(s.caSteps.any fun c => mine c.team) &&
  !(s.sites.any fun h => h.lid == lid && s.pushReady h)

/-- At the start of a pass every free slot has been refilled, and every formed group has joined. -/
def State.passReady (s : State) (lid : Nat) (l : Launch) : Bool :=
  decide (l.total ≤ l.nextStep) && s.slotsFull lid l &&
  (List.range 4).all fun d => !((s.die d).formed.any fun f => f.launch == lid)

/-- It is the turn of the issuing split: its group's turn, with nothing that the turn waits for, and it is the lowest of the group's splits
that may issue. -/
def State.hasTurn (s : State) (h : Site) : Bool :=
  !h.l.isInvar ||
  (s.launchQuiet h.lid && (!s.passStarts h.lid h.l.pos || s.passReady h.lid h.l) &&
    (match s.turnGroup h.lid h.l.pos with | some (_, key, _) => key == some h.key | none => false) && !h.g.waitsTurn &&
    (h.g.liveSplits.find? h.g.mayIssue) == some h.ix)

/-- The turn after the one at place `key`; at the end of the pass it stands at the start again. -/
def State.nextTurn (s : State) (lid key : Nat) : State :=
  match tget s.launches lid with
  | some l =>
    let pos := if (s.turnFrom lid (key + 1)).isSome then key + 1 else 0
    s.setLaunch lid { l with turn := l.turn + 1, pos := pos }
  | none => s

/-! ### Readiness (R126, R128, R129) -/

/-- The die of a core has power and is in use (01 R10, R27). -/
def State.coreRuns (s : State) (c : Nat) : Bool := (s.die (dieOf c)).powered && !(s.die (dieOf c)).isolated

/-- The split may issue, units and its instruction apart (R126): it neither drains nor is about to merge with late results under way
(R123), and in an Invar launch it has the turn. -/
def State.splitReady (s : State) (h : Site) : Bool :=
  s.coreRuns h.core && !h.sp.stopped && h.g.mayIssue h.ix && !(h.sp.draining && h.g.hasPending h.ix) && !h.g.awaitsMerge h.ix && s.hasTurn h

/-- The issue of a quarter in the cycle that runs is over: one of its groups has issued, or none can. -/
def State.issueOver (s : State) (core quarter : Nat) : Bool :=
  atD (s.core core).issuedAt quarter 0 == s.cycleOf core + 1 ||
  !s.sites.any fun h => h.core == core && quarterOf h.entry == quarter && s.isReady h && s.splitReady h && s.runs h

/-- PC_SAMPLE (R144). The sample shows a cycle whose issue is over (R145). -/
def execPcSample (core quarter : Nat) (s : State) : Host.Outcome State Fault Refusal :=
  .next (if s.issueOver core quarter then s.sample core quarter else s)

/-- Place of an entry in the walk of its quarter, which starts after the one that issued last (R128). -/
def State.walkPlace (s : State) (core entry : Nat) : Nat :=
  (entry % 16 + 31 - atD (s.core core).lastIssue (quarterOf entry) 15) % 16

/-! ### What an issue leaves behind -/

/-- The issue as the instruction sees it: its packet has been fetched; the core's cycle, and the registers that are not ready. Samples of the
cycles before it have been taken. -/
def State.beginIssue (s : State) (h : Site) (f : Fetched) (c : Nat) (early : List (Reg × Word64)) : State :=
  { ((s.afterRead f.acc).toCycle h.core c).modSplit h fun x => { x with draining := false, owed := [] } with
    hazard := early, undef := h.undefThreads f.i early, dests := h.writesOf f.i }

/-- Cycles that an issue charges to LANE_CYC (03 R72). -/
def Site.laneCycles (h : Site) (i : Instr) : Nat := if needsLane i then h.active.length else 1

/-- Gap and results in flight of a split that has issued, and its watchdog count (R129, R140). -/
def Split.issued (x : Split) (c : Nat) (f : Fetched) (fs : List Flight) (others : Bool) : Split :=
  { x with
    nextIssue := max x.nextIssue (c + 1 + f.gap),
    inflight := x.inflight.filter (fun y => decide (c < y.whole) && !(fs.any fun z => z.reg == y.reg)) ++ fs,
    issues := if others then x.issues + 1 else 0 }

/-- The group after an issue: its splits, its give-way flag, and the granules it accessed. -/
def Group.issued (g : Group) (h : Site) (c : Nat) (f : Fetched) : Group :=
  let fs := h.flightsOf f.i c
  let one (j : Nat) (x : Split) : Split :=
    if !x.live then x
    else if j = h.ix then x.issued c f fs (g.othersWait j)
    else if !(h.g.split j).live then { x with nextIssue := max x.nextIssue (c + 1 + f.gap) }
    else x
  let grans := ((h.readsOf f.i ++ h.writesOf f.i).filterMap fun r => match r with
    | .v n => some (n / 8)
    | _ => none).eraseDups
  grans.foldl Group.touch { g with splits := g.splits.mapIdx one, giveWay := f.giveWay && !h.l.isInvar }

/-- The walk of cycle `c` has passed over the groups of the quarter that gave way (R129). -/
def State.endGiveWay (s : State) (h : Site) (c : Nat) : State :=
  let clear (e : Nat) (g : Group) : Group :=
    if e / 64 = h.core && quarterOf (e % 64) = quarterOf h.entry && e ≠ h.key && g.giveWay then
      { g with giveWay := false, passedAt := c + 1 }
    else g
  { s with groups := tmap s.groups clear }

/-- The splits of a core whose issue counts have come to the limit stop, at the end of the cycle (R140). -/
def State.coreWatch (s : State) (core : Nat) : State :=
  forAll State.splitWatch s (s.sites.filter fun h => h.core == core && h.watchDue)

/-- Those of every core, as time passes. -/
def State.splitWatches (s : State) : State := forAll State.splitWatch s (s.sites.filter Site.watchDue)

/-- Everything an issue leaves behind when its instruction has taken effect in `s`. -/
def State.endIssue (s : State) (h : Site) (c : Nat) (f : Fetched) (late : List Nat) : State :=
  let s := s.takeUnits h f.i c
  let k := s.core h.core
  let q := quarterOf h.entry
  let s := s.setCore h.core { k with
    lastIssue := setAt k.lastIssue q (h.entry % 16), issuedAt := setAt k.issuedAt q (c + 1), late := late }
  let same := ((tget s.groups h.key).map fun g => g.team == h.tid).getD false
  let s := if same then s.modGroup h fun g => g.issued h c f else s
  let s := s.endGiveWay h c
  let s := s.modCtx h.ctx fun x =>
    { x with sterling := { x.sterling with laneCyc := satAdd x.sterling.laneCyc (h.laneCycles f.i) } }
  let s := { s with hazard := [], undef := 0, dests := [] }
  if h.l.isInvar then s.nextTurn h.lid (rotationKey h.team h.g) else s

/-! ### Time -/

/-- Clock edges of a die in the next `dt` nanoseconds: those of 1.3 GHz, but while Nichrome stretches the die's clock no less than half
of them (01 R28), and while the clock is lowered for power or temperature any number up to that (R27; notes/assumptions 31). -/
def State.edges (s : State) (dt die : Nat) : Nat :=
  let full := 13 * (s.refTime + dt) / 10 - 13 * s.refTime / 10
  let d := s.die die
  let slow := min full (Config.clockEdges die d.clockSteps s.refTime)
  if s.plant.lowPower || s.plant.lowTemp then slow else if d.droopActive then max (full / 2) slow else full

/-- Reference time passes, no scheduling period ending meanwhile: queues and partitions are charged (04 R78, 03 R60), idle times of dies
begin or end (R80), queues that could place a team note it (R81), and the cores' clocks go on. -/
def State.elapse (s : State) (dt : Nat) : State :=
  let s := (forAll State.noteIdle s [0, 1, 2, 3]).noteAble (s.refTime + dt)
  let cs := (s.groups.map fun x => x.1 / 64).eraseDups.filter fun c => s.coreRuns c && s.samples c
  let s := forAll (fun s c =>
    let k := s.core c
    let s' := s.toCycle c (s.cycleOf c + s.edges dt (dieOf c))
    s'.setCore c { s'.core c with cycle := k.cycle }) s cs
  { s with
    queues := tmap s.queues fun key x => s.chargeQueue dt key x, parts := tmap s.parts fun p x => s.chargePart dt p x,
    refTime := s.refTime + dt, clock := (List.range 4).map fun d => atD s.clock d 0 + s.edges dt d }

/-- What happens at an edge of 1 ms: a scheduling period (04 R78) and the windows of the hot-page trackers (03 R69) end, and the Sterling
records are folded (R73). -/
def State.msEdge (s : State) : State :=
  if s.refTime < s.plant.nextPeriod then s else (forAll State.hotWindow s.periodEnd [0, 1, 2, 3]).foldSterling

/-- The next time at which something happens by itself: an edge of 1 ms, a reconcile pass (02 R39), the refresh of a guest counter page
(03 R75), the timeout of a WAIT (02 R43), or the end of a team watchdog's period (06 R141). -/
def State.nextEdge (s : State) : Nat :=
  let gcnt := s.funcs.filterMap fun x => if x.2.gcntEnable then some x.2.gcntAt else none
  let waits := (s.queues.filterMap fun x => x.2.timeout).filter fun d => decide (s.refTime < d)
  (gcnt ++ waits ++ s.watchEnds).foldl min (min s.plant.nextPeriod s.plant.nextReconcile)

/-- What happens there. -/
def State.edge (s : State) : State :=
  let s := (forAll State.gcntRefresh s.msEdge (s.funcs.map (·.1))).reconcile
  (forAll State.endTimeout s (s.queues.map (·.1))).teamWatches

/-- Reference time passes, edge by edge. -/
def State.passTo : Nat → Nat → State → State
  | 0, till, s => s.elapse (till - s.refTime)
  | n + 1, till, s =>
    if till < s.nextEdge then s.elapse (till - s.refTime)
    else State.passTo n till ((s.elapse (s.nextEdge - s.refTime)).afterCopies State.edge)

/-- The compute dies have no power: only a cold reset brings them back (01 R27). -/
def State.dark (s : State) : Bool := [0, 1, 2, 3].all fun d => !(s.die d).powered

/-- `dt` nanoseconds of reference time pass. Without power on the compute dies no more happens to them. -/
def State.pass (s : State) (dt : Nat) : State :=
  if dt = 0 then s
  else if s.dark then { s with refTime := s.refTime + dt }
  else
    let s := s.afterCopies State.splitWatches
    State.passTo (18 * (dt / 1000000 + 2) + dt / 50000 + s.queues.length + 4 * s.groups.length) (s.refTime + dt) s

end Sys2Proof.Machine
end

