-- ==== Sys2Proof/Machine/Lane.lean ====
section
/-!
DEFINITION. Lane movement, votes, reductions and scans (14 R317 to R319; 09 R211).
-/

namespace Sys2Proof.Machine

open Sys2Proof

/-- The thread read for index `j` by thread `t` (R317): its own when `j` is not an active thread of the split. -/
def Site.pick (h : Site) (j : Nat) (t : Nat) : Nat := if j < h.g.width && h.mask.getLsbD j then j else t

/-- shfl and shfx: `ix` gives the index from a thread. In the drain class (12 R254). -/
def shuffle (s : State) (d a : BitVec 8) (plain : List Nat) (ix : Site → Nat → Nat) : Host.Outcome State Fault Refusal :=
  issue s fun h => do
    h.accepts tyScalar
    h.typed h.ty [d.toNat, a.toNat] plain
    .ok ((vecWrite s h d fun t => h.elem h.ty a.toNat (h.pick (ix h t) t)).drain h)

def execShfl (d a b : BitVec 8) (s : State) : Host.Outcome State Fault Refusal :=
  shuffle s d a [b.toNat] fun h t => (h.vr b.toNat t).toNat
def execShflUniform (d a : BitVec 8) (b : BitVec 6) (s : State) : Host.Outcome State Fault Refusal :=
  shuffle s d a [] fun h _ => (h.kr b.toNat).toNat
def execShfx (d a b : BitVec 8) (s : State) : Host.Outcome State Fault Refusal :=
  shuffle s d a [b.toNat] fun h t => t ^^^ (h.vr b.toNat t).toNat
def execShfxImm (d a i : BitVec 8) (s : State) : Host.Outcome State Fault Refusal :=
  shuffle s d a [] fun _ t => t ^^^ i.toNat

/-- Votes over the active threads that the guard enables (R318). -/
def vote (s : State) (d : BitVec 6) (f : Site → Word64) : Host.Outcome State Fault Refusal :=
  issue s fun h => .ok ((s.writeK h d.toNat (f h)).advance h)

def execVany (d : BitVec 6) (a : BitVec 3) (s : State) : Host.Outcome State Fault Refusal :=
  vote s d fun h => if h.acting.any fun t => (h.pr a.toNat).getLsbD t then 1 else 0
def execVall (d : BitVec 6) (a : BitVec 3) (s : State) : Host.Outcome State Fault Refusal :=
  vote s d fun h => if h.acting.all fun t => (h.pr a.toNat).getLsbD t then 1 else 0
def execVbal (d : BitVec 6) (a : BitVec 3) (s : State) : Host.Outcome State Fault Refusal :=
  vote s d fun h => maskWhere (fun t => (h.pr a.toNat).getLsbD t) h.acting

/-! ### Reductions (R211, R319) -/

/-- One integer step: narrowed like any integer result. -/
def combineInt (t : BitVec 5) (sat : Bool) (o : Nat) (x y : Word64) : Word64 :=
  let a := intOf t x
  let b := intOf t y
  match o with
  | 0 => intTo t sat (a + b)
  | 1 => intTo t sat (min a b)
  | 2 => intTo t sat (max a b)
  | 3 => lowBits (tyWidth t) (x &&& y)
  | 4 => lowBits (tyWidth t) (x ||| y)
  | _ => lowBits (tyWidth t) (x ^^^ y)

/-- One floating-point step: an add rounds, and a minimum or maximum does not. -/
def combineF (t : BitVec 5) (c : FCtl) (o : Nat) (x y : Word64) : Word64 :=
  let f := fmtOf t
  let a := loadF f c.ftz x.toNat
  let b := loadF f c.ftz y.toNat
  BitVec.ofNat 64 (match o with
    | 0 => storeF f c (addF c.round a b)
    | 1 => storeF f { c with sat := false } (minMaxF false a b)
    | _ => storeF f { c with sat := false } (minMaxF true a b))

def combine (t : BitVec 5) (c : FCtl) (o : Nat) (x y : Word64) : Word64 :=
  if tyIsInt t then combineInt t c.sat o x y else combineF t c o x y

/-- A value as it enters acc: flushed with FTZ, a NaN as the canonical one. -/
def enterAcc (t : BitVec 5) (c : FCtl) (x : Word64) : Word64 :=
  if tyIsInt t then x
  else BitVec.ofNat 64 (storeF (fmtOf t) { c with sat := false } (loadF (fmtOf t) c.ftz x.toNat))

/-- A result as it is stored (09 R202, R203). -/
def storeAcc (t : BitVec 5) (c : FCtl) (x : Word64) : Word64 :=
  if tyIsInt t then x else BitVec.ofNat 64 (storeF (fmtOf t) c (decodeF (fmtOf t) x.toNat))

/-- The running results, thread by thread, from the lowest contributor (R211). -/
def scanFrom (f : Word64 → Word64 → Word64) : Word64 → List (Nat × Word64) → List (Nat × Word64)
  | _, [] => []
  | acc, (t, x) :: r => let y := f acc x; (t, y) :: scanFrom f y r

def scanAll (f : Word64 → Word64 → Word64) : List (Nat × Word64) → List (Nat × Word64)
  | [] => []
  | (t, x) :: r => (t, x) :: scanFrom f x r

/-- The inclusive results of the contributors of a reduction over V[a]. -/
def Site.scan (h : Site) (a o : Nat) : List (Nat × Word64) :=
  scanAll (combine h.ty h.fctl o) (h.acting.map fun t => (t, enterAcc h.ty h.fctl (h.elem h.ty a t)))

/-- gred and gscan accept integers, and floating types for add, min and max (12 R251). -/
def redAccepts (o : BitVec 3) (t : BitVec 5) : Bool := tyIsInt t || (tyIsFloat t && decide (o.toNat ≤ 2))

/-- An integer result extended to 64 bits, a floating one zero-extended (R319). -/
def redResult (t : BitVec 5) (x : Word64) : Word64 := if tyIsInt t then BitVec.ofInt 64 (intOf t x) else x

def execGred (d : BitVec 6) (a : BitVec 8) (o : BitVec 3) (s : State) : Host.Outcome State Fault Refusal :=
  issue s fun h => do
    need (decide (o.toNat ≤ 5)) .encIllegal 0 h.mask
    h.accepts (redAccepts o)
    h.typed h.ty [a.toNat] []
    let r : Word64 := match (h.scan a.toNat o.toNat).getLast? with
      | none => 0
      | some (_, x) => redResult h.ty (storeAcc h.ty h.fctl x)
    .ok (((s.writeK h d.toNat r).advance h).drain h)

def execGscan (d a : BitVec 8) (o : BitVec 3) (s : State) : Host.Outcome State Fault Refusal :=
  issue s fun h => do
    need (decide (o.toNat ≤ 5)) .encIllegal 0 h.mask
    h.accepts (redAccepts o)
    h.typed h.ty [d.toNat, a.toNat] []
    let rs := h.scan a.toNat o.toNat
    .ok ((vecWrite s h d fun t => storeAcc h.ty h.fctl ((tget rs t).getD 0)).drain h)

end Sys2Proof.Machine
end

