-- ==== Sys2Proof/Machine/Matrix.lean ====
section
/-!
DEFINITION. The matrix unit (16 R356 to R365; 07 R154, R155; 09 R209, R210): its instructions and the event MATRIX_RETIRE.
An operation reads its operands and writes its results when it retires, in the order of acceptance.
-/

namespace Sys2Proof.Machine

open Sys2Proof

/-! ### Tile registers (R356) -/

/-- The descriptor of a tile register, and its rows. -/
structure Tile where
  mx : Nat
  kx : Nat
  m : Nat
  k : Nat
  mbits : Nat
  bl : Nat
  tvalid : Bool
  data : Mem
  deriving DecidableEq, Repr

def Tile.of (d : Mem) : Tile :=
  { mx := readLe d 16320 2, kx := readLe d 16322 2, m := readLe d 16324 2, k := readLe d 16326 2,
    mbits := readLe d 16328 1, bl := 8 * 2 ^ (readLe d 16329 1), tvalid := (readCell d 16330).getLsbD 0, data := d }

/-- One row of an operand: its mantissas as a bit string, and its scales. -/
structure MRow where
  bits : Nat
  scales : List Byte
  deriving DecidableEq, Repr

def Tile.row (t : Tile) (r : Nat) : MRow :=
  let n := t.kx * t.mbits / 8
  { bits := readLe t.data (r * n) n, scales := readBytes t.data (t.mx * n + r * (t.kx / t.bl)) (t.kx / t.bl) }

/-- Mantissa `k` of a row (09 R206). -/
def MRow.mant (r : MRow) (m k : Nat) : Int :=
  let q := r.bits / 2 ^ (m * k) % 2 ^ m
  if 2 ^ (m - 1) ≤ q then (q : Int) - 2 ^ m else q

def MRow.scale (r : MRow) (bl k : Nat) : Nat := (atD r.scales (k / bl) 0).toNat

/-- An operand of a product: mantissa width and block length. -/
structure MForm where
  m : Nat
  bl : Nat
  deriving DecidableEq, Repr

/-- One step of R209: the sub-block of `s` elements at `k0` is added to the accumulator element. -/
def macStep (fa fb : MForm) (a b : MRow) (s : Nat) (acc : Word32) (k0 : Nat) : Word32 :=
  let ea := a.scale fa.bl k0
  let eb := b.scale fb.bl k0
  if ea = 0xFF || eb = 0xFF then BitVec.ofNat 32 fmtF32.nan
  else
    let p := (List.range s).foldl (fun x i => x + a.mant fa.m (k0 + i) * b.mant fb.m (k0 + i)) (0 : Int)
    let e : Int := (ea : Int) + eb - 254 - (fa.m - 2) - (fb.m - 2)
    BitVec.ofNat 32 (storeF fmtF32 FCtl.plain (addF .rne (decodeF fmtF32 acc.toNat) (.fin (decide (p < 0)) p.natAbs e)))

/-- One output element (R209): sub-blocks in ascending K. -/
def macElem (fa fb : MForm) (a b : MRow) (k : Nat) (acc : Word32) : Word32 :=
  let s := min fa.bl fb.bl
  ((List.range (k / s)).map (s * ·)).foldl (macStep fa fb a b s) acc

/-! ### The unit -/

/-- Cores whose units an operation takes its place in (R358). -/
def MatOp.cores (m : MatOp) (t : Team) : List Nat :=
  if m.kind.paired then [m.core, t.core + (t.core + 1 - m.core)] else [m.core]

/-- Bytes an operation writes are free values if something spoiled it. -/
def spoiled (s : State) (m : MatOp) (i : Nat) (b : Byte) : Byte :=
  if m.spoiled then Config.freeValue 8 (s.freeCtr * 2 ^ 24 + 0x600000 + i) else b

/-- Offset of a tile register or an accumulator among the team's bytes. -/
def tileOff (t : Team) (core i : Nat) : Nat := (core - t.core) * 0x20000 + i * 0x4000
def accOff (t : Team) (core i : Nat) : Nat := (core - t.core) * 0x80000 + i * 0x10000

/-- Such a value of a descriptor field, in its range. -/
def spoiledField (s : State) (m : MatOp) (i unit top x : Nat) : Nat :=
  if m.spoiled then unit * (1 + (Config.freeValue 16 (s.freeCtr * 2 ^ 24 + 0x6F0000 + i)).toNat % (top / unit)) else x

def putTile (s : State) (m : MatOp) (t : Team) (a : Nat) (bs : List Byte) : Team :=
  { t with tiles := writeBytes t.tiles a (bs.mapIdx fun i b => spoiled s m i b) }

/-- Element (i, j) of an accumulator (07 R152). -/
def accElem (t : Team) (off i j : Nat) : Word32 := BitVec.ofNat 32 (readLe t.accs (off + 4 * (128 * i + j)) 4)

def putAcc (s : State) (m : MatOp) (off i j : Nat) (x : Word32) (t : Team) : Team :=
  let a := off + 4 * (128 * i + j)
  { t with accs := writeBytes t.accs a ((natBytes 4 x.toNat).mapIdx fun n b => spoiled s m (0x20000 + 4 * (128 * i + j) + n) b) }

/-- The operand A under the reuse latch of the leader core (07 R154): its bytes, and the latch after. A group that has left latches
nothing new. -/
def latchRead (s : State) (m : MatOp) (t : Team) (reuse : Bool) (tile : Nat) : Mem × Option Latch :=
  let old := (s.core m.core).latch.filter fun l => l.team == m.team && l.tile == tile
  let data := match old with
    | some l => l.data
    | none => memOf (readBytes t.tiles (tileOff t m.core tile) 0x4000)
  let new : Option Latch := if m.groupLeft then none else some { team := m.team, group := m.group, tile := tile, data := data }
  (data, if reuse then old.orElse fun _ => new else none)

/-- Row `j` of B in the team's scratchpad. -/
def operandRow (t : Team) (b : Ident) (j : Nat) : MRow :=
  let n := b.dim 0 * b.m / 8
  let at' (a : Word64) (i : Nat) : Byte := readCell t.scratch (swizzle b.swz (a.toNat + i))
  { bits := leNat ((List.range n).map (at' (b.rowAddr j 0))),
    scales := (List.range (b.dim 0 / b.bl)).map (at' (b.scaleAddr j 0)) }

/-- mma and mmap (R362): columns from `h` up are formed on the follower core. -/
def matProduct (s : State) (m : MatOp) (t : Team) (reuse : Bool) (acc tile h follower : Nat) : Except Cause State :=
  let b := Ident.of m.id
  let (data, latch) := latchRead s m t reuse tile
  let a := Tile.of data
  if !a.tvalid || a.k != b.dim 0 || a.k % max a.bl b.bl != 0 then .error .tableBound
  else
    let fa : MForm := { m := a.mbits, bl := a.bl }
    let fb : MForm := { m := b.m, bl := b.bl }
    let put (t' : Team) (p : Nat × Nat) : Team :=
      let (i, j) := p
      let (off, c) := if j < h then (accOff t m.core acc, j) else (accOff t follower acc, j - h)
      putAcc s m off i c (macElem fa fb (a.row i) (operandRow t b j) a.k (accElem t off i c)) t'
    let cells := (List.range (min a.m 128)).flatMap fun i => (List.range (b.dim 1)).map fun j => (i, j)
    let cyc := (a.k * a.mbits + 7) / 8 * if m.kind.paired then 2 else 1
    let s1 := s.setCore m.core { s.core m.core with latch := latch }
    let s2 := s1.setTeam m.team (cells.foldl put t)
    .ok (s2.modCtx m.ctx fun c => { c with sterling := { c.sterling with matrixCyc := satAdd c.sterling.matrixCyc cyc } })

/-- The tile that tld loads (R359). -/
def loadTile (t : Team) (b : Ident) : List Byte :=
  let rows := (List.range (b.dim 1)).map (operandRow t b)
  rows.flatMap (fun r => natBytes (b.dim 0 * b.m / 8) r.bits) ++ rows.flatMap (·.scales)

def tileDesc (b : Ident) : List Byte :=
  natBytes 2 (b.dim 1) ++ natBytes 2 (b.dim 0) ++ natBytes 2 (b.dim 1) ++ natBytes 2 (b.dim 0) ++ natBytes 1 b.m ++
  natBytes 1 (b.bfp / 16 % 4) ++ natBytes 1 1

/-- One row of an accumulator read out in a format (R364). -/
def accRow (b : Ident) (xs : List Word32) : List (List Byte) :=
  let vs := xs.map fun x => decodeF fmtF32 x.toNat
  match b.fmt with
  | 0 => [xs.flatMap fun x => natBytes 4 x.toNat]
  | 5 => bfpRow b.m b.bl vs
  | f => [vs.flatMap fun v => natBytes (b.width / 8) (storeF (fmtOf (fmtType f)) FCtl.plain v)]

/-- Writes the rows of a read-out, the lowest first. -/
def accDeliver (s0 : State) (m : MatOp) (t : Team) (acc : Nat) : List Nat → State → Except Stop State
  | [], s => .ok s
  | i :: r, s =>
    let b := Ident.of m.id
    let xs := (List.range (b.dim 0)).map (accElem t (accOff t m.core acc) i)
    let bss := (accRow b xs).mapIdx fun n bs => bs.mapIdx fun k x => spoiled s0 m (1024 * i + 512 * n + k) x
    match writeSpans { ctx := m.ctx, die := dieOf m.core, q := m.q, into := m.into } m.team b (b.spans i 0 (b.dim 0)) bss s with
    | .error e => .error e
    | .ok s1 => accDeliver s0 m t acc r s1

/-- A tile register that tld has loaded whole. The reuse latch may hold what it held before (07 R154). -/
def State.freshTile (s : State) (m : MatOp) (i : Nat) (t : Team) : Team :=
  if (s.core m.core).latch.any fun l => l.team == m.team && l.tile == i then t
  else { t with badTiles := t.badTiles.filter (· != 8 * (m.core - t.core) + i) }

/-- Carries an operation out in its turn. A shape that an undefined K[a] keeps from being one leaves an undefined shape (00 R6). -/
def matRun (s : State) (m : MatOp) : Except Stop State :=
  match tget s.teams m.team with
  | none => .ok s
  | some t =>
    let up (r : Except Cause State) : Except Stop State := lift 0 r
    let b := Ident.of m.id
    match m.kind with
    | .tld i =>
      let off := tileOff t m.core i
      let t1 := putTile s m (s.freshTile m i t) off (loadTile t b)
      .ok (s.setTeam m.team { t1 with tiles := writeBytes t1.tiles (off + 16320) (tileDesc b) })
    | .shape i r k =>
      let off := tileOff t m.core i
      let a := Tile.of (memOf (readBytes t.tiles off 0x4000))
      let ok := a.tvalid && r != 0 && decide (r ≤ a.mx) && k != 0 && k % a.bl == 0 && decide (k ≤ a.kx)
      let m := if ok then m else { m with spoiled := true }
      if !ok && !(m.undef && a.tvalid) then .error (.cause .tableBound 0 0)
      else
        let bs := natBytes 2 (spoiledField s m 0 1 a.mx r) ++ natBytes 2 (spoiledField s m 1 a.bl a.kx k)
        .ok (s.setTeam m.team { t with tiles := writeBytes t.tiles (off + 16324) bs })
    | .accz i =>
      let off := accOff t m.core i
      .ok (s.setTeam m.team { t with accs := writeBytes t.accs off ((natBytes 0x10000 0).mapIdx fun j x => spoiled s m j x) })
    | .mma reuse i ta => up (matProduct s m t reuse i ta (b.dim 1) m.core)
    | .mmap reuse i ta =>
      up (matProduct s m t reuse i ta ((b.dim 1 + 1) / 2) (t.core + (t.core + 1 - m.core)))
    | .accrd i => accDeliver s m t i (List.range (b.dim 1)) s

/-- What something else wrote to the registers of an operation between its retirement and its mwait leaves undefined values in them
and in the operation's result (07 R155): a whole tile register or accumulator, or the rows that accrd wrote. -/
def State.undefine (s : State) (m : MatOp) : State :=
  match tget s.teams m.team with
  | none => s
  | some t =>
    let accs (core i : Nat) (t : Team) : Team :=
      { t with accs := writeBytes t.accs (accOff t core i) ((natBytes 0x10000 0).mapIdx fun j x => spoiled s m j x) }
    let tile (i : Nat) : Team := putTile s m t (tileOff t m.core i) (natBytes 16320 0)
    match m.kind with
    | .tld i | .shape i _ _ => s.setTeam m.team (tile i)
    | .accz i | .mma _ i _ => s.setTeam m.team (accs m.core i t)
    | .mmap _ i _ => s.setTeam m.team (accs (t.core + 1) i (accs t.core i t))
    | .accrd i => match accDeliver s m t i (List.range ((Ident.of m.id).dim 1)) s with | .ok s' => s' | .error _ => s

/-- The tile register that an operation uses has a descriptor with undefined values (07 R155). -/
def State.badTile (s : State) (m : MatOp) : Bool :=
  (tget s.teams m.team).any fun t => m.kind.tile.any fun i => t.badTiles.contains (8 * (m.core - t.core) + i)

/-- The same: an operation that fails because of an undefined operand has no effect, and one that fails on a descriptor which holds undefined
values leaves undefined values: neither raises a fault (00 R6; 07 R155). -/
def matTry (s : State) (m : MatOp) : Except Stop State :=
  match matRun s m with
  | .error (.cause e a t) =>
    if m.undef then .ok s
    else if s.badTile m then .ok (s.undefine { m with spoiled := true })
    else .error (.cause e a t)
  | r => r

/-- Number of the operation at the head of a core's unit that is at the head of every unit it takes part in. -/
def headOf (s : State) (core : Nat) : Option Nat :=
  let on (m : MatOp) : List Nat := match tget s.teams m.team with | some t => m.cores t | none => [m.core]
  match s.mats.findIdx? fun m => !m.retired && (on m).contains core with
  | none => none
  | some i => match s.mats[i]? with
    | none => none
    | some m => if (s.mats.take i).any fun x => !x.retired && (on x).any (on m).contains then none else some i

/-- What an operation's turn leaves: a wait changes nothing, and a failure ends the context (R132). -/
def State.matDone (s : State) (m : MatOp) (r : Except Stop State) : State :=
  match r with
  | .ok s' => { s' with freeCtr := s'.freeCtr + 1 }
  | .error .wait => s
  | .error (.cause e a _) => s.engineStop m.ctx m.team m.pc e a.toNat

/-- The operation at place `i` has retired. The hazard of its registers lasts until its group's mwait (07 R155), unless the group has
left. -/
def retireMat (mats : List MatOp) (i : Nat) (m : MatOp) : List MatOp :=
  if m.groupLeft then mats.eraseIdx i else mats.set i { m with retired := true }

/-- MATRIX_RETIRE (R363): the operation at the head of the core's unit takes its turn and retires. -/
def execMatrixRetire (core : Nat) (s : State) : Host.Outcome State Fault Refusal :=
  match headOf s core with
  | none => .next s
  | some i => match s.mats[i]? with
    | none => .next s
    | some m => .next (s.matDone m ((matTry s m).map fun s1 => { s1 with mats := retireMat s1.mats i m }))

/-! ### The instructions -/

/-- The team owns the unit of every core the operation takes part in; otherwise it waits without a trap (R105, R358). -/
def ownUnits (s : State) (h : Site) (m : MatOp) : Except Stop Unit :=
  if (m.cores h.team).all fun c => (s.core c).owner == some h.tid then .ok () else .error .wait

/-- A checked operation is accepted, and in an Invar launch takes its turn at once (06 R147). -/
def accept (s : State) (h : Site) (kind : MatKind) (id : Mem) (drain : Bool) (into : List (Nat × Nat) := []) : Except Stop State :=
  let m : MatOp := { q := h.l.q, into := into, core := h.core, team := h.tid, group := h.key, ctx := h.ctx, kind := kind, id := id, spoiled := false,
                     pc := h.sp.pc, undef := h.readsUndef }
  match ownUnits s h m with
  | .error e => .error e
  | .ok _ =>
    let go (s : State) : State := if drain then (s.advance h).drain h else s.advance h
    if h.l.isInvar then match matTry s m with
      | .ok s1 => .ok (go s1)
      | .error .wait => .error .wait
      | .error (.cause e a _) => .ok (s.engineStop m.ctx m.team m.pc e a.toNat)
    else .ok (go { s with mats := s.mats ++ [m] })

/-- A BFP operand in scratchpad (R359, R362): its form, its row count and its bounds and tags. -/
def checkOperand (s : State) (h : Site) (b : Ident) (lo hi : Nat) (more : Bool) : Except Stop Unit :=
  if !(b.valid && b.spad && b.fmt == 5 && b.dim 2 == 1 && b.dim 3 == 1 && decide (lo ≤ b.dim 1) && decide (b.dim 1 ≤ hi) && more) then
    .error (.cause .tableBound 0 h.mask)
  else
    let ps := (List.range (b.dim 1)).flatMap fun j => b.spans j 0 (b.dim 0)
    match checkScratch (s.teamScratch h.team) ps with
    | .error e => .error e
    | .ok _ => checkAll (fun p => checkAll (fun i =>
        need (readCell h.team.tags ((p.addr.toNat + i) / 1024) == BitVec.ofNat 2 b.swz) .swizzleMismatch p.addr 0)
        (List.range p.n)) ps

/-- tld (R359). -/
def execTld (t : BitVec 3) (i : BitVec 8) (s : State) : Host.Outcome State Fault Refusal :=
  issue s fun h => do
    let id := s.ident h.ctx i.toNat
    let b := Ident.of id
    let n := b.dim 1 * b.dim 0
    checkOperand s h b 1 128 (decide (n * b.m / 8 + n / b.bl ≤ 16320))
    atomsDone s h
    accept s h (.tld t.toNat) id false

/-- shape (R360). -/
def execShape (a : BitVec 6) (s : State) : Host.Outcome State Fault Refusal :=
  issue s fun h =>
    let k := h.kr a.toNat
    accept s h (.shape (k.toNat % 8) (k.extractLsb' 8 8).toNat (k.extractLsb' 16 16).toNat) [] false

/-- fenop (R361): earlier accesses are performed, but for atomics on their way. -/
def execFenop (s : State) : Host.Outcome State Fault Refusal :=
  issue s fun h => do
    atomsDone s h
    .ok (s.advance h)

/-- mma (R362). -/
def execMma (r : BitVec 1) (d t : BitVec 3) (i : BitVec 8) (s : State) : Host.Outcome State Fault Refusal :=
  issue s fun h => do
    let id := s.ident h.ctx i.toNat
    checkOperand s h (Ident.of id) 1 128 true
    atomsDone s h
    accept s h (.mma (r == 1) d.toNat t.toNat) id false

/-- mmap (R362): only in a PAIR team. -/
def execMmap (r : BitVec 1) (d t : BitVec 3) (i : BitVec 8) (s : State) : Host.Outcome State Fault Refusal :=
  issue s fun h => do
    let id := s.ident h.ctx i.toNat
    checkOperand s h (Ident.of id) 2 256 h.team.pair
    atomsDone s h
    accept s h (.mmap (r == 1) d.toNat t.toNat) id false

/-- accz (R364). -/
def execAccz (d : BitVec 3) (s : State) : Host.Outcome State Fault Refusal :=
  issue s fun h => accept s h (.accz d.toNat) [] false

/-- accrd (R364). -/
def execAccrd (d : BitVec 3) (i : BitVec 8) (s : State) : Host.Outcome State Fault Refusal :=
  issue s fun h => do
    let id := s.ident h.ctx i.toNat
    let b := Ident.of id
    need (b.valid && b.dim 2 == 1 && b.dim 3 == 1 && decide (b.dim 0 ≤ 128) && decide (b.dim 1 ≤ 128) &&
      decide (b.fmt ≤ 5) && (b.fmt != 5 || b.dim 0 % b.bl == 0)) .tableBound 0 h.mask
    let ps := (List.range (b.dim 1)).flatMap fun j => b.spans j 0 (b.dim 0)
    if b.spad then checkScratch (s.teamScratch h.team) ps else checkAll (s.windowCheck h.ctx .write) ps
    atomsDone s h
    accept s h (.accrd d.toNat) id false (if b.spad then [] else s.reached h.ctx .write ps)

/-- The hazard of a group's operations ends (R365; 07 R155). -/
def State.waited (s : State) (key : Nat) : State :=
  let s1 := forAll State.undefine s (s.mats.filter fun m => m.group == key && m.spoiled)
  { s1 with mats := s1.mats.filter fun m => m.group != key }

/-- mwait (R365). -/
def execMwait (s : State) : Host.Outcome State Fault Refusal :=
  issue s fun h => if s.mats.any fun m => m.group == h.key && !m.retired then .error .wait else .ok ((s.waited h.key).advance h)

end Sys2Proof.Machine
end

