-- ==== Sys2Proof/Machine/Uniform.lean ====
section
/-!
DEFINITION. Uniform integer instructions (13 R293, R294): 64-bit values, once for each issue, whatever the mode and guard.
-/

namespace Sys2Proof.Machine

open Sys2Proof

/-- K[d] gets a value computed from the registers at issue. -/
def uniform (s : State) (d : BitVec 6) (f : Site → Word64) : Host.Outcome State Fault Refusal :=
  issue s fun h => .ok ((s.writeK h d.toNat (f h)).advance h)

def sext8 (i : BitVec 8) : Word64 := i.signExtend 64
def zext8 (i : BitVec 8) : Word64 := i.setWidth 64

/-- High half of a product: signed for u = 0, unsigned for u = 1. -/
def mulHigh (u : BitVec 1) (x y : Word64) : Word64 :=
  if u = 1 then BitVec.ofNat 64 (x.toNat * y.toNat / 2 ^ 64) else BitVec.ofInt 64 (x.toInt * y.toInt / 2 ^ 64)

/-- The lesser: signed for u = 0, unsigned for u = 1. -/
def minU (u : BitVec 1) (x y : Word64) : Word64 := if (if u = 1 then y.ult x else y.slt x) then y else x
def maxU (u : BitVec 1) (x y : Word64) : Word64 := if (if u = 1 then x.ult y else x.slt y) then y else x

/-- The number of 1 bits. -/
def popCount (x : Word64) : Word64 := BitVec.ofNat 64 (threadsOf x).length

/-- The index of the lowest 1 bit, or 64. -/
def firstOne (x : Word64) : Word64 := BitVec.ofNat 64 ((threadsOf x).headD 64)

/-- A predicate read as a WIDTH-bit value (R294). -/
def Site.wholePred (h : Site) (a : BitVec 3) : Word64 := h.pr a.toNat &&& maskOf h.g.width

/-- The shift amount of a register (R294). -/
def amount (x : Word64) : Nat := (x.extractLsb' 0 6).toNat

def execKli (d : BitVec 6) (i : BitVec 16) (s : State) : Host.Outcome State Fault Refusal :=
  uniform s d fun _ => i.signExtend 64

/-- klih: halfword `p` from 1 to 3; 0 is ENC_ILLEGAL (12 R256). -/
def execKlih (p : BitVec 2) (d : BitVec 6) (i : BitVec 16) (s : State) : Host.Outcome State Fault Refusal :=
  issue s fun h =>
    if p = 0 then .error (.cause .encIllegal 0 h.mask)
    else
      let sh := 16 * p.toNat
      let x := (h.kr d.toNat &&& ~~~(0xFFFF#64 <<< sh)) ||| (i.setWidth 64 <<< sh)
      .ok ((s.writeK h d.toNat x).advance h)

def execKmov (d a : BitVec 6) (s : State) : Host.Outcome State Fault Refusal := uniform s d fun h => h.kr a.toNat

def execKadd (d a b : BitVec 6) (s : State) : Host.Outcome State Fault Refusal :=
  uniform s d fun h => h.kr a.toNat + h.kr b.toNat

def execKaddImm (d a : BitVec 6) (i : BitVec 8) (s : State) : Host.Outcome State Fault Refusal :=
  uniform s d fun h => h.kr a.toNat + sext8 i

def execKsub (d a b : BitVec 6) (s : State) : Host.Outcome State Fault Refusal :=
  uniform s d fun h => h.kr a.toNat - h.kr b.toNat

def execKsubImm (d a : BitVec 6) (i : BitVec 8) (s : State) : Host.Outcome State Fault Refusal :=
  uniform s d fun h => h.kr a.toNat - sext8 i

def execKmul (d a b : BitVec 6) (s : State) : Host.Outcome State Fault Refusal :=
  uniform s d fun h => h.kr a.toNat * h.kr b.toNat

def execKmulImm (d a : BitVec 6) (i : BitVec 8) (s : State) : Host.Outcome State Fault Refusal :=
  uniform s d fun h => h.kr a.toNat * sext8 i

def execKmulh (u : BitVec 1) (d a b : BitVec 6) (s : State) : Host.Outcome State Fault Refusal :=
  uniform s d fun h => mulHigh u (h.kr a.toNat) (h.kr b.toNat)

def execKand (d a b : BitVec 6) (s : State) : Host.Outcome State Fault Refusal :=
  uniform s d fun h => h.kr a.toNat &&& h.kr b.toNat

def execKandImm (d a : BitVec 6) (i : BitVec 8) (s : State) : Host.Outcome State Fault Refusal :=
  uniform s d fun h => h.kr a.toNat &&& zext8 i

def execKor (d a b : BitVec 6) (s : State) : Host.Outcome State Fault Refusal :=
  uniform s d fun h => h.kr a.toNat ||| h.kr b.toNat

def execKorImm (d a : BitVec 6) (i : BitVec 8) (s : State) : Host.Outcome State Fault Refusal :=
  uniform s d fun h => h.kr a.toNat ||| zext8 i

def execKxor (d a b : BitVec 6) (s : State) : Host.Outcome State Fault Refusal :=
  uniform s d fun h => h.kr a.toNat ^^^ h.kr b.toNat

def execKxorImm (d a : BitVec 6) (i : BitVec 8) (s : State) : Host.Outcome State Fault Refusal :=
  uniform s d fun h => h.kr a.toNat ^^^ zext8 i

def execKshl (d a b : BitVec 6) (s : State) : Host.Outcome State Fault Refusal :=
  uniform s d fun h => h.kr a.toNat <<< amount (h.kr b.toNat)

def execKshlImm (d a : BitVec 6) (i : BitVec 6) (s : State) : Host.Outcome State Fault Refusal :=
  uniform s d fun h => h.kr a.toNat <<< i.toNat

def execKshr (d a b : BitVec 6) (s : State) : Host.Outcome State Fault Refusal :=
  uniform s d fun h => h.kr a.toNat >>> amount (h.kr b.toNat)

def execKshrImm (d a : BitVec 6) (i : BitVec 6) (s : State) : Host.Outcome State Fault Refusal :=
  uniform s d fun h => h.kr a.toNat >>> i.toNat

def execKsar (d a b : BitVec 6) (s : State) : Host.Outcome State Fault Refusal :=
  uniform s d fun h => (h.kr a.toNat).sshiftRight (amount (h.kr b.toNat))

def execKsarImm (d a : BitVec 6) (i : BitVec 6) (s : State) : Host.Outcome State Fault Refusal :=
  uniform s d fun h => (h.kr a.toNat).sshiftRight i.toNat

def execKmin (u : BitVec 1) (d a b : BitVec 6) (s : State) : Host.Outcome State Fault Refusal :=
  uniform s d fun h => minU u (h.kr a.toNat) (h.kr b.toNat)

def execKmax (u : BitVec 1) (d a b : BitVec 6) (s : State) : Host.Outcome State Fault Refusal :=
  uniform s d fun h => maxU u (h.kr a.toNat) (h.kr b.toNat)

/-- kcmp: conditions 6 and 7 are ENC_ILLEGAL. -/
def execKcmp (c : BitVec 3) (d a b : BitVec 6) (s : State) : Host.Outcome State Fault Refusal :=
  issue s fun h =>
    if 5 < c.toNat then .error (.cause .encIllegal 0 h.mask)
    else .ok ((s.writeK h d.toNat (if kcmpCond c.toNat (h.kr a.toNat) (h.kr b.toNat) then 1 else 0)).advance h)

/-- ksel: K[d] is the condition and the destination. -/
def execKsel (d a b : BitVec 6) (s : State) : Host.Outcome State Fault Refusal :=
  uniform s d fun h => if h.kr d.toNat = 0 then h.kr b.toNat else h.kr a.toNat

def execKpop (d a : BitVec 6) (s : State) : Host.Outcome State Fault Refusal :=
  uniform s d fun h => popCount (h.kr a.toNat)

def execKpopPred (d : BitVec 6) (a : BitVec 3) (s : State) : Host.Outcome State Fault Refusal :=
  uniform s d fun h => popCount (h.wholePred a)

def execKfirst (d a : BitVec 6) (s : State) : Host.Outcome State Fault Refusal :=
  uniform s d fun h => firstOne (h.kr a.toNat)

def execKfirstPred (d : BitVec 6) (a : BitVec 3) (s : State) : Host.Outcome State Fault Refusal :=
  uniform s d fun h => firstOne (h.wholePred a)

end Sys2Proof.Machine
end

