-- ==== Sys2Proof/Machine/Dispatch.lean ====
section
/-!
DEFINITION. One arm per row of the opcode table: each calls the meaning of its instruction or event.
-/

namespace Sys2Proof.Machine

open Sys2Proof

def exec (i : Instr) (s : State) : Host.Outcome State Fault Refusal :=
  match i with
  | .coldReset wieloOk configOk restOk => Sys2Proof.Machine.execColdReset wieloOk configOk restOk s
  | .hotReset link => Sys2Proof.Machine.execHotReset link s
  | .functionLevelReset fn => Sys2Proof.Machine.execFunctionLevelReset fn s
  | .linkDown link => Sys2Proof.Machine.execLinkDown link s
  | .solderCrcRetry boundary ok => Sys2Proof.Machine.execSolderCrcRetry boundary ok s
  | .portDown port => Sys2Proof.Machine.execPortDown port s
  | .peerWriteIn ctx va data sig => Sys2Proof.Machine.execPeerWriteIn ctx va data sig s
  | .patrolScrub stack => Sys2Proof.Machine.execPatrolScrub stack s
  | .rowRepair stack bank row granule => Sys2Proof.Machine.execRowRepair stack bank row granule s
  | .repairCopyDone stack => Sys2Proof.Machine.execRepairCopyDone stack s
  | .rowHammer fn stack bank deferred => Sys2Proof.Machine.execRowHammer fn stack bank deferred s
  | .hammerWindowEnd stack => Sys2Proof.Machine.execHammerWindowEnd stack s
  | .thermalLimit die temp => Sys2Proof.Machine.execThermalLimit die temp s
  | .droop die => Sys2Proof.Machine.execDroop die s
  | .droopRecover die => Sys2Proof.Machine.execDroopRecover die s
  | .lockstepMismatch die => Sys2Proof.Machine.execLockstepMismatch die s
  | .frontEndCheckpoint die => Sys2Proof.Machine.execFrontEndCheckpoint die s
  | .spdmRequest version request => Sys2Proof.Machine.execSpdmRequest version request s
  | .mctpSterlingRead ctx => Sys2Proof.Machine.execMctpSterlingRead ctx s
  | .registerWrite bar fn off size val => Sys2Proof.Machine.execRegisterWrite bar fn off size val s
  | .doorbell fn off size val => Sys2Proof.Machine.execDoorbell fn off size val s
  | .qcmdReset fn val => Sys2Proof.Machine.execQcmdReset fn val s
  | .qpcmdReset fn val => Sys2Proof.Machine.execQpcmdReset fn val s
  | .qpcmdEnable fn val => Sys2Proof.Machine.execQpcmdEnable fn val s
  | .qpcmdDisable fn val => Sys2Proof.Machine.execQpcmdDisable fn val s
  | .resetDone => Sys2Proof.Machine.execResetDone s
  | .disableDone => Sys2Proof.Machine.execDisableDone s
  | .reconcilePass => Sys2Proof.Machine.execReconcilePass s
  | .mbSubmitUnknown => Sys2Proof.Machine.execMbSubmitUnknown s
  | .mbResponse => Sys2Proof.Machine.execMbResponse s
  | .eventRingWrite => Sys2Proof.Machine.execEventRingWrite s
  | .pfeqCtlWrite val => Sys2Proof.Machine.execPfeqCtlWrite val s
  | .stackStat => Sys2Proof.Machine.execStackStat s
  | .powerLimitRead => Sys2Proof.Machine.execPowerLimitRead s
  | .powerLimitSet => Sys2Proof.Machine.execPowerLimitSet s
  | .partSet => Sys2Proof.Machine.execPartSet s
  | .partDel => Sys2Proof.Machine.execPartDel s
  | .inval => Sys2Proof.Machine.execInval s
  | .sterlingRead => Sys2Proof.Machine.execSterlingRead s
  | .sterlingAck => Sys2Proof.Machine.execSterlingAck s
  | .dieStats => Sys2Proof.Machine.execDieStats s
  | .squeeze core => Sys2Proof.Machine.execSqueeze core s
  | .squeezeHandover core => Sys2Proof.Machine.execSqueezeHandover core s
  | .unsqueeze => Sys2Proof.Machine.execUnsqueeze s
  | .trapCmd => Sys2Proof.Machine.execTrapCmd s
  | .caStoreCreate => Sys2Proof.Machine.execCaStoreCreate s
  | .caStoreDelete => Sys2Proof.Machine.execCaStoreDelete s
  | .caBind => Sys2Proof.Machine.execCaBind s
  | .caUnbind => Sys2Proof.Machine.execCaUnbind s
  | .finalise => Sys2Proof.Machine.execFinalise s
  | .caLineRead => Sys2Proof.Machine.execCaLineRead s
  | .caRootRead => Sys2Proof.Machine.execCaRootRead s
  | .switchOut => Sys2Proof.Machine.execSwitchOut s
  | .switchIn => Sys2Proof.Machine.execSwitchIn s
  | .switchInRestore core => Sys2Proof.Machine.execSwitchInRestore core s
  | .nopPacket => Sys2Proof.Machine.execNopPacket s
  | .launch => Sys2Proof.Machine.execLaunch s
  | .signal => Sys2Proof.Machine.execSignal s
  | .wait => Sys2Proof.Machine.execWait s
  | .waitSatisfied => Sys2Proof.Machine.execWaitSatisfied s
  | .waitTimeout => Sys2Proof.Machine.execWaitTimeout s
  | .publish => Sys2Proof.Machine.execPublish s
  | .marker => Sys2Proof.Machine.execMarker s
  | .packetComplete => Sys2Proof.Machine.execPacketComplete s
  | .engineFault ctx cause addr => Sys2Proof.Machine.execEngineFault ctx cause addr s
  | .schedPeriod => Sys2Proof.Machine.execSchedPeriod s
  | .saveDrainDone core => Sys2Proof.Machine.execSaveDrainDone core s
  | .overBudget => Sys2Proof.Machine.execOverBudget s
  | .teamDispatch die => Sys2Proof.Machine.execTeamDispatch die s
  | .stepAgree launch => Sys2Proof.Machine.execStepAgree launch s
  | .teamComplete team => Sys2Proof.Machine.execTeamComplete team s
  | .dieIdle die => Sys2Proof.Machine.execDieIdle die s
  | .stealReq victim => Sys2Proof.Machine.execStealReq victim s
  | .stealGive thief => Sys2Proof.Machine.execStealGive thief s
  | .stealNone thief => Sys2Proof.Machine.execStealNone thief s
  | .stealDone victim => Sys2Proof.Machine.execStealDone victim s
  | .gatherTimeout die bin => Sys2Proof.Machine.execGatherTimeout die bin s
  | .joinRecordEnqueue die => Sys2Proof.Machine.execJoinRecordEnqueue die s
  | .expansion core => Sys2Proof.Machine.execExpansion core s
  | .notice => Sys2Proof.Machine.execNotice s
  | .trapTake core => Sys2Proof.Machine.execTrapTake core s
  | .trapCtlResume => Sys2Proof.Machine.execTrapCtlResume s
  | .trapCtlHalt => Sys2Proof.Machine.execTrapCtlHalt s
  | .trapCtlClearResume => Sys2Proof.Machine.execTrapCtlClearResume s
  | .trapCtlEnd => Sys2Proof.Machine.execTrapCtlEnd s
  | .groupStateWrite core entry off val => Sys2Proof.Machine.execGroupStateWrite core entry off val s
  | .watchdogSplit => Sys2Proof.Machine.execWatchdogSplit s
  | .watchdogTeam => Sys2Proof.Machine.execWatchdogTeam s
  | .pcSample core quarter => Sys2Proof.Machine.execPcSample core quarter s
  | .sterlingFold => Sys2Proof.Machine.execSterlingFold s
  | .gcntRefresh fn => Sys2Proof.Machine.execGcntRefresh fn s
  | .hotPageWindow => Sys2Proof.Machine.execHotPageWindow s
  | .pageMigration die => Sys2Proof.Machine.execPageMigration die s
  | .loadComplete => Sys2Proof.Machine.execLoadComplete s
  | .atomicAtEngine a b => Sys2Proof.Machine.execAtomicAtEngine a b s
  | .dqpushRetry => Sys2Proof.Machine.execDqpushRetry s
  | .copyDeliver copy => Sys2Proof.Machine.execCopyDeliver copy s
  | .copyComplete copy => Sys2Proof.Machine.execCopyComplete copy s
  | .matrixRetire core => Sys2Proof.Machine.execMatrixRetire core s
  | .electrumStep a => Sys2Proof.Machine.execElectrumStep a s
  | .cascadeDrop store => Sys2Proof.Machine.execCascadeDrop store s
  | .frameLiveDecrement n => Sys2Proof.Machine.execFrameLiveDecrement n s
  | .nop => Sys2Proof.Machine.execNop s
  | .br o => Sys2Proof.Machine.execBr o s
  | .brp p o => Sys2Proof.Machine.execBrp p o s
  | .brn p o => Sys2Proof.Machine.execBrn p o s
  | .bruNz k o => Sys2Proof.Machine.execBruNz k o s
  | .bruZ k o => Sys2Proof.Machine.execBruZ k o s
  | .call d o => Sys2Proof.Machine.execCall d o s
  | .callt d a => Sys2Proof.Machine.execCallt d a s
  | .jmpt a => Sys2Proof.Machine.execJmpt a s
  | .ret a => Sys2Proof.Machine.execRet a s
  | .exit => Sys2Proof.Machine.execExit s
  | .yield => Sys2Proof.Machine.execYield s
  | .brk c => Sys2Proof.Machine.execBrk c s
  | .trap c => Sys2Proof.Machine.execTrap c s
  | .nret => Sys2Proof.Machine.execNret s
  | .nchk o => Sys2Proof.Machine.execNchk o s
  | .enter n => Sys2Proof.Machine.execEnter n s
  | .leave => Sys2Proof.Machine.execLeave s
  | .mode m v => Sys2Proof.Machine.execMode m v s
  | .modeGd n x e => Sys2Proof.Machine.execModeGd n x e s
  | .modr a => Sys2Proof.Machine.execModr a s
  | .rsr d x => Sys2Proof.Machine.execRsr d x s
  | .wsr a x => Sys2Proof.Machine.execWsr a x s
  | .kli d n => Sys2Proof.Machine.execKli d n s
  | .klih h d n => Sys2Proof.Machine.execKlih h d n s
  | .kmov d a => Sys2Proof.Machine.execKmov d a s
  | .kadd d a b => Sys2Proof.Machine.execKadd d a b s
  | .kaddImm d a n => Sys2Proof.Machine.execKaddImm d a n s
  | .ksub d a b => Sys2Proof.Machine.execKsub d a b s
  | .ksubImm d a n => Sys2Proof.Machine.execKsubImm d a n s
  | .kmul d a b => Sys2Proof.Machine.execKmul d a b s
  | .kmulImm d a n => Sys2Proof.Machine.execKmulImm d a n s
  | .kmulh u d a b => Sys2Proof.Machine.execKmulh u d a b s
  | .kand d a b => Sys2Proof.Machine.execKand d a b s
  | .kandImm d a n => Sys2Proof.Machine.execKandImm d a n s
  | .kor d a b => Sys2Proof.Machine.execKor d a b s
  | .korImm d a n => Sys2Proof.Machine.execKorImm d a n s
  | .kxor d a b => Sys2Proof.Machine.execKxor d a b s
  | .kxorImm d a n => Sys2Proof.Machine.execKxorImm d a n s
  | .kshl d a b => Sys2Proof.Machine.execKshl d a b s
  | .kshlImm d a n => Sys2Proof.Machine.execKshlImm d a n s
  | .kshr d a b => Sys2Proof.Machine.execKshr d a b s
  | .kshrImm d a n => Sys2Proof.Machine.execKshrImm d a n s
  | .ksar d a b => Sys2Proof.Machine.execKsar d a b s
  | .ksarImm d a n => Sys2Proof.Machine.execKsarImm d a n s
  | .kmin u d a b => Sys2Proof.Machine.execKmin u d a b s
  | .kmax u d a b => Sys2Proof.Machine.execKmax u d a b s
  | .kcmp c d a b => Sys2Proof.Machine.execKcmp c d a b s
  | .ksel d a b => Sys2Proof.Machine.execKsel d a b s
  | .kpop d a => Sys2Proof.Machine.execKpop d a s
  | .kpopPred d a => Sys2Proof.Machine.execKpopPred d a s
  | .kfirst d a => Sys2Proof.Machine.execKfirst d a s
  | .kfirstPred d a => Sys2Proof.Machine.execKfirstPred d a s
  | .vli d n => Sys2Proof.Machine.execVli d n s
  | .vliH d n => Sys2Proof.Machine.execVliH d n s
  | .vmov d a => Sys2Proof.Machine.execVmov d a s
  | .vbc d a => Sys2Proof.Machine.execVbc d a s
  | .vadd d a b => Sys2Proof.Machine.execVadd d a b s
  | .vaddUniform d a b => Sys2Proof.Machine.execVaddUniform d a b s
  | .vsub d a b => Sys2Proof.Machine.execVsub d a b s
  | .vsubUniform d a b => Sys2Proof.Machine.execVsubUniform d a b s
  | .vmul d a b => Sys2Proof.Machine.execVmul d a b s
  | .vmulUniform d a b => Sys2Proof.Machine.execVmulUniform d a b s
  | .vmulh d a b => Sys2Proof.Machine.execVmulh d a b s
  | .vmulhUniform d a b => Sys2Proof.Machine.execVmulhUniform d a b s
  | .vmad d a b => Sys2Proof.Machine.execVmad d a b s
  | .vmadUniform d a b => Sys2Proof.Machine.execVmadUniform d a b s
  | .vand d a b => Sys2Proof.Machine.execVand d a b s
  | .vandUniform d a b => Sys2Proof.Machine.execVandUniform d a b s
  | .vor d a b => Sys2Proof.Machine.execVor d a b s
  | .vorUniform d a b => Sys2Proof.Machine.execVorUniform d a b s
  | .vxor d a b => Sys2Proof.Machine.execVxor d a b s
  | .vxorUniform d a b => Sys2Proof.Machine.execVxorUniform d a b s
  | .vnot d a => Sys2Proof.Machine.execVnot d a s
  | .vshl d a b => Sys2Proof.Machine.execVshl d a b s
  | .vshlUniform d a b => Sys2Proof.Machine.execVshlUniform d a b s
  | .vshr d a b => Sys2Proof.Machine.execVshr d a b s
  | .vshrUniform d a b => Sys2Proof.Machine.execVshrUniform d a b s
  | .vmin d a b => Sys2Proof.Machine.execVmin d a b s
  | .vminUniform d a b => Sys2Proof.Machine.execVminUniform d a b s
  | .vmax d a b => Sys2Proof.Machine.execVmax d a b s
  | .vmaxUniform d a b => Sys2Proof.Machine.execVmaxUniform d a b s
  | .vabs d a => Sys2Proof.Machine.execVabs d a s
  | .vneg d a => Sys2Proof.Machine.execVneg d a s
  | .vclz d a => Sys2Proof.Machine.execVclz d a s
  | .vpop d a => Sys2Proof.Machine.execVpop d a s
  | .vcmp c p a b => Sys2Proof.Machine.execVcmp c p a b s
  | .vcmpUniform c p a b => Sys2Proof.Machine.execVcmpUniform c p a b s
  | .vsel d a b => Sys2Proof.Machine.execVsel d a b s
  | .vselUniform d a b => Sys2Proof.Machine.execVselUniform d a b s
  | .pand d a b => Sys2Proof.Machine.execPand d a b s
  | .por d a b => Sys2Proof.Machine.execPor d a b s
  | .pxor d a b => Sys2Proof.Machine.execPxor d a b s
  | .pnot d a => Sys2Proof.Machine.execPnot d a s
  | .pset d n => Sys2Proof.Machine.execPset d n s
  | .psetK d a => Sys2Proof.Machine.execPsetK d a s
  | .fadd d a b => Sys2Proof.Machine.execFadd d a b s
  | .faddUniform d a b => Sys2Proof.Machine.execFaddUniform d a b s
  | .fsub d a b => Sys2Proof.Machine.execFsub d a b s
  | .fsubUniform d a b => Sys2Proof.Machine.execFsubUniform d a b s
  | .fmul d a b => Sys2Proof.Machine.execFmul d a b s
  | .fmulUniform d a b => Sys2Proof.Machine.execFmulUniform d a b s
  | .ffma d a b => Sys2Proof.Machine.execFfma d a b s
  | .ffmaUniform d a b => Sys2Proof.Machine.execFfmaUniform d a b s
  | .fmin d a b => Sys2Proof.Machine.execFmin d a b s
  | .fminUniform d a b => Sys2Proof.Machine.execFminUniform d a b s
  | .fmax d a b => Sys2Proof.Machine.execFmax d a b s
  | .fmaxUniform d a b => Sys2Proof.Machine.execFmaxUniform d a b s
  | .fabs d a => Sys2Proof.Machine.execFabs d a s
  | .fneg d a => Sys2Proof.Machine.execFneg d a s
  | .frcp d a => Sys2Proof.Machine.execFrcp d a s
  | .frsq d a => Sys2Proof.Machine.execFrsq d a s
  | .fsqrt d a => Sys2Proof.Machine.execFsqrt d a s
  | .fexp d a => Sys2Proof.Machine.execFexp d a s
  | .flog d a => Sys2Proof.Machine.execFlog d a s
  | .fsin d a => Sys2Proof.Machine.execFsin d a s
  | .fcos d a => Sys2Proof.Machine.execFcos d a s
  | .ftanh d a => Sys2Proof.Machine.execFtanh d a s
  | .fcmp c p a b => Sys2Proof.Machine.execFcmp c p a b s
  | .fcmpUniform c p a b => Sys2Proof.Machine.execFcmpUniform c p a b s
  | .fcls d a => Sys2Proof.Machine.execFcls d a s
  | .cvt d a x => Sys2Proof.Machine.execCvt d a x s
  | .bpak d a b => Sys2Proof.Machine.execBpak d a b s
  | .bunp d a b => Sys2Proof.Machine.execBunp d a b s
  | .bscl d a b => Sys2Proof.Machine.execBscl d a b s
  | .bsclUniform d a b => Sys2Proof.Machine.execBsclUniform d a b s
  | .shfl d a b => Sys2Proof.Machine.execShfl d a b s
  | .shflUniform d a b => Sys2Proof.Machine.execShflUniform d a b s
  | .shfx d a b => Sys2Proof.Machine.execShfx d a b s
  | .shfxImm d a n => Sys2Proof.Machine.execShfxImm d a n s
  | .vany d a => Sys2Proof.Machine.execVany d a s
  | .vall d a => Sys2Proof.Machine.execVall d a s
  | .vbal d a => Sys2Proof.Machine.execVbal d a s
  | .gred d a o => Sys2Proof.Machine.execGred d a o s
  | .gscan d a o => Sys2Proof.Machine.execGscan d a o s
  | .ld e d a b => Sys2Proof.Machine.execLd e d a b s
  | .st e d a b => Sys2Proof.Machine.execSt e d a b s
  | .lda x d a b => Sys2Proof.Machine.execLda x d a b s
  | .stl x d a b => Sys2Proof.Machine.execStl x d a b s
  | .lds d a n => Sys2Proof.Machine.execLds d a n s
  | .sts d a n => Sys2Proof.Machine.execSts d a n s
  | .ldk m d a n => Sys2Proof.Machine.execLdk m d a n s
  | .stk m d a n => Sys2Proof.Machine.execStk m d a n s
  | .lwait n => Sys2Proof.Machine.execLwait n s
  | .pref a b => Sys2Proof.Machine.execPref a b s
  | .ldf d k x => Sys2Proof.Machine.execLdf d k x s
  | .ldfk d k x => Sys2Proof.Machine.execLdfk d k x s
  | .stf d k x => Sys2Proof.Machine.execStf d k x s
  | .atom d a o x => Sys2Proof.Machine.execAtom d a o x s
  | .atomr d a o x => Sys2Proof.Machine.execAtomr d a o x s
  | .dqpush d a x => Sys2Proof.Machine.execDqpush d a x s
  | .dqpop d a x => Sys2Proof.Machine.execDqpop d a x s
  | .dqsteal d a x => Sys2Proof.Machine.execDqsteal d a x s
  | .bari d a e => Sys2Proof.Machine.execBari d a e s
  | .barr d a => Sys2Proof.Machine.execBarr d a s
  | .barw d a => Sys2Proof.Machine.execBarw d a s
  | .bara a => Sys2Proof.Machine.execBara a s
  | .barx d a => Sys2Proof.Machine.execBarx d a s
  | .fence x => Sys2Proof.Machine.execFence x s
  | .pub a => Sys2Proof.Machine.execPub a s
  | .tdef a n => Sys2Proof.Machine.execTdef a n s
  | .tget d w n => Sys2Proof.Machine.execTget d w n s
  | .cpy d a b => Sys2Proof.Machine.execCpy d a b s
  | .cpyg d a b => Sys2Proof.Machine.execCpyg d a b s
  | .cpym d a b => Sys2Proof.Machine.execCpym d a b s
  | .cpyo d a b => Sys2Proof.Machine.execCpyo d a b s
  | .cpyr d a b => Sys2Proof.Machine.execCpyr d a b s
  | .bclose => Sys2Proof.Machine.execBclose s
  | .bwait a => Sys2Proof.Machine.execBwait a s
  | .mma r d t n => Sys2Proof.Machine.execMma r d t n s
  | .mmap r d t n => Sys2Proof.Machine.execMmap r d t n s
  | .accz d => Sys2Proof.Machine.execAccz d s
  | .accrd d n => Sys2Proof.Machine.execAccrd d n s
  | .tld t n => Sys2Proof.Machine.execTld t n s
  | .fenop => Sys2Proof.Machine.execFenop s
  | .shape a => Sys2Proof.Machine.execShape a s
  | .mwait => Sys2Proof.Machine.execMwait s
  | .calookLeaf d a h => Sys2Proof.Machine.execCalookLeaf d a h s
  | .calookInt d a h => Sys2Proof.Machine.execCalookInt d a h s
  | .caread d a h => Sys2Proof.Machine.execCaread d a h s
  | .cawalk d a h => Sys2Proof.Machine.execCawalk d a h s
  | .carswap d a h => Sys2Proof.Machine.execCarswap d a h s
  | .caref a h => Sys2Proof.Machine.execCaref a h s
  | .cadrop a h => Sys2Proof.Machine.execCadrop a h s
  | .caout d a h => Sys2Proof.Machine.execCaout d a h s
  | .fnew d a => Sys2Proof.Machine.execFnew d a s
  | .fnewU d a => Sys2Proof.Machine.execFnewU d a s
  | .fret k => Sys2Proof.Machine.execFret k s
  | .fretU k => Sys2Proof.Machine.execFretU k s
  | .disp k a => Sys2Proof.Machine.execDisp k a s
  | .cont a => Sys2Proof.Machine.execCont a s
  | .contU a => Sys2Proof.Machine.execContU a s
  | .unassignedOpcode w => Sys2Proof.Machine.execUnassignedOpcode w s
  | .bandwidthWindow => Sys2Proof.Machine.execBandwidthWindow s
  | .recoveryImage image version ok => Sys2Proof.Machine.execRecoveryImage image version ok s
  | .powerLimitReached watts => Sys2Proof.Machine.execPowerLimitReached watts s
  | .incomingStateRestored => Sys2Proof.Machine.execIncomingStateRestored s

end Sys2Proof.Machine
end

