-- ==== Sys2Proof/Machine/Run.lean ====
section
/-!
DEFINITION. What happens next. A step takes the first move of `State.sched`: what the outside world does, and which of the
device's agents acts (06 R128; R398 leaves the order open). With no move listed, the device goes on by itself, in a fixed
order of its agents, as far as anything changes.
-/

namespace Sys2Proof.Machine

open Sys2Proof

/-! ### One issue -/

/-- What the split of a site would do next: the cycle from which nothing but units kept it from issuing, the cycle in which it issues, and
the outcome. -/
structure Attempt where
  h : Site
  ready : Nat
  cycle : Nat
  lane : Bool
  result : Host.Outcome State Fault Refusal

/-- The state after an instruction has run; none if it waits, which changes nothing. -/
def afterExec (s : State) (h : Site) (c : Nat) (f : Fetched) (late : List Nat) (r : Host.Outcome State Fault Refusal) :
    Option (Host.Outcome State Fault Refusal) :=
  match r with
  | .next t => if t.freeCtr = s.freeCtr then none else some (.next (t.endIssue h c f late))
  | .fault e => some (.fault e)
  | .refused e => some (.refused e)

/-- The instruction, which would issue at cycle `c` without what it reads too early, ends its context: a fatal cause that does not follow
from an undefined value comes before SCHED_SHORT (06 R150). -/
def endsContext (s : State) (h : Site) (f : Fetched) (c : Nat) (early : List (Reg × Word64)) : Bool :=
  match exec f.i (s.beginIssue h f c early) with
  | .next t => (t.ctx? h.ctx).isNone
  | _ => false

/-- A fetched instruction as the split would issue it. In an Invar launch every result is written before the next turn (06 R149). Otherwise
one that would read or overwrite a result in flight raises SCHED_SHORT under KFLAGS.CHECK, and without it reads free values. -/
def runFetched (s : State) (h : Site) (late : List Nat) (f : Fetched) : Option Attempt :=
  let c0 := s.gapCycle h
  match s.unitsFrom h f.i c0 with
  | none => none
  | some c1 =>
    let early := if h.l.isInvar then [] else h.earlyRegs f.i c1
    if !early.isEmpty && h.l.isCheck && !endsContext s h f c1 early then
      some { h := h, ready := c0, cycle := c1, lane := false, result := .next ((s.afterRead f.acc).raise h .schedShort 0 h.mask h.sp.pc) }
    else match if h.l.isInvar then some c1 else s.unitsFrom h f.i (h.wholeCycle f.i c1) with
      | none => none
      | some c =>
        (afterExec s h c f late (exec f.i (s.beginIssue h f c early))).map fun r =>
          { h := h, ready := c0, cycle := c, lane := needsLane f.i, result := r }

/-- What the split that `cur` names would do next; none if it cannot issue. One that takes a notice at its boundary issues nothing there
(06 R136). -/
def State.attempt (s : State) (late : List Nat) : Option Attempt :=
  match s.site? with
  | none => none
  | some h =>
    if !s.splitReady h || h.noticed then none
    else match fetched s h with
      | .error .wait => none
      | .error (.cause c a t) =>
        some { h := h, ready := s.gapCycle h, cycle := s.gapCycle h, lane := false,
               result := .next ((s.noteFetch h).raise h c a t h.sp.pc) }
      | .ok f => runFetched s h late f

/-- What the splits of a core would do, but for those of the entries that wait for their fetch. -/
def State.attempts (s : State) (core : Nat) (late : List Nat) : List Attempt :=
  (s.groups.filter fun x => x.1 / 64 == core && !late.contains (x.1 % 64)).flatMap fun x =>
    (x.2.liveSplits).filterMap fun i =>
      State.attempt { s with cur := { s.cur with core := core, entry := x.1 % 64, split := i } } late

/-- The order in which a quarter takes what is ready (R128): the earliest cycle; in one cycle a group that gave way comes last (R129), and
the walk decides; in a group the lowest split. -/
def State.walkKey (s : State) (a : Attempt) : Nat :=
  ((a.cycle * 2 + if a.h.g.giveWay then 1 else 0) * 16 + s.walkPlace a.h.core a.h.entry) * 4 + a.h.ix

/-- What a quarter issues next. Of the groups of one team that waited for a lane, the one that has been ready longest gets it (05 R97). -/
def State.pick (s : State) (l : List Attempt) : Option Attempt :=
  (leastBy s.walkKey l).bind fun a =>
    if a.lane && a.ready < a.cycle then
      leastBy (fun x => x.ready * 2 ^ 80 + s.walkKey x)
        (l.filter fun x => x.h.tid == a.h.tid && x.lane && decide (x.ready < x.cycle) && x.cycle == a.cycle)
    else some a

/-- The attempt that the core carries out for entry `e` and split `i`: its quarter picks it, and no other quarter issues in an earlier
cycle. -/
def State.chosen (s : State) (core e i : Nat) (late : List Nat) : Option Attempt :=
  let all := s.attempts core late
  (s.pick (all.filter fun x => quarterOf x.h.entry == quarterOf e)).filter fun a =>
    a.h.entry == e && a.h.ix == i && all.all fun x => decide (a.cycle ≤ x.cycle)

/-- The cycle of a core that runs is over if no split of it issues in it any more; the split watchdog then stops those whose counts have
come to the limit (06 R140, R150). -/
def State.endCycle (s : State) (core : Nat) (late : List Nat) : State :=
  if (s.sites.any fun h => h.core == core && h.watchDue) && (s.attempts core late).all fun a => decide (s.cycleOf core < a.cycle) then
    s.coreWatch core
  else s

/-- The split that `cur` names issues, if it is its turn. A pending notice is taken first (06 R136). -/
def issueStep (s : State) (late : List Nat) : Host.Outcome State Fault Refusal :=
  let s := s.endCycle s.cur.core late
  match s.site? with
  | none => .next s
  | some h =>
    if s.splitReady h && h.noticed then .next (s.takeNotice h)
    else match s.chosen h.core h.entry h.ix late with
      | some a => a.result
      | none => .next s

/-! ### Moves -/

/-- The move is an event of the outside world or of an engine; an instruction comes only from memory. -/
def isEvent (i : Instr) : Bool := i.wf && (instrShape i).isNone && match i with | .unassignedOpcode _ => false | _ => true

/-- The event is work of the compute dies: their cores, front ends, engines and controllers. The Wielo controller, the links and the stack
management go on without them (01 R27). -/
def needsDies : Instr → Bool
  | .droop _ | .droopRecover _ | .lockstepMismatch _ | .frontEndCheckpoint _ | .doorbell .. | .qcmdReset .. | .qpcmdReset .. |
    .qpcmdEnable .. | .qpcmdDisable .. | .squeeze _ | .squeezeHandover _ | .switchInRestore _ | .engineFault .. | .saveDrainDone _ |
    .teamDispatch _ | .stepAgree _ | .teamComplete _ | .dieIdle _ | .stealReq _ | .stealGive _ | .stealNone _ | .stealDone _ |
    .gatherTimeout .. | .joinRecordEnqueue _ | .expansion _ | .trapTake _ | .groupStateWrite .. | .pcSample .. | .gcntRefresh _ |
    .pageMigration _ | .atomicAtEngine .. | .copyDeliver _ | .copyComplete _ | .matrixRetire _ | .electrumStep _ | .cascadeDrop _ |
    .frameLiveDecrement _ | .resetDone | .disableDone | .reconcilePass | .nopPacket | .launch | .signal | .wait | .waitSatisfied |
    .waitTimeout | .publish | .marker | .packetComplete | .schedPeriod | .overBudget | .notice | .trapCtlResume | .trapCtlHalt |
    .trapCtlClearResume | .trapCtlEnd | .watchdogSplit | .watchdogTeam | .hotPageWindow | .loadComplete | .dqpushRetry |
    .bandwidthWindow | .incomingStateRestored => true
  | _ => false

def Move.at' (s : State) (ev : Instr) : Move := { dt := 0, cur := s.cur, ev := some ev }

/-- A move that meets a range under repair waits (01 R13): it comes after the next move of the schedule, or, with none, once the copies
are done. -/
def State.putOff (s : State) (m : Move) : State :=
  let ends := (s.hbm.filter fun x => x.2.copying.isSome).map fun x => Move.at' s (.repairCopyDone x.1)
  let m0 := { m with dt := 0 }
  match s.sched with
  | [] => { s with sched := ends ++ [m0] }
  | n :: r => { s with sched := n :: m0 :: r }

/-- The outcome of move `m` in `s`, from what it does: it may wait; at the boundary after it, splits of every group merge, and holds and
issue counts end (06 R125, R126, R140). -/
def bounded (s : State) (m : Move) : Host.Outcome State Fault Refusal → Host.Outcome State Fault Refusal
  | .next t => .next (if t.repairWait then s.putOff m else t.boundaries)
  | r => r

/-- Carries out a move in a state from which it has been taken. -/
def runMove (s : State) (m : Move) : Host.Outcome State Fault Refusal :=
  let s := State.pass { s with cur := m.cur } m.dt
  match m.ev with
  | none => bounded s m (issueStep s m.late)
  | some i => if isEvent i && !(s.dark && needsDies i) then bounded s m (exec i s) else .next s

/-! ### The device by itself -/

def Move.on (core entry split : Nat) (ev : Option Instr) : Move :=
  { dt := 0, cur := { core := core, entry := entry, split := split, fn := 0, q := 0 }, ev := ev }
def Move.queue (f q : Nat) (ev : Instr) : Move :=
  { dt := 0, cur := { core := 0, entry := 0, split := 0, fn := f, q := q }, ev := some ev }

def requestEvents : List Instr :=
  [.mbSubmitUnknown, .stackStat, .powerLimitRead, .powerLimitSet, .partSet, .partDel, .inval, .sterlingRead, .sterlingAck,
   .dieStats, .unsqueeze, .trapCmd, .caStoreCreate, .caStoreDelete, .caBind, .caUnbind, .finalise, .caLineRead, .caRootRead,
   .switchOut, .switchIn]

def queueEvents : List Instr :=
  [.resetDone, .disableDone, .waitSatisfied, .packetComplete, .nopPacket, .launch, .signal, .wait, .publish, .marker]

/-- What the mailbox and the queues could do. -/
def State.hostMoves (s : State) : List Move :=
  ([Instr.mbResponse, .eventRingWrite] ++ requestEvents).map (Move.at' s) ++
  ((s.request 0x12).map fun r => Move.at' s (.squeeze (field r 12 1))).toList ++
  s.queues.flatMap fun (key, _) => queueEvents.map (Move.queue (key / 1024) (key % 1024))

/-- What engines could do. -/
def State.engineMoves (s : State) : List Move :=
  (s.copies.flatMap fun (id, _) => [Instr.copyDeliver id, .copyComplete id]).map (Move.at' s) ++
  (s.mats.map fun m => Instr.matrixRetire m.core).map (Move.at' s) ++
  ((List.range s.atoms.length).map fun i => Instr.atomicAtEngine i i).map (Move.at' s) ++
  ((List.range s.atoms.length).flatMap fun j => (List.range j).map fun i => Instr.atomicAtEngine i j).map (Move.at' s) ++
  ((List.range s.caSteps.length).map Instr.electrumStep).map (Move.at' s) ++
  (s.stores.map fun x => Instr.cascadeDrop x.1).map (Move.at' s) ++
  ((List.range s.decs.length).map Instr.frameLiveDecrement).map (Move.at' s) ++
  ([0, 1, 2, 3].map Instr.joinRecordEnqueue).map (Move.at' s)

/-- Core, entry and number of every live split. -/
def State.allSplits (s : State) : List (Nat × Nat × Nat) :=
  s.groups.flatMap fun (key, g) => g.liveSplits.map fun i => (key / 64, key % 64, i)

/-- What splits wait for, and their issues. -/
def State.splitMoves (s : State) : List Move :=
  let ws := s.allSplits
  (s.groups.flatMap fun (key, g) => (g.pending.map (·.split)).eraseDups.map fun i => Move.on (key / 64) (key % 64) i (some .loadComplete)) ++
  (ws.map fun (c, e, i) => Move.on c e i (some .dqpushRetry)) ++
  ws.map fun (c, e, i) => Move.on c e i none

/-- What the cores' managers and the schedulers could do. -/
def State.coreMoves (s : State) : List Move :=
  (s.cores.flatMap fun (c, _) =>
    [Instr.trapTake c, .squeezeHandover c, .squeeze c, .saveDrainDone c, .switchInRestore c]).map (Move.at' s) ++
  (s.groups.map fun (key, _) => Move.on (key / 64) (key % 64) 0 (some .incomingStateRestored)) ++
  (s.launches.map fun x => Instr.stepAgree x.1).map (Move.at' s) ++
  (s.teams.map fun x => Instr.teamComplete x.1).map (Move.at' s)

def State.dieMoves (s : State) : List Move :=
  ([0, 1, 2, 3].flatMap fun d => [Instr.stealReq d, .stealGive d, .stealNone d, .stealDone d, .teamDispatch d]).map (Move.at' s) ++
  (s.cores.map fun (c, _) => Instr.expansion c).map (Move.at' s)

def State.ownMoves (s : State) : List Move := s.coreMoves ++ s.hostMoves ++ s.engineMoves ++ s.splitMoves ++ s.dieMoves

/-- The outcome of the first move of a list that changes anything but `cur`. -/
def firstChange (s : State) : List Move → Host.Outcome State Fault Refusal
  | [] => .next s
  | m :: r =>
    match runMove s m with
    | .next t => if t = { s with cur := m.cur } then firstChange s r else .next t
    | .fault e => .fault e
    | .refused e => .refused e

/-- The next thing that happens. -/
def tick (s : State) : Host.Outcome State Fault Refusal :=
  match s.sched with
  | m :: r => runMove { s with sched := r } m
  | [] => firstChange s s.ownMoves

/-! ### A word where the next step fetches -/

/-- Entries of a page tree that maps the first GiB of a context to the physical address 0x4000_0000, readable, writable and
executable (03 R63): the root at 0x1000 and two tables. -/
def fetchTree (m : Mem) : Mem :=
  writeLe (writeLe (writeLe m 0x1000 8 0x2001) 0x2000 8 0x3001) 0x3000 8 0x4000003B

def fetchKernel : KDesc :=
  { entry := 0, width := 16, vgran := 32, groups := 1, cluster := 0, scratch := 4096, kflags := 0, minDies := 1, maxDies := 1,
    step := 1, gatherNs := 0, dispatch := 0, dispatchN := 0, outerFrame := 0, prodEntry := 0, prodVgran := 0, prodGroups := 0 }

def fetchLaunch : Launch :=
  { fn := 0, q := 0, pkt := 0, tag := 0, ctx := 0, kdAddr := 0, kd := fetchKernel, tx := 1, ty := 1, tz := 1, args := 0, minDies := 1,
    maxDies := 1, scratchDyn := 0, fixedDies := none, nextStep := 1, shares := [{ die := 0, base := 0, first := 0, next := 1, stop := 1 }],
    frontier := 0, doneAbove := [], frame := 0, framed := false, formedCount := 0, turn := 0, pos := 0, width := 0,
    pressedDies := [] }

def fetchTeam (lid : Nat) : Team :=
  { launch := lid, index := 0, formed := false, core := 0, slot := 0, slot2 := 0, pair := false, scratch := [], barrier := [],
    smap := [(0, 0), (1, 1), (2, 2), (3, 3)], tags := [], barWords := [], tiles := [], accs := [], tlevel := 0,
    carve := [0, 65536, 65536, 65536], lanes := [16, 16, 16, 16], mspill := false, groupCount := 1, groupsLeft := 1, serial := 0,
    resident := true, savedOwner := false, savedMatrix := false, heldOut := false, saveValid := false, savedGroups := [] }

/-- One team of one group of 16 threads on core 0, of a launch of queue 0 of the physical function, about to issue the word
at slot 1 of a packet whose schedule word is 0 (02 R33, R44; 04 R89). -/
def placeWord (s : State) (w : Word32) : State :=
  let lid := s.nextId
  let tid := s.nextId + 1
  let c : Context := { Context.none with live := true, incarn := 1, root := 0x1000 }
  { s with
    sched := Move.on 0 0 0 none :: s.sched,
    mem := writeLe (writeLe (fetchTree s.mem) 0x40000000 4 0) 0x40000004 4 w.toNat,
    dies := tset s.dies 0 { s.die 0 with powered := true, isolated := false },
    queues := tset s.queues 0 { s.queue 0 0 with state := .active, priv := List.replicate 128 0 },
    ctxs := tset s.ctxs 0 c,
    launches := tset s.launches lid fetchLaunch,
    cores := tset s.cores 0 { Core.reset with owner := some tid },
    teams := tset s.teams tid (fetchTeam lid),
    mats := s.mats.filter fun m => m.core != 0,
    groups := tset (s.groups.filter fun x => x.1 / 64 != 0) 0 (startGroup fetchLaunch tid 0 none 0),
    nextId := s.nextId + 2 }

end Sys2Proof.Machine
end

