-- ==== Sys2Proof/Machine/Step.lean ====
section
/-!
DEFINITION. One step of the device, and a state whose next step fetches a given word.
-/

namespace Sys2Proof.Machine

open Sys2Proof

/-- One step: the next move of the schedule, or what the device does by itself (`tick`). -/
def step (s : State) : Host.Outcome State Fault Refusal := tick s

/-- `s` with one running group whose next instruction is the word `w`, and the move that issues it. No instruction is longer
than 32 bits. -/
def State.withFetchWord (s : State) (_nbits w : Nat) : State := placeWord s (BitVec.ofNat 32 w)

end Sys2Proof.Machine
end

