-- ==== Sys2Proof/Safety.lean ====
section
/-!
DEFINITION. The terms in which claims are stated: a split that can issue, what an instruction leaves when it changes its own
group alone, what a register file holds afterwards, and the canonical form of the memories.
-/

namespace Sys2Proof.Machine

open Sys2Proof

/-! ### A split that can issue -/

/-- `h` is the split that `cur` names, and it can issue: it is not parked, halted or stopped, nothing holds it, and its
mode register is valid (06 R126, R134, R142; 12 R251, R254). -/
def Ready (s : State) (h : Site) : Prop :=
  s.site? = some h ∧ h.sp.stopped = false ∧ (h.sp.draining && h.g.hasPending h.ix) = false ∧ modeValid h.sp.mode = true

/-- `Ready`, and the instruction issues no earlier than 06 R122 allows: its results are no free values (R129). -/
def Timely (s : State) (h : Site) : Prop := Ready s h ∧ h.hazard = []

/-! ### What an instruction leaves -/

/-- The split that issued as it goes on at `pc`; `drained` is the drain class (12 R254). -/
def Site.onward (h : Site) (pc : Word64) (drained : Bool) : Split :=
  let x := { h.sp with pc := pc, held := false }
  if drained then { x.settle with draining := true } else x

/-- A group whose split `h` went on at `pc`; the instruction counts in RETIRED. -/
def Site.moved (h : Site) (pc : Word64) (drained : Bool) (g : Group) : Group :=
  { g with splits := g.splits.set h.ix (h.onward pc drained), retired := g.retired + 1 }

/-- The state `s` in which the group of `h` is `g`, and nothing else has changed: no other group, no byte of memory, no
team, core, queue, context or frame. -/
def State.withGroup (s : State) (h : Site) (g : Group) : State :=
  { s with groups := tset s.groups h.key g, freeCtr := s.freeCtr + 1 }

/-- `i` runs and changes nothing but the group of its split, which goes on at the next instruction. -/
def Leaves (s : State) (h : Site) (i : Instr) (drained : Bool) (g : Group) : Prop :=
  exec i s = .next (s.withGroup h (h.moved (nextPc h.sp.pc) drained g))

/-- `i` runs; K[d] becomes `x`, and no other register, and nothing else but the PC and what R274 counts, changes. A late
result that the register waits for is superseded (`Group.clobber`). -/
def WritesK (s : State) (h : Site) (i : Instr) (drained : Bool) (d : Nat) (x : Word64) : Prop :=
  ∃ k', Leaves s h i drained { h.g.clobber (.k d) with k := k' } ∧ readCell k' d = x ∧
    ∀ n, n ≠ d → readCell k' n = readCell h.g.k n

/-- The vector registers `v` hold the element `x` of type `ty` in register `n` of thread `t`: a pair for a 64-bit type,
else the value extended to 32 bits (07 R152, 09 R196). -/
def holds (ty : BitVec 5) (v : Sparse 32) (n t : Nat) (x : Word64) : Prop :=
  if tyWide ty then
    readCell v (n * 64 + t) = x.setWidth 32 ∧ readCell v ((n + 1) * 64 + t) = x.extractLsb' 32 32
  else readCell v (n * 64 + t) = (extendPat ty x).setWidth 32

/-- Checks 5 and 6 of 12 R265 for registers that hold elements of type `ty`, and others: pairs are even (R247), and every
register lies within the allotment (07 R152). -/
def OperandsOk (h : Site) (ty : BitVec 5) (elems plain : List Nat) : Prop :=
  (tyWide ty = true → ∀ n ∈ elems, n % 2 = 0) ∧ ∀ n ∈ elems ++ plain, n < 8 * h.g.vgran

/-- Registers that an element of type `ty` in register `d` occupies. -/
def occupied (ty : BitVec 5) (d : Nat) : List Nat := if tyWide ty then [d, d + 1] else [d]

/-- No thread of a list waits for a late result in these registers. -/
def freeOfLate (g : Group) (ns ts : List Nat) : Prop := ∀ n ∈ ns, ∀ t ∈ ts, g.awaits (.v n t) = false

/-- `i` runs; V[d] of each thread of `ts` holds `f t` as type `ty`; no other element, and nothing else but the PC and what
R274 counts, changes. -/
def WritesV (s : State) (h : Site) (i : Instr) (drained : Bool) (ty : BitVec 5) (d : Nat) (ts : List Nat)
    (f : Nat → Word64) : Prop :=
  ∃ v' ps ds, Leaves s h i drained { h.g with v := v', pending := ps, done := ds } ∧ (∀ t ∈ ts, holds ty v' d t (f t)) ∧
    (∀ n t, t < 64 → ¬(n ∈ occupied ty d ∧ t ∈ ts) → readCell v' (n * 64 + t) = readCell h.g.v (n * 64 + t)) ∧
    (freeOfLate h.g (occupied ty d) ts → ps = h.g.pending ∧ ds = h.g.done)

/-- `i` runs; bit `t` of P[d] becomes `f t` for each acting thread, and no other bit or register, and nothing else but the
PC and what R274 counts, changes (14 R297). -/
def WritesP (s : State) (h : Site) (i : Instr) (d : Nat) (f : Nat → Bool) : Prop :=
  ∃ p', Leaves s h i false { h.g with p := p' } ∧
    (∀ t, t < 64 → (readCell p' d).getLsbD t = if t ∈ h.acting then f t else (readCell h.g.p d).getLsbD t) ∧
    ∀ n, n ≠ d → readCell p' n = readCell h.g.p n

/-- `i` runs and does nothing but go on at the next instruction. -/
def OnlyAdvances (s : State) (h : Site) (i : Instr) (drained : Bool) : Prop := Leaves s h i drained h.g

/-- `i` raises a cause with an address and the threads that raised it, at its own PC (06 R132), unless an undefined value is what
fails the check (00 R6). -/
def Raises (s : State) (h : Site) (i : Instr) (c : Cause) (addr threads : Word64) : Prop :=
  h.undef &&& h.mask = 0 ∨ h.fixedCause c = true → exec i s = .next (s.raise h c addr threads h.sp.pc)

/-- `i` waits at issue, without a trap: the machine is as before. -/
def Waits (s : State) (i : Instr) : Prop := exec i s = .next s

/-! ### The form of the memories -/

/-- The memories of the device are in their canonical form, so equal memories are equal data. -/
def State.memWf (s : State) : Prop :=
  Memory.wf s.mem = true ∧ Memory.wf s.hostMem = true ∧ ∀ x ∈ s.peers, Memory.wf x.2.mem = true

end Sys2Proof.Machine
end

