-- ==== Sys2Proof/Certificates/Slice0/Obligations.lean ====
section
/-!
DEFINITION. The statements for the provers.
-/

open Sys2Proof Sys2Proof.Machine

/-! ### Uniform instructions (13 R293, R294) -/

/-- R293, R294: every uniform arithmetic, logic and shift instruction completes, whatever the mode and guard, and writes its
result to K[d] and nothing else. Arithmetic is modulo 2^64, kmulh gives the high half of the signed or unsigned product, and a
shift amount is the low 6 bits of its operand. -/
def Obligations.UniformArithmetic : Prop :=
  ∀ s h, Timely s h → ∀ (d a b : BitVec 6) (i : BitVec 8) (j : BitVec 16) (n : BitVec 6),
    let A := h.kr a.toNat
    let B := h.kr b.toNat
    let m := B.toNat % 64
    let r := fun c x => WritesK s h c false d.toNat x
    r (.kli d j) (j.signExtend 64) ∧ r (.kmov d a) A ∧
    r (.kadd d a b) (A + B) ∧ r (.kaddImm d a i) (A + i.signExtend 64) ∧
    r (.ksub d a b) (A - B) ∧ r (.ksubImm d a i) (A - i.signExtend 64) ∧
    r (.kmul d a b) (A * B) ∧ r (.kmulImm d a i) (A * i.signExtend 64) ∧
    r (.kmulh 0 d a b) (BitVec.ofInt 64 (A.toInt * B.toInt / 2 ^ 64)) ∧
    r (.kmulh 1 d a b) (BitVec.ofNat 64 (A.toNat * B.toNat / 2 ^ 64)) ∧
    r (.kand d a b) (A &&& B) ∧ r (.kandImm d a i) (A &&& i.setWidth 64) ∧
    r (.kor d a b) (A ||| B) ∧ r (.korImm d a i) (A ||| i.setWidth 64) ∧
    r (.kxor d a b) (A ^^^ B) ∧ r (.kxorImm d a i) (A ^^^ i.setWidth 64) ∧
    r (.kshl d a b) (A <<< m) ∧ r (.kshlImm d a n) (A <<< n.toNat) ∧
    r (.kshr d a b) (A >>> m) ∧ r (.kshrImm d a n) (A >>> n.toNat) ∧
    r (.ksar d a b) (A.sshiftRight m) ∧ r (.ksarImm d a n) (A.sshiftRight n.toNat)

/-- The index of the lowest 1 bit of `x`, or 64 (R294). -/
def Sys2Proof.LowestOne (x r : Word64) : Prop :=
  (x = 0 → r = 64) ∧ (x ≠ 0 → x.getLsbD r.toNat = true ∧ ∀ j, j < r.toNat → x.getLsbD j = false)

/-- R293, R294: klih replaces halfword `p` of K[d], for p from 1 to 3, and p = 0 raises ENC_ILLEGAL (12 R256). Minimum, maximum,
compare and select go by signed or unsigned value; conditions 6 and 7 of kcmp raise ENC_ILLEGAL. kpop counts 1 bits and kfirst
finds the lowest one; a predicate is read as a value of WIDTH bits. -/
def Obligations.UniformChoice : Prop :=
  ∀ s h, Timely s h → ∀ (d a b : BitVec 6) (c : BitVec 3) (p : BitVec 2) (j : BitVec 16) (q : BitVec 3),
    let A := h.kr a.toNat
    let B := h.kr b.toNat
    let P := h.pr q.toNat &&& maskOf h.g.width
    let r := fun c x => WritesK s h c false d.toNat x
    (if p = 0 then Raises s h (.klih p d j) .encIllegal 0 h.mask
     else ∃ x, r (.klih p d j) x ∧ ∀ n : Nat, n < 4 →
       x.extractLsb' (16 * n) 16 = if n = p.toNat then j else (h.kr d.toNat).extractLsb' (16 * n) 16) ∧
    (∃ x, r (.kmin 0 d a b) x ∧ x.toInt = min A.toInt B.toInt) ∧
    (∃ x, r (.kmin 1 d a b) x ∧ x.toNat = min A.toNat B.toNat) ∧
    (∃ x, r (.kmax 0 d a b) x ∧ x.toInt = max A.toInt B.toInt) ∧
    (∃ x, r (.kmax 1 d a b) x ∧ x.toNat = max A.toNat B.toNat) ∧
    r (.ksel d a b) (if h.kr d.toNat ≠ 0 then A else B) ∧
    r (.kcmp 0 d a b) (if A = B then 1 else 0) ∧ r (.kcmp 1 d a b) (if A ≠ B then 1 else 0) ∧
    r (.kcmp 2 d a b) (if A.toInt < B.toInt then 1 else 0) ∧ r (.kcmp 3 d a b) (if A.toInt ≤ B.toInt then 1 else 0) ∧
    r (.kcmp 4 d a b) (if A.toNat < B.toNat then 1 else 0) ∧ r (.kcmp 5 d a b) (if A.toNat ≤ B.toNat then 1 else 0) ∧
    (5 < c.toNat → Raises s h (.kcmp c d a b) .encIllegal 0 h.mask) ∧
    r (.kpop d a) (BitVec.ofNat 64 ((List.range 64).countP fun i => A.getLsbD i)) ∧
    r (.kpopPred d q) (BitVec.ofNat 64 ((List.range 64).countP fun i => P.getLsbD i)) ∧
    (∃ x, r (.kfirst d a) x ∧ LowestOne A x) ∧ ∃ x, r (.kfirstPred d q) x ∧ LowestOne P x

/-! ### Vector instructions (14 R297 to R305) -/

/-- R300: the integer arithmetic of two vector sources, or with a uniform second source, completes for every integer type;
each acting thread's exact result is narrowed under 09 R197, and nothing else changes. -/
def Obligations.VectorArithmetic : Prop :=
  ∀ s h, Timely s h → tyIsInt h.ty = true → ∀ (d a b : BitVec 8) (k : BitVec 6),
    let A := fun t => intOf h.ty (h.elem h.ty a.toNat t)
    let B := fun t => intOf h.ty (h.elem h.ty b.toNat t)
    let D := fun t => intOf h.ty (h.elem h.ty d.toNat t)
    let K := intOf h.ty (lowBits (tyWidth h.ty) (h.kr k.toNat))
    let w : Nat := tyWidth h.ty
    let r := fun c (f : Nat → Int) => WritesV s h c false h.ty d.toNat h.acting fun t => intTo h.ty (modeSat h.sp.mode) (f t)
    (OperandsOk h h.ty [d.toNat, a.toNat, b.toNat] [] →
      r (.vadd d a b) (fun t => A t + B t) ∧ r (.vsub d a b) (fun t => A t - B t) ∧
      r (.vmul d a b) (fun t => A t * B t) ∧ r (.vmulh d a b) (fun t => A t * B t / 2 ^ w) ∧
      r (.vmin d a b) (fun t => min (A t) (B t)) ∧ r (.vmax d a b) (fun t => max (A t) (B t)) ∧
      r (.vmad d a b) (fun t => A t * B t + D t)) ∧
    (OperandsOk h h.ty [d.toNat, a.toNat] [] →
      r (.vaddUniform d a k) (fun t => A t + K) ∧ r (.vsubUniform d a k) (fun t => A t - K) ∧
      r (.vmulUniform d a k) (fun t => A t * K) ∧ r (.vmulhUniform d a k) (fun t => A t * K / 2 ^ w) ∧
      r (.vminUniform d a k) (fun t => min (A t) K) ∧ r (.vmaxUniform d a k) (fun t => max (A t) K) ∧
      r (.vmadUniform d a k) (fun t => A t * K + D t) ∧
      r (.vabs d a) (fun t => (A t).natAbs) ∧ r (.vneg d a) (fun t => -(A t)))

/-- R299, R303: vli and vli.h ignore MODE.type; moves, broadcasts and selects take any scalar type, and vsel tests the bit
pattern of the old destination. R300, R301: under an integer type the bitwise and shift instructions, and the counts of leading
zeros and of ones, act on the w-bit patterns; a shift amount is a 32-bit element, or the k register, modulo 64. -/
def Obligations.VectorBits : Prop :=
  ∀ s h, Timely s h → ∀ (d a b : BitVec 8) (k : BitVec 6) (j : BitVec 16),
    let A := fun t => h.elem h.ty a.toNat t
    let B := fun t => h.elem h.ty b.toNat t
    let K := lowBits (tyWidth h.ty) (h.kr k.toNat)
    let w : Nat := tyWidth h.ty
    let r := fun c (f : Nat → Word64) => WritesV s h c false h.ty d.toNat h.acting f
    let r32 := fun c (f : Nat → Word32) => WritesV s h c false 6 d.toNat h.acting fun t => (f t).setWidth 64
    let ri := fun c (f : Nat → Int) => r c fun t => intTo h.ty (modeSat h.sp.mode) (f t)
    (OperandsOk h 6 [d.toNat] [] →
      r32 (.vli d j) (fun _ => j.signExtend 32) ∧
      r32 (.vliH d j) (fun t => j ++ (h.vr d.toNat t).extractLsb' 0 16)) ∧
    (tyScalar h.ty = true →
      (OperandsOk h h.ty [d.toNat, a.toNat] [] → r (.vmov d a) (fun t => h.elem h.ty a.toNat t)) ∧
      (OperandsOk h h.ty [d.toNat] [] → r (.vbc d k) (fun _ => K)) ∧
      (OperandsOk h h.ty [d.toNat, a.toNat, b.toNat] [] → r (.vsel d a b) (fun t =>
        if h.elem h.ty d.toNat t ≠ 0 then h.elem h.ty a.toNat t else h.elem h.ty b.toNat t)) ∧
      (OperandsOk h h.ty [d.toNat, a.toNat] [] → r (.vselUniform d a k) (fun t =>
        if h.elem h.ty d.toNat t ≠ 0 then h.elem h.ty a.toNat t else K))) ∧
    (tyIsInt h.ty = true →
      (OperandsOk h h.ty [d.toNat, a.toNat, b.toNat] [] →
        r (.vand d a b) (fun t => lowBits w (A t &&& B t)) ∧ r (.vor d a b) (fun t => lowBits w (A t ||| B t)) ∧
        r (.vxor d a b) (fun t => lowBits w (A t ^^^ B t))) ∧
      (OperandsOk h h.ty [d.toNat, a.toNat] [b.toNat] →
        ri (.vshl d a b) (fun t => intOf h.ty (A t) * 2 ^ ((h.vr b.toNat t).toNat % 64)) ∧
        ri (.vshr d a b) (fun t => intOf h.ty (A t) / 2 ^ ((h.vr b.toNat t).toNat % 64))) ∧
      (OperandsOk h h.ty [d.toNat, a.toNat] [] →
        r (.vandUniform d a k) (fun t => lowBits w (A t &&& K)) ∧ r (.vorUniform d a k) (fun t => lowBits w (A t ||| K)) ∧
        r (.vxorUniform d a k) (fun t => lowBits w (A t ^^^ K)) ∧ r (.vnot d a) (fun t => lowBits w (~~~(A t))) ∧
        ri (.vshlUniform d a k) (fun t => intOf h.ty (A t) * 2 ^ ((h.kr k.toNat).toNat % 64)) ∧
        ri (.vshrUniform d a k) (fun t => intOf h.ty (A t) / 2 ^ ((h.kr k.toNat).toNat % 64)) ∧
        ri (.vclz d a) (fun t => (w : Int) - bitLen ((A t).toNat % 2 ^ w)) ∧
        ri (.vpop d a) (fun t => ((List.range w).countP fun i => (A t).getLsbD i : Nat))))

/-- R302, R305: an integer compare writes the bits of the acting threads in P[d], and predicate logic does the same with
the bits of its sources; every other bit is kept. Conditions 6 and 7 raise ENC_ILLEGAL. -/
def Obligations.Predicates : Prop :=
  ∀ s h, Timely s h → ∀ (d p q : BitVec 3) (a b : BitVec 8) (k : BitVec 6) (c : BitVec 3) (i : BitVec 1),
    let P := fun t => (h.pr p.toNat).getLsbD t
    let Q := fun t => (h.pr q.toNat).getLsbD t
    let r := fun e f => WritesP s h e d.toNat f
    r (.pand d p q) (fun t => P t && Q t) ∧ r (.por d p q) (fun t => P t || Q t) ∧
    r (.pxor d p q) (fun t => P t != Q t) ∧ r (.pnot d p) (fun t => !P t) ∧ r (.pset d i) (fun _ => i == 1) ∧
    r (.psetK d k) (fun t => (h.kr k.toNat).getLsbD t) ∧
    (5 < c.toNat → Raises s h (.vcmp c d a b) .encIllegal 0 h.mask) ∧
    (tyIsInt h.ty = true → OperandsOk h h.ty [a.toNat, b.toNat] [] →
      let A := fun t => intOf h.ty (h.elem h.ty a.toNat t)
      let B := fun t => intOf h.ty (h.elem h.ty b.toNat t)
      r (.vcmp 0 d a b) (fun t => decide (A t = B t)) ∧ r (.vcmp 1 d a b) (fun t => decide (A t ≠ B t)) ∧
      r (.vcmp 2 d a b) (fun t => decide (A t < B t)) ∧ r (.vcmp 3 d a b) (fun t => decide (A t ≤ B t)) ∧
      r (.vcmp 4 d a b) (fun t => decide (A t > B t)) ∧ r (.vcmp 5 d a b) (fun t => decide (A t ≥ B t))) ∧
    (tyIsInt h.ty = true → OperandsOk h h.ty [a.toNat] [] →
      let A := fun t => intOf h.ty (h.elem h.ty a.toNat t)
      let K := intOf h.ty (lowBits (tyWidth h.ty) (h.kr k.toNat))
      r (.vcmpUniform 0 d a k) (fun t => decide (A t = K)) ∧ r (.vcmpUniform 1 d a k) (fun t => decide (A t ≠ K)) ∧
      r (.vcmpUniform 2 d a k) (fun t => decide (A t < K)) ∧ r (.vcmpUniform 3 d a k) (fun t => decide (A t ≤ K)) ∧
      r (.vcmpUniform 4 d a k) (fun t => decide (A t > K)) ∧ r (.vcmpUniform 5 d a k) (fun t => decide (A t ≥ K)))

/-! ### Floating point, conversion and block formats (14 R306 to R316) -/

/-- R306 to R308: for each floating type, each acting thread gets the exact result of the operation rounded once into the
type; nothing else changes. Readings of the model's own: notes/assumptions 30. -/
def Obligations.FloatArithmetic : Prop :=
  ∀ s h, Timely s h → tyIsFloat h.ty = true → ∀ (d a b : BitVec 8) (k : BitVec 6),
    let rd := h.fctl.round
    let A := fun t => h.fval a.toNat t
    let B := fun t => h.fval b.toNat t
    let D := fun t => h.fval d.toNat t
    let K := loadF (fmtOf h.ty) h.fctl.ftz (lowBits (tyWidth h.ty) (h.kr k.toNat)).toNat
    let r := fun c (f : Nat → FVal) => WritesV s h c false h.ty d.toNat h.acting fun t =>
      BitVec.ofNat 64 (storeF (fmtOf h.ty) h.fctl (f t))
    (OperandsOk h h.ty [d.toNat, a.toNat, b.toNat] [] →
      r (.fadd d a b) (fun t => addF rd (A t) (B t)) ∧ r (.fsub d a b) (fun t => addF rd (A t) (B t).neg) ∧
      r (.fmul d a b) (fun t => mulF (A t) (B t)) ∧ r (.ffma d a b) (fun t => addF rd (mulF (A t) (B t)) (D t)) ∧
      r (.fmin d a b) (fun t => minMaxF false (A t) (B t)) ∧ r (.fmax d a b) (fun t => minMaxF true (A t) (B t))) ∧
    (OperandsOk h h.ty [d.toNat, a.toNat] [] →
      r (.faddUniform d a k) (fun t => addF rd (A t) K) ∧ r (.fsubUniform d a k) (fun t => addF rd (A t) K.neg) ∧
      r (.fmulUniform d a k) (fun t => mulF (A t) K) ∧ r (.ffmaUniform d a k) (fun t => addF rd (mulF (A t) K) (D t)) ∧
      r (.fminUniform d a k) (fun t => minMaxF false (A t) K) ∧ r (.fmaxUniform d a k) (fun t => minMaxF true (A t) K) ∧
      r (.fabs d a) (fun t => (A t).abs) ∧ r (.fneg d a) (fun t => (A t).neg) ∧
      r (.frcp d a) (fun t => applyF .rcp (A t)) ∧ r (.frsq d a) (fun t => applyF .rsq (A t)) ∧
      r (.fsqrt d a) (fun t => applyF .sqrt (A t)) ∧ r (.fexp d a) (fun t => applyF .exp (A t)) ∧
      r (.flog d a) (fun t => applyF .log (A t)) ∧ r (.fsin d a) (fun t => applyF .sin (A t)) ∧
      r (.fcos d a) (fun t => applyF .cos (A t)) ∧ r (.ftanh d a) (fun t => applyF .tanh (A t)))

/-- R309, R310: a floating-point compare writes the bits of the acting threads: a NaN operand makes eq, lt, le, gt, ge and
ord false and ne and un true. fcls writes the class as a 32-bit number whatever the type. -/
def Obligations.FloatCompare : Prop :=
  ∀ s h, Timely s h → tyIsFloat h.ty = true → ∀ (p : BitVec 3) (d a b : BitVec 8) (k : BitVec 6),
    let cases := fun (e : BitVec 3 → Instr) (A B : Nat → FVal) =>
      let un := fun t => (A t).isNan || (B t).isNan
      let r := fun (c : BitVec 3) f => WritesP s h (e c) p.toNat f
      r 0 (fun t => eqF (A t) (B t)) ∧ r 1 (fun t => !eqF (A t) (B t)) ∧ r 2 (fun t => ltF (A t) (B t)) ∧
      r 3 (fun t => !un t && !ltF (B t) (A t)) ∧ r 4 (fun t => ltF (B t) (A t)) ∧
      r 5 (fun t => !un t && !ltF (A t) (B t)) ∧ r 6 un ∧ r 7 (fun t => !un t)
    (OperandsOk h h.ty [a.toNat, b.toNat] [] → cases (.fcmp · p a b) (h.fval a.toNat) (h.fval b.toNat)) ∧
    (OperandsOk h h.ty [a.toNat] [] → cases (.fcmpUniform · p a k) (h.fval a.toNat)
      fun _ => loadF (fmtOf h.ty) h.fctl.ftz (lowBits (tyWidth h.ty) (h.kr k.toNat)).toNat) ∧
    (OperandsOk h 6 [d.toNat, a.toNat] [] → WritesV s h (.fcls d a) false 6 d.toNat h.acting fun t =>
      (BitVec.ofNat 32 (classOf (fmtOf h.ty) (h.fval a.toNat t))).setWidth 64)

/-- R312 to R315: cvt converts from a scalar type to MODE.type, each side a pair when its own type is 64 bits wide; a source
type above 0x0C raises ENC_ILLEGAL. The block-format instructions run under bfp2 to bfp8 and use one 32-bit register for each
operand: bpak and bunp read the exponent of the first thread of each block, and 0xFF marks a block of NaNs. -/
def Obligations.Conversions : Prop :=
  ∀ s h, Timely s h → ∀ (d a b : BitVec 8) (k : BitVec 6) (src : BitVec 5),
    let r := fun c (f : Nat → Word32) => WritesV s h c false 6 d.toNat h.acting fun t => (f t).setWidth 64
    let X := fun t => decodeF fmtF32 (h.vr a.toNat t).toNat
    let E := fun t => h.blockExp b.toNat t
    let Q := fun t =>
      let q : Int := (h.vr a.toNat t).toNat % 2 ^ h.bfpM
      if 2 ^ (h.bfpM - 1) ≤ q then q - 2 ^ h.bfpM else q
    (¬src.toNat ≤ 12 → Raises s h (.cvt d a src) .encIllegal 0 h.mask) ∧
    (src.toNat ≤ 12 → tyScalar h.ty = true → OperandsOk h h.ty [d.toNat] [a.toNat] → OperandsOk h src [a.toNat] [] →
      WritesV s h (.cvt d a src) false h.ty d.toNat h.acting fun t => convert src h.ty h.fctl (h.elem src a.toNat t)) ∧
    (tyIsBfp h.ty = true →
      (OperandsOk h 6 [d.toNat, a.toNat, b.toNat] [] →
        r (.bpak d a b) (fun t => if E t = 0xFF then 0 else BitVec.ofInt 32 (bfpMant h.fctl.round h.bfpM (E t) (X t))) ∧
        r (.bunp d a b) (fun t => BitVec.ofNat 32 (storeF fmtF32 { FCtl.plain with ftz := modeFtz h.sp.mode }
          (if E t = 0xFF then .nan else .fin (decide (Q t < 0)) (Q t).natAbs ((E t : Int) - 127 - (h.bfpM - 2))))) ∧
        r (.bscl d a b) (fun t => BitVec.ofNat 32 (bsclExp (X t) (h.vr b.toNat t).toInt))) ∧
      (OperandsOk h 6 [d.toNat, a.toNat] [] →
        r (.bsclUniform d a k) (fun t => BitVec.ofNat 32 (bsclExp (X t) ((h.kr k.toNat).setWidth 32).toInt))))

/-! ### Lanes (14 R317 to R319; 09 R211) -/

/-- The combination of some threads' elements of V[a], from the first on (09 R211). -/
def Sys2Proof.reduced (h : Site) (a o : Nat) : List Nat → Option Word64
  | [] => none
  | t :: r =>
    let x := fun u => enterAcc h.ty h.fctl (h.elem h.ty a u)
    some (r.foldl (fun acc u => combine h.ty h.fctl o acc (x u)) (x t))

/-- R317: a shuffle reads the element of the thread that the index names, or the thread's own when the index names no active
thread of the split; it is in the drain class. R318: the votes look at the predicate's bits of the threads that act, whatever
MODE.type. R211, R319: gred combines the elements of the threads that act, from the lowest up, and writes 0 if there is none;
gscan gives each the combination of the threads up to itself; sub-functions 6 and 7 raise ENC_ILLEGAL. -/
def Obligations.Lanes : Prop :=
  ∀ s h, Timely s h → ∀ (k : BitVec 6) (d a b i : BitVec 8) (o q : BitVec 3),
    let from' := fun (j t : Nat) => h.elem h.ty a.toNat (if j < h.g.width ∧ h.mask.getLsbD j = true then j else t)
    let r := fun c f => WritesV s h c true h.ty d.toNat h.acting f
    let P := fun t => (h.pr q.toNat).getLsbD t
    let rk := fun c x => WritesK s h c false k.toNat x
    (tyScalar h.ty = true →
      (OperandsOk h h.ty [d.toNat, a.toNat] [b.toNat] →
        r (.shfl d a b) (fun t => from' (h.vr b.toNat t).toNat t) ∧
        r (.shfx d a b) (fun t => from' (t ^^^ (h.vr b.toNat t).toNat) t)) ∧
      (OperandsOk h h.ty [d.toNat, a.toNat] [] →
        r (.shflUniform d a k) (fun t => from' (h.kr k.toNat).toNat t) ∧
        r (.shfxImm d a i) (fun t => from' (t ^^^ i.toNat) t))) ∧
    rk (.vany k q) (if ∃ t ∈ h.acting, P t = true then 1 else 0) ∧
    rk (.vall k q) (if ∀ t ∈ h.acting, P t = true then 1 else 0) ∧
    (∃ x, rk (.vbal k q) x ∧ ∀ t, t < 64 → (x.getLsbD t = true ↔ t ∈ h.acting ∧ P t = true)) ∧
    (5 < o.toNat → Raises s h (.gred k a o) .encIllegal 0 h.mask ∧ Raises s h (.gscan d a o) .encIllegal 0 h.mask) ∧
    (o.toNat ≤ 5 → redAccepts o h.ty = true →
      (OperandsOk h h.ty [a.toNat] [] → WritesK s h (.gred k a o) true k.toNat
        (match reduced h a.toNat o.toNat h.acting with
          | none => 0
          | some x => redResult h.ty (storeAcc h.ty h.fctl x))) ∧
      (OperandsOk h h.ty [d.toNat, a.toNat] [] →
        ∃ f, WritesV s h (.gscan d a o) true h.ty d.toNat h.acting f ∧ ∀ t ∈ h.acting,
          (reduced h a.toNat o.toNat (h.acting.filter (· ≤ t))).map (storeAcc h.ty h.fctl) = some (f t)))

/-- Nothing keeps the accesses waiting, and for a read every byte can be read (01 R12 to R14). -/
def Sys2Proof.Served (s : State) (h : Site) (read : Bool) (ps : List Piece) : Prop :=
  mustWait s h ps = false ∧ (read = true → ∀ p ∈ ps, s.accBad p.acc = false)

/-! ### Control (13 R274 to R286) -/

/-- `i` runs: the split goes on at `pc`, and nothing else changes but what R274 counts. -/
def Sys2Proof.GoesTo (s : State) (h : Site) (i : Instr) (pc : Word64) : Prop := exec i s = .next (s.withGroup h (h.moved pc false h.g))

/-- Split `j` of `g'` issues at `pc` in the mode of split `i` of `g`, and thread `t` is one of its threads. -/
def Sys2Proof.ThreadAt (g g' : Group) (i t : Nat) (pc : Word64) : Prop :=
  ∃ j, (g'.split j).live = true ∧ (g'.split j).mask.getLsbD t = true ∧ (g'.split j).pc = pc ∧
    (g'.split j).mode = (g.split i).mode

/-- What 13 R276 says of a branch to `T` that the threads of `take` take: a bad target raises BR_ALIGN whether or not a
thread takes it; else the split goes on, goes to `T`, or divides. A division puts each taking thread at `T` and each other
one at Next(A), in the split's mode, and leaves every other split's PC and mode. If it needs an entry and none is free, it
raises TABLE_BOUND (06 R124). Registers change only where the threads that stay join another split, which covers the late results
that something has overwritten (15 R331). -/
def Sys2Proof.BranchEffect (s : State) (h : Site) (i : Instr) (T take : Word64) : Prop :=
  let stay := h.mask &&& ~~~take
  let next := nextPc h.sp.pc
  if T.extractLsb' 0 2 ≠ 0 ∨ T.extractLsb' 2 3 = 0 then Raises s h i .brAlign 0 h.mask
  else if h.mask &&& take = 0 then GoesTo s h i next
  else if stay = 0 then GoesTo s h i T
  else if h.g.divideReady h.ix next T = false then Waits s i
  else if h.g.joinable h.ix T = none ∧ h.g.joinable h.ix next = none ∧ h.g.freeEntry = none then
    Raises s h i .tableBound 0 h.mask
  else ∃ g', exec i s = .next (s.withGroup h { g' with retired := g'.retired + 1 }) ∧
    g' = { h.g with splits := g'.splits, v := g'.v, k := g'.k, done := g'.done } ∧
    (h.g.joinable h.ix next = none → g'.v = h.g.v ∧ g'.k = h.g.k ∧ g'.done = h.g.done) ∧
    ((∀ p ∈ h.g.done, p.clobbered = []) → g'.v = h.g.v ∧ g'.k = h.g.k) ∧
    (∀ t, (h.mask &&& take).getLsbD t = true → ThreadAt h.g g' h.ix t T) ∧
    (∀ t, stay.getLsbD t = true → ThreadAt h.g g' h.ix t next) ∧
    ∀ j, j ≠ h.ix → (h.g.split j).live = true →
      (g'.split j).live = true ∧ (g'.split j).pc = (h.g.split j).pc ∧ (g'.split j).mode = (h.g.split j).mode

/-- R276, for every form of branch, in a group with its four splits (06 R124).
Readings of the model's own: notes/assumptions 24, 26, 50. -/
def Obligations.Branches : Prop :=
  ∀ s h, Ready s h → h.g.splits.length = 4 → ∀ (o24 : BitVec 24) (o : BitVec 16) (p : BitVec 3) (k : BitVec 6),
    let T := h.sp.pc + 4 * o.signExtend 64
    let K := h.kr k.toNat
    BranchEffect s h (.br o24) (h.sp.pc + 4 * o24.signExtend 64) h.mask ∧
    BranchEffect s h (.brp p o) T (h.pr p.toNat) ∧ BranchEffect s h (.brn p o) T (~~~(h.pr p.toNat)) ∧
    BranchEffect s h (.bruNz k o) T (if K ≠ 0 then h.mask else 0) ∧
    BranchEffect s h (.bruZ k o) T (if K = 0 then h.mask else 0)

/-- R278, R279: call writes Next(A) to K[d] and goes to its target, and ret goes to K[a]; callt and jmpt read their target from
entry K[a] of the launch's dispatch table, a plain load, and raise TABLE_BOUND for an index that it does not have. All four are in the
drain class, and a bad target raises BR_ALIGN and writes nothing. A K[a] that a late result is still to write never raises a fault
(00 R6), but goes to some valid target. Readings of the model's own: notes/assumptions 2, 26. -/
def Obligations.Transfers : Prop :=
  ∀ s h, Timely s h → ∀ (d a : BitVec 6) (o : BitVec 16),
    let T := h.sp.pc + 4 * o.signExtend 64
    let K := h.kr a.toNat
    let R := h.targetReg a.toNat
    let va := h.l.kd.dispatch + BitVec.ofNat 64 (8 * K.toNat)
    let link := fun (s' : State) i t => ∃ k',
      exec i s = .next (s'.withGroup h (h.moved t true { h.g.clobber (.k d.toNat) with k := k' })) ∧
      readCell k' d.toNat = nextPc h.sp.pc ∧ ∀ n, n ≠ d.toNat → readCell k' n = readCell h.g.k n
    let plain := fun (s' : State) i t => exec i s = .next (s'.withGroup h (h.moved t true h.g))
    (targetOk T = true → link s (.call d o) T) ∧ (targetOk T = false → Raises s h (.call d o) .brAlign 0 h.mask) ∧
    (targetOk R = true → plain s (.ret a) R) ∧ (targetOk R = false → Raises s h (.ret a) .brAlign 0 h.mask) ∧
    (if h.g.awaits (.k a.toNat) = true then targetOk R = true ∧ link s (.callt d a) R ∧ plain s (.jmpt a) R
     else R = readCell h.g.k a.toNat ∧ K = R ∧
      (h.l.kd.dispatchN ≤ K.toNat →
        Raises s h (.callt d a) .tableBound 0 h.mask ∧ Raises s h (.jmpt a) .tableBound 0 h.mask) ∧
      (K.toNat < h.l.kd.dispatchN → ∀ x, s.resolve h.ctx h.die false va.toNat 8 .read = .ok x →
        let p : Piece := { t := 0, va := va, acc := { x with q := h.l.q } }
        Served s h true [p] →
        let t := BitVec.ofNat 64 (leNat (s.peek p.acc))
        if targetOk t = true then link (s.readAll [p]) (.callt d a) t ∧ plain (s.readAll [p]) (.jmpt a) t
        else Raises s h (.callt d a) .brAlign 0 h.mask ∧ Raises s h (.jmpt a) .brAlign 0 h.mask))

/-- 06 R123: exit waits for the split's late results. 11 R237: in a FRAMES launch it also waits for the group's atomics and Electrum steps,
which precede the LIVE decrements it leads to (notes/assumptions 24). Then the split's threads leave the group (13 R281), and the group's other splits keep
their threads, or the group's entry is free, whatever frames the threads created and whatever charges they hold.
Readings of the model's own: notes/assumptions 24, 38. -/
def Obligations.Exit : Prop :=
  ∀ s h, Ready s h →
    let ahead := h.l.isFrames = true ∧ ((∃ r ∈ s.atoms, r.isOf h.core h.entry = true) ∨
      ∃ r ∈ s.caSteps, r.core = h.core ∧ r.entry = h.entry)
    if h.g.hasPending h.ix = true ∨ ahead then Waits s .exit
    else exec .exit s = .next (s.exitSplit h) ∧
      match tget (s.exitSplit h).groups h.key with
      | none => ∀ j, j < 4 → j ≠ h.ix → (h.g.split j).live = false
      | some g' => (g'.split h.ix).live = false ∧ g'.alive = h.g.alive &&& ~~~h.mask ∧
          ∀ j, j ≠ h.ix → (g'.split j).mask = (h.g.split j).mask

/-- R274, R282: nop only goes on. yield sets the split's hold, which lasts while another split could issue, and does nothing
else but end the holds of the group's other splits (06 R126). -/
def Obligations.Yield : Prop :=
  ∀ s h, Ready s h →
    let others := h.g.liveSplits.any fun j => j != h.ix && !(h.g.split j).stopped
    OnlyAdvances s h .nop false ∧ exec .yield s = .next (s.withGroup h { h.g with
      splits := h.g.splits.mapIdx fun j x =>
        if j = h.ix then { x with pc := nextPc x.pc, held := others } else { x with held := false },
      retired := h.g.retired + 1 })

/-- R283: brk and trap raise BRK and TRAPI once every earlier result of the split is written, with Next(A) as the trapping PC
and the split's active mask. R284, R285 and 12 R248: nret goes to K[62] with NEN set; nchk goes to its target and clears NPEND
if NPEND is set, and else falls through. A bad target raises BR_ALIGN in either case; a K[62] that is not written yet never raises a
fault (00 R6), but nret goes to some valid target, as modr takes some valid mode then. Readings of the model's own: notes/assumptions 2, 26,
29. -/
def Obligations.TrapsAndNotices : Prop :=
  ∀ s h, Ready s h → ∀ (code : BitVec 16) (o : BitVec 24),
    let T := h.sp.pc + 4 * o.signExtend 64
    let K := h.targetReg 62
    let r := fun i c => if h.g.hasPending h.ix = true then Waits s i
      else exec i s = .next (s.raise h c 0 h.mask (nextPc h.sp.pc))
    r (.brk code) .brk ∧ r (.trap code) .trapi ∧
    (if h.undefK 62 = true then targetOk K = true else K = readCell h.g.k 62) ∧
    (∀ a : BitVec 6, h.undefK a.toNat = true → modeValid (h.modeReg a.toNat) = true) ∧
    (if targetOk K = true then
      exec .nret s = .next (s.withGroup h (h.moved K true { h.g with nen := true })) else Raises s h .nret .brAlign 0 h.mask) ∧
    (if targetOk T = false then Raises s h (.nchk o) .brAlign 0 h.mask
     else if h.g.npend = true then
       exec (.nchk o) s = .next (s.withGroup h (h.moved T false { h.g with npend := false }))
     else GoesTo s h (.nchk o) (nextPc h.sp.pc))

/-- 06 R146: enter pushes a region identifier, of nine discarding the bottom one, and leave pops one or, of an empty stack, does
nothing. REGION reads the depth and the three top entries. With RBRK enabled for the identifier entered or left, the split takes
BRK at the region edge, once every earlier result of it is written. -/
def Obligations.Regions : Prop :=
  ∀ s h, Ready s h → ∀ (id : BitVec 16) (d : BitVec 8),
    let rb := (s.core h.core).rbrk
    let edge := fun (x : Option Word16) => rb.getLsbD 16 = true ∧ x = some (rb.extractLsb' 0 16)
    let r := fun i x stk =>
      if ¬edge x then Leaves s h i false { h.g with region := stk }
      else if h.g.hasPending h.ix = true then Waits s i
      else ∃ n, exec i s = .next (State.raise
        { s with groups := tset s.groups h.key { h.g with region := stk, retired := n } } h .brk 0 h.mask (nextPc h.sp.pc))
    r (.enter id) (some id) ((id :: h.g.region).take 8) ∧ r .leave h.g.region.head? (h.g.region.drop 1) ∧
    (h.hazard = [] → h.g.region.length ≤ 8 → ∃ x, WritesK s h (.rsr d 11) false (d.toNat % 64) x ∧
      x.extractLsb' 52 12 = 0 ∧ (x.extractLsb' 48 4).toNat = h.g.region.length ∧
      ∀ n, n < 3 → x.extractLsb' (16 * n) 16 = (h.g.region[n]?).getD 0)

/-- R289: the three forms replace fields of the split's MODE, in the drain class; an invalid value raises MODE_INVALID and
writes nothing. modr takes K[a] as a read of it gives it: `Site.modeReg`. -/
def Obligations.ModeWrites : Prop :=
  ∀ s h, Ready s h → ∀ (m : BitVec 5) (v : BitVec 12) (n : BitVec 3) (sense en : BitVec 1) (a : BitVec 6),
    let r := fun i (x : Word32) =>
      if modeValid x = true then exec i s = .next (s.withGroup h { h.g with
        splits := h.g.splits.set h.ix { h.onward (nextPc h.sp.pc) true with mode := x }, retired := h.g.retired + 1 })
      else Raises s h i .modeInvalid 0 h.mask
    let keep := fun (b : Bool) (new old : Word32) (lo n : Nat) => (if b then new else old).extractLsb' lo n
    (∃ x : Word32, r (.mode m v) x ∧
      let w : Word32 := v.setWidth 32
      let o := h.sp.mode
      modeType x = keep (m.getLsbD 0) w o 0 5 ∧ modeRound x = keep (m.getLsbD 1) w o 5 3 ∧
      modeSat x = (if m.getLsbD 2 then w else o).getLsbD 8 ∧ modeFtz x = (if m.getLsbD 3 then w else o).getLsbD 9 ∧
      modeBlen x = keep (m.getLsbD 4) w o 10 2 ∧ x.extractLsb' 12 20 = o.extractLsb' 12 20) ∧
    (∃ x : Word32, r (.modeGd n sense en) x ∧ modeGpred x = n ∧ modeSense x = (sense == 1) ∧ modeGen x = (en == 1) ∧
      x.extractLsb' 0 16 = h.sp.mode.extractLsb' 0 16 ∧ x.extractLsb' 21 11 = h.sp.mode.extractLsb' 21 11) ∧
    r (.modr a) (h.modeReg a.toNat) ∧
    (h.undefK a.toNat = false → h.modeReg a.toNat = (readCell h.g.k a.toNat).setWidth 32)

/-- R291, 12 R253: rsr of TIDX gives every active thread its index, whatever the guard; every other rsr writes a k register.
wsr writes NEN and clears NPEND, of RESID alone. Any other number raises ENC_ILLEGAL. -/
def Obligations.SystemRegisters : Prop :=
  ∀ s h, Timely s h → ∀ (d n : BitVec 8) (a : BitVec 6),
    let r := fun (n : BitVec 8) (x : Word64) => WritesK s h (.rsr d n) false (d.toNat % 64) x
    (OperandsOk h 6 [d.toNat] [] → WritesV s h (.rsr d 0) false 6 d.toNat h.active fun t => BitVec.ofNat 64 t) ∧
    r 1 (if h.team.formed = true then 0 else BitVec.ofNat 64 h.g.index) ∧
    r 2 (if h.team.formed = true then 0xFFFFFFFF else BitVec.ofNat 64 (h.team.index % h.l.tx)) ∧
    r 3 (if h.team.formed = true then 0xFFFFFFFF else BitVec.ofNat 64 (h.team.index / h.l.tx % h.l.ty)) ∧
    r 4 (if h.team.formed = true then 0xFFFFFFFF else BitVec.ofNat 64 (h.team.index / (h.l.tx * h.l.ty))) ∧
    r 5 (BitVec.ofNat 64 h.g.width) ∧ r 6 (h.g.residWord h.l (s.teamScratch h.team)) ∧
    r 7 (h.g.batchDone ++ h.g.batchOpen) ∧ r 8 h.g.lcnt ∧
    r 9 (BitVec.ofNat 64 (if h.l.isInvar = true then h.l.turn else s.cycleOf h.core)) ∧
    r 10 (BitVec.ofNat 64 h.g.retired) ∧ r 11 h.g.regionWord ∧ r 12 (h.sp.mode.setWidth 64) ∧
    r 13 (h.g.grantSeq ++ h.g.grantKind ++ 0#24) ∧
    (13 < n.toNat → Raises s h (.rsr d n) .encIllegal 0 h.mask) ∧
    (n ≠ 6 → Raises s h (.wsr a n) .encIllegal 0 h.mask) ∧
    Leaves s h (.wsr a 6) true { h.g with
      nen := (h.kr a.toNat).getLsbD 63, npend := h.g.npend && !(h.kr a.toNat).getLsbD 62 }

/-- 12 R264: an unassigned opcode, and opcode 0x7F whatever its other bits, raises ENC_ILLEGAL, before MODE is checked. The
decoder answers no instruction for such a word. -/
def Obligations.UnassignedOpcodes : Prop :=
  (∀ w : Word32,
    (w.extractLsb' 25 7).toNat ∈ [0x0F, 0x1F, 0x35, 0x36, 0x37, 0x42, 0x43, 0x44, 0x45, 0x46, 0x47, 0x48, 0x49, 0x4A, 0x4B,
      0x4C, 0x4D, 0x4E, 0x4F, 0x54, 0x55, 0x56, 0x57, 0x5D, 0x5E, 0x5F, 0x6D, 0x6E, 0x6F, 0x76, 0x77, 0x7B, 0x7F] →
    decode w = .error .illegal) ∧
  ∀ (s : State) (h : Site) (w : Word32), s.site? = some h → h.sp.stopped = false → (h.sp.draining && h.g.hasPending h.ix) = false →
    Raises s h (.unassignedOpcode w) .encIllegal 0 h.mask

/-- 06 R134: a cause whose fate is a trap stops its split on the trap core: the trap record holds the cause, the trapping
PC, the address and the threads, the split goes no further, and the trap core of the pair of cores (R120) will take it in its
turn. Nothing else changes. Readings of the model's own: notes/assumptions 24. -/
def Obligations.TrapStopsTheSplit : Prop :=
  ∀ (s : State) (h : Site), s.site? = some h → ∀ (c : Cause) (addr threads pc : Word64), c.fatal = false →
    let t := s.raise h c addr threads pc
    (∃ g', t.groups = tset s.groups h.key g' ∧ g' = { h.g with splits := g'.splits } ∧
      (∀ j, j ≠ h.ix → g'.split j = h.g.split j) ∧ (g'.split h.ix).stopped = true ∧ (g'.split h.ix).pc = pc ∧
      (g'.split h.ix).mask = h.mask ∧ (g'.split h.ix).mode = h.sp.mode ∧
      ∃ r, (g'.split h.ix).trap = some r ∧ r.cause = c ∧ r.pc = pc ∧ r.addr = addr ∧ r.threads = threads ∧
        r.time = s.refTime ∧ r.untaken = true) ∧
    t.cores = tset s.cores (pairOf h.core) { s.core (pairOf h.core) with
      trapQ := (s.core (pairOf h.core)).trapQ ++ [(h.core, h.entry, h.ix)] } ∧
    t = { s with groups := t.groups, cores := t.cores, freeCtr := t.freeCtr }

/-- 02 R51, R52, R47, 06 R131: a split that takes a fatal cause ends its context, and the fault record carries the cause, the address, the PC
and the place of the split. The end of a context: it is no longer live, its identifiers and bindings are cleared, and every queue of
it that was ACTIVE or in ERROR is FAULTED. No launch of it is left, no team of such a launch and no group of such a team; its copies,
matrix operations, atomics, Electrum steps, frames and unpublished writes are discarded, and the Sterling record that is kept last is
closed and is its own. -/
def Obligations.FatalEndsTheContext : Prop :=
  (∀ (s : State) (h : Site) (c : Cause) (addr threads pc : Word64), c.fatal = true →
    let r := s.siteRecord h c addr pc
    s.raise h c addr threads pc = s.contextFault h.ctx r ∧ r.kind = 1 ∧ r.cause = c.code ∧ r.addr = addr ∧ r.pc = pc ∧
    r.fn = h.l.fn ∧ r.queue = h.l.q ∧ r.tag = h.l.tag ∧ r.packet = h.l.pkt ∧ r.die = h.die ∧ r.core = h.core % 40 ∧
    r.team = h.team.index ∧ r.group = h.g.index ∧ r.split = h.ix) ∧
  ∀ (s : State) (c : Nat) (r : Record), (s.ctx? c).isSome = true →
    let t := s.contextFault c r
    t.ctx? c = none ∧ (∃ x, tget t.ctxs c = some x ∧ x.ids = [] ∧ x.binds = [] ∧ x.units = 0) ∧
    (∀ x ∈ t.copies, x.2.ctx ≠ c) ∧ (∀ m ∈ t.mats, m.ctx ≠ c) ∧ (∀ a ∈ t.atoms, a.ctx ≠ c) ∧
    (∀ a ∈ t.caSteps, a.ctx ≠ c) ∧ (∀ f ∈ t.frames, f.ctx ≠ c) ∧ (∀ d ∈ t.decs, d.ctx ≠ c) ∧
    (∀ w : PubWrite, w ∈ t.pubPending → w.ctx ≠ c) ∧
    (∃ x, t.closed.getLast? = some x ∧ x.closed = true ∧ ∀ y, tget s.ctxs c = some y → x.ctx = y.sterling.ctx) ∧
    (∀ x ∈ t.launches, x.2.ctx ≠ c) ∧
    (∀ x ∈ t.teams, ∀ l, (x.2.launch, l) ∈ s.launches → l.ctx ≠ c) ∧
    (∀ x ∈ t.groups, ∀ y l, (x.2.team, y) ∈ s.teams → (y.launch, l) ∈ s.launches → l.ctx ≠ c) ∧
    ∀ f q, (f, q) ∈ s.queuesOf c → (s.queue f q).state = .active ∨ (s.queue f q).state = .error → (t.queue f q).state = .faulted

/-! ### Memory (15 R322 to R332) -/

/-- The accesses of the acting threads, at the virtual addresses `f t`, all pass the checks of R324. -/
def Sys2Proof.Accesses (s : State) (h : Site) (k : Access) (f : Nat → Word64) (ps : List Piece) : Prop :=
  pieces (fun t => vaPiece s k h (f t)) h.acting = .ok ps

/-- The same at team-local offsets. -/
def Sys2Proof.LocalAccesses (s : State) (h : Site) (f : Nat → Word64) (ps : List Piece) : Prop :=
  pieces (fun t => localPiece s h (f t)) h.acting = .ok ps

/-- K[b] + ext(V[a][t]) and (V[a][t] + imm8 × n) mod 2^32 (R322). -/
def Sys2Proof.vaOf (h : Site) (zero : Bool) (a : BitVec 8) (b : BitVec 6) (t : Nat) : Word64 :=
  h.kr b.toNat + (if zero then (h.vr a.toNat t).setWidth 64 else (h.vr a.toNat t).signExtend 64)
def Sys2Proof.offOf (h : Site) (a i : BitVec 8) (t : Nat) : Word64 :=
  BitVec.ofNat 64 (((h.vr a.toNat t).toNat + i.toNat * (tyWidth h.ty / 8)) % 2 ^ 32)

/-- `i` is a load that has issued, and its accesses have left the state `u`: its results wait to be written, in issue order (R329), the load
count rises by one, and no register has changed yet. In an Invar launch the results are written at once (06 R147). -/
def Sys2Proof.LoadsFrom (s u : State) (h : Site) (i : Instr) (rs : List (Dest × Word64)) : Prop :=
  if h.l.isInvar = true then
    exec i s = .next ((u.modGroup h fun g => rs.foldl (fun g r => g.putDest r.1 r.2) g).advance h)
  else ∃ g' q, exec i s = .next (u.withGroup h g') ∧
    g' = { h.g with
      splits := g'.splits, retired := h.g.retired + 1, pending := g'.pending, done := g'.done,
      nextPending := h.g.nextPending + 1 } ∧ ((∀ r ∈ rs, h.g.awaits r.1 = false) → g'.done = h.g.done) ∧
    (g'.split h.ix).loadCnt = h.sp.loadCnt + 1 ∧ (g'.split h.ix).pc = nextPc h.sp.pc ∧
    (∀ j, j ≠ h.ix → g'.split j = h.g.split j) ∧ g'.pending.getLast? = some q ∧
    g'.pending.length = h.g.pending.length + 1 ∧ q.split = h.ix ∧ q.waits = 0 ∧ q.results = rs ∧ q.dests = rs.map (·.1)

/-- A load from memory, with the values the bytes had at issue; of memory only the A bits of the leaves it walked to may have changed. -/
def Sys2Proof.Loads (s : State) (h : Site) (i : Instr) (ps : List Piece) (rs : List (Dest × Word64)) : Prop :=
  (∀ k, (∀ p ∈ ps, ∀ l, p.acc.leaf = some l → l.1 ≠ k) → readCell (s.readAll ps).mem k = readCell s.mem k) ∧
  LoadsFrom s (s.readAll ps) h i rs

/-- R322 to R326, R329: ld, lda and lds, for every scalar type; lda first waits for the group's atomics and Electrum steps, which
is the model's choice (R182 to R186 keep no order from an atomic to an lda, and R327 asks for no wait; notes/assumptions 28).
Readings of the model's own: notes/assumptions 11, 25. -/
def Obligations.ThreadLoads : Prop :=
  ∀ s h, Timely s h → tyScalar h.ty = true → h.sp.loadCnt < 63 →
    ∀ (e : BitVec 1) (c : BitVec 3) (d a i : BitVec 8) (b : BitVec 6) (ps : List Piece),
    OperandsOk h h.ty [d.toNat] [a.toNat] → Served s h true ps →
    let rs := ps.flatMap fun p => elemResult h.ty d.toNat p.t (BitVec.ofNat 64 (leNat (s.peek p.acc)))
    (Accesses s h .read (vaOf h (e == 1) a b) ps → Loads s h (.ld e d a b) ps rs) ∧
    (c.toNat ≤ 4 → if atomsDone s h = .ok () then Accesses s h .read (vaOf h false a b) ps → Loads s h (.lda c d a b) ps rs
      else Waits s (.lda c d a b)) ∧
    (LocalAccesses s h (offOf h a i) ps → Loads s h (.lds d a i) ps rs)

/-- What a store of `n` bytes for each piece leaves: every byte of memory outside the stored bytes and the leaves walked to
reads as before; each stored byte of memory holds its byte of the element, unless a later thread, or a later leaf's D bit,
changes it, or its granule is retired (01 R14; R325: the highest thread's bytes stand). -/
def Sys2Proof.Stores (s : State) (h : Site) (i : Instr) (ps : List Piece) (n : Nat) (f : Nat → Word64) : Prop :=
  exec i s = .next ((s.storeAll ps n f).advance h) ∧
  (∀ k, (∀ p ∈ ps, (∀ l ∈ p.acc.locs, l ≠ .hbm k) ∧ ∀ l, p.acc.leaf = some l → l.1 ≠ k) →
    readCell ((s.storeAll ps n f).advance h).mem k = readCell s.mem k) ∧
  ∀ (qs : List Piece) (p : Piece) (rest : List Piece) (j k : Nat), ps = qs ++ p :: rest → j < n →
    p.acc.locs[j]? = some (.hbm k) → p.acc.locs.Nodup → s.granuleRetired k = false →
    (∀ q ∈ rest, (∀ l ∈ q.acc.locs, l ≠ .hbm k) ∧ ∀ l, q.acc.leaf = some l → l.1 ≠ k) →
    readCell ((s.storeAll ps n f).advance h).mem k = BitVec.ofNat 8 ((f p.t).toNat / 256 ^ j)

/-- R322 to R326: st, stl and sts, for every scalar type; stl first waits for the group's atomics.
Readings of the model's own: notes/assumptions 11, 28, 52. -/
def Obligations.ThreadStores : Prop :=
  ∀ s h, Ready s h → tyScalar h.ty = true →
    ∀ (e : BitVec 1) (c : BitVec 3) (d a i : BitVec 8) (b : BitVec 6) (ps : List Piece),
    OperandsOk h h.ty [d.toNat] [a.toNat] → Served s h false ps →
    let n := tyWidth h.ty / 8
    let x := h.elem h.ty d.toNat
    (Accesses s h .write (vaOf h (e == 1) a b) ps → Stores s h (.st e d a b) ps n x) ∧
    (c.toNat ≤ 4 → atomsDone s h = .ok () → Accesses s h .write (vaOf h false a b) ps → Stores s h (.stl c d a b) ps n x) ∧
    (LocalAccesses s h (offOf h a i) ps → Stores s h (.sts d a i) ps n x)

/-- R322, R328, R331: ldk and stk make one 8-byte access for the whole split, in memory or in scratchpad; pref only goes on. A
satisfied lwait goes on and covers late instructions, with n = 0 all of the split: what they wrote is defined from then on, and nothing
changes but the destinations that something has overwritten. An unsatisfied lwait holds the split. Readings of the model's own:
notes/assumptions 11, 25, 26. -/
def Obligations.UniformAccess : Prop :=
  ∀ s h, Timely s h → ∀ (m : BitVec 1) (d a b : BitVec 6) (i v : BitVec 8) (n : BitVec 6) (acc : Acc),
    let va := h.kr a.toNat + 8 * i.setWidth 64
    let p : Piece := { t := 0, va := va, acc := acc }
    let ok := fun k => (if m = 1 then accessLocal s h va 8 else accessVa s h va 8 k) = .ok acc
    (ok .read → h.sp.loadCnt < 63 → Served s h true [p] →
      Loads s h (.ldk m d a i) [p] [(.k d.toNat, BitVec.ofNat 64 (leNat (s.peek acc)))]) ∧
    (ok .write → Served s h false [p] → Stores s h (.stk m d a i) [p] 8 fun _ => h.kr d.toNat) ∧
    (v.toNat < 8 * h.g.vgran → OnlyAdvances s h (.pref v b) false) ∧
    (if h.sp.loadCnt ≤ n.toNat then ∃ g', Leaves s h (.lwait n) false g' ∧
        g' = { h.g with v := g'.v, k := g'.k, done := g'.done } ∧ (∀ p ∈ g'.done, p ∈ h.g.done) ∧
        (n = 0 → ∀ p ∈ g'.done, p.split ≠ h.ix) ∧
        ((∀ p ∈ h.g.done, p.clobbered = []) → g'.v = h.g.v ∧ g'.k = h.g.k)
     else Waits s (.lwait n))

/-- The 8-byte frame slots that threads view at a depth (R332; 11 R232): each thread's frame is there and holds the slot. -/
def Sys2Proof.Views (s : State) (h : Site) (k : BitVec 2) (slot : BitVec 8) (ts : List Nat) (fs : List (Nat × Frame)) : Prop :=
  fs.map (·.1) = ts ∧ ∀ x ∈ fs, s.frame? h.ctx (View h x.1 k.toNat) = some x.2 ∧ 8 * slot.toNat < x.2.size

/-- R332: the frame-slot instructions, in a FRAMES launch; elsewhere they raise FRAME_BOUND. Each frame's slot is charged to MEM_BYTES as a
64-byte sector (03 R72). While a root read of the group is on its way
they wait (08 R185; notes/assumptions 11). Readings of the model's own: notes/assumptions 25. -/
def Obligations.FrameSlots : Prop :=
  ∀ s h, Timely s h → ∀ (d : BitVec 8) (kd : BitVec 6) (k : BitVec 2) (slot : BitVec 8) (fs : List (Nat × Frame)),
    let pair := fun (x : Word64) (t : Nat) => [(Dest.v d.toNat t, x), (Dest.v (d.toNat + 1) t, x >>> 32)]
    let ok := d.toNat % 2 = 0 ∧ d.toNat < 8 * h.g.vgran
    (∀ (l : List Frame) (c : Context), tget s.ctxs h.ctx = some c → ∃ c', tget (s.chargeSlots h l).ctxs h.ctx = some c' ∧
      c'.sterling.memBytes = satAdd c.sterling.memBytes (64 * ((l.map fun f => (f.die, f.offset)).eraseDups).length)) ∧
    (h.l.isFrames = false → (ok → Raises s h (.ldf d k slot) .frameBound 0 h.mask ∧
        Raises s h (.stf d k slot) .frameBound 0 h.mask) ∧
      (h.sp.loadCnt < 63 → Raises s h (.ldfk kd k slot) .frameBound 0 h.mask)) ∧
    (h.l.isFrames = true → ok → Views s h k slot h.acting fs →
      if s.acquireAhead h = true then (h.sp.loadCnt < 63 → Waits s (.ldf d k slot)) ∧ Waits s (.stf d k slot)
      else
        let u := s.chargeSlots h (fs.map (·.2))
        (h.sp.loadCnt < 63 → LoadsFrom s u h (.ldf d k slot) (fs.flatMap fun x => pair (x.2.slot slot.toNat) x.1)) ∧
        exec (.stf d k slot) s = .next
          ((forAll (fun s x => s.putSlot h.ctx x.2.handle slot.toNat (h.vpair d.toNat x.1)) u fs).advance h)) ∧
    (h.l.isFrames = true → h.sp.loadCnt < 63 → ∀ f, Views s h k slot [lowestThread h.mask] [(lowestThread h.mask, f)] →
      if s.acquireAhead h = true then Waits s (.ldfk kd k slot)
      else LoadsFrom s (s.chargeSlots h [f]) h (.ldfk kd k slot) [(.k kd.toNat, f.slot slot.toNat)])

/-- R329: LOAD_COMPLETE writes the results of the split's oldest late instruction, once its engines have answered, and takes
its count off. An element that something else has written meanwhile gets a free value; if the split is at its exit, which waits for the
result, the exit discards it and every other element keeps what it holds (13 R281); no other register changes. What is written stays undefined until it is covered
(R331). Readings of the model's own: notes/assumptions 24, 25, 26. -/
def Obligations.LoadComplete : Prop :=
  ∀ (s : State) (g : Group) (p : Pending), s.group? s.cur.core s.cur.entry = some g →
    (g.pending.find? fun q => q.split == s.cur.split) = some p → p.waits = 0 → s.cur.split < g.splits.length →
    (p.results.map (·.1)).Nodup → (∀ r ∈ p.results, ∀ n t, r.1 = .v n t → t < 64) →
    ∃ g', exec .loadComplete s = .next { s.setGroup s.cur.core s.cur.entry g' with freeCtr := s.freeCtr + 1 } ∧
      g' = { g with splits := g'.splits, v := g'.v, k := g'.k, pending := g'.pending, done := g'.done } ∧
      g'.pending = g.pending.filter (fun q => q.id != p.id) ∧
      g'.done = g.done ++ [{ p with results := [], clobbered := [] }] ∧ (∀ d ∈ p.dests, g'.awaits d = true) ∧
      (g'.split s.cur.split).loadCnt = (g.split s.cur.split).loadCnt - 1 ∧
      (s.exits g = true →
        (s.siteAt s.cur.core s.cur.entry s.cur.split).bind s.nextInstr = some .exit ∧
        (∀ n t, t < 64 → p.clobbered.contains (.v n t) = false → readCell g'.v (n * 64 + t) = readCell g.v (n * 64 + t)) ∧
        ∀ n, p.clobbered.contains (.k n) = false → readCell g'.k n = readCell g.k n) ∧
      (s.exits g = false →
        (∀ n t x, t < 64 → (Dest.v n t, x) ∈ p.results → p.clobbered.contains (.v n t) = false →
          readCell g'.v (n * 64 + t) = x.setWidth 32) ∧
        ∀ n x, (Dest.k n, x) ∈ p.results → p.clobbered.contains (.k n) = false → readCell g'.k n = x) ∧
      (∀ n t, t < 64 → (∀ x, (Dest.v n t, x) ∉ p.results) → readCell g'.v (n * 64 + t) = readCell g.v (n * 64 + t)) ∧
      ∀ n, (∀ x, (Dest.k n, x) ∉ p.results) → readCell g'.k n = readCell g.k n

/-! ### Atomics, deques, barriers and fences (15 R333 to R341) -/

/-- R333 to R335: atom and atomr send one request for each acting thread to its engine, in ascending thread order, with the
thread's operands; no byte of memory and no register changes yet. atom counts as one late instruction, which waits for as many
answers. Readings of the model's own: notes/assumptions 28. -/
def Obligations.AtomicIssue : Prop :=
  ∀ s h, Timely s h → h.l.isInvar = false → ∀ (d a : BitVec 8) (o : BitVec 4) (sc : BitVec 3) (ps : List Piece),
    let op := o.toNat
    sc.toNat ≤ 4 → atomAccepts op h.ty = true → a.toNat % 2 = 0 → a.toNat < 8 * h.g.vgran →
    ((tyWide h.ty || op == 7) = true → d.toNat % 2 = 0) → d.toNat < 8 * h.g.vgran →
    ((tyWide h.ty && op == 7) = true → d.toNat + 2 < 8 * h.g.vgran) →
    pieces (atomPiece s h op a) h.acting = .ok ps → (∀ p ∈ ps, s.accWaits p.acc = false) → s.acquireAhead h = false →
    (op ≤ 5 → exec (.atomr d a o sc) s = .next { s.withGroup h (h.moved (nextPc h.sp.pc) false h.g) with
      atoms := s.atoms ++ ps.map (atomReq s h op d a sc none) }) ∧
    (op ≤ 7 → h.sp.loadCnt < 63 → ∃ g' q, exec (.atom d a o sc) s = .next { s.withGroup h g' with
        atoms := s.atoms ++ ps.map (atomReq s h op d a sc (some h.g.nextPending)) } ∧
      g' = { h.g with
        splits := g'.splits, retired := h.g.retired + 1, pending := g'.pending, done := g'.done,
        nextPending := h.g.nextPending + 1 } ∧
      (g'.split h.ix).loadCnt = h.sp.loadCnt + 1 ∧ (g'.split h.ix).pc = nextPc h.sp.pc ∧ g'.pending.getLast? = some q ∧
      q.split = h.ix ∧ q.waits = ps.length ∧ q.results = [])

/-- R188, R334, R180: at its engine a request behind which no work of an earlier instruction of its groups, and no lower thread's of its own
instruction to its bytes, is left executes as one step, through the leaf as it is
then (03 R68), and the location gets the new value, the request is gone, and the old value is the answer of the group's pending
instruction. A request whose address was an undefined value reaches nothing where another would end its context: it is gone all the
same, and answers a free value (00 R6). Two requests of atomr that a router may merge become one, in any bracketing (09 R213), unless a third that can
merge with neither has to come between them (`AtomReq.deadlock`); it carries the other with it, so it acts for both groups, and its operand is
the two operands combined (R189, 09 R213). Readings of the model's own: notes/assumptions 11, 28. -/
def Obligations.AtomicAtEngine : Prop :=
  ∀ (s : State) (i j : Nat) (r b : AtomReq), s.atoms[i]? = some r → s.atoms[j]? = some b →
    (i = j → firstAtom s.atoms i r = true → ∀ acc, s.walkedAgain r = .ok acc → acc.locs ≠ [] → s.accWaits acc = false →
      s.accBad acc = false →
      let at' := acc.atHost
      let u := (s.settleHost acc).countWeak acc
      let old := BitVec.ofNat 64 (leNat (u.peek at'))
      let s1 := u.poke at' (natBytes acc.locs.length (atomNew r.ty r.op old r.value r.v2).toNat)
      let s2 := { s1 with atoms := s1.atoms.eraseIdx i }
      exec (.atomicAtEngine i j) s = .next (match r.back with
        | some (id, d, t) => s2.answer (r.core * 64 + r.entry) id (elemResult r.ty d t old)
        | none => s2)) ∧
    (i = j → firstAtom s.atoms i r = true → r.undef = true → ∀ c, s.walkedAgain r = .error c → ∃ x,
      let s2 := { s with atoms := s.atoms.eraseIdx i }
      exec (.atomicAtEngine i j) s = .next (match r.back with
        | some (id, d, t) => s2.answer (r.core * 64 + r.entry) id (elemResult r.ty d t x)
        | none => s2)) ∧
    (let m := r.with' b
     i ≠ j → mergeableAtoms r b = true →
      AtomReq.deadlock ((s.atoms.eraseIdx (max i j)).eraseIdx (min i j)) r b = false →
      exec (.atomicAtEngine i j) s = .next { s with atoms := (s.atoms.set i m).eraseIdx j } ∧
      (∀ x, x ∈ r.owners ∨ x ∈ b.owners → x ∈ m.owners) ∧
      m.value = atomNew r.ty r.op r.value b.value 0)

/-- R336, R337: dqpush writes K[d] at BOTTOM and adds one to BOTTOM, does nothing for 0, and parks the split on a full deque,
where DQPUSH_RETRY tries again. dqpop takes the entry below BOTTOM and dqsteal the one at TOP; an empty deque gives 0. Each is
one step. While a parked push has room on the deque, its retry comes before any of them (R342). A retry that can reach the deque no more takes
the cause, but pushes nothing and goes on if its address was an undefined value (00 R6). Readings of the model's own: notes/assumptions 28, 49. -/
def Obligations.Deques : Prop :=
  (∀ s h, Timely s h → ∀ (d a : BitVec 6) (c : BitVec 3) (q : Deque) (p : Piece), c.toNat ≤ 4 →
    let va := h.kr a.toNat
    let v := h.kr d.toNat
    let full := (q.bottom - q.top).toNat = 2 ^ q.log
    dequeHeader s h va = .ok q →
    if atomsDone s h ≠ .ok () ∨ ((q.bottom - q.top).toNat < 2 ^ q.log ∧ s.pushParked h q.acc = true) then
      Waits s (.dqpush d a c) ∧ (h.sp.loadCnt < 63 → Waits s (.dqpop d a c) ∧ Waits s (.dqsteal d a c))
    else (
      (v = 0 → exec (.dqpush d a c) s = .next ((s.afterRead q.acc).advance h)) ∧
      (v ≠ 0 → full → exec (.dqpush d a c) s = .next ((s.afterRead q.acc).parkSplit h (.deque va v (h.undefK a.toNat)))) ∧
      (v ≠ 0 → ¬full → dequeEntry s h va q q.bottom = .ok p → exec (.dqpush d a c) s = .next
        (((s.poke p.acc (natBytes 8 v.toNat)).putHeader q q.top (q.bottom + 1)).advance h))) ∧
    (h.sp.loadCnt < 63 →
      let late := fun (s' : State) x => .next ((s'.late h [(.k d.toNat, x)]).advance h)
      (q.bottom = q.top → exec (.dqpop d a c) s = late (s.afterRead q.acc) 0 ∧
        exec (.dqsteal d a c) s = late (s.afterRead q.acc) 0) ∧
      (q.bottom ≠ q.top → dequeEntry s h va q (q.bottom - 1) = .ok p → exec (.dqpop d a c) s =
        late ((s.afterRead p.acc).putHeader q q.top (q.bottom - 1)) (BitVec.ofNat 64 (leNat (s.peek p.acc)))) ∧
      (q.bottom ≠ q.top → dequeEntry s h va q q.top = .ok p → exec (.dqsteal d a c) s =
        late ((s.afterRead p.acc).putHeader q (q.top + 1) q.bottom) (BitVec.ofNat 64 (leNat (s.peek p.acc)))))) ∧
  ∀ (s : State) (h : Site) (va v : Word64) (lost : Bool), s.site? = some h → h.sp.park = some (.deque va v lost) → v ≠ 0 →
    let go := fun (s : State) => s.modSplit h fun x => { x with park := none, pc := nextPc x.pc, parkedNs := 0 }
    (∀ (q : Deque) (p : Piece), dequeHeader s h va = .ok q →
      if (q.bottom - q.top).toNat = 2 ^ q.log then exec .dqpushRetry s = .next s
      else dequeEntry s h va q q.bottom = .ok p → exec .dqpushRetry s = .next
        (go ((s.poke p.acc (natBytes 8 v.toNat)).putHeader q q.top (q.bottom + 1)))) ∧
    ∀ c x m, dequeHeader s h va = .error (.cause c x m) → exec .dqpushRetry s = .next
      (if lost = true then go s else (s.headerRead h va).raise h c x m h.sp.pc)

/-- R338, R339, 07 R163: bari sets up an uninitialised word, or any word with K[d][8]: the arrival counts are K[d][7:0], no
bytes are outstanding, the phase is 0, EXT is as the form says, and the reserved bits are kept. barr reads the word. barw goes on
in a word whose phase differs from K[d][0], else it parks. bara and barx park and arrive, barx after adding K[d][39:0] to the
bytes outstanding. Each notes the word as one that the team uses as a barrier word, and a bari that sets a word up leaves the splits
that are parked on it in phase 0. Readings of the model's own: notes/assumptions 28, 48. -/
def Obligations.Barriers : Prop :=
  ∀ s h, Timely s h → atomsDone s h = .ok () → ∀ (d a : BitVec 6) (e : BitVec 1) (off : Nat) (w : Word64),
    barrierWord s h a = .ok (off, w) →
    let K := h.kr d.toNat
    let phase := w.getLsbD 62
    let noted := s.modTeam h.tid fun t =>
      { t with barWords := if t.barWords.contains off then t.barWords else off :: t.barWords }
    (∃ w' : Word64,
      let u := noted.modTeam h.tid fun t => t.setWord off w'
      if w.extractLsb' 48 8 = 0 ∨ K.getLsbD 8 = true then
        exec (.bari d a e) s = .next ((u.rephase h.tid off).advance h) ∧
        (∀ (key i : Nat) (g : Group) (x : Split) b c, tget u.groups key = some g → g.team = h.tid → g.splits[i]? = some x →
          x.park = some (.barrier off true b c) →
          ∃ g' x', tget (u.rephase h.tid off).groups key = some g' ∧ g'.splits[i]? = some x' ∧
            x' = { x with park := some (.barrier off false b c) }) ∧
        w'.getLsbD 63 = (e == 1) ∧ w'.getLsbD 62 = false ∧ w'.extractLsb' 56 6 = w.extractLsb' 56 6 ∧
        w'.extractLsb' 48 8 = K.extractLsb' 0 8 ∧ w'.extractLsb' 40 8 = K.extractLsb' 0 8 ∧ w'.extractLsb' 0 40 = 0
      else w' = w ∧ exec (.bari d a e) s = .next (u.advance h)) ∧
    (h.sp.loadCnt < 63 → exec (.barr d a) s = .next ((noted.late h [(.k d.toNat, w)]).advance h)) ∧
    exec (.barw d a) s = .next (if phase ≠ K.getLsbD 0 then noted.advance h
      else noted.parkSplit h (.barrier off phase false false)) ∧
    exec (.bara a) s = .next ((noted.parkSplit h (.barrier off phase true true)).tryArrive h.key) ∧
    exec (.barx d a) s = .next (((noted.modTeam h.tid fun t =>
      t.setWord off (w.extractLsb' 40 24 ++ (w.extractLsb' 0 40 + K.extractLsb' 0 40))).parkSplit h
        (.barrier off phase true false)).tryArrive h.key)

/-- R339, 06 R127: a barrier word whose last arrival or last byte comes in ends its phase: PHASE toggles and ARR_LEFT becomes
ARR_INIT again, and every split of the team parked in the old phase goes on after its instruction. A split whose group has not arrived yet, by
a bara or barx of its own, waits in no phase and stays as it is, which is the model's reading of 'every split parked on W in the old phase'
(notes/assumptions 48), as every split parked elsewhere does. -/
def Obligations.BarrierPhase : Prop :=
  ∀ (s : State) (team off : Nat) (t : Team) (f : Word64 → Word64), tget s.teams team = some t →
    let w := f (t.word off)
    let u := s.updateWord team off f
    ∃ t', tget u.teams team = some t' ∧
      if w.extractLsb' 40 8 = 0 ∧ w.extractLsb' 0 40 = 0 ∧ w.extractLsb' 48 8 ≠ 0 then
        (t'.word off).getLsbD 62 = (!w.getLsbD 62) ∧ (t'.word off).extractLsb' 40 8 = w.extractLsb' 48 8 ∧
        (t'.word off).extractLsb' 48 8 = w.extractLsb' 48 8 ∧ (t'.word off).extractLsb' 0 40 = 0 ∧
        (∀ key g g', tget s.groups key = some g → tget u.groups key = some g' → g.team = team →
          ∀ j a b, (g.split j).park = some (.barrier off (w.getLsbD 62) false b) → a = g'.split j →
            a.park = none ∧ a.pc = nextPc (g.split j).pc) ∧
        (∀ key g g', tget s.groups key = some g → tget u.groups key = some g' →
          ∀ j, g.team ≠ team ∨ (∀ b, (g.split j).park ≠ some (.barrier off (w.getLsbD 62) false b)) → g'.split j = g.split j)
      else t'.word off = w ∧ u.groups = s.groups

/-- R340, R341, 02 R46: fence holds the split until the group's atomics and Electrum steps are done; pub makes every earlier write of its context
to host-published pages visible, in their order, and then adds one to the counter at K[a], which is visible at once; no other byte of host
memory or HBM changes but the leaf it walked to. A window address raises ADDR_PERM.
Readings of the model's own: notes/assumptions 11, 28. -/
def Obligations.FenceAndPublish : Prop :=
  ∀ s h, Ready s h → ∀ (c : BitVec 3) (a : BitVec 6) (acc : Acc),
    (c.toNat ≤ 4 →
      if (∃ r ∈ s.atoms, r.isOf h.core h.entry = true) ∨ ∃ r ∈ s.caSteps, r.core = h.core ∧ r.entry = h.entry then Waits s (.fence c)
      else OnlyAdvances s h (.fence c) false) ∧
    (5 ≤ c.toNat → Raises s h (.fence c) .encIllegal 0 h.mask) ∧
    ((h.kr a.toNat).toNat % 8 = 0 → inWindow (h.kr a.toNat).toNat = true → Raises s h (.pub a) .addrPerm (h.kr a.toNat) 0) ∧
    (inWindow (h.kr a.toNat).toNat = false → accessVa s h (h.kr a.toNat) 8 .both = .ok acc → (acc.isHbm || acc.isHost) = true → atomsDone s h = .ok () →
      Served s h true [{ t := 0, va := h.kr a.toNat, acc := acc }] →
      let mine := fun w : PubWrite => w.ctx == h.ctx
      let u := s.publish mine acc
      let old := leNat (((s.flushWhere mine).settleHost acc).peek acc.atHost)
      exec (.pub a) s = .next (u.advance h) ∧ (∀ x ∈ u.pubPending, x.ctx ≠ h.ctx) ∧
      (∀ pre w post, s.pubPending = pre ++ w :: post → w.ctx = h.ctx → (∀ y ∈ post, y.ctx = h.ctx → y.addr ≠ w.addr) →
        w.addr ∉ acc.hostAddrs → readCell u.hostMem w.addr = w.val) ∧
      (∀ k, k ∉ acc.hostAddrs → (∀ w ∈ s.pubPending, w.ctx = h.ctx → w.addr ≠ k) → readCell u.hostMem k = readCell s.hostMem k) ∧
      (∀ j k b, acc.locs[j]? = some (.host k b) → readCell u.hostMem k = BitVec.ofNat 8 ((old + 1) / 256 ^ j)) ∧
      (∀ j k, acc.locs[j]? = some (.hbm k) → s.granuleRetired k = false → readCell u.mem k = BitVec.ofNat 8 ((old + 1) / 256 ^ j)) ∧
      ∀ k, (∀ l ∈ acc.locs, l ≠ .hbm k) → (∀ l, acc.leaf = some l → l.1 ≠ k) → readCell u.mem k = readCell s.mem k)

/-! ### Frames and continuations (16 R372 to R376; 11 R228 to R239) -/

/-- R373: fnew creates one frame for each active thread, whatever the guard, and fnew.u one for the lowest, which also
becomes d[DEPTH] of the group; the handles are the results. In a group formed from records, a frame of depth 2 or 3 whose
d register is null enters the thread's own view (11 R232). While a root read of the group is on its way both wait (08 R185).
Readings of the model's own: notes/assumptions 11, 28, 36. -/
def Obligations.FrameCreation : Prop :=
  ∀ s h, Timely s h → h.l.isFrames = true → h.sp.loadCnt < 63 →
    ∀ (d : BitVec 8) (kd a : BitVec 6) (s1 : State) (hs : List (Nat × Word64)),
    if s.acquireAhead h = true then (d.toNat % 2 = 0 → d.toNat < 8 * h.g.vgran → Waits s (.fnew d a)) ∧ Waits s (.fnewU kd a) else
    let f := FrameSpec.of (h.kr a.toNat)
    let rs : List (Dest × Word64) := hs.flatMap fun x =>
      [(Dest.v d.toNat x.1, x.2), (Dest.v (d.toNat + 1) x.1, (x.2 : Word64) >>> (32 : Nat))]
    let s2 := if 2 ≤ f.depth ∧ h.team.formed = true ∧ (readCell h.g.d f.depth : Word64) = 0 then
      s1.modTeam h.tid fun t => hs.foldl (Team.setView f.depth) t else s1
    (d.toNat % 2 = 0 → d.toNat < 8 * h.g.vgran → createAll s h f h.active = .ok (s1, hs) →
      exec (.fnew d a) s = .next ((s2.late h rs).advance h)) ∧
    (∀ x, createAll s h f [lowestThread h.mask] = .ok (s1, [(lowestThread h.mask, x)]) →
      exec (.fnewU kd a) s = .next (((s1.modGroup h fun g => { g with d := writeCell g.d f.depth x }).late h
        [(Dest.k kd.toNat, x)]).advance h))

/-- R372: in a launch without KFLAGS.FRAMES every frame instruction raises FRAME_BOUND. R374: fret finishes, once each, the
bodies of the frames that the active threads view, and fret.u that of the lowest thread's; a launch frame is left alone. R375: disp
writes K[a] to d[k] if it is null or names a frame that is there, and raises FRAME_BOUND otherwise. R376: cont emits one record
for each active thread and cont.u one, all or none; a pool without room for them raises CONT_FULL (04 R92). In an Invar launch what they lead to
is done within the instruction: endTurnFrames (notes/assumptions 36). -/
def Obligations.FrameInstructions : Prop :=
  (∀ s h, Ready s h → h.l.isFrames = false → ∀ (d : BitVec 8) (a b : BitVec 6) (k : BitVec 2) (v : BitVec 8),
    let r := fun i => Raises s h i .frameBound 0 h.mask
    (d.toNat % 2 = 0 → d.toNat < 8 * h.g.vgran → r (.fnew d a)) ∧ r (.fnewU a b) ∧ r (.fret k) ∧ r (.fretU k) ∧
    (k ≠ 0 → r (.disp k a)) ∧ (v.toNat % 16 = 0 → v.toNat + 15 < 8 * h.g.vgran → r (.cont v)) ∧
    (a.toNat % 8 = 0 → r (.contU a))) ∧
  (∀ s h, Ready s h → h.l.isFrames = true → atomsDone s h = .ok () → ∀ (k : BitVec 2) (fs : List Frame),
    let t := ((s.finishBodies (fs.filter fun f => !f.isLaunch)).advance h).endTurnFrames h
    (viewed s h k.toNat h.active = .ok fs → exec (.fret k) s = .next t) ∧
    (viewed s h k.toNat [lowestThread h.mask] = .ok fs → exec (.fretU k) s = .next t)) ∧
  (∀ s h, Ready s h → h.l.isFrames = true → ∀ (k : BitVec 2) (a : BitVec 6), k ≠ 0 →
    let x := h.kr a.toNat
    if x = 0 ∨ (s.frame? h.ctx x).isSome = true then
      ∃ d', Leaves s h (.disp k a) false { h.g with d := d' } ∧ readCell d' k.toNat = x ∧
        ∀ n, n ≠ k.toNat → readCell d' n = readCell h.g.d n
    else Raises s h (.disp k a) .frameBound 0 h.mask) ∧
  ∀ s h, Ready s h → h.l.isFrames = true → ∀ (a : BitVec 8) (b : BitVec 6),
    let v := h.active.map fun t => fixRecord h t ((List.range 16).flatMap fun i => natBytes 4 (h.vr (a.toNat + i) t).toNat)
    let u := [fixRecord h (lowestThread h.mask) ((List.range 8).flatMap fun i => natBytes 8 (h.kr (b.toNat + i)).toNat)]
    let r := fun i (recs : List (List Byte)) => checkRecords s h (recs.map (·, true)) = .ok () →
      if 65536 < (s.die h.die).poolCount + recs.length then Raises s h i .contFull 0 h.mask
      else atomsDone s h = .ok () →
        exec i s = .next (((forAll (fun s x => s.emit h x) s recs).advance h).endTurnFrames h)
    (a.toNat % 16 = 0 → a.toNat + 15 < 8 * h.g.vgran → r (.cont a) v) ∧ (b.toNat % 8 = 0 → r (.contU b) u)

/-! ### Copies (16 R344 to R355; 07 R166 to R172) -/

/-- R344, R345: tdef stores the 64 bytes at K[a] as entry `i` of its context's table, or 64 zero bytes if VALID is clear, and
raises TABLE_BOUND for a valid image it does not accept; tget reads one of the entry's eight words. -/
def Obligations.TensorIdentifiers : Prop :=
  ∀ s h, Timely s h → ∀ (d a : BitVec 6) (w : BitVec 3) (i : BitVec 8) (acc : Acc),
    WritesK s h (.tget d w i) false d.toNat (BitVec.ofNat 64 (readLe (s.ident h.ctx i.toNat) (8 * w.toNat) 8)) ∧
    (accessVa s h (h.kr a.toNat) 64 .read = .ok acc → Served s h true [{ t := 0, va := h.kr a.toNat, acc := acc }] →
      let img := memOf (s.peek acc)
      let bytes := if (Ident.of img).valid then readBytes img 0 64 else natBytes 64 0
      if (Ident.of img).valid = true ∧ (Ident.of img).accepted img = false then
        Raises s h (.tdef a i) .tableBound 0 h.mask
      else exec (.tdef a i) s = .next (((((s.afterRead acc).modCtx h.ctx fun c =>
        { c with ids := writeBytes c.ids (64 * i.toNat) bytes }).advance h)).drain h))

/-- `i` hands the copy `c` to its engine: a new copy in flight, which belongs to the group's open batch, and the split goes
on. It waits while 256 copies are queued at the engine or 64 of the group are in flight. In an Invar launch the copy is
carried out at once. A copy that moves nothing and has no signal completes at once (R348). -/
def Sys2Proof.StartsCopy (s : State) (h : Site) (i : Instr) (c : Copy) : Prop :=
  if c.rows = 0 ∧ c.sig = 0 ∧ c.kind ≠ .tree then OnlyAdvances s h i false
  else if 256 ≤ s.queued c.engine ∨ 64 ≤ s.groupCopies h.key then Waits s i
  else
    let s1 := State.modGroup { s with copies := tset s.copies s.nextId c, nextId := s.nextId + 1 } h fun g =>
      { g with unclosed := g.unclosed ++ [s.nextId] }
    exec i s = .next ((if h.l.isInvar then s1.runCopy s.nextId (c.rows + 1) else s1).advance h)

/-- R371: caout checks that its root is live and of the height it states, adds a reference to it and starts a copy of the
tree's expansion. R346 to R354: a copy that passes the checks of R350 starts, with its operands captured: the identifiers, the start
coordinates, the barrier word, the cluster mask, the signal word, the teams whose on-chip state it reaches then (07 R157), and whether one
of them was an undefined value, which then never raises a fault (00 R6); cpyg
takes its rows from an index list, and cpyr moves registers. Readings of the model's own: notes/assumptions 23, 28, 32. -/
def Obligations.CopyIssue : Prop :=
  (∀ s h, Ready s h → atomsDone s h = .ok () → ∀ (d a b : BitVec 6) (e : Nat), s.pickEngine h.ctx h.die = some e →
    let k := h.kr d.toNat
    let base := fun kind => { Copy.blank h kind e with
      src := s.ident h.ctx (k.extractLsb' 8 8).toNat, dst := s.ident h.ctx (k.extractLsb' 16 8).toNat,
      s := h.kr a.toNat, d := h.kr b.toNat, bw := k.getLsbD 47, bar := (k.extractLsb' 24 21).toNat,
      mask := k.extractLsb' 48 16, undef := h.lostK [d.toNat, a.toNat, b.toNat] }
    let ok := fun c => checkCopy s h c = .ok () ∧ checkWindow s h c = .ok ()
    (ok (base .box) → StartsCopy s h (.cpy d a b) ((base .box).aimed s)) ∧
    (ok (base .multicast) → (Ident.of (base .multicast).dst).spad = true →
      StartsCopy s h (.cpym d a b) ((base .multicast).aimed s)) ∧
    (b.toNat % 2 = 0 →
      let c := { base .signal with sig := h.kr (b.toNat + 1), undef := h.lostK [d.toNat, a.toNat, b.toNat, b.toNat + 1] }
      ok c → c.sig.toNat % 8 = 0 → StartsCopy s h (.cpyo d a b) (c.aimed s)) ∧
    (let x := h.kr a.toNat
      let c := { base .gather with
        list := (x.extractLsb' 0 32).setWidth 64, count := (x.extractLsb' 32 16).toNat,
        first := (x.extractLsb' 48 16).toNat }
      ok c → c.list.toNat % 4 = 0 → (c.count = 0 ∨ c.list.toNat + 4 * c.count ≤ s.teamScratch h.team) →
        StartsCopy s h (.cpyg d a b) (c.aimed s)) ∧
    (let n := 4 * h.g.width
      let st := if h.kr b.toNat = 0 then BitVec.ofNat 64 n else h.kr b.toNat
      let dir : Access := if k.getLsbD 16 then .write else .read
      let span := fun (i : Nat) => { addr := h.kr a.toNat + BitVec.ofNat 64 i * st, n := n, esz := 4 : Span }
      let c := { Copy.blank h (.regs (k.getLsbD 16)) e with
        list := h.kr a.toNat, stride := st, first := (k.extractLsb' 0 8).toNat, count := (k.extractLsb' 8 8).toNat,
        undef := h.lostK [d.toNat, a.toNat, b.toNat], into := s.reached h.ctx dir ((List.range (k.extractLsb' 8 8).toNat).map span) }
      c.list.toNat % 4 = 0 → st.toNat % 4 = 0 → c.first + c.count ≤ 8 * h.g.vgran →
        (∀ i, i < c.count → s.windowCheck h.ctx dir (span i) = .ok ()) →
        StartsCopy s h (.cpyr d a b) c)) ∧
  ∀ s h, Ready s h → atomsDone s h = .ok () → ∀ (d a : BitVec 6) (b : BitVec 4) (id e : Nat) (x : Store) (l : Line),
    d.toNat % 2 = 0 → a.toNat % 2 = 0 → bound s h b 0 = .ok (id, x) → s.pickEngine h.ctx h.die = some e →
    let k := h.kr (d.toNat + 1)
    let n := (k.extractLsb' 0 40).toNat
    let ht := (k.extractLsb' 40 3).toNat
    let root := h.kr (a.toNat + 1) ++ h.kr a.toNat
    let c := { Copy.blank h .tree e with
      list := h.kr d.toNat, count := n, root := root.toNat, store := id, height := ht,
      undef := h.lostK [d.toNat, d.toNat + 1, a.toNat, a.toNat + 1],
      into := s.reached h.ctx .write [{ addr := h.kr d.toNat, n := n, esz := 4 }] }
    let s' := { s with stores := tset s.stores id (x.addRef root) }
    (h.kr d.toNat).toNat % 16 = 0 → ht ≤ 4 → n ≤ 256 * 16 ^ ht →
    s.windowCheck h.ctx .write { addr := h.kr d.toNat, n := n, esz := 4 } = .ok () →
    (∀ y ∈ s.caSteps, ¬(y.core = h.core ∧ y.entry = h.entry)) → x.live? root = some l → l.interior = decide (0 < ht) →
    s.queued e < 256 → s.groupCopies h.key < 64 → h.l.isInvar = false →
    exec (.caout d a b) s = .next ((State.modGroup { s' with
      copies := tset s.copies s.nextId c, nextId := s.nextId + 1 } h fun g =>
        { g with unclosed := g.unclosed ++ [s.nextId] }).advance h)

/-- R355, 07 R170: bclose closes the group's copies into batch OPEN, which then counts on from 2^32 - 1 to 1; bwait goes on
if the batch is closed and done, and else parks the split. 07 R169, R170: COPY_DELIVER delivers the next row of a copy that has
rows left, or all of them where a row could end within an element of a register view (07 R155), as notes/assumptions 32 says; COPY_COMPLETE then
updates its signal word and takes the copy out of its group's batch. A stop of the engine ends the context (R343), but a row that an undefined
operand of the copy keeps from its place is discarded (00 R6). 10 R224: a copy of a tree delivers the next 64 bytes of the expansion of its
root; one that meets a line of the wrong kind drops its reference and ends the context with CA_STALE (10 R221); at its end it drops its
reference. Readings of the model's own: notes/assumptions 32, 33, 65, 67. -/
def Obligations.Batches : Prop :=
  (∀ s h, Ready s h → h.sp.park = none → ∀ a : BitVec 6,
    let n : Word32 := (h.kr a.toNat).setWidth 32
    let closed := ¬(n - h.g.batchOpen).toNat < 2 ^ 31
    let done := (h.g.batchDone - n).toNat < 2 ^ 31
    (∃ t g', exec .bclose s = .next t ∧ tget t.groups h.key = some g' ∧ t = { s with groups := t.groups, freeCtr := t.freeCtr } ∧
      g'.batchOpen = (if h.g.batchOpen = 0xFFFFFFFF then 1 else h.g.batchOpen + 1) ∧ g'.unclosed = [] ∧
      (g'.split h.ix).pc = nextPc h.sp.pc) ∧
    (closed → done → OnlyAdvances s h (.bwait a) false) ∧
    (¬(closed ∧ done) → exec (.bwait a) s = .next (s.parkSplit h (.batch n (decide closed))))) ∧
  (∀ (s s1 : State) (c : Copy) (n : Nat) e a t,
    let c1 := { c with next := c.next + 1 }
    deliverRows c 0 s = .ok s ∧
    (s.deliverRow c = .ok s1 → deliverRows c (n + 1) s = deliverRows c1 n { s1 with freeCtr := s1.freeCtr + 1 }) ∧
    (s.deliverRow c = .error (.cause e a t) → deliverRows c (n + 1) s =
      if c.undef = true then deliverRows c1 n { s with freeCtr := s.freeCtr + 1 } else .error (.cause e a t))) ∧
  ∀ (s : State) (id : Nat) (c : Copy), tget s.copies id = some c →
    let ended := fun (s1 t : State) => t.copies = terase s1.copies id ∧
      ∀ g, tget s1.groups c.group = some g → ∃ g', tget t.groups c.group = some g' ∧ id ∉ g'.unclosed ∧ ∀ x ∈ g'.batches, id ∉ x.2
    (c.kind ≠ .tree →
      let rows := if c.splitsWords = true then c.rows - c.next else 1
      (c.next < c.rows → ∀ s1, deliverRows c rows s = .ok s1 →
        exec (.copyDeliver id) s = .next { s1 with
          copies := tset s1.copies id { c with next := c.next + rows }, freeCtr := s1.freeCtr + 1 }) ∧
      (c.next < c.rows → ∀ e a t, deliverRows c rows s = .error (.cause e a t) →
        exec (.copyDeliver id) s = .next (s.engineStop c.ctx c.team c.pc e a.toNat)) ∧
      (¬c.next < c.rows → ∀ s1, s.signalWord c = .ok s1 → ∃ t, exec (.copyComplete id) s = .next t ∧ ended s1 t)) ∧
    (c.kind = .tree → c.sig = 0 → ∀ x, tget s.stores c.store = some x →
      let root := BitVec.ofNat 128 c.root
      let dropped := { s with stores := tset s.stores c.store (x.dropRef c.team root) }
      (c.next < c.rows → ∀ bs s1, x.treeChunk c.height root (64 * c.next) = some bs →
        let n := min 64 (c.count - 64 * c.next)
        s.engineWrite c.agent (c.list + BitVec.ofNat 64 (64 * c.next)) (bs.take n) = .ok s1 →
        let v := (s1.countCopy c.ctx n).chargeHbm c.ctx 64 0
        exec (.copyDeliver id) s = .next { v with copies := tset v.copies id { c with next := c.next + 1 }, freeCtr := v.freeCtr + 1 }) ∧
      (c.next < c.rows → x.treeChunk c.height root (64 * c.next) = none → c.undef = false →
        exec (.copyDeliver id) s = .next (dropped.engineStop c.ctx c.team c.pc .caStale 0)) ∧
      (¬c.next < c.rows → ∃ t, exec (.copyComplete id) s = .next t ∧ ended s t ∧
        t.stores = tset s.stores c.store (x.dropRef c.team root)))

/-! ### The matrix unit (16 R356 to R365) -/

/-- The unit accepts `i` as an operation of a kind with an identifier: the operation waits its turn there and the split goes on.
Without ownership of every core's unit that it needs, the split waits (05 R105). -/
def Sys2Proof.Accepts (s : State) (h : Site) (i : Instr) (kind : MatKind) (id : Mem) (into : List (Nat × Nat)) : Prop :=
  let m : MatOp :=
    { core := h.core, team := h.tid, group := h.key, ctx := h.ctx, kind := kind, id := id, spoiled := false, pc := h.sp.pc,
      q := h.l.q, into := into, undef := h.readsUndef }
  if ∀ c ∈ m.cores h.team, (s.core c).owner = some h.tid then
    exec i s = .next { s.withGroup h (h.moved (nextPc h.sp.pc) false h.g) with mats := s.mats ++ [m] }
  else Waits s i

/-- R359 to R365: the matrix instructions are accepted once their operands pass the checks; fenop only goes on, and mwait
holds the split until the group's operations have retired, and then ends the hazard of their registers (07 R155), which changes
nothing else unless something touched them. Readings of the model's own: notes/assumptions 28, 35. -/
def Obligations.MatrixIssue : Prop :=
  ∀ s h, Ready s h → h.l.isInvar = false → ∀ (r : BitVec 1) (d t : BitVec 3) (a : BitVec 6) (i : BitVec 8),
    let id := s.ident h.ctx i.toNat
    let b := Ident.of id
    let k := h.kr a.toNat
    Accepts s h (.shape a) (.shape (k.toNat % 8) (k.extractLsb' 8 8).toNat (k.extractLsb' 16 16).toNat) [] [] ∧
    Accepts s h (.accz d) (.accz d.toNat) [] [] ∧
    (atomsDone s h = .ok () →
      OnlyAdvances s h .fenop false ∧
      (checkOperand s h b 1 128 (decide (b.dim 1 * b.dim 0 * b.m / 8 + b.dim 1 * b.dim 0 / b.bl ≤ 16320)) = .ok () →
        Accepts s h (.tld t i) (.tld t.toNat) id []) ∧
      (checkOperand s h b 1 128 true = .ok () → Accepts s h (.mma r d t i) (.mma (r == 1) d.toNat t.toNat) id []) ∧
      (checkOperand s h b 2 256 h.team.pair = .ok () →
        Accepts s h (.mmap r d t i) (.mmap (r == 1) d.toNat t.toNat) id []) ∧
      (b.valid = true → b.dim 2 = 1 → b.dim 3 = 1 → b.dim 0 ≤ 128 → b.dim 1 ≤ 128 → b.fmt ≤ 5 →
        (b.fmt = 5 → b.dim 0 % b.bl = 0) →
        let ps := (List.range (b.dim 1)).flatMap fun j => b.spans j 0 (b.dim 0)
        (if b.spad then ∀ p ∈ ps, p.addr.toNat + p.n ≤ s.teamScratch h.team
          else ∀ p ∈ ps, s.windowCheck h.ctx .write p = .ok ()) →
        Accepts s h (.accrd d i) (.accrd d.toNat) id (if b.spad then [] else s.reached h.ctx .write ps))) ∧
    (if ∃ m ∈ s.mats, m.group = h.key ∧ m.retired = false then Waits s .mwait
     else exec .mwait s = .next ((s.waited h.key).advance h) ∧ (∀ m ∈ (s.waited h.key).mats, m.group ≠ h.key) ∧
      ((∀ m ∈ s.mats, m.group = h.key → m.spoiled = false) →
        s.waited h.key = { s with mats := s.mats.filter fun m => m.group != h.key }))

/-- R363: MATRIX_RETIRE carries out the operation at the head of the core's unit, which has retired then. R364: accz leaves +0 in every element
of its accumulator. R359: tld leaves the rows of its operand, the scale bytes behind them, and the descriptor. R360: shape sets M and K. R362:
mma and mmap add the products to each element of the result, in mmap with the columns of the upper half on the other core, and charge
MATRIX_CYC (03 R72). None of them changes another byte. R364: accrd writes the rows, the lowest first, each element in the identifier's format.
A shape, mma or mmap that the tile's descriptor does not allow ends the context with TABLE_BOUND, unless the descriptor has undefined values
(07 R155). Readings of the model's own: notes/assumptions 35. -/
def Obligations.MatrixRetire : Prop :=
  ∀ (s : State) (core i : Nat) (m : MatOp) (t : Team), headOf s core = some i → s.mats[i]? = some m →
    tget s.teams m.team = some t →
    (∀ s1, matRun s m = .ok s1 →
      exec (.matrixRetire core) s = .next { s1 with mats := retireMat s1.mats i m, freeCtr := s1.freeCtr + 1 }) ∧
    let b := Ident.of m.id
    let leaves := fun (P : State → Team → Prop) => ∃ u t', exec (.matrixRetire core) s = .next u ∧
      tget u.teams m.team = some t' ∧ u.mats = retireMat s.mats i m ∧ P u t'
    let fails := exec (.matrixRetire core) s = .next (s.engineStop m.ctx m.team m.pc .tableBound 0)
    m.spoiled = false →
    (∀ a, m.kind = .accz a → leaves fun _ t' => t'.tiles = t.tiles ∧
      (∀ j, j < 0x10000 → readCell t'.accs (accOff t m.core a + j) = 0) ∧
      ∀ k, (k < accOff t m.core a ∨ accOff t m.core a + 0x10000 ≤ k) → readCell t'.accs k = readCell t.accs k) ∧
    (∀ n, m.kind = .tld n → (loadTile t b).length ≤ 16320 → leaves fun _ t' =>
      let off := tileOff t m.core n
      t'.accs = t.accs ∧ (∀ j x, (loadTile t b)[j]? = some x → readCell t'.tiles (off + j) = x) ∧
      (∀ j x, (tileDesc b)[j]? = some x → readCell t'.tiles (off + 16320 + j) = x) ∧
      ∀ k, ¬(off ≤ k ∧ k < off + (loadTile t b).length) → ¬(off + 16320 ≤ k ∧ k < off + 16331) →
        readCell t'.tiles k = readCell t.tiles k) ∧
    (∀ n r k, m.kind = .shape n r k →
      let off := tileOff t m.core n
      let a := Tile.of (memOf (readBytes t.tiles off 0x4000))
      if a.tvalid = true ∧ 0 < r ∧ r ≤ a.mx ∧ 0 < k ∧ k % a.bl = 0 ∧ k ≤ a.kx then leaves fun _ t' =>
        t'.accs = t.accs ∧ (∀ j x, (natBytes 2 r ++ natBytes 2 k)[j]? = some x → readCell t'.tiles (off + 16324 + j) = x) ∧
        ∀ y, ¬(off + 16324 ≤ y ∧ y < off + 16328) → readCell t'.tiles y = readCell t.tiles y
      else m.undef = false → s.badTile m = false → fails) ∧
    (∀ reuse acc tile half other, (m.kind = .mma reuse acc tile ∧ half = b.dim 1 ∧ other = m.core) ∨
        (m.kind = .mmap reuse acc tile ∧ half = (b.dim 1 + 1) / 2 ∧ other = t.core + (t.core + 1 - m.core)) →
      half ≤ 128 →
      let a := Tile.of (latchRead s m t reuse tile).1
      let place := fun j => if j < half then (accOff t m.core acc, j) else (accOff t other acc, j - half)
      if a.tvalid = true ∧ a.k = b.dim 0 ∧ a.k % max a.bl b.bl = 0 then leaves fun u t' =>
        t'.tiles = t.tiles ∧ (u.core m.core).latch = (latchRead s m t reuse tile).2 ∧
        (∀ x j, x < min a.m 128 → j < b.dim 1 → accElem t' (place j).1 x (place j).2 =
          macElem { m := a.mbits, bl := a.bl } { m := b.m, bl := b.bl } (a.row x) (operandRow t b j) a.k (accElem t (place j).1 x (place j).2)) ∧
        (∀ k, (∀ c ∈ [m.core, other], k < accOff t c acc ∨ accOff t c acc + 0x10000 ≤ k) → readCell t'.accs k = readCell t.accs k) ∧
        ∀ c, tget s.ctxs m.ctx = some c → ∃ c', tget u.ctxs m.ctx = some c' ∧ c'.sterling.matrixCyc =
          satAdd c.sterling.matrixCyc ((a.k * a.mbits + 7) / 8 * if m.kind.paired = true then 2 else 1)
      else m.undef = false → s.badTile m = false → fails) ∧
    ∀ a, m.kind = .accrd a →
      (∀ s1, accDeliver s m t a (List.range (b.dim 1)) s = .ok s1 →
        exec (.matrixRetire core) s = .next { s1 with mats := retireMat s1.mats i m, freeCtr := s1.freeCtr + 1 }) ∧
      (∀ e x y, accDeliver s m t a (List.range (b.dim 1)) s = .error (.cause e x y) → m.undef = false →
        exec (.matrixRetire core) s = .next (s.engineStop m.ctx m.team m.pc e x.toNat)) ∧
      ∀ (v : State) (row : Nat) (rest : List Nat), accDeliver s m t a (row :: rest) v =
        (writeSpans { ctx := m.ctx, die := dieOf m.core, q := m.q, into := m.into } m.team b (b.spans row 0 (b.dim 0))
          (accRow b ((List.range (b.dim 0)).map (accElem t (accOff t m.core a) row))) v).bind (accDeliver s m t a rest)

/-! ### Electrum (16 R366 to R371; 10 R214 to R227) -/

/-- `i` posts a step of the context at a store: the step is listed after the others, and the split goes on. It notes whether the name or
address it works on is undefined (`lost`), and whether the child or chunk number is (`loose`; 00 R6). A step that writes
registers counts as a late instruction, which waits for one answer (R222, R366). -/
def Sys2Proof.Posts (s : State) (h : Site) (i : Instr) (store : Nat) (op : CaOp) (dests : List Dest) (lost : Bool)
    (loose : Bool := false) (into : List (Nat × Nat) := []) : Prop :=
  ∃ g', exec i s = .next { s.withGroup h g' with caSteps := s.caSteps ++
      [{ ctx := h.ctx, store := store, team := h.tid, core := h.core, entry := h.entry,
         back := if dests = [] then none else some h.g.nextPending, op := op, pc := h.sp.pc, into := into,
         undef := lost, loose := loose }] } ∧
    (g'.split h.ix).pc = nextPc h.sp.pc ∧ g'.v = h.g.v ∧ g'.k = h.g.k ∧
    if dests = [] then g'.pending = h.g.pending
    else (g'.split h.ix).loadCnt = h.sp.loadCnt + 1 ∧ ∃ q, g'.pending.getLast? = some q ∧ q.split = h.ix ∧ q.waits = 1 ∧
      q.dests = dests

/-- R366 to R371: for every form, a handle that binds no store of the context raises TABLE_BOUND, and a binding without the right that
the form needs ADDR_PERM. With both, each instruction but caout, which is stated at CopyIssue, posts its step.
Readings of the model's own: notes/assumptions 28, 34. -/
def Obligations.ElectrumIssue : Prop :=
  ∀ s h, Timely s h → h.sp.loadCnt < 63 → ∀ (d a : BitVec 6) (b : BitVec 4), d.toNat % 2 = 0 →
    let bind := (tget s.ctxs h.ctx).bind fun c => tget c.binds b.toNat
    let stops := fun (c : Cause) (lacks : Nat → Prop) =>
      let r := fun i right => lacks right → Raises s h i c 0 h.mask
      r (.calookLeaf d a b) 1 ∧ r (.calookInt d a b) 1 ∧
      (a.toNat % 2 = 0 → r (.caread d a b) 0 ∧ r (.cawalk d a b) 0 ∧ 
        (h.undefK d.toNat = false → r (.carswap d a b) (if (h.kr d.toNat).getLsbD 62 then 0 else 2)) ∧
        r (.caref a b) 1 ∧ r (.cadrop a b) 1 ∧ r (.caout d a b) 0)
    stops .tableBound (fun _ => ∀ y, bind = some y → tget s.stores y.store = none) ∧
    stops .addrPerm (fun right => ∃ y, bind = some y ∧ (tget s.stores y.store).isSome = true ∧ y.rights.getLsbD right = false) ∧
    ∀ (id : Nat) (x : Store), h.l.isInvar = false →
    let has := fun (right : Nat) => ∃ y, bind = some y ∧ y.store = id ∧ tget s.stores id = some x ∧ y.rights.getLsbD right = true
    let D := d.toNat
    let A := a.toNat
    let K := h.kr D
    let name := h.kr (A + 1) ++ h.kr A
    let flag := if A = D ∨ A = D + 1 then [] else [Dest.k A]
    (has 1 → atomsDone s h = .ok () → ∀ acc, accessVa s h (h.kr A) 256 .read = .ok acc →
      let into := (acc.locs.filterMap s.locHolder).eraseDups
      let lost := h.undefK A
      Posts s h (.calookLeaf d a b) id (.look false (h.kr A) D A) ([.k D, .k (D + 1)] ++ flag) lost false into ∧
      Posts s h (.calookInt d a b) id (.look true (h.kr A) D A) ([.k D, .k (D + 1)] ++ flag) lost false into) ∧
    (A % 2 = 0 →
      let lost := h.lostK [A, A + 1]
      (has 0 → Posts s h (.caread d a b) id (.read name (K.toNat % 16) D) [.k D, .k (D + 1)] lost (h.undefK D) ∧
        Posts s h (.cawalk d a b) id (.walk name (K.toNat % 16) D) [.k D, .k (D + 1)] lost (h.undefK D) ∧
        (K.getLsbD 62 = true → K.toNat % 2 ^ 32 < 2 ^ x.rootsLog → atomsDone s h = .ok () →
          Posts s h (.carswap d a b) id (.rootRead K D A) [.k D, .k (D + 1), .k A, .k (A + 1)] (h.lostK [D, A, A + 1]))) ∧
      (has 2 → K.getLsbD 62 = false → K.toNat % 2 ^ 32 < 2 ^ x.rootsLog → atomsDone s h = .ok () →
        Posts s h (.carswap d a b) id (.rootSwap K (h.kr (D + 1)) name D A)
          [.k D, .k (D + 1), .k A, .k (A + 1)] (h.lostK [D, A, A + 1])) ∧
      (has 1 → Posts s h (.caref a b) id (.ref name) [] lost ∧ Posts s h (.cadrop a b) id (.drop name) [] lost))

/-- Step `i` executes: it leaves the state `u`, is gone from the list, and answers its group's pending instruction with `rs` (R222). -/
def Sys2Proof.CaRuns (s : State) (i : Nat) (c : CaStep) (u : State) (rs : List (Dest × Word64)) : Prop :=
  let v := { u with caSteps := u.caSteps.eraseIdx i, freeCtr := u.freeCtr + 1 }
  exec (.electrumStep i) s = .next (match c.back with
    | some id => v.answer (c.core * 64 + c.entry) id rs
    | none => v)

/-- What carswap returns: a name to K[a] and K[a+1], a version to K[d+1], and its flag in bit 63 of K[d], whose other bits stay, or are the
name's where a = d (R369). -/
def Sys2Proof.SwapResult (ctl : Word64) (d a : Nat) (n : CaName) (v : Word64) (flag : Bool) (rs : List (Dest × Word64)) : Prop :=
  ∃ w : Word64, rs = nameResult a n ++ [(.k (d + 1), v), (.k d, w)] ∧ w.getLsbD 63 = flag ∧
    ∀ b, b < 63 → w.getLsbD b = if a = d then n.getLsbD b else ctl.getLsbD b

/-- 10 R218 to R226, R222: a step that is the first of its group executes at its store, and its results answer the group; any other one
waits. Lookup-or-allocate finds the live line of the same kind and bytes and adds a reference, or allocates a line under the lowest
collision index of its prefix that is free, with one reference to each child; a child that is not live is CA_STALE, a prefix with no
index left CA_COLLISION, and a full store CA_FULL, unless drops are under way (R219, R220). A read gives a child or chunk name and a walk
a child that is there (R223). A reference counts up and saturates; a drop counts down, and the last one leaves the line dying, with its
children to be dropped (R218). A root read returns the root with its version; a swap whose version is the root's replaces name and version,
adds a reference to the new name and leaves the old one to be dropped, and any other swap changes nothing (R225, R226). A name that is not
live is CA_STALE, which ends the context; where it was an undefined value, the step changes nothing and its results are undefined (00 R6).
CASCADE_DROP takes one step that a drop has left. Readings of the model's own: notes/assumptions 2, 34. -/
def Obligations.ElectrumSteps : Prop :=
  (∀ (s : State) (i : Nat) (c : CaStep) (x : Store), s.caSteps[i]? = some c → firstCa s.caSteps i c = true →
    tget s.stores c.store = some x →
    let runs := CaRuns s i c
    let put := fun (u : State) (y : Store) => { u with stores := tset u.stores c.store y }
    let stops := fun e => c.undef = false → c.loose = false →
      exec (.electrumStep i) s = .next (s.engineStop c.ctx c.team c.pc e 0)
    let lines := fun n (f : Line → Line) => { x with lines := x.lines.map fun l => if l.name = n then f l else l }
    (∀ interior va d a, c.op = .look interior va d a →
      let got := s.engineRead { ctx := c.ctx, die := dieOf c.core, q := 0, into := c.into } va 256
      (∀ e z t, got = .error (.cause e z t) → c.undef = false → c.loose = false →
        exec (.electrumStep i) s = .next (s.engineStop c.ctx c.team c.pc e z.toNat)) ∧
      ∀ bs u, got = .ok (bs, u) →
        let p := contentPrefix interior bs
        let kids := if interior = true then childrenOf bs else []
        let same := fun (l : Line) => l.dying = none ∧ l.interior = interior ∧ l.content = bs
        let free := fun (n : Nat) => (p ≠ 0 ∨ n ≠ 0) ∧ (∀ l ∈ x.lines, ¬(l.pre = p ∧ l.index = n)) ∧ (p, n) ∉ x.used
        let rs := fun n (flag : Word64) => nameResult d n ++ if a = d ∨ a = d + 1 then [] else [(Dest.k a, flag)]
        ((∃ k ∈ kids, x.live? k = none) → stops .caStale) ∧
        ((∀ k ∈ kids, (x.live? k).isSome = true) →
          (∀ l pre post, x.lines = pre ++ l :: post → same l → (∀ y ∈ pre, ¬same y) →
            runs (put u (x.addRef l.name)) (rs l.name 1)) ∧
          ((∀ l ∈ x.lines, ¬same l) →
            ((∀ n, n < 256 → ¬free n) → stops .caCollision) ∧
            ∀ n, n < 256 → free n → (∀ m, m < n → ¬free m) →
              if x.lines.length < 2 ^ x.linesLog then
                let l : Line := { interior := interior, pre := p, index := n, count := 1, content := bs, dying := none }
                let y := kids.foldl Store.addRef x
                runs (put u { y with lines := y.lines ++ [l] }) (rs l.name 0)
              else if x.pendingSteps = true then Waits s (.electrumStep i)
              else stops .caFull))) ∧
    (∀ n j d, c.op = .read n j d →
      (∀ l, x.live? n = some l → runs s (nameResult d (childOf l.content j))) ∧ (x.live? n = none → stops .caStale)) ∧
    (∀ n j d, c.op = .walk n j d →
      (∀ l, x.live? n = some l → if l.interior = true ∧ childOf l.content j ≠ 0 then runs s (nameResult d (childOf l.content j))
        else stops .caStale) ∧ (x.live? n = none → stops .caStale)) ∧
    (∀ n, c.op = .ref n →
      ((x.live? n).isSome = true → runs (put s (lines n fun l => { l with count := min (l.count + 1) (2 ^ 32 - 1) })) []) ∧
      (x.live? n = none → stops .caStale)) ∧
    (∀ n, c.op = .drop n →
      ((x.live? n).isSome = true → runs (put s (lines n fun l =>
        if l.dying.isSome = true ∨ l.count = 2 ^ 32 - 1 then l
        else if 1 < l.count then { l with count := l.count - 1 }
        else { l with count := 0, dying := some (c.team, if l.interior = true then childrenOf l.content else []) })) []) ∧
      (x.live? n = none → stops .caStale)) ∧
    (∀ ctl d a, c.op = .rootRead ctl d a →
      let r := (tget x.roots (ctl.toNat % 2 ^ 32)).getD { name := 0, version := 0 }
      ∃ rs, SwapResult ctl d a r.name r.version (decide (r.name ≠ 0)) rs ∧ runs s rs) ∧
    (∀ ctl v n d a, c.op = .rootSwap ctl v n d a →
      let slot := ctl.toNat % 2 ^ 32
      let r := (tget x.roots slot).getD { name := 0, version := 0 }
      (n ≠ 0 → x.live? n = none → stops .caStale) ∧
      (n = 0 ∨ (x.live? n).isSome = true → ∃ rs,
        if r.version = v then
          SwapResult ctl d a r.name v true rs ∧ runs (put s { (if n = 0 then x else x.addRef n) with
            roots := tset x.roots slot { name := n, version := v + 1 },
            drops := if r.name = 0 then x.drops else x.drops ++ [(c.team, r.name)] }) rs
        else SwapResult ctl d a r.name r.version false rs ∧ runs s rs)) ∧
    ∀ e z t, s.caExcused c = true → caStepAt s c x = .error (.cause e z t) → ∃ rs, rs.map (·.1) = c.op.dests ∧ runs s rs) ∧
  (∀ (s : State) (i : Nat) (c : CaStep), s.caSteps[i]? = some c →
    (firstCa s.caSteps i c = false → Waits s (.electrumStep i)) ∧
    (firstCa s.caSteps i c = true → tget s.stores c.store = none → c.undef = false → c.loose = false →
      exec (.electrumStep i) s = .next (s.engineStop c.ctx c.team c.pc .tableBound 0))) ∧
  ∀ (s : State) (st : Nat) (x : Store), tget s.stores st = some x →
    let leaves := fun (y : Store) => exec (.cascadeDrop st) s = .next { s with stores := tset s.stores st y }
    (∀ t n r, x.drops = (t, n) :: r → leaves ({ x with drops := r }.dropRef t n)) ∧
    (x.drops = [] → ∀ l t pre post, x.lines = pre ++ l :: post → (∀ y ∈ pre, y.dying = none) →
      (∀ k r, l.dying = some (t, k :: r) →
        leaves ((x.modLine l.name fun y => { y with dying := some (t, r) }).dropRef t k)) ∧
      (l.dying = some (t, []) → leaves (x.free l))) ∧
    (x.drops = [] → (∀ l ∈ x.lines, l.dying = none) → Waits s (.cascadeDrop st))

/-- 11 R237, R238: FRAME_LIVE_DECREMENT takes one from the frame's LIVE. The last one frees a frame that has finished and names no join, or
whose join has run; of one that names a join it makes a JOINED frame with LIVE 1, whose join record waits on the frame's die. JOIN_RECORD_ENQUEUE moves a die's oldest join record into the gather pool if an entry is free.
Readings of the model's own: notes/assumptions 36. -/
def Obligations.FrameEvents : Prop :=
  ∀ (s : State) (i die : Nat) (d : FrameDec) (f : Frame) (lid : Nat) (rec : List Byte) (js : List (Nat × List Byte)),
    (s.decs[i]? = some d → s.frame? d.ctx d.handle = some f →
      let u := { s with decs := s.decs.eraseIdx i }
      (1 < f.liveN → exec (.frameLiveDecrement i) s = .next (u.setFrame { f with
        liveN := f.liveN - 1, fstate := if f.bodyDone && f.fstate == 1 then 2 else f.fstate })) ∧
      (f.liveN = 0 → exec (.frameLiveDecrement i) s = .next u) ∧
      (f.liveN = 1 → f.bodyDone = false → exec (.frameLiveDecrement i) s = .next (u.setFrame { f with liveN := 0 })) ∧
      (f.liveN = 1 → f.bodyDone = true → f.retire = 0xFFFFFFFF ∨ f.fstate = 3 →
        exec (.frameLiveDecrement i) s = .next (u.freeFrame { f with liveN := 0 })) ∧
      (f.liveN = 1 → f.bodyDone = true → f.retire ≠ 0xFFFFFFFF → f.fstate ≠ 3 →
        let g := { f with fstate := 3, liveN := 1 }
        let v := u.setFrame g
        exec (.frameLiveDecrement i) s = .next (v.setDie f.die { v.die f.die with
          joins := (v.die f.die).joins ++ [(f.launch, v.joinRecord g)] }))) ∧
    ((s.die die).joins = (lid, rec) :: js → (s.die die).poolCount < 65536 →
      exec (.joinRecordEnqueue die) s = .next ((s.setDie die { s.die die with joins := js }).pool die lid rec none))

/-! ### The host interface (02 R31 to R55, R400, R401) -/

/-- R38: a doorbell, over the link that carries the function (01 R18), on a queue that is ACTIVE, with a newer sequence number and a TAIL within the ring, sets LSEQ and TAIL; one
on a queue that is not ACTIVE is discarded and counts in DISCARDS. R36: REGISTER_WRITE of the QREG of a DISABLED queue sets its
writable bits. Writes of TRAP_POLICY (06 R133), SAMPLE_CTL and SAMPLE_BASE (06 R143), whose low six bits are kept, the model's
choice (notes/assumptions 64), GCNT_POLICY (03 R75) and RBRK (06 R137) set their fields, and ENABLE that becomes 1 starts the counter page at zero
(notes/assumptions 45). A 1 in bit 1 clears OVERFLOW of DROOP_STAT (01 R29). MB_SUBMIT starts the request unless one is active, and a 1 clears
RSP_READY or EVT_LOST of MB_STAT (R400). A write to a register that is read only changes none. R55: PFEQ_CTL_WRITE that sets ENABLE zeroes the indices and the overflow bit. R56, R400: an unlisted CODE is
answered with STATUS 1; MB_RESPONSE publishes the answer and clears BUSY; EVENT_RING_WRITE writes the oldest event that waits
once the ring has room. Readings of the model's own: notes/assumptions 37. -/
def Obligations.HostRegisters : Prop :=
  (∀ (s : State) (link fn off q : Nat) (v : Word64), fn < 17 → off < 0xF00 → off % 8 = 0 → (v.extractLsb' 32 16).toNat = q → q < 1024 →
    s.plant.reaches link fn = true → s.plant.recovery = false → (s.queue fn q).thief = none →
    let x := s.queue fn q
    let t := v.extractLsb' 0 32
    let d := (v.extractLsb' 48 16 - x.lseq).toNat
    (x.state = .active → 0 < d → d ≤ 32767 → (t - x.tail).toNat < 2 ^ 31 → (t - x.head).toNat ≤ 2 ^ x.ringLog →
      ∃ u, exec (.doorbell ⟨link, fn⟩ off 8 v) s = .next u ∧ u = { s with queues := u.queues } ∧
        u.queue fn q = { x with lseq := v.extractLsb' 48 16, tail := t } ∧
        ∀ f p, p < 1024 → ¬(f = fn ∧ p = q) → u.queue f p = s.queue f p) ∧
    (x.state ≠ .active → exec (.doorbell ⟨link, fn⟩ off 8 v) s =
      .next (s.setFunc fn { s.func fn with discards := (s.func fn).discards + 1 }))) ∧
  (∀ (s : State) (link fn q : Nat) (v : Word64), fn < 17 → q < 1024 → s.plant.reaches link 0 = true →
    (s.queue fn q).state = .disabled →
    ∃ u m, exec (.registerWrite 4 ⟨link, 0⟩ (0x100000 + 0x4000 * fn + 8 * q) 8 v) s = .next u ∧ u = { s with funcs := u.funcs } ∧
      u.func fn = { s.func fn with qreg := m } ∧ (∀ f, f ≠ fn → u.func f = s.func f) ∧ readCell m q = v &&& qregMask ∧
      ∀ n, n ≠ q → readCell m n = readCell (s.func fn).qreg n) ∧
  (∀ (s : State) (link : Nat) (v : Word64), s.windowReaches link = true →
    let W := fun off => exec (.registerWrite 4 ⟨link, 0⟩ off 8 v) s
    let m := s.mgmt
    (∀ fn, fn < 17 →
      let base := 0x100000 + 0x4000 * fn
      let f := s.func fn
      W (base + 0x3F08) = .next (s.setFunc fn { f with trapPolicy := v.setWidth 10 }) ∧
      W (base + 0x3F10) = .next (s.setFunc fn { f with
        sampleLog := v.extractLsb' 16 5, samplePeriod := v.extractLsb' 8 5, sampleOn := v.getLsbD 0 }) ∧
      W (base + 0x3F18) = .next (s.setFunc fn { f with sampleBase := v }) ∧
      (let f' := { f with gcntDelay := v.extractLsb' 24 8, gcntQuant := v.extractLsb' 12 4, gcntEnable := v.getLsbD 0 }
       let u := s.setFunc fn f'
       W (base + 0x3F00) = .next (if f.gcntEnable = false ∧ v.getLsbD 0 = true then
          { u.setFunc fn { f' with
              gcnt := [0, 0, 0, 0], gcntNext := u.guestSample fn, gcntAt := s.refTime + 1000000 * max 1 (v.extractLsb' 24 8).toNat } with
            freeCtr := s.freeCtr + 1 }
        else u)) ∧
      ∀ off ∈ [base + 0x2008, base + 0x2010], ∃ u, W off = .next u ∧ u = { s with funcs := u.funcs } ∧ ∀ g, u.func g = s.func g) ∧
    (∀ d, d < 4 → W (0x1000 + 0x100 * d) = .next (if v.getLsbD 1 = true then s.setDie d { s.die d with droopOverflow := false } else s)) ∧
    W 0x10048 = .next { s with mgmt := { m with
      evtLost := m.evtLost && !v.getLsbD 2, rspReady := m.rspReady && !v.getLsbD 1 } } ∧
    W 0x10040 = .next { s with mgmt := if v.getLsbD 0 = true ∧ m.active = none then
      { m with active := some (readBytes m.req 0 64), answer := none, rspReady := false } else m } ∧
    (∀ c, c < 160 → exec (.registerWrite 6 ⟨link, c⟩ 0x10 8 v) s = .next (s.setCore c { s.core c with rbrk := v.setWidth 17 })) ∧
    ∀ off n, 0 < n → n ≤ 8 → off + n ≤ 0x1000 ∨ (off = 0x10050 ∧ n = 4) ∨ (0x10080 ≤ off ∧ off + n ≤ 0x12000) ∨ (off = 0x20010 ∧ n = 4) →
      exec (.registerWrite 4 ⟨link, 0⟩ off n v) s = .next s) ∧
  (∀ (s : State) (v : Word32),
    let m := { s.mgmt with pfEnable := v.getLsbD 0, pfVec := v.extractLsb' 8 6 }
    let m' := if v.getLsbD 0 = true ∧ s.mgmt.pfEnable = false then { m with pfWr := 0, pfRd := 0, pfOverflow := false } else m
    exec (.pfeqCtlWrite v) s = .next { s with mgmt := m' }) ∧
  (∀ (s : State) (r : List Byte), s.mgmt.active = some r → s.mgmt.answer = none → listedCodes.contains (field r 0 1) = false →
    exec .mbSubmitUnknown s = .next (s.reply r 1 [])) ∧
  (∀ (s : State) (r : List Byte), s.mgmt.answer = some r →
    let u := { s with mgmt := { s.mgmt with rsp := memOf r, active := none, answer := none, rspReady := true } }
    exec .mbResponse s = .next (if s.mgmt.rspIe = true then u.msix 0 s.mgmt.irqVec.toNat else u)) ∧
  ∀ (s : State) (e : List Byte) (r : List (List Byte)), s.mgmt.waiting = e :: r → exec .eventRingWrite s = .next
    (if s.mgmt.evtWr - s.mgmt.evtRd = 64 then s else State.ringWrite { s with mgmt := { s.mgmt with waiting := r } } e)

/-- 02 R37, R49, R50: a queue command that no other one precedes. An enable of a DISABLED queue whose control block passes the
checks leaves it ACTIVE at HEAD and answers RESULT 0, and one that fails them leaves it DISABLED with the code. A reset or a disable
of another queue drops its packets and leaves it RESETTING until RESET_DONE, which makes it ACTIVE at the new HEAD, or
DISABLE_DONE, each with its reset record. The PACKET of that record (notes/assumptions 62) and the change of home of a queue whose die
accepts none (notes/assumptions 55) are the model's choices. R34, R39: RECONCILE_PASS offers each queue's DB_SHADOW as a doorbell, or finds a changed control block.
Readings of the model's own: notes/assumptions 13, 37, 54. -/
def Obligations.QueueCommands : Prop :=
  (∀ (s : State) (f q : Nat) (v : Word64), f < 17 → q < 1024 → (v.extractLsb' 32 16).toNat = q → v.extractLsb' 48 8 = 0 →
    (s.func f).cmds = [] → s.draining f = false →
    let x := s.queue f q
    let op := v.extractLsb' 56 8
    let started := fun (u : State) disable viaQp => (u.queue f q).state = .resetting ∧ (u.queue f q).pkts = [] ∧
      (u.queue f q).drain = some { head := v.extractLsb' 0 32, disable := disable, viaQp := viaQp, tamper := false }
    (op = 2 → x.state = .disabled → ∃ u, exec (.qpcmdEnable f v) s = .next u ∧
      let (code, bs) := (s.setFunc f (s.func f)).enableCheck f q
      (u.func f).qpresult = 2#8 ++ 0#8 ++ BitVec.ofNat 16 q ++ 0#16 ++ code ++ (if code = 0 then 0#8 else 2#8) ∧
      if code = 0 then (u.queue f q).state = .active ∧ (u.queue f q).head = BitVec.ofNat 32 (field bs 0x90 4) ∧
        (u.queue f q).tail = BitVec.ofNat 32 (field bs 0x90 4)
      else (u.queue f q).state = .disabled ∧ (u.queue f q).code = code) ∧
    (x.state ≠ .disabled →
      (op = 1 → ∃ u, exec (.qpcmdReset f v) s = .next u ∧ started u false true) ∧
      (op = 3 → ∃ u, exec (.qpcmdDisable f v) s = .next u ∧ started u true true) ∧
      (op = 1 → s.plant.recovery = false → ∃ u, exec (.qcmdReset f v) s = .next u ∧ started u false false))) ∧
  (∀ (s : State) (f q : Nat) (x : Queue) (d : Drain), s.cur.fn = f → s.cur.q = q → s.queue f q = x → x.drain = some d →
    d.tamper = false →
    let done := fun (u : State) op => if d.viaQp = true then u.result f op q 0 0 else u
    let y := { x with
      drain := none, head := d.head, tail := d.head, parse := d.head, lseq := s.shadowSeq f q, priv := s.reloaded f q x,
      home := if s.accepts x.home then x.home else s.homeDie f q }
    let record := fun (h : Word32) => { kind := 4, cause := 0, fn := f, queue := q, packet := h : Record }
    (d.disable = false → exec .resetDone s = .next (State.afterDrain (State.evqPost
      (((done ((((s.qcbCount f q 0 128).qcbCount f q 0x88 8).setQueue f q y).setHead f q d.head) 1).joinContext y).setQState f q .active 0) y.context
      (record d.head)) f)) ∧
    (d.disable = true → exec .disableDone s = .next (State.afterDrain
      ((((done (s.setQueue f q { x with drain := none }) 3).evqPost x.context (record x.head)).setQState f q .disabled 0).maybeEnd
        x.context) f))) ∧
  (∀ s : State, s.plant.nextReconcile ≤ s.refTime → exec .reconcilePass s = .next (forAll State.reconcileOne
    { s with plant := { s.plant with nextReconcile := (s.refTime / 50000 + 1) * 50000 } }
    (s.queues.map fun x => (x.1 / 1024, x.1 % 1024)))) ∧
  ∀ (s : State) (f q : Nat) (bs : List Byte), (s.queue f q).state ≠ .disabled → s.qcbRead f q 0 128 = some bs →
    let u := s.qcbCount f q 0 128
    (bs = (s.queue f q).priv → ∀ cs, u.qcbRead f q 0x88 8 = some cs →
      s.reconcileOne (f, q) = (u.qcbCount f q 0x88 8).ring f false (BitVec.ofNat 64 (leNat cs))) ∧
    (bs ≠ (s.queue f q).priv → (s.queue f q).drain = none →
      let v := u.tamperQueue f q
      s.reconcileOne (f, q) = if (v.queue f q).state = .disabled then v else v.offerShadow f q)

/-! ### Command packets (02 R40 to R47; 04 R83) -/

/-- R41 to R46: a packet that the queue may start, with its body in range and its addresses reachable, takes its effect and is noted
as started. SIGNAL writes, adds to or ors its word, which the host itself does in a host page (08 R188); MARKER writes the reference time; WAIT reads its word at once; PUBLISH
publishes; LAUNCH is admitted (04 R83). Readings of the model's own: notes/assumptions 37. -/
def Obligations.PacketStart : Prop :=
  ∀ (s s1 : State) (bs : List Byte) (a : Acc),
    let q := fun (u : State) => u.queue u.cur.fn u.cur.q
    let va := field bs 16 8
    let read := fun ty => s.readPacket ty = .ok (bs, s1)
    (read 0 → zeroFrom bs 16 48 = true → exec .nopPacket s = .next (s1.startPacket bs true)) ∧
    (read 2 → zeroFrom bs 25 7 = true → zeroFrom bs 40 24 = true → field bs 24 1 ≤ 2 → s1.packetWord bs va .both = .ok a →
      s1.accBad a = false →
      let u := (s1.settleHost a).countWeak a
      let old := leNat (u.peek a.atHost)
      let v := field bs 32 8
      let new := if field bs 24 1 = 0 then v else if field bs 24 1 = 1 then (old + v) % 2 ^ 64 else old ||| v
      exec .signal s = .next ((u.poke a.atHost (natBytes 8 new)).startPacket bs true)) ∧
    (read 5 → zeroFrom bs 24 40 = true → s1.packetWord bs va .write = .ok a →
      exec .marker s = .next ((s1.poke a (natBytes 8 s1.refTime)).startPacket bs true)) ∧
    (read 4 → zeroFrom bs 24 40 = true → s1.packetWord bs va .both = .ok a → (a.isHbm || a.isHost) = true →
      s1.accBad a = false → exec .publish s = .next
        ((s1.publish (fun w => w.ctx == (q s1).context && w.q == s1.cur.q) a).startPacket bs true)) ∧
    (read 3 → zeroFrom bs 25 3 = true → zeroFrom bs 40 24 = true → field bs 24 1 ≤ 3 → s1.packetWord bs va .read = .ok a →
      let us := field bs 28 4
      let w : WaitSt :=
        { addr := BitVec.ofNat 64 va, cond := BitVec.ofNat 8 (field bs 24 1), value := BitVec.ofNat 64 (field bs 32 8),
          deadline := if us = 0 then none else some (s1.refTime + 1000 * us) }
      let s2 := s1.startPacket bs false
      let s3 := s2.setQueue s2.cur.fn s2.cur.q { q s2 with wait := some w }
      ∀ met s4, s3.checkWait w = .ok (met, s4) → exec .wait s = .next (if met = true then s4.endWait else s4)) ∧
    (read 1 → zeroFrom bs 36 4 = true → zeroFrom bs 50 2 = true → zeroFrom bs 56 8 = true → launchBodyOk bs = true →
      s1.resolve (q s1).context (q s1).home false va 128 .read = .ok a → s1.accWaits a = false → s1.accBad a = false →
      let s2 := s1.afterRead a
      let l := launchOf s2 bs (KDesc.of (s1.peek a))
      let m := s2.ownCores (s2.partOf (q s1).context)
      l.kd.ok (s1.peek a) l.scratchDyn (q s1).qflags = true → l.minDies ≤ l.maxDies → admission l m = 0 →
      exec .launch s = .next (State.startPacket { s2 with
        launches := tset s2.launches s2.nextId (admitted l (q s1).home m), nextId := s2.nextId + 1 } bs false (some s2.nextId)))

/-- R43: WAIT_SATISFIED ends a WAIT whose word meets the condition while its deadline has not passed, and WAIT_TIMEOUT takes the queue to ERROR with code 3 once the
deadline has passed. R41: PACKET_COMPLETE decrements DONE_SIG of the first finished packet, posts its completion record to the context in
which it started if EVENT is set, and lets HEAD pass the packets at the front that are complete; that context may then end (R52). Readings of the model's own: notes/assumptions 37, 54. -/
def Obligations.PacketEnd : Prop :=
  ∀ (s : State),
    let f := s.cur.fn
    let q := s.cur.q
    let x := s.queue f q
    (∀ w met s1, x.wait = some w → (∀ d, w.deadline = some d → s.refTime ≤ d) → s.checkWait w = .ok (met, s1) →
      exec .waitSatisfied s = .next (if met = true then s1.endWait else s1)) ∧
    (∀ w d, x.wait = some w → w.deadline = some d → d < s.refTime → exec .waitSatisfied s = .next s) ∧
    (∀ w p d, x.wait = some w → x.pkts.head? = some p → w.deadline = some d → d ≤ s.refTime →
      exec .waitTimeout s = .next ((s.setQueue f q { x with wait := none }).queueError f q 3 p.tag p.ix 0)) ∧
    ∀ p s1, (x.orphans ++ x.pkts).find? s.packetDone = some p → s.decSignal f q x p = .ok s1 →
      let s2 := s1.setQueue f q { s1.queue f q with
        pkts := x.pkts.map fun y => if y.ix = p.ix ∧ y.lid = p.lid then { y with signalled := true } else y
        orphans := x.orphans.filter (· != p) }
      let s3 := if p.event = true then
        s2.evqPost p.ctx { kind := 3, cause := 0, fn := f, queue := q, tag := p.tag, packet := p.ix } else s2
      let s4 := match s.doneLaunch p with
        | some i => { s3 with launches := terase s3.launches i }
        | none => s3
      exec .packetComplete s = .next ((s4.passHead f q).maybeEnd p.ctx)

/-! ### Management requests (03 R56 to R75; 01 R30; 10 R214, R215; 12 R267 to R271; 20 R393) -/

/-- Requests that read (01 R30; 03 R56, R69, R399; 20 R393), and 03 R67, R74: each answers STATUS 0 with the values that the rules name, once its fields are in range.
Readings of the model's own: notes/assumptions 9, 43. -/
def Obligations.ManagementReads : Prop :=
  ∀ (s : State) (r : List Byte),
    (s.request 0x1A = some r → headerOk r = true → field r 8 1 < 8 → tailZero r 9 = true →
      let k := s.stack (field r 8 1)
      exec .stackStat s = .next (s.reply r 0 (natBytes 1 k.stateCode ++ natBytes 1 (k.temp % 256).toNat ++ natBytes 2 0 ++
        natBytes 4 k.spareUsed ++ natBytes 8 k.corrected ++ natBytes 8 k.uncorr ++ natBytes 4 k.remapUsed ++
        natBytes 4 k.granUsed ++ natBytes 4 k.retired ++ natBytes 4 0 ++ natBytes 8 k.lastScrub))) ∧
    (s.request 0x1B = some r → headerOk r = true →
      let answer := fun (p : Plant) => State.reply { s with plant := p } r 0 (natBytes 2 p.powerLimit ++ natBytes 2 p.measured ++
        natBytes 1 (p.hottest % 256).toNat ++ natBytes 1 ((if p.lowPower then 1 else 0) + if p.lowTemp then 2 else 0))
      (field r 8 1 = 1 → tailZero r 9 = true → exec .powerLimitRead s = .next (answer s.plant)) ∧
      (field r 8 1 = 2 → field r 9 1 = 0 → tailZero r 12 = true → 1200 ≤ field r 10 2 → field r 10 2 ≤ 2400 → field r 10 2 % 25 = 0 →
        exec .powerLimitSet s = .next (answer { s.plant with
          powerLimit := field r 10 2, lowPower := decide (field r 10 2 ≤ s.plant.measured) }))) ∧
    (s.request 0x50 = some r → field r 8 1 < 4 → exec .dieStats s = .next
      (s.reply r 0 (natBytes 8 (s.die (field r 8 1)).hotMoved ++ natBytes 8 (s.die (field r 8 1)).hotRefused))) ∧
    (let ctx := ctxBits (field r 8 4)
     ctxFn (field r 8 4) ≤ 16 →
      (s.request 0x30 = some r → exec .sterlingRead s = .next (match s.sterlingOf ctx with
        | some x => s.reply r 0 x.bytes
        | none => s.reply r 5 [])) ∧
      (s.request 0x31 = some r → exec .sterlingAck s = .next (match s.closed.findIdx? fun x => x.ctx == ctx with
        | some i => State.reply { s with closed := s.closed.eraseIdx i } r 0 []
        | none => s.reply r 5 []))) ∧
    (∀ ctx x, s.sterlingOf ctx = some x →
      exec (.mctpSterlingRead ctx) s = .next { s with plant := { s.plant with mctpOut := s.plant.mctpOut ++ [x.bytes] } }) ∧
    (s.request 0x20 = some r → ctxFn (field r 8 4) ≤ 16 → 16 ≤ field r 12 1 → field r 12 1 ≤ 57 →
      field r 16 8 % 2 ^ field r 12 1 = 0 →
      let ctx := ctxBits (field r 8 4)
      exec .inval s = .next (if (s.ctx? ctx).isSome = true ∧
        (∃ a ∈ s.atoms, a.ctx = ctx ∧ field r 16 8 ≤ a.addr.toNat ∧ a.addr.toNat < field r 16 8 + 2 ^ field r 12 1)
        then s else (s.flushPublished ctx).reply r 0 [])) ∧
    ∀ x, tget s.stores (field r 8 2) = some x → s.request 0x18 = some r → headerOk r = true → field r 11 1 = 0 →
      (field r 10 1 = 1 → field r 12 4 = 0 → tailZero r 32 = true →
        let y := x.lineState (BitVec.ofNat 128 (field r 16 16))
        exec .caLineRead s = .next (s.reply r 0 (natBytes 1 y.1 ++ natBytes 1 y.2.1 ++ natBytes 2 0 ++ natBytes 4 y.2.2))) ∧
      (field r 10 1 = 2 → tailZero r 16 = true → field r 12 4 < 2 ^ x.rootsLog →
        let y := x.root (field r 12 4)
        exec .caRootRead s = .next (s.reply r 0 (natBytes 8 0 ++ natBytes 16 y.name.toNat ++ natBytes 8 y.version.toNat ++
          natBytes 8 (if y.name = 0 then 0 else 1))))

/-- 03 R58, R59, R402: PART_SET stores a record that passes its checks and answers once what it takes away is vacated; PART_DEL gives
functions and stores back to the parent. 10 R214, R215: CA_STORE creates and deletes a store, and CA_BIND binds a handle and clears
it. 12 R268: FINALISE carries out a request whose ranges resolve. Readings of the model's own: notes/assumptions 14, 40. -/
def Obligations.ManagementWrites : Prop :=
  ∀ (s : State) (r : List Byte),
    (s.request 0x10 = some r →
      let put := fun (u : State) => u.putPart (field r 8 2) (Part.of r) (partFuncs r)
      let u := s.vacate put
      (s.partStatus r ≠ 0 → exec .partSet s = .next (s.endVacate.reply r (s.partStatus r) [])) ∧
      (s.partStatus r = 0 → exec .partSet s = .next (
        if u.displaced (put u) ≠ [] ∨ u.strayCopies (put u) = true then u
        else (put u).endVacate.moveAllShares.reply r 0 [])) ∧
      ∃ y, tget (put s).parts (field r 8 2) = some y ∧ y.cores = (Part.of r).cores ∧ y.engines = (Part.of r).engines ∧
        y.slices = (Part.of r).slices ∧ y.parent = field r 10 2) ∧
    ((∀ x, s.request 0x11 = some r → 1 ≤ field r 8 2 → field r 8 2 ≤ 255 → tget s.parts (field r 8 2) = some x →
        let id := field r 8 2
        let mine := (List.range 17).filter fun f => (s.func f).part == some id
        let u := forAll (fun s f => s.setFunc f { s.func f with part := some x.parent }) s mine
        exec .partDel s = .next (if s.children id ≠ [] ∨ ∃ f ∈ mine, s.queueEnabled f = true then s.reply r 4 []
          else State.reply { u with
            parts := terase u.parts id, stores := tmap u.stores fun _ y => if y.part = id then { y with part := x.parent } else y } r 0 [])) ∧
      (s.request 0x14 = some r →
        (field r 12 1 = 1 → 1 ≤ field r 8 2 → field r 8 2 ≤ 255 → 12 ≤ field r 13 1 → field r 13 1 ≤ 28 → field r 14 1 ≤ 16 → (tget s.parts (field r 10 2)).isSome = true →
          tget s.stores (field r 8 2) = none →
          let x : Store :=
            { part := field r 10 2, linesLog := field r 13 1, rootsLog := field r 14 1, share := BitVec.ofNat 256 (field r 16 32),
              lines := [], used := [], roots := [], drops := [] }
          exec .caStoreCreate s = .next (if s.unitsFree (field r 10 2) < x.units then s.reply r 2 []
            else State.reply { s with stores := tset s.stores (field r 8 2) x } r 0 [])) ∧
        (field r 12 1 = 2 → (tget s.stores (field r 8 2)).isSome = true → exec .caStoreDelete s = .next
          (if ∃ c ∈ s.ctxs, c.2.live = true ∧ ∃ b ∈ c.2.binds, b.2.store = field r 8 2 then s.reply r 4 []
           else State.reply { s with stores := terase s.stores (field r 8 2) } r 0 [])))) ∧
    (let ctx := ctxBits (field r 8 4)
     s.request 0x15 = some r → ctxFn (field r 8 4) ≤ 16 → field r 12 1 < 16 → ∀ c, s.ctx? ctx = some c →
      (field r 13 1 / 8 % 2 = 0 → ∀ x, tget s.stores (field r 14 2) = some x →
        let p := s.partOf ctx
        let b : Binding := { store := field r 14 2, rights := BitVec.ofNat 4 (field r 13 1) }
        exec .caBind s = .next (if p ≠ x.part ∧ x.share.getLsbD p = false then s.reply r 2 []
          else (s.setCtx ctx { c with binds := tset c.binds (field r 12 1) b }).reply r 0 [])) ∧
      (field r 13 1 / 8 % 2 = 1 → exec .caUnbind s = .next
        ((s.setCtx ctx { c with binds := terase c.binds (field r 12 1) }).reply r 0 []))) ∧
    (let ctx := ctxBits (field r 8 4)
     s.request 0x16 = some r →
      (finalFields r = false → exec .finalise s = .next (s.reply r 1 (finalBody false noPacket []))) ∧
      (finalFields r = true → (s.ctx? ctx).isSome = true → ∀ src dst,
        packetAccs s ctx .read (field r 16 8) (field r 12 4) = .ok src →
        packetAccs s ctx .write (field r 24 8) (field r 12 4) = .ok dst →
        (∀ a ∈ dst, s.peerRefuses a true = none) → (src ++ dst).any s.accWaits = false → (∀ a ∈ src, s.accBad a = false) →
        exec .finalise s = .next (s.finaliseInto r ctx src dst)))

/-! ### Squeeze, expansion and switch (05; 19 R391, R392; 22 R397) -/

/-- 05 R99, R100: the mailbox's SQUEEZE joins the core's requests; the core folds the victims of the next request that it can serve, those
of a scheduler's request being teams from which its queue may take (04 R79), and notes what it got. R391: the handover then shows the
victims' residency, with the grant, in one step, produces the grant record of KIND 1, and answers a mailbox's request. It waits for the
matrix operations of an owner that gives its state up (R105), which it then does. 19 R392: UNSQUEEZE ends the context's hold. 05 R111:
EXPANSION raises the teams of a core that serves nothing else, and stops short for a request that came meanwhile (R119).
Readings of the model's own: notes/assumptions 39, 59. -/
def Obligations.Squeezes : Prop :=
  (∀ (s : State) (c : Nat) (r : SqReq),
    let k := s.core c
    let vs := s.reqVictims c r
    s.queueSqueeze c = none → s.nextReq c = some (.squeeze r) → k.busy = false → vs ≠ [] → s.foldsElse c vs = false →
    exec (.squeeze c) s = .next ((s.setCore c { k with sqQueue := k.sqQueue.erase (.squeeze r), cut := !(k.sqQueue.erase (.squeeze r)).isEmpty }).serveSqueeze c r vs)) ∧
  (∀ (s : State) (c : Nat) (r : SqReq), (r.origin ≠ 1 → s.reqVictims c r = s.victimTeams c r.ctx) ∧
    (r.origin = 1 → ∀ id ∈ s.reqVictims c r, ∃ t l, tget s.teams id = some t ∧ s.launchOf t = some l ∧ ¬(l.fn = r.fn ∧ l.q = r.q) ∧
      ((s.queue r.fn r.q).priority < (s.queue l.fn l.q).priority ∨ s.isOver l.fn l.q = true))) ∧
  (∀ (s : State) (c : Nat) (r : List Byte) (q : SqReq), s.request 0x12 = some r → SqReq.of r = some q → field r 12 1 = c →
    (s.core c).sqQueue.any CoreReq.ofMailbox = false → (s.core c).sqRun = none → (s.ctx? q.ctx).isSome = true →
    s.victimTeams c q.ctx ≠ [] →
    exec (.squeeze c) s = .next (s.setCore c { s.core c with
      sqQueue := (s.core c).sqQueue ++ [.squeeze q], cut := (s.core c).cut || (s.core c).busy })) ∧
  (∀ (s : State) (c : Nat) (r : SqReq) (vs : List Nat),
    ∃ x, ((s.serveSqueeze c r vs).core c).sqRun = some x ∧ x.req = r ∧ x.victims = vs ∧ x.seq = (s.core c).seq) ∧
  (∀ (s : State) (c : Nat) (r : SqRun), (s.core c).sqRun = some r →
    let u := (s.reclaim c r).1
    let g := (s.reclaim c r).2
    let k := { u.core c with sqRun := none }
    let show' := fun (v : State) => forAll (fun v id => v.showTeam (some (r.seq, 1)) id) v r.victims
    if s.reclaimWaits c r = true then exec (.squeezeHandover c) s = .next s
    else (r.req.origin = 0 → ∀ m, s.request 0x12 = some m →
      let v := ((show' (u.setCore c (k.hold g))).endHolds c []).produce c g 1
      exec (.squeezeHandover c) s = .next (v.reply m 0 (grantRecord g c 1 v.refTime))) ∧
    (r.req.origin = 1 →
      let v := show' (u.setCore c { k with reserves := k.reserves ++ [{ fn := r.req.fn, q := r.req.q, lanes := g.lanesGot }] })
      exec (.squeezeHandover c) s = .next
        ((if g.matrixGot = true then v.grantMatrix c g (some (r.seq, 1)) else v).produce c g 1)) ∧
    (1 < r.req.origin → exec (.squeezeHandover c) s = .next ((show' (u.setCore c k)).produce c g 1))) ∧
  (∀ (s : State) (c : Nat) (r : SqRun),
    if r.req.matrix = false ∨ r.gflags.getLsbD 4 = true then s.reclaim c r = (s, r)
    else (s.reclaim c r).2.gflags = r.gflags ||| 2 ∧ ∀ id t, (s.core c).owner = some id → id ∈ r.victims → tget s.teams id = some t →
      (s.reclaim c r).2.matrixGot = true ∧ ((s.reclaim c r).1.core c).owner = none ∧
      tget (s.reclaim c r).1.teams id = some { t with mspill := true }) ∧
  (∀ (s : State) (r : List Byte), s.request 0x17 = some r → headerOk r = true → field r 12 1 < 160 →
    zeroFrom r 13 51 = true →
    let ctx := ctxBits (field r 8 4)
    let k := s.core (field r 12 1)
    exec .unsqueeze s = .next (if s.ctx? ctx = none ∨ tget k.holds ctx = none then s.reply r 5 []
      else (s.setCore (field r 12 1) { k with holds := terase k.holds ctx }).reply r 0 [])) ∧
  ∀ (s : State) (c : Nat), s.coreOpen c = true →
    (s.nextReq c = none → exec (.expansion c) s = .next (s.expand c)) ∧
    (s.nextReq c ≠ none → exec (.expansion c) s = .next (
      let u := s.expand c (some (Config.expandSteps s.freeCtr))
      if (s.core c).cut = true then s
      else State.setCore { u with freeCtr := u.freeCtr + 1 } c { u.core c with cut := true }))

/-- 22 R397, 05 R100, R114, R118: SWITCH OP 1 waits for its turn on the cores, folds and stops the context's teams, saves them once they are
quiet, off the cores where the switch began, and answers with its grant record of KIND 3, whose GOT fields are what the teams held at the start
(the model's choice, notes/assumptions 59); OP 2 waits in the queues of its cores, and once the teams fit and it is first there SWITCH_IN_RESTORE brings them back with a KIND 3 grant. SAVE_DRAIN_DONE ends a time-slice switch, on both cores of a pair at once (the model's choice, notes/assumptions 59), and a group whose
state is back may issue. 04 R78: SCHED_PERIOD starts every charge again. Readings of the model's own: notes/assumptions 39. -/
def Obligations.Switches : Prop :=
  (∀ (s : State) (r : List Byte) (ctx c : Nat), s.request 0x19 = some r → s.switchCheck r = .ok (ctx, c) →
    let ids := s.victimTeams c ctx
    let cs := s.switchCores c ctx
    let x := CoreReq.switchOut ctx
    (field r 13 1 = 1 → ids ≠ [] →
      let started := (s.core c).savedFor ctx .mailbox
      let begun := s.switchingOff ctx
      (started = false → (s.hasCores cs x = false ∨ s.takeSpill ctx ids = none) → exec .switchOut s = .next (s.putReq cs x)) ∧
      (started = false → s.hasCores cs x = true → ∀ u, s.takeSpill ctx ids = some u →
        let v := ((u.dropReq x).foldOut cs ids).setSaving cs (some ctx)
        exec .switchOut s = .next (v.setCore c { v.core c with savedRun := some (u.released c ctx ids 0) })) ∧
      (started = true → s.quiet ids = false → exec .switchOut s = .next s) ∧
      (started = true → s.quiet ids = true → ∀ had, (s.core c).savedRun = some had →
        let v := (s.takeSeq c).2
        let run := { had with seq := (s.takeSeq c).1 }
        let w := ((forAll (fun s id => s.saveTeam true id) v ids).afterSave ids begun).setSaving begun none
        exec .switchOut s = .next ((w.produce c run 3).reply r 0 (grantRecord run c 3 w.refTime)))) ∧
    (field r 13 1 = 2 → s.heldOut c ctx ≠ [] → exec .switchIn s = .next { s.putReq (s.inCores c ctx) (.switchIn c ctx) with
        plant := { s.plant with openSwitch := s.plant.openSwitch ++ [(ctx, c)] } })) ∧
  (∀ (s s1 : State) (c ctx : Nat) (r : List Byte), s.switchInCtx c = some ctx → s.heldOut c ctx ≠ [] →
    (∀ y ∈ s.inCores c ctx, s.coreOpen y = true) → s.hasCores (s.inCores c ctx) (.switchIn c ctx) = true →
    State.restoreAll 0 false (s.heldOut c ctx) s = some s1 →
    let ids := (s.heldOut c ctx).map (·.1)
    let s3 := forAll (fun s id => s.showTeam (some ((s1.takeSeq c).1, 3)) id) (s1.takeSeq c).2 ids
    let run := s3.heldOn c ctx ids (s1.takeSeq c).1
    let s5 := (s3.produce c run 3).switchInDone c ctx
    s5.request 0x19 = some r →
    exec (.switchInRestore c) s = .next (s5.reply r 0 (grantRecord run c 3 s3.refTime))) ∧
  (∀ (s : State) (c ctx : Nat),
    let cs := (c :: s.switchCores c ctx).eraseDups
    let ids := s.leaving cs ctx
    (s.core c).saving = some ctx → exec (.saveDrainDone c) s = .next (
      if (s.core c).savingBy = .slice ∧ s.quiet ids = true then
        let w := ((forAll (fun s id => s.saveTeam false id) s ids).afterSave ids cs).setSaving cs none
        forAll (fun s c => if s.nextReq c = none then s.expand c else s) w cs
      else s)) ∧
  (∀ (s : State) (id : Nat) (t : Team) (held : Bool), tget s.teams id = some t → ∃ x,
    tget (s.saveTeam held id).teams id = some x ∧ x = { t with
      resident := false, heldOut := held, saveValid := true, smap := [], savedGroups := x.savedGroups,
      savedOwner := x.savedOwner, savedMatrix := x.savedMatrix } ∧
    ∀ c ∈ t.cores, ((s.saveTeam held id).core c).owner ≠ some id) ∧
  (∀ (s : State) (g : Group), s.group? s.cur.core s.cur.entry = some g →
    exec .incomingStateRestored s = .next (s.setGroup s.cur.core s.cur.entry { g with restoring := false })) ∧
  ∀ s : State, s.plant.nextPeriod ≤ s.refTime → ∃ t, exec .schedPeriod s = .next t ∧
    t.plant.nextPeriod = s.plant.nextPeriod + 1000000 ∧ (∀ x ∈ t.queues, x.2.charge = 0) ∧ ∀ x ∈ t.parts, x.2.timeUsed = 0

/-! ### Scheduling (04 R76 to R95) -/

/-- 04 R78: a queue is charged exactly, in each nanosecond the fraction of its partition's cores that it holds, and one whose charge reaches
its TIME_BUDGET is over budget. R84, R86: the die places the next team of the first queue
that it can; the queues before it wait, and the die asks a squeeze for the first of them (R79). R90: a step is agreed, on dies that hold a core of the partition; R91: a team without work left completes, and the frontier passes it. R80, R81: a die that has had an idle core for 5 µs asks
its neighbours in turn for a queue, which is handed over with its doorbells. R93: a bin whose oldest record has waited forms a group.
06 R132: a fatal fault that an engine finds ends the context. Readings of the model's own: notes/assumptions 19, 20, 21. -/
def Obligations.Scheduling : Prop :=
  ∀ (s : State),
    let f := s.cur.fn
    let q := s.cur.q
    let x := s.queue f q
    ((x.timeBudget * chargeUnit ≤ x.charge → s.isOver f q = true) ∧ exec .overBudget s = .next s) ∧
    (∀ dt key y,
      let n := (s.coresOf (key / 1024) (key % 1024)).length
      let all := bitCount (s.ownCores ((s.func (key / 1024)).part.getD 0))
      0 < all → (s.chargeQueue dt key y).charge * all = y.charge * all + dt * chargeUnit * n) ∧
    (∀ d, (s.die d).frontFailed = false →
      (∀ y r u, s.candidates d = y :: r → s.placeNext d y = some u → exec (.teamDispatch d) s = .next u) ∧
      (∀ z late y r, s.candidates d = (z :: late) ++ y :: r → (∀ w ∈ z :: late, s.placeNext d w = none) →
        (s.placeNext d y).isSome = true →
        let s1 := (forAll (State.starve d) s (z :: late)).askSqueeze d z
        exec (.teamDispatch d) s = .next ((s1.placeNext d y).getD s1)) ∧
      (s.candidates d = [] → exec (.teamDispatch d) s = .next s)) ∧
    (∀ i l s1 l1, tget s.launches i = some l → l.isInvar = false → l.nextStep < l.total → s.stepDies l ≠ [] →
      s.frameLaunch i l (s.stepDies l) = .ok s1 → tget s1.launches i = some l1 →
      exec (.stepAgree i) s = .next (s1.setLaunch i { l1 with
        shares := l1.shares ++ stepShares (s.stepDies l) l1.nextStep l1.nextStep l1.stepLen l1.kd.clusterTeams,
        pressedDies := [], fixedDies := l1.fixedDies.map fun _ => s.stepDies l,
        nextStep := l1.nextStep + l1.stepLen })) ∧
    (∀ l, ∀ d ∈ s.stepDies l, coresOn (s.launchCores l) d ≠ []) ∧
    (∀ i t l, tget s.teams i = some t → s.teamBusy i t = false → t.formed = false → tget s.launches t.launch = some l →
      let l' := l.complete t.index
      exec (.teamComplete i) s = .next { s with teams := terase s.teams i, launches := tset s.launches t.launch l' } ∧
      (t.index = l.frontier → l.frontier < l'.frontier) ∧ l.frontier ≤ l'.frontier) ∧
    (∀ d, d < 4 → s.accepts d = true → (s.die d).stealAsk = 0 → (s.die d).backoffUntil ≤ s.refTime →
      (∃ t, (s.die d).idleDie = some t ∧ t + 5000 ≤ s.refTime) → (∃ y ∈ s.parts, s.idleCores d (s.openCores y.1) ≠ []) → exec (.dieIdle d) s = .next (s.sendSteal d (ringNext d) 1)) ∧
    (∀ d thief parts r, (s.die d).stealInbox = (thief, parts) :: r → s.agreeDue d = false →
      let u := s.setDie d { s.die d with stealInbox := r }
      let rank := fun y : Nat × Queue => (y.2.priority * 2 ^ 80 + y.2.lastAny) * 2 ^ 20 + y.1
      (∀ y, leastBy rank (u.queues.filter fun y => u.accepts thief && u.givable d parts y.1 y.2) = some y →
        let v := u.setQueue (y.1 / 1024) (y.1 % 1024) { y.2 with thief := some thief }
        exec (.stealReq d) s = .next (v.setDie thief { v.die thief with stealGiven := some (y.1 / 1024, y.1 % 1024) })) ∧
      ((∀ y ∈ u.queues, (u.accepts thief && u.givable d parts y.1 y.2) = false) → (u.die thief).stealAsk = 1 ∨ (u.die thief).stealAsk = 2 →
        exec (.stealReq d) s = .next (u.setDie thief { u.die thief with stealAsk := (u.die thief).stealAsk + 2 }))) ∧
    (∀ d, (s.die d).stealGiven.isSome = true →
      exec (.stealGive d) s = .next (s.setDie d { s.die d with stealGiven := none, stealAsk := 0 })) ∧
    (∀ d, ((s.die d).stealAsk = 3 → exec (.stealNone d) s = .next (s.sendSteal d (ringPrev d) 2)) ∧
      ((s.die d).stealAsk = 4 → exec (.stealNone d) s =
        .next (s.setDie d { s.die d with stealAsk := 0, backoffUntil := s.refTime + 20000 }))) ∧
    (∀ d key y, (s.queues.find? fun z => z.2.home == d && z.2.thief.any fun t =>
        (s.die t).stealGiven != some (z.1 / 1024, z.1 % 1024)) = some (key, y) →
      exec (.stealDone d) s = .next (s.finishHandover (key / 1024) (key % 1024))) ∧
    (∀ d i b l, (s.die d).bins[i]? = some b → tget s.launches b.launch = some l → l.isInvar = false → s.binWaited l b = true →
      exec (.gatherTimeout d i) s = .next (s.formGroup d b.recs.length b)) ∧
    ∀ ctx (c : Cause) addr y, y ∈ s.copies → y.2.ctx = ctx → c.fatal = true →
      (∀ z ∈ s.copies, z.2.ctx = ctx → z.2.team = y.2.team ∧ z.2.pc = y.2.pc) →
      exec (.engineFault ctx c.code addr) s = .next (s.engineStop ctx y.2.team y.2.pc c addr.toNat)

/-! ### The trap core, watchdogs and samples (06 R133 to R145) -/

/-- 06 R134, R133: the trap core of a pair takes the first trap of its two cores and applies the action that TRAP_POLICY selects: 1
halts the group, 2 resumes the split, any other ends the context. R135, R139: the operations of TRAP_CTL, and TRAP_CMD which does the
same from the mailbox and answers STATUS 0, or STATUS 1 (03 R56: malformed) for a core that does not exist, which is the model's reading; a group-state write of a k
register takes effect while every live split is halted or stopped, and supersedes a late result for it (15 R331), and else changes nothing; the end operation is stated for the trap of
split 0. R136: a notice saves the PC in K[62], clears NEN and NPEND, and goes to
K[63] if that is not 0; a K[63] that is no valid target raises BR_ALIGN, and one that a late result is still to write is some valid
target (00 R6). That of several trapped splits
TRAP_CTL 1 resumes the lowest and clears its halted flag, and the fault record of a bad split table, are the model's choices (notes/assumptions
63). Each of these completes from every state. Readings of the model's own: notes/assumptions 27. -/
def Obligations.TrapCore : Prop :=
  (∀ (s : State) (core entry off : Nat) (v : Word64), ∀ i ∈ [Instr.trapTake core, .trapCtlResume, .trapCtlHalt, .trapCtlClearResume,
    .trapCtlEnd, .notice, .groupStateWrite core entry off v], ∃ t, exec i s = .next t) ∧
  (∀ (s : State) (core c e i : Nat) (rest : List (Nat × Nat × Nat)) (h : Site) (r : TrapRec),
    (s.core (pairOf core)).trapQ = (c, e, i) :: rest → s.siteAt c e i = some h → h.sp.trap = some r →
    let u := s.setCore (pairOf core) { s.core (pairOf core) with trapQ := rest }
    let action := trapAction (s.func (ctxFn h.ctx)).trapPolicy r.cause
    let mark := fun x : Split => { x with trap := x.trap.map fun t => { t with untaken := false } }
    (action = 1 → exec (.trapTake core) s =
      .next (((u.modSplit h mark).modSplits c e (Split.halt s.refTime)).trapEvent h r)) ∧
    (action = 2 → exec (.trapTake core) s = .next ((u.modSplit h (Split.resume s.refTime)).trapEvent h r)) ∧
    (action ≠ 1 → action ≠ 2 →
      exec (.trapTake core) s = .next (u.contextFault h.ctx (u.siteRecord h r.cause r.addr r.pc)))) ∧
  (∀ (s : State) (r : List Byte), s.request 0x13 = some r →
    (field r 8 1 < 160 → exec .trapCmd s = .next ((s.trapCtl (field r 8 1) (BitVec.ofNat 64 (field r 16 8))).reply r 0 [])) ∧
    (160 ≤ field r 8 1 → exec .trapCmd s = .next (s.reply r 1 []))) ∧
  (∀ s : State, exec .trapCtlHalt s = .next (s.modSplits s.cur.core s.cur.entry (Split.halt s.refTime))) ∧
  (∀ (now : Nat) (x : Split), x.live = true → x.halted = false → x.halt now = { x with
    halted := true, parkedNs := x.parkedNs + if x.park.isSome = true then now - x.parkStart else 0 }) ∧
  (∀ (s : State) (g : Group), s.group? s.cur.core s.cur.entry = some g → g.tableOk = true →
    (exec .trapCtlClearResume s = .next ((s.dropTraps s.cur.core s.cur.entry none).modSplits s.cur.core s.cur.entry
      fun x => (x.unhalt s.refTime).resume s.refTime)) ∧
    ∀ i, ((List.range 4).find? fun j => (g.split j).trap.isSome) = some i →
      exec .trapCtlResume s = .next ((s.dropTraps s.cur.core s.cur.entry (some i)).setGroup s.cur.core s.cur.entry
        (g.setSplit i (((g.split i).unhalt s.refTime).resume s.refTime)))) ∧
  (∀ (s : State) (g : Group), s.group? s.cur.core s.cur.entry = some g → g.tableOk = false →
    exec .trapCtlResume s = .next (s.tableFault s.cur.core s.cur.entry) ∧
    exec .trapCtlClearResume s = .next (s.tableFault s.cur.core s.cur.entry)) ∧
  (∀ (s : State) (h : Site) (r : TrapRec), s.siteAt s.cur.core s.cur.entry 0 = some h → h.sp.trap = some r →
    exec .trapCtlEnd s = .next (s.contextFault h.ctx (s.siteRecord h r.cause r.addr r.pc))) ∧
  (∀ (s : State) (c e n : Nat) (g : Group) (v : Word64), s.group? c e = some g → n < 64 →
    ((∀ x ∈ g.splits, x.live = true → x.halted = true ∨ x.trap.isSome = true) →
      exec (.groupStateWrite c e (0x80 + 8 * n) v) s = .next (s.setGroup c e { g.clobber (.k n) with k := writeCell g.k n v })) ∧
    ((∃ x ∈ g.splits, x.live = true ∧ x.halted = false ∧ x.trap = none) →
      exec (.groupStateWrite c e (0x80 + 8 * n) v) s = .next s)) ∧
  ∀ (s : State) (h : Site), s.site? = some h → h.noticed = true →
    let dest : Word64 := if h.g.awaits (.k 63) = true then anyTarget (h.free 64 0x403F) else readCell h.g.k 63
    (dest ≠ 0 → targetOk dest = false → exec .notice s = .next (s.raise h .brAlign 0 h.mask h.sp.pc)) ∧
    (dest = 0 ∨ targetOk dest = true → ∃ t g, exec .notice s = .next t ∧ t = { s with groups := t.groups } ∧
      tget t.groups h.key = some g ∧ (g.split h.ix).pc = (if dest = 0 then h.sp.pc else dest) ∧ g.nen = false ∧ g.npend = false ∧
      readCell g.k 62 = h.sp.pc ∧ ∀ n, n ≠ 62 → readCell g.k n = readCell h.g.k n)

/-- 06 R140, R141: the split watchdog stops a split at 2^24 issues while another split of its group waits, and the team watchdog one that
has been parked for longer than the watchdog time, on no word with EXT, the former once the cycle of its quarter's last issue is over (R150):
the cause WATCHDOG_SPLIT or WATCHDOG_TEAM is raised, which is a trap
(R131). Neither changes anything before that. R144, R145: PC_SAMPLE writes the record of the next eligible group, once a cycle, and not before
the cycle's issue is over. Each of
these completes from every state. Readings of the model's own: notes/assumptions 45. -/
def Obligations.Watchdogs : Prop :=
  (∀ (s : State) (c q : Nat), ∀ i ∈ [Instr.watchdogSplit, .watchdogTeam, .pcSample c q], ∃ t, exec i s = .next t) ∧
  (∀ (s : State) (h : Site), s.site? = some h →
    (h.sp.stopped = false → 2 ^ 24 ≤ h.sp.issues → h.g.othersWait h.ix = true →
      atD (s.core h.core).issuedAt (quarterOf h.entry) 0 ≤ s.cycleOf h.core →
      exec .watchdogSplit s = .next (s.raise h .watchdogSplit 0 h.mask h.sp.pc)) ∧
    (h.sp.issues < 2 ^ 24 → exec .watchdogSplit s = .next s) ∧
    (h.sp.park.isSome = true → h.sp.halted = false → h.sp.trap = none → h.team.exempt h.sp = false →
      (s.plant.watchdogNs < h.sp.parkedNs + (s.refTime - h.sp.parkStart) →
        exec .watchdogTeam s = .next (s.raise h .watchdogTeam 0 h.mask h.sp.pc)) ∧
      (h.sp.parkedNs + (s.refTime - h.sp.parkStart) ≤ s.plant.watchdogNs → exec .watchdogTeam s = .next s))) ∧
  (∀ (s : State) (c q : Nat), s.issueOver c q = false ∨ atD (s.core c).sampledAt q 0 = s.cycleOf c + 1 → exec (.pcSample c q) s = .next s) ∧
  ∀ (s : State) (c q : Nat) (h : Site), s.issueOver c q = true → atD (s.core c).sampledAt q 0 ≠ s.cycleOf c + 1 →
    let last := atD (s.core c).lastSample q 15
    let f := s.func (ctxFn h.ctx)
    let s1 := s.setCore c { s.core c with
      lastSample := setAt (s.core c).lastSample q (h.entry % 16), sampledAt := setAt (s.core c).sampledAt q (s.cycleOf c + 1) }
    ((List.range 16).map fun i => 16 * q + (last + 1 + i) % 16).findSome? (s.eligible c) = some h → (f.samples + 1) % 64 ≠ 0 →
    ∀ s2, s1.storeVa h.ctx h.die (f.sampleBase.toNat + 64 + 32 * (f.samples % 2 ^ f.sampleRing)) (s.sampleBytes h) = .ok s2 →
      exec (.pcSample c q) s = .next
        { s2.setFunc (ctxFn h.ctx) { s2.func (ctxFn h.ctx) with samples := f.samples + 1 } with repairWait := s.repairWait }

/-! ### The package (01 R8 to R30; 02 R48; 03 R61, R62) -/

/-- 01 R24, R25: a cold reset whose images verify leaves memory, queues, contexts, groups and partitions as State.reset has them; the images
that fail in the first step in which one does leave recovery mode and are named there, the stacks are not trained, and a verified image is
accepted. 03 R61, R62, 01 R17: a function-level reset, and a hot reset for every function on the link, leaves no context of the
function. 01 R19: the loss of a link discards the contexts of every function of link 0 in single-host mode, of none of link 1, and in
dual-host mode of the link's virtual functions, and is recorded with the functions that had contexts; R10, R23: the loss of a boundary and a
port. 01 R21, R22: an incoming peer write to pinned pages writes its data, flit by flit, then its signal word; if a page is not pinned nothing is
written. One that meets a range under repair, in a page or on a walk, waits (R13). 01 R26: SPDM versions 1.2 and 1.3 are answered. Readings of
the model's own: notes/assumptions 9, 15, 42, 51, 55, 56. -/
def Obligations.Package : Prop :=
  (∀ (s : State) (w c : Bool) (r : BitVec 4),
    let up := s.cold
    let good := fun i => (if i = 0 then w else if i = 1 then c else r.getLsbD (i - 2)) && decide ((tget s.plant.fuseMin i).getD 0 ≤ (tget s.plant.versions i).getD 0)
    up.mem = [] ∧ up.queues = [] ∧ up.ctxs = [] ∧ up.groups = [] ∧ up.parts = [(0, Part.whole)] ∧ up.refTime = 0 ∧
    ((∀ i, i < 6 → good i = true) → exec (.coldReset w c r) s = .next up) ∧
    (good 0 = false → exec (.coldReset w c r) s = .next (up.recover [0])) ∧
    (good 0 = true → good 1 = false → exec (.coldReset w c r) s = .next (up.recover [1])) ∧
    (good 0 = true → good 1 = true → (∃ i, 2 ≤ i ∧ i < 6 ∧ good i = false) →
      exec (.coldReset w c r) s = .next (up.recover ([2, 3, 4, 5].filter fun i => !good i))) ∧
    ∀ l, (up.recover l).plant.recovery = true ∧ (up.recover l).plant.recoveryStatus = l ∧
      (∀ i, i < 8 → ((up.recover l).stack i).training = true) ∧ ∀ f, f < 17 → ((up.recover l).func f).part = none) ∧
  (∀ (s : State) (image version : Nat), s.plant.recovery = true → (tget s.plant.fuseMin image).getD 0 ≤ version →
    exec (.recoveryImage image version true) s = .next { s with plant := { s.plant with
      versions := tset s.plant.versions image version, recoveryStatus := s.plant.recoveryStatus.filter (· != image) } }) ∧
  (∀ (s : State) (fn : Nat), fn < 17 →
    exec (.functionLevelReset fn) s = .next ((s.wipeFunction fn).pfeqPost { kind := 4, cause := 0, fn := fn }) ∧
    ∀ c, ctxFn c = fn → (s.wipeFunction fn).ctx? c = none) ∧
  (∀ (s : State) (link : Nat), exec (.hotReset link) s = .next (forAll
    (fun s f => (s.wipeFunction f).pfeqPost { kind := 4, cause := 0, fn := f }) s (s.plant.functionsOn link))) ∧
  (∀ (s : State) (link : Nat), exec (.linkDown link) s = .next (s.loseLink link) ∧
    (s.plant.linkUp[link]? = some true →
      let lost := if s.plant.dualHost = false then (if link = 0 then List.range 17 else [])
        else ((List.range 17).drop 1).filter fun f => s.plant.vf0.contains f == (link == 0)
      let had := lost.filter fun f => s.ctxs.any fun x => x.2.live && ctxFn x.1 == f
      s.loseLink link = (forAll State.wipeFunction { s with plant := { s.plant with linkUp := s.plant.linkUp.set link false } } lost).event 0x44
        (natBytes 1 link ++ natBytes 1 (if s.plant.dualHost = true then 1 else 0) ++ natBytes 2 0 ++
          natBytes 4 (had.foldl (fun n f => n + 2 ^ f) 0)))) ∧
  (∀ (s : State) (b n : Nat), b < 4 → s.plant.boundUp[b]? = some true → s.plant.retries[b]? = some n →
    let retries := fun k => s.plant.retries.set b k
    let down := { s with plant := { s.plant with retries := retries 0, boundUp := s.plant.boundUp.set b false } }
    exec (.solderCrcRetry b true) s = .next { s with plant := { s.plant with retries := retries 0 } } ∧
    (n < 63 → exec (.solderCrcRetry b false) s = .next { s with plant := { s.plant with retries := retries (n + 1) } }) ∧
    (63 ≤ n →
      let u := down.event 0x42 (natBytes 1 (boundDies b).1 ++ natBytes 1 (boundDies b).2 ++ natBytes 6 0 ++ natBytes 8 s.refTime)
      exec (.solderCrcRetry b false) s = .next (forAll State.isolate u
        ((List.range 4).filter fun d => !u.keptDies.contains d && !(u.die d).isolated)))) ∧
  (∀ (s : State) (port i : Nat) (p : Peer), s.plant.portUp[port]? = some true →
    (s.peers.find? fun x => x.2.ports.contains port) = some (i, p) →
    let up := s.plant.portUp.set port false
    let n := (p.ports.filter fun x => up[x]? == some true).length
    exec (.portDown port) s = .next (State.event { s with plant := { s.plant with portUp := up } } 0x45
      (natBytes 1 port ++ natBytes 1 n ++ natBytes 6 0 ++ natBytes 8 s.refTime))) ∧
  (∀ (s : State) (ctx : Nat) (va sig : Word64) (data : List Byte),
    let parts := flits (data.length + 1) va.toNat data.length
    ((∃ x ∈ parts, s.pinnedAcc ctx x.1 x.2 = none) ∨ (sig ≠ 0 ∧ s.pinnedAcc ctx sig.toNat 8 = none) →
      ∃ t, exec (.peerWriteIn ctx va data sig) s = .next t ∧ t.mem = s.mem ∧ t.hostMem = s.hostMem ∧ t.pubPending = s.pubPending) ∧
    ((∃ x ∈ parts, (s.walkStall ctx x.1).isSome = true) → exec (.peerWriteIn ctx va data sig) s = .next (s.meetsCopy true)) ∧
    ∀ (accs : List Acc) (w : Acc), parts.map (fun x => s.pinnedAcc ctx x.1 x.2) = accs.map some → (∀ a ∈ accs, s.accWaits a = false) →
      (∀ x ∈ parts, s.walkStall ctx x.1 = none) → (sig ≠ 0 → s.walkStall ctx sig.toNat = none) →
      let put := fun (x : State × List Byte) (a : Acc) =>
        ((x.1.addCount (x.1.partOf ctx) 3 a.locs.length).poke a (x.2.take a.locs.length), x.2.drop a.locs.length)
      let u := (accs.foldl put (s, data)).1
      (sig = 0 → exec (.peerWriteIn ctx va data sig) s = .next u) ∧
      (sig ≠ 0 → sig.toNat % 8 = 0 → s.pinnedAcc ctx sig.toNat 8 = some w → s.accWaits w = false →
        let v := (u.addCount (u.partOf w.ctx) 3 8).countWeak w
        (∀ l ∈ w.locs, v.locBad l = false) →
        exec (.peerWriteIn ctx va data sig) s = .next (v.poke w (natBytes 8 (v.loadNum w + 1).toNat)))) ∧
  ∀ (s : State) (version request : Nat), version = 0x12 ∨ version = 0x13 → exec (.spdmRequest version request) s = .next { s with
    plant := { s.plant with mctpOut := s.plant.mctpOut ++
      [natBytes 1 version ++ natBytes 1 request ++ (List.range 62).map (Config.spdmByte version request)] } }

/-- 01 R12, R13: a scrub corrects and counts; a row's repair takes a spare row, a remap entry or a spare granule, in that order, or retires
the granule (R14), and ends when its copy is done, with the data that it moved corrected and counted. 03 R71: row hammer throttles the
function in the bank until the window ends. 01 R27 to R29: the thermal limits, the power limit and droop events. 02 R48: lock-step
mismatches and checkpoints. Readings of the model's own: notes/assumptions 9, 31, 41, 45. -/
def Obligations.StacksAndPower : Prop :=
  (∀ (s : State) (i : Nat), i < 8 → (s.stack i).outOfUse = false →
    let k := s.stack i
    exec (.patrolScrub i) s = .next (s.setStack i { k with
      corrected := k.corrected + k.weak.length, weak := [], lastScrub := s.refTime }) ∧
    (∀ bank row gr, k.copying = none → gr < hbmEnd → granuleOf gr / 0x2800000000 = i / 2 → s.granuleRetired (granuleOf gr) = false →
      let g := granuleOf gr
      let o := s.stack (otherStack i)
      let (rows, maps, grans) := (tget k.bankUse bank).getD (0, 0, 0)
      let moved := fun (u : State) used => Host.Outcome.next (u.repairEvent i used bank row g)
      exec (.rowRepair i bank row gr) s =
        if rows < Config.spareRows then moved (s.setStack i { k with
          copying := some (.row bank row), spareUsed := k.spareUsed + 1, bankUse := tset k.bankUse bank (rows + 1, maps, grans) }) 1
        else if maps < Config.remapEntries then moved (s.setStack i { k with
          copying := some (.row bank row), remapUsed := k.remapUsed + 1, bankUse := tset k.bankUse bank (rows, maps + 1, grans) }) 2
        else if grans < Config.spareGranules then
          if o.copying.isSome = true then .next s
          else moved ((s.setStack i { k with
            copying := some (.granule g), granUsed := k.granUsed + 1, bankUse := tset k.bankUse bank (rows, maps, grans + 1) }).setStack
              (otherStack i) { o with copying := some (.granule g) }) 3
        else .next (s.retireGranule i bank g)) ∧
    (∀ bank gr, (s.retireGranule i bank (granuleOf gr)).granuleRetired gr = true) ∧
    ∀ c, k.copying = some c →
      let done := fun x : Stack => { x with
        copying := none, weak := x.weak.filter (fun y => !c.moves (64 * y)),
        corrected := x.corrected + (x.weak.filter fun y => c.moves (64 * y)).length }
      (∀ b r, c = .row b r → exec (.repairCopyDone i) s = .next (s.setStack i (done k))) ∧
      ∀ g, c = .granule g → (s.stack (otherStack i)).copying = some c → exec (.repairCopyDone i) s =
        .next ((s.setStack i (done k)).setStack (otherStack i) (done (s.stack (otherStack i))))) ∧
  (∀ (s : State) (fn i bank n : Nat) (p : Part), (fn, bank) ∉ (s.stack i).throttled → tget s.parts ((s.func fn).part.getD 0) = some p →
    exec (.rowHammer fn i bank n) s = .next (State.event
      { s.setStack i { s.stack i with throttled := (s.stack i).throttled ++ [(fn, bank)] } with
        parts := tset s.parts ((s.func fn).part.getD 0) { p with windowBytes := p.windowBytes + 2048 * n } } 0x40
      (natBytes 1 fn ++ natBytes 1 i ++ natBytes 2 bank ++ natBytes 4 n))) ∧
  (∀ (s : State) (i : Nat), exec (.hammerWindowEnd i) s = .next (s.setStack i { s.stack i with throttled := [] })) ∧
  (∀ (s : State) (d temp : Nat), d < 4 → 105 ≤ temp →
    let hot := { s with plant := { s.plant with hottest := max s.plant.hottest temp, lowTemp := true } }
    let body := fun n => natBytes 1 d ++ natBytes 1 n ++ natBytes 2 temp
    (temp < 115 → exec (.thermalLimit d temp) s = .next (hot.event 0x48 (body 0))) ∧
    (115 ≤ temp → ∃ t, exec (.thermalLimit d temp) s = .next t ∧ ∀ x, x < 4 → (t.die x).powered = false)) ∧
  (∀ (s : State) (w : Nat), exec (.powerLimitReached w) s = .next { s with plant := { s.plant with
    measured := w, lowPower := decide (s.plant.powerLimit ≤ w) } }) ∧
  (∀ (s : State) (d : Nat), d < 4 →
    let x := s.die d
    exec (.droop d) s = .next (s.setDie d { x with
      droopEvents := x.droopEvents + 1, droopOverflow := x.droopOverflow || x.droopEvents == 0xFFFFFFFF, droopActive := true,
      clockSteps := x.clockSteps + 1 }) ∧
    exec (.droopRecover d) s = .next (s.setDie d { x with
      clockSteps := x.clockSteps - 1, droopActive := decide (1 < x.clockSteps) }) ∧
    exec (.frontEndCheckpoint d) s = .next (s.setDie d { x with checkpoint := s.refTime }) ∧
    (x.frontFailed = false →
      let recent := (x.mismatches.filter fun t => decide (s.refTime < t + 1000000000)) ++ [s.refTime]
      let u := s.setDie d { x with mismatches := recent }
      exec (.lockstepMismatch d) s = .next (if 3 ≤ recent.length then u.frontEndFails d else u)))

/-- 03 R73, R75, R60: a fold takes every live context's accumulators into its record in one snapshot; a refresh shows what was sampled one
period earlier, in multiples of the quantum; a bandwidth window starts from nothing. R69, R70: at the end of a hot-page window a die starts its counts again, and
before that end nothing changes; a migration whose leaf is as it was moves the page to a place that is free, gives the leaf that
address, and leaves the rest of memory as it was; it is abandoned when the leaf has changed.
Readings of the model's own: notes/assumptions 44, 45, 46. -/
def Obligations.Timers : Prop :=
  (∀ s : State, exec .sterlingFold s = .next { s with
    ctxs := tmap s.ctxs fun _ c => if c.live = true then { c with folded := { c.sterling with time := s.refTime } } else c }) ∧
  (∀ (s : State) (fn : Nat), (s.func fn).gcntEnable = true → (s.func fn).gcntAt ≤ s.refTime →
    exec (.gcntRefresh fn) s = .next { s.setFunc fn { s.func fn with
      gcnt := (s.func fn).gcntNext.map (s.func fn).quantise, gcntNext := s.guestSample fn,
      gcntAt := s.refTime + 1000000 * max 1 (s.func fn).gcntDelay.toNat } with freeCtr := s.freeCtr + 1 }) ∧
  (∀ s : State, exec .bandwidthWindow s = .next { s with parts := tmap s.parts fun _ p => { p with windowBytes := 0 } }) ∧
  (∀ s : State, ∃ t, exec .hotPageWindow s = .next t ∧ t = { s with dies := t.dies } ∧
    ∀ d, d < 4 → (t.die d).hotMoved = (s.die d).hotMoved ∧
      (s.refTime < (s.die d).hotEnd → (t.die d).hotCounts = (s.die d).hotCounts ∧ (t.die d).migrations = (s.die d).migrations) ∧
      ((s.die d).hotEnd ≤ s.refTime → (t.die d).hotCounts = [] ∧ s.refTime < (t.die d).hotEnd)) ∧
  ∀ (s : State) (d : Nat) (m : Migration) (rest : List Migration), (s.die d).migrations = m :: rest →
    let e : Word64 := BitVec.ofNat 64 (readLe s.mem m.leaf 8)
    let a := (e.extractLsb' 16 36).toNat * 65536
    let b := 0x2800000000 * m.target + m.size * (Config.migrationPage m.target m.size s.freeCtr % (0x2800000000 / m.size))
    (leafKey e ≠ leafKey m.entry → s.pageWaits m.leaf a b m.size = false → exec (.pageMigration d) s = .next
      { s.setDie d { s.die d with migrations := rest } with freeCtr := s.freeCtr + 1 }) ∧
    ((s.ctx? m.ctx).isSome = true → leafKey e = leafKey m.entry → (∀ x ∈ s.mem, ¬(b ≤ x.1 ∧ x.1 < b + m.size)) →
      s.pageWaits m.leaf a b m.size = false → s.pageBad a m.size = false → s.pageBad b m.size = false → Memory.wf s.mem = true → (m.leaf + 8 ≤ b ∨ b + m.size ≤ m.leaf) →
      ∃ t, exec (.pageMigration d) s = .next t ∧
        (∀ i, i < m.size → readCell t.mem (b + i) = readCell s.mem (a + i)) ∧
        (∀ k, ¬(b ≤ k ∧ k < b + m.size) → ¬(m.leaf ≤ k ∧ k < m.leaf + 8) → readCell t.mem k = readCell s.mem k) ∧
        BitVec.ofNat 64 (readLe t.mem m.leaf 8) = ((e &&& ~~~0x000FFFFFFFFF0000#64) ||| BitVec.ofNat 64 b) ∧
        (t.die d).hotMoved = (s.die d).hotMoved + 1)

/-! ### Steps, encodings and invariants -/

/-- R243, R264, R265 and 06 R120 to R130, R136, R150: the move at the head of the schedule happens, after the time that it lets pass; then
splits merge and holds end at the boundary (R125, R126), or, if the move meets a range under repair, it is put off (01 R13). An event is its
instruction's meaning; without power on the compute dies an event that needs them does nothing (01 R27), where which events those are is the
model's choice (notes/assumptions 17). A split that may issue takes a pending notice first. Else its attempt is carried out when
its quarter picks it, as it does a split that is alone on its core: U set raises ENC_UNSCHED, another reserved bit of the schedule word
ENC_RESERVED, and a word that is no instruction ENC_ILLEGAL or ENC_RESERVED, all after the fetch's own corrections are counted (01 R12).
A word that decodes to `i` runs `i` in the first cycle
with a collector and a lane free, after which the issue is counted; an instruction that waits leaves no attempt, and so everything as
it was. A result in flight that the issue would meet raises SCHED_SHORT in a launch with KFLAGS.CHECK, unless the instruction ends its
context, which a cause that follows from such a result's undefined value does not (06 R150). A core's cycle in which no split issues any
more is over, and its split watchdog acts, before that (endCycle). Readings of the model's own: notes/assumptions 3, 31. -/
def Obligations.StepRunsTheDecodedInstruction : Prop :=
  (∀ (s : State) (m : Move) (r : List Move), s.sched = m :: r →
    let v := State.pass { s with sched := r, cur := m.cur } m.dt
    let u := if m.ev = none then v.endCycle v.cur.core m.late else v
    (∀ i, m.ev = some i → isEvent i = true → (u.dark = false ∨ needsDies i = false) → step s = bounded u m (exec i u)) ∧
    (∀ i, m.ev = some i → u.dark = true → needsDies i = true → step s = .next u) ∧
    (m.ev = none → ∀ h, u.site? = some h →
      (u.splitReady h = true → h.noticed = true → step s = bounded u m (.next (u.takeNotice h))) ∧
      ((u.splitReady h && h.noticed) = false →
        (∀ a, u.chosen h.core h.entry h.ix m.late = some a → u.attempt m.late = some a ∧ step s = bounded u m a.result) ∧
        (∀ a, u.attempts h.core m.late = [a] → u.attempt m.late = some a → step s = bounded u m a.result) ∧
        (u.attempt m.late = none → step s = bounded u m (.next u))))) ∧
  ∀ (u : State) (h : Site) (late : List Nat), u.site? = some h → u.splitReady h = true → h.noticed = false →
    let gives := fun r => ∃ a, u.attempt late = some a ∧ a.h = h ∧ a.result = r
    (∀ c a t, fetchWords u h = .error (.cause c a t) → gives (.next (u.raise h c a t h.sp.pc))) ∧
    (fetchWords u h = .error .wait → u.attempt late = none) ∧
    ∀ sched w acc, fetchWords u h = .ok (sched, w, acc) →
      let stop := fun c => gives (.next ((u.afterRead acc).raise h c 0 h.mask h.sp.pc))
      (sched.getLsbD 31 = true → stop .encUnsched) ∧
      (sched.getLsbD 31 = false → sched.extractLsb' 28 3 ≠ 0 → stop .encReserved) ∧
      (sched.getLsbD 31 = false → sched.extractLsb' 28 3 = 0 →
        (decode w = .error .illegal → stop .encIllegal) ∧ (decode w = .error .reserved → stop .encReserved) ∧
        ∀ i, decode w = .ok i →
          let slot := sched.toNat / 16 ^ (h.sp.pc.toNat % 32 / 4 - 1) % 16
          let f : Fetched := { i := i, gap := slot % 8, giveWay := decide (8 ≤ slot), acc := acc }
          (u.unitsFrom h i (u.gapCycle h) = none → u.attempt late = none) ∧
          ∀ c1, u.unitsFrom h i (u.gapCycle h) = some c1 →
            let early := if h.l.isInvar = true then [] else h.earlyRegs i c1
            let ends := ∃ t, exec i (u.beginIssue h f c1 early) = .next t ∧ t.ctx? h.ctx = none
            (early ≠ [] → h.l.isCheck = true → ¬ends → stop .schedShort) ∧
            ((early = [] ∨ h.l.isCheck = false ∨ ends) →
              ∀ c, (if h.l.isInvar = true then c = c1 else u.unitsFrom h i (h.wholeCycle i c1) = some c) →
                ∀ t, exec i (u.beginIssue h f c early) = .next t →
                  (t.freeCtr = u.freeCtr → u.attempt late = none) ∧
                  (t.freeCtr ≠ u.freeCtr → gives (.next (t.endIssue h c f late)))))

/-- R255 to R263: words that the opcode map gives, one or more of each family, decode to the instructions they stand for. -/
def Obligations.WordsOfTheMap : Prop :=
  decode 0x20010010 = .ok (.kli 1 16) ∧ decode 0x47080801 = .ok (.vaddUniform 8 8 1) ∧ decode 0x12000000 = .ok .exit ∧
  decode 0x04010002 = .ok (.brp 1 2) ∧ decode 0x0801FFFE = .ok (.bruNz 1 0xFFFE) ∧ decode 0x0A0A0002 = .ok (.call 10 2) ∧
  decode 0x1900000F = .ok (.modeGd 3 1 1) ∧ decode 0x63120104 = .ok (.vcmpUniform 2 2 1 4) ∧
  decode 0x70030102 = .ok (.fadd 3 1 2) ∧ decode 0xA0020108 = .ok (.cvt 2 1 8) ∧ decode 0xB3030201 = .ok (.shfxImm 3 2 1) ∧
  decode 0xC0020102 = .ok (.ld 0 2 1 2) ∧ decode 0xE0030402 = .ok (.atom 3 4 0 2) ∧ decode 0xE6000103 = .ok (.bara 1) ∧
  decode 0xF2060203 = .ok (.cpy 6 2 3) ∧ decode 0xF8000002 = .ok (.mma 0 0 0 2) ∧ decode 0xFA040200 = .ok (.calookLeaf 4 2 0) ∧
  decode 0xFD040200 = .ok (.fnewU 4 2) ∧ decode 0x21010010 = .error .reserved ∧ decode 0xFE000000 = .error .illegal

/-- R244 to R246, R255 to R263: every instruction of memory has one word. A well-formed instruction encodes to a word that decodes
to it, with every operand at every value; and a word that decodes to an instruction is that instruction's encoding. -/
def Obligations.DecodeAndEncodeAgree : Prop :=
  (∀ i : Instr, i.wf = true → (instrShape i).isSome = true → ∃ w, encode i = some w ∧ decode w = .ok i) ∧
  ∀ (w : Word32) (i : Instr), decode w = .ok i → i.wf = true ∧ encode i = some w

/-- 01 R24, 03 R402, 02 R401: the device after reset: every queue is DISABLED, nothing runs, every function is bound to partition 0,
which holds all cores, engines and slices, 640 GiB and 1,024 of 1,024; TRAP_POLICY is 0 (06 R133), each core's RBRK is 0
(06 R137) and its SEQ is 1 (05 R100), and it has no matrix owner, since no team has started on it (04 R85).
Memory reads 0, and the schedule is empty, which are the model's choices (notes/assumptions 5, 3). -/
def Obligations.ResetState : Prop :=
  let s := State.reset
  s.memWf ∧ (∀ a, readCell s.mem a = 0) ∧ s.sched = [] ∧ s.groups = [] ∧ s.launches = [] ∧ s.refTime = 0 ∧
  (∀ f q, (s.queue f q).state = .disabled) ∧ (∀ f, (s.func f).part = some 0 ∧ (s.func f).trapPolicy = 0) ∧
  (∀ c, (s.core c).seq = 1 ∧ (s.core c).rbrk = 0 ∧ (s.core c).owner = none) ∧
  (∃ p, tget s.parts 0 = some p ∧ p.cores = BitVec.allOnes 160 ∧ p.engines = BitVec.allOnes 32 ∧ p.slices = BitVec.allOnes 64 ∧
    p.hbmGib = 640 ∧ p.timeShare = 1024) ∧ ∀ c, s.ctx? c = none

/-- Every step keeps the canonical form of the memories: whatever happens, equal memories stay equal data.
The form is the model's own way to hold memory (notes/assumptions 5). -/
def Obligations.StepKeepsTheMemories : Prop := ∀ s t : State, s.memWf → step s = .next t → t.memWf
end

