-- ==== Sys2Proof/Laws/Memory.lean ====
section
/-!
SUPPORT. Laws of the containers: a read after a write, in every list; and the canonical form, which every write keeps.
-/

namespace Sys2Proof.Machine

open Sys2Proof

/-! ### Read after write -/

theorem readCell_removeCell {w : Nat} (m : Sparse w) (k k' : Nat) :
    readCell (removeCell m k) k' = if k' = k then 0 else readCell m k' := by
  induction m with
  | nil => simp [removeCell, readCell]
  | cons x r ih =>
    obtain ⟨a, b⟩ := x
    by_cases h : a = k
    · subst h
      simp only [removeCell, if_pos, readCell, ih]
      split
      · rfl
      · rename_i h; rw [if_neg (Ne.symm h)]
    · simp only [removeCell, if_neg h, readCell, ih]
      split <;> split <;> simp_all

theorem readCell_insertCell {w : Nat} (m : Sparse w) (k k' : Nat) (x : BitVec w) :
    readCell (insertCell m k x) k' = if k' = k then x else readCell m k' := by
  induction m with
  | nil => simp [insertCell, readCell, eq_comm]
  | cons y r ih =>
    obtain ⟨a, b⟩ := y
    simp only [insertCell]
    split
    · simp [readCell, eq_comm]
    · split
      · rename_i h; subst h; by_cases h : k' = k
        · simp [readCell, h]
        · simp [readCell, h, Ne.symm h]
      · rename_i h1 h2
        by_cases h : a = k'
        · subst h; simp [readCell, Ne.symm h2]
        · simp [readCell, h, ih]

@[simp] theorem readCell_writeCell {w : Nat} (m : Sparse w) (k k' : Nat) (x : BitVec w) :
    readCell (writeCell m k x) k' = if k' = k then x else readCell m k' := by
  unfold writeCell
  split
  · rename_i h; rw [readCell_removeCell, h]
  · exact readCell_insertCell m k k' x

theorem tget_tset {α : Type} (t : Table α) (k k' : Nat) (x : α) :
    tget (tset t k x) k' = if k' = k then some x else tget t k' := by
  induction t with
  | nil => simp [tset, tget, eq_comm]
  | cons y r ih =>
    obtain ⟨a, b⟩ := y
    simp only [tset]
    split
    · simp [tget, eq_comm]
    · split
      · rename_i h; subst h; by_cases h : k' = k
        · simp [tget, h]
        · simp [tget, h, Ne.symm h]
      · rename_i h1 h2
        by_cases h : a = k'
        · subst h; simp [tget, Ne.symm h2]
        · simp [tget, h, ih]

@[simp] theorem tget_tset_same {α : Type} (t : Table α) (k : Nat) (x : α) : tget (tset t k x) k = some x := by
  simp [tget_tset]

@[simp] theorem tset_tset {α : Type} (t : Table α) (k : Nat) (x y : α) : tset (tset t k x) k y = tset t k y := by
  induction t with
  | nil => simp [tset]
  | cons z r ih =>
    obtain ⟨a, b⟩ := z
    simp only [tset]
    split
    · simp [tset]
    · split
      · simp [tset]
      · rename_i h1 h2; simp [tset, h1, h2, ih]

theorem tget_terase {α : Type} (t : Table α) (k k' : Nat) : tget (terase t k) k' = if k' = k then none else tget t k' := by
  induction t with
  | nil => simp [terase, tget]
  | cons y r ih =>
    obtain ⟨a, b⟩ := y
    by_cases h : a = k
    · subst h
      simp only [terase, if_pos, tget, ih]
      split
      · rfl
      · rename_i h; rw [if_neg (Ne.symm h)]
    · simp only [terase, if_neg h, tget, ih]
      split <;> split <;> simp_all

theorem tget_tmap {α : Type} (t : Table α) (f : Nat → α → α) (k : Nat) : tget (tmap t f) k = (tget t k).map (f k) := by
  induction t with
  | nil => rfl
  | cons y r ih =>
    obtain ⟨a, b⟩ := y
    simp only [tmap, List.map_cons, tget] at ih ⊢
    split
    · rename_i h; subst h; rfl
    · exact ih

/-! ### The canonical form -/

theorem cellsFrom_mono {w : Nat} {lo lo' : Nat} {m : Sparse w} (h : lo' ≤ lo) (hm : cellsFrom lo m = true) :
    cellsFrom lo' m = true := by
  cases m with
  | nil => rfl
  | cons x r => simp only [cellsFrom, Bool.and_eq_true, decide_eq_true_eq] at *; exact ⟨⟨by omega, hm.1.2⟩, hm.2⟩

theorem cellsFrom_removeCell {w : Nat} {lo : Nat} {m : Sparse w} (k : Nat) (hm : cellsFrom lo m = true) :
    cellsFrom lo (removeCell m k) = true := by
  induction m generalizing lo with
  | nil => rfl
  | cons x r ih =>
    simp only [cellsFrom, Bool.and_eq_true, decide_eq_true_eq] at hm
    simp only [removeCell]
    split
    · exact cellsFrom_mono (by omega) (ih hm.2)
    · simp only [cellsFrom, Bool.and_eq_true, decide_eq_true_eq]; exact ⟨hm.1, ih hm.2⟩

theorem cellsFrom_insertCell {w : Nat} {lo : Nat} {m : Sparse w} {k : Nat} {x : BitVec w} (hk : lo ≤ k) (hx : x ≠ 0)
    (hm : cellsFrom lo m = true) : cellsFrom lo (insertCell m k x) = true := by
  induction m generalizing lo with
  | nil => simpa [insertCell, cellsFrom, hk] using hx
  | cons y r ih =>
    simp only [cellsFrom, Bool.and_eq_true, decide_eq_true_eq] at hm
    simp only [insertCell]
    split
    · simp only [cellsFrom, Bool.and_eq_true, decide_eq_true_eq]
      exact ⟨⟨hk, by simpa using hx⟩, ⟨by omega, hm.1.2⟩, hm.2⟩
    · split
      · rename_i h; subst h
        simp only [cellsFrom, Bool.and_eq_true, decide_eq_true_eq]
        exact ⟨⟨hk, by simpa using hx⟩, hm.2⟩
      · simp only [cellsFrom, Bool.and_eq_true, decide_eq_true_eq]
        exact ⟨hm.1, ih (by omega) hm.2⟩

theorem wf_writeCell {w : Nat} {m : Sparse w} (k : Nat) (x : BitVec w) (hm : Sparse.wf m = true) :
    Sparse.wf (writeCell m k x) = true := by
  unfold writeCell Sparse.wf at *
  split
  · exact cellsFrom_removeCell k hm
  · exact cellsFrom_insertCell (by omega) ‹_› hm

theorem wf_writeBytes {m : Mem} (a : Nat) (bs : List Byte) (hm : Memory.wf m = true) :
    Memory.wf (writeBytes m a bs) = true := by
  induction bs generalizing m a with
  | nil => exact hm
  | cons b r ih => exact ih (a + 1) (wf_writeCell a b hm)

theorem wf_writeLe {m : Mem} (a n v : Nat) (hm : Memory.wf m = true) : Memory.wf (writeLe m a n v) = true :=
  wf_writeBytes a _ hm

theorem wf_memOf (bs : List Byte) : Memory.wf (memOf bs) = true := wf_writeBytes 0 bs rfl

/-- Bytes written by `writeBytes`, and no others, change. -/
theorem readCell_writeBytes_ne {m : Mem} {a k : Nat} {bs : List Byte} (h : k < a ∨ a + bs.length ≤ k) :
    readCell (writeBytes m a bs) k = readCell m k := by
  induction bs generalizing m a with
  | nil => rfl
  | cons b r ih =>
    simp only [List.length_cons] at h
    rw [writeBytes, ih (by omega), readCell_writeCell, if_neg (by omega)]

theorem readCell_writeBytes {m : Mem} {a k : Nat} {bs : List Byte} (h : k < bs.length) :
    readCell (writeBytes m a bs) (a + k) = bs[k] := by
  induction bs generalizing m a k with
  | nil => simp at h
  | cons b r ih =>
    cases k with
    | zero => rw [writeBytes, readCell_writeBytes_ne (by omega), readCell_writeCell]; simp
    | succ k =>
      have h' : k < r.length := by simpa using h
      rw [writeBytes, show a + (k + 1) = a + 1 + k by omega, ih h', List.getElem_cons_succ]

@[simp] theorem length_readBytes (m : Mem) (a n : Nat) : (readBytes m a n).length = n := by
  induction n generalizing a with
  | zero => rfl
  | succ n ih => simp [readBytes, ih]

theorem getElem_readBytes {m : Mem} {a n k : Nat} (h : k < (readBytes m a n).length) : (readBytes m a n)[k] = readCell m (a + k) := by
  induction n generalizing a k with
  | zero => simp at h
  | succ n ih =>
    cases k with
    | zero => rfl
    | succ k => simp only [readBytes, List.getElem_cons_succ, ih]; congr 1; omega

/-- A byte of a copy of a range of memory. -/
theorem readCell_memOf_readBytes (m : Mem) (a : Nat) {n k : Nat} (h : k < n) : readCell (memOf (readBytes m a n)) k = readCell m (a + k) := by
  have := readCell_writeBytes (m := []) (a := 0) (bs := readBytes m a n) (k := k) (by simpa)
  rw [Nat.zero_add] at this
  rw [memOf, this, getElem_readBytes]

end Sys2Proof.Machine
end

