-- ==== Sys2Proof/Laws/State.lean ====
section
/-!
SUPPORT. What each update of the state leaves: one lemma for each field, so that no proof unfolds an update.
-/

namespace Sys2Proof.Machine

open Sys2Proof

/-! ### `setDie` -/

@[simp] theorem setDie_sched (s : State) (d : Nat) (x : Die) : (s.setDie d x).sched = s.sched := rfl
@[simp] theorem setDie_refTime (s : State) (d : Nat) (x : Die) : (s.setDie d x).refTime = s.refTime := rfl
@[simp] theorem setDie_clock (s : State) (d : Nat) (x : Die) : (s.setDie d x).clock = s.clock := rfl
@[simp] theorem setDie_freeCtr (s : State) (d : Nat) (x : Die) : (s.setDie d x).freeCtr = s.freeCtr := rfl
@[simp] theorem setDie_cur (s : State) (d : Nat) (x : Die) : (s.setDie d x).cur = s.cur := rfl
@[simp] theorem setDie_hazard (s : State) (d : Nat) (x : Die) : (s.setDie d x).hazard = s.hazard := rfl
@[simp] theorem setDie_undef (s : State) (d : Nat) (x : Die) : (s.setDie d x).undef = s.undef := rfl
@[simp] theorem setDie_dests (s : State) (d : Nat) (x : Die) : (s.setDie d x).dests = s.dests := rfl
@[simp] theorem setDie_mem (s : State) (d : Nat) (x : Die) : (s.setDie d x).mem = s.mem := rfl
@[simp] theorem setDie_hostMem (s : State) (d : Nat) (x : Die) : (s.setDie d x).hostMem = s.hostMem := rfl
@[simp] theorem setDie_pubPending (s : State) (d : Nat) (x : Die) : (s.setDie d x).pubPending = s.pubPending := rfl
@[simp] theorem setDie_peers (s : State) (d : Nat) (x : Die) : (s.setDie d x).peers = s.peers := rfl
@[simp] theorem setDie_mgmt (s : State) (d : Nat) (x : Die) : (s.setDie d x).mgmt = s.mgmt := rfl
@[simp] theorem setDie_plant (s : State) (d : Nat) (x : Die) : (s.setDie d x).plant = s.plant := rfl
@[simp] theorem setDie_hbm (s : State) (d : Nat) (x : Die) : (s.setDie d x).hbm = s.hbm := rfl
@[simp] theorem setDie_dies (s : State) (d : Nat) (x : Die) : (s.setDie d x).dies = tset s.dies d x := rfl
@[simp] theorem setDie_funcs (s : State) (d : Nat) (x : Die) : (s.setDie d x).funcs = s.funcs := rfl
@[simp] theorem setDie_parts (s : State) (d : Nat) (x : Die) : (s.setDie d x).parts = s.parts := rfl
@[simp] theorem setDie_queues (s : State) (d : Nat) (x : Die) : (s.setDie d x).queues = s.queues := rfl
@[simp] theorem setDie_ctxs (s : State) (d : Nat) (x : Die) : (s.setDie d x).ctxs = s.ctxs := rfl
@[simp] theorem setDie_closed (s : State) (d : Nat) (x : Die) : (s.setDie d x).closed = s.closed := rfl
@[simp] theorem setDie_launches (s : State) (d : Nat) (x : Die) : (s.setDie d x).launches = s.launches := rfl
@[simp] theorem setDie_cores (s : State) (d : Nat) (x : Die) : (s.setDie d x).cores = s.cores := rfl
@[simp] theorem setDie_teams (s : State) (d : Nat) (x : Die) : (s.setDie d x).teams = s.teams := rfl
@[simp] theorem setDie_groups (s : State) (d : Nat) (x : Die) : (s.setDie d x).groups = s.groups := rfl
@[simp] theorem setDie_copies (s : State) (d : Nat) (x : Die) : (s.setDie d x).copies = s.copies := rfl
@[simp] theorem setDie_mats (s : State) (d : Nat) (x : Die) : (s.setDie d x).mats = s.mats := rfl
@[simp] theorem setDie_atoms (s : State) (d : Nat) (x : Die) : (s.setDie d x).atoms = s.atoms := rfl
@[simp] theorem setDie_caSteps (s : State) (d : Nat) (x : Die) : (s.setDie d x).caSteps = s.caSteps := rfl
@[simp] theorem setDie_stores (s : State) (d : Nat) (x : Die) : (s.setDie d x).stores = s.stores := rfl
@[simp] theorem setDie_frames (s : State) (d : Nat) (x : Die) : (s.setDie d x).frames = s.frames := rfl
@[simp] theorem setDie_decs (s : State) (d : Nat) (x : Die) : (s.setDie d x).decs = s.decs := rfl
@[simp] theorem setDie_nextId (s : State) (d : Nat) (x : Die) : (s.setDie d x).nextId = s.nextId := rfl
@[simp] theorem setDie_repairWait (s : State) (d : Nat) (x : Die) : (s.setDie d x).repairWait = s.repairWait := rfl

/-! ### `setCore` -/

@[simp] theorem setCore_sched (s : State) (c : Nat) (x : Core) : (s.setCore c x).sched = s.sched := rfl
@[simp] theorem setCore_refTime (s : State) (c : Nat) (x : Core) : (s.setCore c x).refTime = s.refTime := rfl
@[simp] theorem setCore_clock (s : State) (c : Nat) (x : Core) : (s.setCore c x).clock = s.clock := rfl
@[simp] theorem setCore_freeCtr (s : State) (c : Nat) (x : Core) : (s.setCore c x).freeCtr = s.freeCtr := rfl
@[simp] theorem setCore_cur (s : State) (c : Nat) (x : Core) : (s.setCore c x).cur = s.cur := rfl
@[simp] theorem setCore_hazard (s : State) (c : Nat) (x : Core) : (s.setCore c x).hazard = s.hazard := rfl
@[simp] theorem setCore_undef (s : State) (c : Nat) (x : Core) : (s.setCore c x).undef = s.undef := rfl
@[simp] theorem setCore_dests (s : State) (c : Nat) (x : Core) : (s.setCore c x).dests = s.dests := rfl
@[simp] theorem setCore_mem (s : State) (c : Nat) (x : Core) : (s.setCore c x).mem = s.mem := rfl
@[simp] theorem setCore_hostMem (s : State) (c : Nat) (x : Core) : (s.setCore c x).hostMem = s.hostMem := rfl
@[simp] theorem setCore_pubPending (s : State) (c : Nat) (x : Core) : (s.setCore c x).pubPending = s.pubPending := rfl
@[simp] theorem setCore_peers (s : State) (c : Nat) (x : Core) : (s.setCore c x).peers = s.peers := rfl
@[simp] theorem setCore_mgmt (s : State) (c : Nat) (x : Core) : (s.setCore c x).mgmt = s.mgmt := rfl
@[simp] theorem setCore_plant (s : State) (c : Nat) (x : Core) : (s.setCore c x).plant = s.plant := rfl
@[simp] theorem setCore_hbm (s : State) (c : Nat) (x : Core) : (s.setCore c x).hbm = s.hbm := rfl
@[simp] theorem setCore_dies (s : State) (c : Nat) (x : Core) : (s.setCore c x).dies = s.dies := rfl
@[simp] theorem setCore_funcs (s : State) (c : Nat) (x : Core) : (s.setCore c x).funcs = s.funcs := rfl
@[simp] theorem setCore_parts (s : State) (c : Nat) (x : Core) : (s.setCore c x).parts = s.parts := rfl
@[simp] theorem setCore_queues (s : State) (c : Nat) (x : Core) : (s.setCore c x).queues = s.queues := rfl
@[simp] theorem setCore_ctxs (s : State) (c : Nat) (x : Core) : (s.setCore c x).ctxs = s.ctxs := rfl
@[simp] theorem setCore_closed (s : State) (c : Nat) (x : Core) : (s.setCore c x).closed = s.closed := rfl
@[simp] theorem setCore_launches (s : State) (c : Nat) (x : Core) : (s.setCore c x).launches = s.launches := rfl
@[simp] theorem setCore_cores (s : State) (c : Nat) (x : Core) : (s.setCore c x).cores = tset s.cores c x := rfl
@[simp] theorem setCore_teams (s : State) (c : Nat) (x : Core) : (s.setCore c x).teams = s.teams := rfl
@[simp] theorem setCore_groups (s : State) (c : Nat) (x : Core) : (s.setCore c x).groups = s.groups := rfl
@[simp] theorem setCore_copies (s : State) (c : Nat) (x : Core) : (s.setCore c x).copies = s.copies := rfl
@[simp] theorem setCore_mats (s : State) (c : Nat) (x : Core) : (s.setCore c x).mats = s.mats := rfl
@[simp] theorem setCore_atoms (s : State) (c : Nat) (x : Core) : (s.setCore c x).atoms = s.atoms := rfl
@[simp] theorem setCore_caSteps (s : State) (c : Nat) (x : Core) : (s.setCore c x).caSteps = s.caSteps := rfl
@[simp] theorem setCore_stores (s : State) (c : Nat) (x : Core) : (s.setCore c x).stores = s.stores := rfl
@[simp] theorem setCore_frames (s : State) (c : Nat) (x : Core) : (s.setCore c x).frames = s.frames := rfl
@[simp] theorem setCore_decs (s : State) (c : Nat) (x : Core) : (s.setCore c x).decs = s.decs := rfl
@[simp] theorem setCore_nextId (s : State) (c : Nat) (x : Core) : (s.setCore c x).nextId = s.nextId := rfl
@[simp] theorem setCore_repairWait (s : State) (c : Nat) (x : Core) : (s.setCore c x).repairWait = s.repairWait := rfl

/-! ### `setFunc` -/

@[simp] theorem setFunc_sched (s : State) (f : Nat) (x : Func) : (s.setFunc f x).sched = s.sched := rfl
@[simp] theorem setFunc_refTime (s : State) (f : Nat) (x : Func) : (s.setFunc f x).refTime = s.refTime := rfl
@[simp] theorem setFunc_clock (s : State) (f : Nat) (x : Func) : (s.setFunc f x).clock = s.clock := rfl
@[simp] theorem setFunc_freeCtr (s : State) (f : Nat) (x : Func) : (s.setFunc f x).freeCtr = s.freeCtr := rfl
@[simp] theorem setFunc_cur (s : State) (f : Nat) (x : Func) : (s.setFunc f x).cur = s.cur := rfl
@[simp] theorem setFunc_hazard (s : State) (f : Nat) (x : Func) : (s.setFunc f x).hazard = s.hazard := rfl
@[simp] theorem setFunc_undef (s : State) (f : Nat) (x : Func) : (s.setFunc f x).undef = s.undef := rfl
@[simp] theorem setFunc_dests (s : State) (f : Nat) (x : Func) : (s.setFunc f x).dests = s.dests := rfl
@[simp] theorem setFunc_mem (s : State) (f : Nat) (x : Func) : (s.setFunc f x).mem = s.mem := rfl
@[simp] theorem setFunc_hostMem (s : State) (f : Nat) (x : Func) : (s.setFunc f x).hostMem = s.hostMem := rfl
@[simp] theorem setFunc_pubPending (s : State) (f : Nat) (x : Func) : (s.setFunc f x).pubPending = s.pubPending := rfl
@[simp] theorem setFunc_peers (s : State) (f : Nat) (x : Func) : (s.setFunc f x).peers = s.peers := rfl
@[simp] theorem setFunc_mgmt (s : State) (f : Nat) (x : Func) : (s.setFunc f x).mgmt = s.mgmt := rfl
@[simp] theorem setFunc_plant (s : State) (f : Nat) (x : Func) : (s.setFunc f x).plant = s.plant := rfl
@[simp] theorem setFunc_hbm (s : State) (f : Nat) (x : Func) : (s.setFunc f x).hbm = s.hbm := rfl
@[simp] theorem setFunc_dies (s : State) (f : Nat) (x : Func) : (s.setFunc f x).dies = s.dies := rfl
@[simp] theorem setFunc_funcs (s : State) (f : Nat) (x : Func) : (s.setFunc f x).funcs = tset s.funcs f x := rfl
@[simp] theorem setFunc_parts (s : State) (f : Nat) (x : Func) : (s.setFunc f x).parts = s.parts := rfl
@[simp] theorem setFunc_queues (s : State) (f : Nat) (x : Func) : (s.setFunc f x).queues = s.queues := rfl
@[simp] theorem setFunc_ctxs (s : State) (f : Nat) (x : Func) : (s.setFunc f x).ctxs = s.ctxs := rfl
@[simp] theorem setFunc_closed (s : State) (f : Nat) (x : Func) : (s.setFunc f x).closed = s.closed := rfl
@[simp] theorem setFunc_launches (s : State) (f : Nat) (x : Func) : (s.setFunc f x).launches = s.launches := rfl
@[simp] theorem setFunc_cores (s : State) (f : Nat) (x : Func) : (s.setFunc f x).cores = s.cores := rfl
@[simp] theorem setFunc_teams (s : State) (f : Nat) (x : Func) : (s.setFunc f x).teams = s.teams := rfl
@[simp] theorem setFunc_groups (s : State) (f : Nat) (x : Func) : (s.setFunc f x).groups = s.groups := rfl
@[simp] theorem setFunc_copies (s : State) (f : Nat) (x : Func) : (s.setFunc f x).copies = s.copies := rfl
@[simp] theorem setFunc_mats (s : State) (f : Nat) (x : Func) : (s.setFunc f x).mats = s.mats := rfl
@[simp] theorem setFunc_atoms (s : State) (f : Nat) (x : Func) : (s.setFunc f x).atoms = s.atoms := rfl
@[simp] theorem setFunc_caSteps (s : State) (f : Nat) (x : Func) : (s.setFunc f x).caSteps = s.caSteps := rfl
@[simp] theorem setFunc_stores (s : State) (f : Nat) (x : Func) : (s.setFunc f x).stores = s.stores := rfl
@[simp] theorem setFunc_frames (s : State) (f : Nat) (x : Func) : (s.setFunc f x).frames = s.frames := rfl
@[simp] theorem setFunc_decs (s : State) (f : Nat) (x : Func) : (s.setFunc f x).decs = s.decs := rfl
@[simp] theorem setFunc_nextId (s : State) (f : Nat) (x : Func) : (s.setFunc f x).nextId = s.nextId := rfl
@[simp] theorem setFunc_repairWait (s : State) (f : Nat) (x : Func) : (s.setFunc f x).repairWait = s.repairWait := rfl

/-! ### `setStack` -/

@[simp] theorem setStack_sched (s : State) (i : Nat) (x : Stack) : (s.setStack i x).sched = s.sched := rfl
@[simp] theorem setStack_refTime (s : State) (i : Nat) (x : Stack) : (s.setStack i x).refTime = s.refTime := rfl
@[simp] theorem setStack_clock (s : State) (i : Nat) (x : Stack) : (s.setStack i x).clock = s.clock := rfl
@[simp] theorem setStack_freeCtr (s : State) (i : Nat) (x : Stack) : (s.setStack i x).freeCtr = s.freeCtr := rfl
@[simp] theorem setStack_cur (s : State) (i : Nat) (x : Stack) : (s.setStack i x).cur = s.cur := rfl
@[simp] theorem setStack_hazard (s : State) (i : Nat) (x : Stack) : (s.setStack i x).hazard = s.hazard := rfl
@[simp] theorem setStack_undef (s : State) (i : Nat) (x : Stack) : (s.setStack i x).undef = s.undef := rfl
@[simp] theorem setStack_dests (s : State) (i : Nat) (x : Stack) : (s.setStack i x).dests = s.dests := rfl
@[simp] theorem setStack_mem (s : State) (i : Nat) (x : Stack) : (s.setStack i x).mem = s.mem := rfl
@[simp] theorem setStack_hostMem (s : State) (i : Nat) (x : Stack) : (s.setStack i x).hostMem = s.hostMem := rfl
@[simp] theorem setStack_pubPending (s : State) (i : Nat) (x : Stack) : (s.setStack i x).pubPending = s.pubPending := rfl
@[simp] theorem setStack_peers (s : State) (i : Nat) (x : Stack) : (s.setStack i x).peers = s.peers := rfl
@[simp] theorem setStack_mgmt (s : State) (i : Nat) (x : Stack) : (s.setStack i x).mgmt = s.mgmt := rfl
@[simp] theorem setStack_plant (s : State) (i : Nat) (x : Stack) : (s.setStack i x).plant = s.plant := rfl
@[simp] theorem setStack_hbm (s : State) (i : Nat) (x : Stack) : (s.setStack i x).hbm = tset s.hbm i x := rfl
@[simp] theorem setStack_dies (s : State) (i : Nat) (x : Stack) : (s.setStack i x).dies = s.dies := rfl
@[simp] theorem setStack_funcs (s : State) (i : Nat) (x : Stack) : (s.setStack i x).funcs = s.funcs := rfl
@[simp] theorem setStack_parts (s : State) (i : Nat) (x : Stack) : (s.setStack i x).parts = s.parts := rfl
@[simp] theorem setStack_queues (s : State) (i : Nat) (x : Stack) : (s.setStack i x).queues = s.queues := rfl
@[simp] theorem setStack_ctxs (s : State) (i : Nat) (x : Stack) : (s.setStack i x).ctxs = s.ctxs := rfl
@[simp] theorem setStack_closed (s : State) (i : Nat) (x : Stack) : (s.setStack i x).closed = s.closed := rfl
@[simp] theorem setStack_launches (s : State) (i : Nat) (x : Stack) : (s.setStack i x).launches = s.launches := rfl
@[simp] theorem setStack_cores (s : State) (i : Nat) (x : Stack) : (s.setStack i x).cores = s.cores := rfl
@[simp] theorem setStack_teams (s : State) (i : Nat) (x : Stack) : (s.setStack i x).teams = s.teams := rfl
@[simp] theorem setStack_groups (s : State) (i : Nat) (x : Stack) : (s.setStack i x).groups = s.groups := rfl
@[simp] theorem setStack_copies (s : State) (i : Nat) (x : Stack) : (s.setStack i x).copies = s.copies := rfl
@[simp] theorem setStack_mats (s : State) (i : Nat) (x : Stack) : (s.setStack i x).mats = s.mats := rfl
@[simp] theorem setStack_atoms (s : State) (i : Nat) (x : Stack) : (s.setStack i x).atoms = s.atoms := rfl
@[simp] theorem setStack_caSteps (s : State) (i : Nat) (x : Stack) : (s.setStack i x).caSteps = s.caSteps := rfl
@[simp] theorem setStack_stores (s : State) (i : Nat) (x : Stack) : (s.setStack i x).stores = s.stores := rfl
@[simp] theorem setStack_frames (s : State) (i : Nat) (x : Stack) : (s.setStack i x).frames = s.frames := rfl
@[simp] theorem setStack_decs (s : State) (i : Nat) (x : Stack) : (s.setStack i x).decs = s.decs := rfl
@[simp] theorem setStack_nextId (s : State) (i : Nat) (x : Stack) : (s.setStack i x).nextId = s.nextId := rfl
@[simp] theorem setStack_repairWait (s : State) (i : Nat) (x : Stack) : (s.setStack i x).repairWait = s.repairWait := rfl

/-! ### `setQueue` -/

@[simp] theorem setQueue_sched (s : State) (f q : Nat) (x : Queue) : (s.setQueue f q x).sched = s.sched := rfl
@[simp] theorem setQueue_refTime (s : State) (f q : Nat) (x : Queue) : (s.setQueue f q x).refTime = s.refTime := rfl
@[simp] theorem setQueue_clock (s : State) (f q : Nat) (x : Queue) : (s.setQueue f q x).clock = s.clock := rfl
@[simp] theorem setQueue_freeCtr (s : State) (f q : Nat) (x : Queue) : (s.setQueue f q x).freeCtr = s.freeCtr := rfl
@[simp] theorem setQueue_cur (s : State) (f q : Nat) (x : Queue) : (s.setQueue f q x).cur = s.cur := rfl
@[simp] theorem setQueue_hazard (s : State) (f q : Nat) (x : Queue) : (s.setQueue f q x).hazard = s.hazard := rfl
@[simp] theorem setQueue_undef (s : State) (f q : Nat) (x : Queue) : (s.setQueue f q x).undef = s.undef := rfl
@[simp] theorem setQueue_dests (s : State) (f q : Nat) (x : Queue) : (s.setQueue f q x).dests = s.dests := rfl
@[simp] theorem setQueue_mem (s : State) (f q : Nat) (x : Queue) : (s.setQueue f q x).mem = s.mem := rfl
@[simp] theorem setQueue_hostMem (s : State) (f q : Nat) (x : Queue) : (s.setQueue f q x).hostMem = s.hostMem := rfl
@[simp] theorem setQueue_pubPending (s : State) (f q : Nat) (x : Queue) : (s.setQueue f q x).pubPending = s.pubPending := rfl
@[simp] theorem setQueue_peers (s : State) (f q : Nat) (x : Queue) : (s.setQueue f q x).peers = s.peers := rfl
@[simp] theorem setQueue_mgmt (s : State) (f q : Nat) (x : Queue) : (s.setQueue f q x).mgmt = s.mgmt := rfl
@[simp] theorem setQueue_plant (s : State) (f q : Nat) (x : Queue) : (s.setQueue f q x).plant = s.plant := rfl
@[simp] theorem setQueue_hbm (s : State) (f q : Nat) (x : Queue) : (s.setQueue f q x).hbm = s.hbm := rfl
@[simp] theorem setQueue_dies (s : State) (f q : Nat) (x : Queue) : (s.setQueue f q x).dies = s.dies := rfl
@[simp] theorem setQueue_funcs (s : State) (f q : Nat) (x : Queue) : (s.setQueue f q x).funcs = s.funcs := rfl
@[simp] theorem setQueue_parts (s : State) (f q : Nat) (x : Queue) : (s.setQueue f q x).parts = s.parts := rfl
@[simp] theorem setQueue_queues (s : State) (f q : Nat) (x : Queue) : (s.setQueue f q x).queues = tset s.queues (f * 1024 + q) x := rfl
@[simp] theorem setQueue_ctxs (s : State) (f q : Nat) (x : Queue) : (s.setQueue f q x).ctxs = s.ctxs := rfl
@[simp] theorem setQueue_closed (s : State) (f q : Nat) (x : Queue) : (s.setQueue f q x).closed = s.closed := rfl
@[simp] theorem setQueue_launches (s : State) (f q : Nat) (x : Queue) : (s.setQueue f q x).launches = s.launches := rfl
@[simp] theorem setQueue_cores (s : State) (f q : Nat) (x : Queue) : (s.setQueue f q x).cores = s.cores := rfl
@[simp] theorem setQueue_teams (s : State) (f q : Nat) (x : Queue) : (s.setQueue f q x).teams = s.teams := rfl
@[simp] theorem setQueue_groups (s : State) (f q : Nat) (x : Queue) : (s.setQueue f q x).groups = s.groups := rfl
@[simp] theorem setQueue_copies (s : State) (f q : Nat) (x : Queue) : (s.setQueue f q x).copies = s.copies := rfl
@[simp] theorem setQueue_mats (s : State) (f q : Nat) (x : Queue) : (s.setQueue f q x).mats = s.mats := rfl
@[simp] theorem setQueue_atoms (s : State) (f q : Nat) (x : Queue) : (s.setQueue f q x).atoms = s.atoms := rfl
@[simp] theorem setQueue_caSteps (s : State) (f q : Nat) (x : Queue) : (s.setQueue f q x).caSteps = s.caSteps := rfl
@[simp] theorem setQueue_stores (s : State) (f q : Nat) (x : Queue) : (s.setQueue f q x).stores = s.stores := rfl
@[simp] theorem setQueue_frames (s : State) (f q : Nat) (x : Queue) : (s.setQueue f q x).frames = s.frames := rfl
@[simp] theorem setQueue_decs (s : State) (f q : Nat) (x : Queue) : (s.setQueue f q x).decs = s.decs := rfl
@[simp] theorem setQueue_nextId (s : State) (f q : Nat) (x : Queue) : (s.setQueue f q x).nextId = s.nextId := rfl
@[simp] theorem setQueue_repairWait (s : State) (f q : Nat) (x : Queue) : (s.setQueue f q x).repairWait = s.repairWait := rfl

/-! ### `setGroup` -/

@[simp] theorem setGroup_sched (s : State) (c e : Nat) (g : Group) : (s.setGroup c e g).sched = s.sched := rfl
@[simp] theorem setGroup_refTime (s : State) (c e : Nat) (g : Group) : (s.setGroup c e g).refTime = s.refTime := rfl
@[simp] theorem setGroup_clock (s : State) (c e : Nat) (g : Group) : (s.setGroup c e g).clock = s.clock := rfl
@[simp] theorem setGroup_freeCtr (s : State) (c e : Nat) (g : Group) : (s.setGroup c e g).freeCtr = s.freeCtr := rfl
@[simp] theorem setGroup_cur (s : State) (c e : Nat) (g : Group) : (s.setGroup c e g).cur = s.cur := rfl
@[simp] theorem setGroup_hazard (s : State) (c e : Nat) (g : Group) : (s.setGroup c e g).hazard = s.hazard := rfl
@[simp] theorem setGroup_undef (s : State) (c e : Nat) (g : Group) : (s.setGroup c e g).undef = s.undef := rfl
@[simp] theorem setGroup_dests (s : State) (c e : Nat) (g : Group) : (s.setGroup c e g).dests = s.dests := rfl
@[simp] theorem setGroup_mem (s : State) (c e : Nat) (g : Group) : (s.setGroup c e g).mem = s.mem := rfl
@[simp] theorem setGroup_hostMem (s : State) (c e : Nat) (g : Group) : (s.setGroup c e g).hostMem = s.hostMem := rfl
@[simp] theorem setGroup_pubPending (s : State) (c e : Nat) (g : Group) : (s.setGroup c e g).pubPending = s.pubPending := rfl
@[simp] theorem setGroup_peers (s : State) (c e : Nat) (g : Group) : (s.setGroup c e g).peers = s.peers := rfl
@[simp] theorem setGroup_mgmt (s : State) (c e : Nat) (g : Group) : (s.setGroup c e g).mgmt = s.mgmt := rfl
@[simp] theorem setGroup_plant (s : State) (c e : Nat) (g : Group) : (s.setGroup c e g).plant = s.plant := rfl
@[simp] theorem setGroup_hbm (s : State) (c e : Nat) (g : Group) : (s.setGroup c e g).hbm = s.hbm := rfl
@[simp] theorem setGroup_dies (s : State) (c e : Nat) (g : Group) : (s.setGroup c e g).dies = s.dies := rfl
@[simp] theorem setGroup_funcs (s : State) (c e : Nat) (g : Group) : (s.setGroup c e g).funcs = s.funcs := rfl
@[simp] theorem setGroup_parts (s : State) (c e : Nat) (g : Group) : (s.setGroup c e g).parts = s.parts := rfl
@[simp] theorem setGroup_queues (s : State) (c e : Nat) (g : Group) : (s.setGroup c e g).queues = s.queues := rfl
@[simp] theorem setGroup_ctxs (s : State) (c e : Nat) (g : Group) : (s.setGroup c e g).ctxs = s.ctxs := rfl
@[simp] theorem setGroup_closed (s : State) (c e : Nat) (g : Group) : (s.setGroup c e g).closed = s.closed := rfl
@[simp] theorem setGroup_launches (s : State) (c e : Nat) (g : Group) : (s.setGroup c e g).launches = s.launches := rfl
@[simp] theorem setGroup_cores (s : State) (c e : Nat) (g : Group) : (s.setGroup c e g).cores = s.cores := rfl
@[simp] theorem setGroup_teams (s : State) (c e : Nat) (g : Group) : (s.setGroup c e g).teams = s.teams := rfl
@[simp] theorem setGroup_groups (s : State) (c e : Nat) (g : Group) : (s.setGroup c e g).groups = tset s.groups (c * 64 + e) g := rfl
@[simp] theorem setGroup_copies (s : State) (c e : Nat) (g : Group) : (s.setGroup c e g).copies = s.copies := rfl
@[simp] theorem setGroup_mats (s : State) (c e : Nat) (g : Group) : (s.setGroup c e g).mats = s.mats := rfl
@[simp] theorem setGroup_atoms (s : State) (c e : Nat) (g : Group) : (s.setGroup c e g).atoms = s.atoms := rfl
@[simp] theorem setGroup_caSteps (s : State) (c e : Nat) (g : Group) : (s.setGroup c e g).caSteps = s.caSteps := rfl
@[simp] theorem setGroup_stores (s : State) (c e : Nat) (g : Group) : (s.setGroup c e g).stores = s.stores := rfl
@[simp] theorem setGroup_frames (s : State) (c e : Nat) (g : Group) : (s.setGroup c e g).frames = s.frames := rfl
@[simp] theorem setGroup_decs (s : State) (c e : Nat) (g : Group) : (s.setGroup c e g).decs = s.decs := rfl
@[simp] theorem setGroup_nextId (s : State) (c e : Nat) (g : Group) : (s.setGroup c e g).nextId = s.nextId := rfl
@[simp] theorem setGroup_repairWait (s : State) (c e : Nat) (g : Group) : (s.setGroup c e g).repairWait = s.repairWait := rfl

/-! ### `setTeam` -/

@[simp] theorem setTeam_sched (s : State) (i : Nat) (x : Team) : (s.setTeam i x).sched = s.sched := rfl
@[simp] theorem setTeam_refTime (s : State) (i : Nat) (x : Team) : (s.setTeam i x).refTime = s.refTime := rfl
@[simp] theorem setTeam_clock (s : State) (i : Nat) (x : Team) : (s.setTeam i x).clock = s.clock := rfl
@[simp] theorem setTeam_freeCtr (s : State) (i : Nat) (x : Team) : (s.setTeam i x).freeCtr = s.freeCtr := rfl
@[simp] theorem setTeam_cur (s : State) (i : Nat) (x : Team) : (s.setTeam i x).cur = s.cur := rfl
@[simp] theorem setTeam_hazard (s : State) (i : Nat) (x : Team) : (s.setTeam i x).hazard = s.hazard := rfl
@[simp] theorem setTeam_undef (s : State) (i : Nat) (x : Team) : (s.setTeam i x).undef = s.undef := rfl
@[simp] theorem setTeam_dests (s : State) (i : Nat) (x : Team) : (s.setTeam i x).dests = s.dests := rfl
@[simp] theorem setTeam_mem (s : State) (i : Nat) (x : Team) : (s.setTeam i x).mem = s.mem := rfl
@[simp] theorem setTeam_hostMem (s : State) (i : Nat) (x : Team) : (s.setTeam i x).hostMem = s.hostMem := rfl
@[simp] theorem setTeam_pubPending (s : State) (i : Nat) (x : Team) : (s.setTeam i x).pubPending = s.pubPending := rfl
@[simp] theorem setTeam_peers (s : State) (i : Nat) (x : Team) : (s.setTeam i x).peers = s.peers := rfl
@[simp] theorem setTeam_mgmt (s : State) (i : Nat) (x : Team) : (s.setTeam i x).mgmt = s.mgmt := rfl
@[simp] theorem setTeam_plant (s : State) (i : Nat) (x : Team) : (s.setTeam i x).plant = s.plant := rfl
@[simp] theorem setTeam_hbm (s : State) (i : Nat) (x : Team) : (s.setTeam i x).hbm = s.hbm := rfl
@[simp] theorem setTeam_dies (s : State) (i : Nat) (x : Team) : (s.setTeam i x).dies = s.dies := rfl
@[simp] theorem setTeam_funcs (s : State) (i : Nat) (x : Team) : (s.setTeam i x).funcs = s.funcs := rfl
@[simp] theorem setTeam_parts (s : State) (i : Nat) (x : Team) : (s.setTeam i x).parts = s.parts := rfl
@[simp] theorem setTeam_queues (s : State) (i : Nat) (x : Team) : (s.setTeam i x).queues = s.queues := rfl
@[simp] theorem setTeam_ctxs (s : State) (i : Nat) (x : Team) : (s.setTeam i x).ctxs = s.ctxs := rfl
@[simp] theorem setTeam_closed (s : State) (i : Nat) (x : Team) : (s.setTeam i x).closed = s.closed := rfl
@[simp] theorem setTeam_launches (s : State) (i : Nat) (x : Team) : (s.setTeam i x).launches = s.launches := rfl
@[simp] theorem setTeam_cores (s : State) (i : Nat) (x : Team) : (s.setTeam i x).cores = s.cores := rfl
@[simp] theorem setTeam_teams (s : State) (i : Nat) (x : Team) : (s.setTeam i x).teams = tset s.teams i x := rfl
@[simp] theorem setTeam_groups (s : State) (i : Nat) (x : Team) : (s.setTeam i x).groups = s.groups := rfl
@[simp] theorem setTeam_copies (s : State) (i : Nat) (x : Team) : (s.setTeam i x).copies = s.copies := rfl
@[simp] theorem setTeam_mats (s : State) (i : Nat) (x : Team) : (s.setTeam i x).mats = s.mats := rfl
@[simp] theorem setTeam_atoms (s : State) (i : Nat) (x : Team) : (s.setTeam i x).atoms = s.atoms := rfl
@[simp] theorem setTeam_caSteps (s : State) (i : Nat) (x : Team) : (s.setTeam i x).caSteps = s.caSteps := rfl
@[simp] theorem setTeam_stores (s : State) (i : Nat) (x : Team) : (s.setTeam i x).stores = s.stores := rfl
@[simp] theorem setTeam_frames (s : State) (i : Nat) (x : Team) : (s.setTeam i x).frames = s.frames := rfl
@[simp] theorem setTeam_decs (s : State) (i : Nat) (x : Team) : (s.setTeam i x).decs = s.decs := rfl
@[simp] theorem setTeam_nextId (s : State) (i : Nat) (x : Team) : (s.setTeam i x).nextId = s.nextId := rfl
@[simp] theorem setTeam_repairWait (s : State) (i : Nat) (x : Team) : (s.setTeam i x).repairWait = s.repairWait := rfl

/-! ### `setLaunch` -/

@[simp] theorem setLaunch_sched (s : State) (i : Nat) (l : Launch) : (s.setLaunch i l).sched = s.sched := rfl
@[simp] theorem setLaunch_refTime (s : State) (i : Nat) (l : Launch) : (s.setLaunch i l).refTime = s.refTime := rfl
@[simp] theorem setLaunch_clock (s : State) (i : Nat) (l : Launch) : (s.setLaunch i l).clock = s.clock := rfl
@[simp] theorem setLaunch_freeCtr (s : State) (i : Nat) (l : Launch) : (s.setLaunch i l).freeCtr = s.freeCtr := rfl
@[simp] theorem setLaunch_cur (s : State) (i : Nat) (l : Launch) : (s.setLaunch i l).cur = s.cur := rfl
@[simp] theorem setLaunch_hazard (s : State) (i : Nat) (l : Launch) : (s.setLaunch i l).hazard = s.hazard := rfl
@[simp] theorem setLaunch_undef (s : State) (i : Nat) (l : Launch) : (s.setLaunch i l).undef = s.undef := rfl
@[simp] theorem setLaunch_dests (s : State) (i : Nat) (l : Launch) : (s.setLaunch i l).dests = s.dests := rfl
@[simp] theorem setLaunch_mem (s : State) (i : Nat) (l : Launch) : (s.setLaunch i l).mem = s.mem := rfl
@[simp] theorem setLaunch_hostMem (s : State) (i : Nat) (l : Launch) : (s.setLaunch i l).hostMem = s.hostMem := rfl
@[simp] theorem setLaunch_pubPending (s : State) (i : Nat) (l : Launch) : (s.setLaunch i l).pubPending = s.pubPending := rfl
@[simp] theorem setLaunch_peers (s : State) (i : Nat) (l : Launch) : (s.setLaunch i l).peers = s.peers := rfl
@[simp] theorem setLaunch_mgmt (s : State) (i : Nat) (l : Launch) : (s.setLaunch i l).mgmt = s.mgmt := rfl
@[simp] theorem setLaunch_plant (s : State) (i : Nat) (l : Launch) : (s.setLaunch i l).plant = s.plant := rfl
@[simp] theorem setLaunch_hbm (s : State) (i : Nat) (l : Launch) : (s.setLaunch i l).hbm = s.hbm := rfl
@[simp] theorem setLaunch_dies (s : State) (i : Nat) (l : Launch) : (s.setLaunch i l).dies = s.dies := rfl
@[simp] theorem setLaunch_funcs (s : State) (i : Nat) (l : Launch) : (s.setLaunch i l).funcs = s.funcs := rfl
@[simp] theorem setLaunch_parts (s : State) (i : Nat) (l : Launch) : (s.setLaunch i l).parts = s.parts := rfl
@[simp] theorem setLaunch_queues (s : State) (i : Nat) (l : Launch) : (s.setLaunch i l).queues = s.queues := rfl
@[simp] theorem setLaunch_ctxs (s : State) (i : Nat) (l : Launch) : (s.setLaunch i l).ctxs = s.ctxs := rfl
@[simp] theorem setLaunch_closed (s : State) (i : Nat) (l : Launch) : (s.setLaunch i l).closed = s.closed := rfl
@[simp] theorem setLaunch_launches (s : State) (i : Nat) (l : Launch) : (s.setLaunch i l).launches = tset s.launches i l := rfl
@[simp] theorem setLaunch_cores (s : State) (i : Nat) (l : Launch) : (s.setLaunch i l).cores = s.cores := rfl
@[simp] theorem setLaunch_teams (s : State) (i : Nat) (l : Launch) : (s.setLaunch i l).teams = s.teams := rfl
@[simp] theorem setLaunch_groups (s : State) (i : Nat) (l : Launch) : (s.setLaunch i l).groups = s.groups := rfl
@[simp] theorem setLaunch_copies (s : State) (i : Nat) (l : Launch) : (s.setLaunch i l).copies = s.copies := rfl
@[simp] theorem setLaunch_mats (s : State) (i : Nat) (l : Launch) : (s.setLaunch i l).mats = s.mats := rfl
@[simp] theorem setLaunch_atoms (s : State) (i : Nat) (l : Launch) : (s.setLaunch i l).atoms = s.atoms := rfl
@[simp] theorem setLaunch_caSteps (s : State) (i : Nat) (l : Launch) : (s.setLaunch i l).caSteps = s.caSteps := rfl
@[simp] theorem setLaunch_stores (s : State) (i : Nat) (l : Launch) : (s.setLaunch i l).stores = s.stores := rfl
@[simp] theorem setLaunch_frames (s : State) (i : Nat) (l : Launch) : (s.setLaunch i l).frames = s.frames := rfl
@[simp] theorem setLaunch_decs (s : State) (i : Nat) (l : Launch) : (s.setLaunch i l).decs = s.decs := rfl
@[simp] theorem setLaunch_nextId (s : State) (i : Nat) (l : Launch) : (s.setLaunch i l).nextId = s.nextId := rfl
@[simp] theorem setLaunch_repairWait (s : State) (i : Nat) (l : Launch) : (s.setLaunch i l).repairWait = s.repairWait := rfl

/-! ### `setCtx` -/

@[simp] theorem setCtx_sched (s : State) (c : Nat) (x : Context) : (s.setCtx c x).sched = s.sched := rfl
@[simp] theorem setCtx_refTime (s : State) (c : Nat) (x : Context) : (s.setCtx c x).refTime = s.refTime := rfl
@[simp] theorem setCtx_clock (s : State) (c : Nat) (x : Context) : (s.setCtx c x).clock = s.clock := rfl
@[simp] theorem setCtx_freeCtr (s : State) (c : Nat) (x : Context) : (s.setCtx c x).freeCtr = s.freeCtr := rfl
@[simp] theorem setCtx_cur (s : State) (c : Nat) (x : Context) : (s.setCtx c x).cur = s.cur := rfl
@[simp] theorem setCtx_hazard (s : State) (c : Nat) (x : Context) : (s.setCtx c x).hazard = s.hazard := rfl
@[simp] theorem setCtx_undef (s : State) (c : Nat) (x : Context) : (s.setCtx c x).undef = s.undef := rfl
@[simp] theorem setCtx_dests (s : State) (c : Nat) (x : Context) : (s.setCtx c x).dests = s.dests := rfl
@[simp] theorem setCtx_mem (s : State) (c : Nat) (x : Context) : (s.setCtx c x).mem = s.mem := rfl
@[simp] theorem setCtx_hostMem (s : State) (c : Nat) (x : Context) : (s.setCtx c x).hostMem = s.hostMem := rfl
@[simp] theorem setCtx_pubPending (s : State) (c : Nat) (x : Context) : (s.setCtx c x).pubPending = s.pubPending := rfl
@[simp] theorem setCtx_peers (s : State) (c : Nat) (x : Context) : (s.setCtx c x).peers = s.peers := rfl
@[simp] theorem setCtx_mgmt (s : State) (c : Nat) (x : Context) : (s.setCtx c x).mgmt = s.mgmt := rfl
@[simp] theorem setCtx_plant (s : State) (c : Nat) (x : Context) : (s.setCtx c x).plant = s.plant := rfl
@[simp] theorem setCtx_hbm (s : State) (c : Nat) (x : Context) : (s.setCtx c x).hbm = s.hbm := rfl
@[simp] theorem setCtx_dies (s : State) (c : Nat) (x : Context) : (s.setCtx c x).dies = s.dies := rfl
@[simp] theorem setCtx_funcs (s : State) (c : Nat) (x : Context) : (s.setCtx c x).funcs = s.funcs := rfl
@[simp] theorem setCtx_parts (s : State) (c : Nat) (x : Context) : (s.setCtx c x).parts = s.parts := rfl
@[simp] theorem setCtx_queues (s : State) (c : Nat) (x : Context) : (s.setCtx c x).queues = s.queues := rfl
@[simp] theorem setCtx_ctxs (s : State) (c : Nat) (x : Context) : (s.setCtx c x).ctxs = tset s.ctxs c x := rfl
@[simp] theorem setCtx_closed (s : State) (c : Nat) (x : Context) : (s.setCtx c x).closed = s.closed := rfl
@[simp] theorem setCtx_launches (s : State) (c : Nat) (x : Context) : (s.setCtx c x).launches = s.launches := rfl
@[simp] theorem setCtx_cores (s : State) (c : Nat) (x : Context) : (s.setCtx c x).cores = s.cores := rfl
@[simp] theorem setCtx_teams (s : State) (c : Nat) (x : Context) : (s.setCtx c x).teams = s.teams := rfl
@[simp] theorem setCtx_groups (s : State) (c : Nat) (x : Context) : (s.setCtx c x).groups = s.groups := rfl
@[simp] theorem setCtx_copies (s : State) (c : Nat) (x : Context) : (s.setCtx c x).copies = s.copies := rfl
@[simp] theorem setCtx_mats (s : State) (c : Nat) (x : Context) : (s.setCtx c x).mats = s.mats := rfl
@[simp] theorem setCtx_atoms (s : State) (c : Nat) (x : Context) : (s.setCtx c x).atoms = s.atoms := rfl
@[simp] theorem setCtx_caSteps (s : State) (c : Nat) (x : Context) : (s.setCtx c x).caSteps = s.caSteps := rfl
@[simp] theorem setCtx_stores (s : State) (c : Nat) (x : Context) : (s.setCtx c x).stores = s.stores := rfl
@[simp] theorem setCtx_frames (s : State) (c : Nat) (x : Context) : (s.setCtx c x).frames = s.frames := rfl
@[simp] theorem setCtx_decs (s : State) (c : Nat) (x : Context) : (s.setCtx c x).decs = s.decs := rfl
@[simp] theorem setCtx_nextId (s : State) (c : Nat) (x : Context) : (s.setCtx c x).nextId = s.nextId := rfl
@[simp] theorem setCtx_repairWait (s : State) (c : Nat) (x : Context) : (s.setCtx c x).repairWait = s.repairWait := rfl

/-! ### The units after an update -/

theorem core_setCore (s : State) (c c' : Nat) (x : Core) : (s.setCore c x).core c' = if c' = c then x else s.core c' := by
  simp only [State.core, setCore_cores, tget_tset]; split <;> rfl

theorem die_setDie (s : State) (d d' : Nat) (x : Die) : (s.setDie d x).die d' = if d' = d then x else s.die d' := by
  simp only [State.die, setDie_dies, tget_tset]; split <;> rfl

theorem func_setFunc (s : State) (f f' : Nat) (x : Func) : (s.setFunc f x).func f' = if f' = f then x else s.func f' := by
  simp only [State.func, setFunc_funcs, tget_tset]; split <;> rfl

theorem stack_setStack (s : State) (i i' : Nat) (x : Stack) :
    (s.setStack i x).stack i' = if i' = i then x else s.stack i' := by
  simp only [State.stack, setStack_hbm, tget_tset]; split <;> rfl

theorem queue_setQueue (s : State) (f q : Nat) (x : Queue) : (s.setQueue f q x).queue f q = x := by
  simp [State.queue]

theorem group?_setGroup (s : State) (c e : Nat) (g : Group) : (s.setGroup c e g).group? c e = some g := by
  simp [State.group?]

end Sys2Proof.Machine
end

