-- ==== Sys2Proof/Laws/Issue.lean ====
section
/-!
SUPPORT. One issue: what `issue` can answer, and what the shared ends of an instruction (`goto`, `advance`, `drain`) leave.
Proofs about an instruction cite these and never unfold them.
-/

namespace Sys2Proof.Machine

open Sys2Proof

/-! ### The split that issues -/

/-- What `siteAt` finds. -/
theorem siteAt_spec {s : State} {c e i : Nat} {h : Site} (hs : s.siteAt c e i = some h) :
    tget s.groups h.key = some h.g ∧ tget s.teams h.tid = some h.team ∧ tget s.launches h.lid = some h.l ∧
    h.sp = h.g.split h.ix ∧ h.sp.live = true ∧ h.tid = h.g.team ∧ h.lid = h.team.launch ∧
    h.core = c ∧ h.entry = e ∧ h.ix = i ∧ h.ctr = s.freeCtr ∧ h.hazard = s.hazard ∧ h.team.resident = true := by
  unfold State.siteAt at hs
  split at hs
  · cases hs
  · rename_i g hg
    split at hs
    · cases hs
    · rename_i t ht
      split at hs
      · cases hs
      · rename_i l hl
        split at hs
        · rename_i hc
          simp only [Bool.and_eq_true] at hc
          cases hs
          exact ⟨hg, ht, hl, rfl, hc.1, rfl, rfl, rfl, rfl, rfl, rfl, rfl, hc.2⟩
        · cases hs

/-- What `site?` finds. -/
theorem site_spec {s : State} {h : Site} (hs : s.site? = some h) :
    tget s.groups h.key = some h.g ∧ tget s.teams h.tid = some h.team ∧ tget s.launches h.lid = some h.l ∧
    h.sp = h.g.split h.ix ∧ h.sp.live = true ∧ h.tid = h.g.team ∧ h.lid = h.team.launch ∧
    h.core = s.cur.core ∧ h.entry = s.cur.entry ∧ h.ix = s.cur.split ∧ h.ctr = s.freeCtr ∧ h.hazard = s.hazard ∧
    h.team.resident = true ∧ h.g.restoring = false := by
  unfold State.site? at hs
  rw [Option.filter_eq_some_iff] at hs
  obtain ⟨ha, hr⟩ := hs
  simp only [State.runs, Bool.and_eq_true, Bool.not_eq_true'] at hr
  obtain ⟨h1, h2, h3, h4, h5, h6, h7, h8, h9, h10, h11, h12, h13⟩ := siteAt_spec ha
  exact ⟨h1, h2, h3, h4, h5, h6, h7, h8, h9, h10, h11, h12, h13, hr.1⟩

theorem site_group {s : State} {h : Site} (hs : s.site? = some h) : tget s.groups h.key = some h.g := (site_spec hs).1

theorem site_split {s : State} {h : Site} (hs : s.site? = some h) : h.g.split h.ix = h.sp := (site_spec hs).2.2.2.1.symm

/-- A live split is one of the group's entries. -/
theorem site_lt {s : State} {h : Site} (hs : s.site? = some h) : h.ix < h.g.splits.length := by
  have h1 := (site_spec hs).2.2.2.1
  have h2 := (site_spec hs).2.2.2.2.1
  by_contra hc
  have : h.g.split h.ix = Split.empty := by
    simp [Group.split, atD, List.getElem?_eq_none (Nat.le_of_not_lt hc)]
  rw [h1, this] at h2
  cases h2

theorem split_setSplit {g : Group} {i : Nat} (x : Split) (hi : i < g.splits.length) : (g.setSplit i x).split i = x := by
  simp [Group.split, Group.setSplit, atD, setAt, hi]

/-! ### What `issue` answers -/

theorem issueWhole_ready {s : State} {h : Site} (hr : Ready s h) (body : Site → Except Stop State) :
    issueWhole s body = match body h with
      | .ok t => .next t
      | .error .wait => .next s
      | .error (.cause c a t) => .next (s.raise h c a t h.sp.pc) := by
  obtain ⟨h1, h2, h3, h4⟩ := hr
  rcases e : body h with (_ | _) | _ <;> simp only [issueWhole, h1, h2, h3, h4, e, Bool.false_eq_true, if_false, Bool.not_true]

theorem issueWhole_ok {s t : State} {h : Site} {body : Site → Except Stop State} (hr : Ready s h) (hb : body h = .ok t) :
    issueWhole s body = .next t := by
  rw [issueWhole_ready hr, hb]

theorem issueWhole_wait {s : State} {h : Site} {body : Site → Except Stop State} (hr : Ready s h)
    (hb : body h = .error .wait) : issueWhole s body = .next s := by
  rw [issueWhole_ready hr, hb]

theorem issueWhole_cause {s : State} {h : Site} {body : Site → Except Stop State} {c : Cause} {a t : Word64} (hr : Ready s h)
    (hb : body h = .error (.cause c a t)) : issueWhole s body = .next (s.raise h c a t h.sp.pc) := by
  rw [issueWhole_ready hr, hb]

theorem perform_ok {s t : State} {h : Site} {body : Site → Except Stop State} (hb : body h = .ok t) :
    h.perform s body = .ok t := by
  simp only [Site.perform, hb]

theorem perform_wait {s : State} {h : Site} {body : Site → Except Stop State} (hb : body h = .error .wait) :
    h.perform s body = .error .wait := by
  simp only [Site.perform, hb]

/-- A check that no undefined value fails, or that no undefined value can excuse, raises its cause. -/
theorem perform_cause {s : State} {h : Site} {body : Site → Except Stop State} {c : Cause} {a t : Word64}
    (hu : h.undef &&& h.mask = 0 ∨ h.fixedCause c = true) (hb : body h = .error (.cause c a t)) :
    h.perform s body = .error (.cause c a t) := by
  rcases hu with hu | hu <;> simp [Site.perform, hb, hu]

theorem issue_ok {s t : State} {h : Site} {body : Site → Except Stop State} (hr : Ready s h) (hb : body h = .ok t) :
    issue s body = .next t := issueWhole_ok hr (perform_ok hb)

theorem issue_wait {s : State} {h : Site} {body : Site → Except Stop State} (hr : Ready s h) (hb : body h = .error .wait) :
    issue s body = .next s := issueWhole_wait hr (perform_wait hb)

theorem issue_cause {s : State} {h : Site} {body : Site → Except Stop State} {c : Cause} {a t : Word64} (hr : Ready s h)
    (hu : h.undef &&& h.mask = 0 ∨ h.fixedCause c = true) (hb : body h = .error (.cause c a t)) :
    issue s body = .next (s.raise h c a t h.sp.pc) := issueWhole_cause hr (perform_cause hu hb)

/-- Everything one issue can do. -/
theorem issueWhole_cases {s : State} {body : Site → Except Stop State} {r : Host.Outcome State Fault Refusal}
    (hr : issueWhole s body = r) :
    r = .refused .noIssuingSplit ∨ r = .next s ∨
    (∃ h, s.site? = some h ∧ modeValid h.sp.mode = false ∧ r = .next (s.raise h .modeInvalid 0 h.mask h.sp.pc)) ∨
    ∃ h, Ready s h ∧
      ((∃ t, body h = .ok t ∧ r = .next t) ∨
       ∃ c a t, body h = .error (.cause c a t) ∧ r = .next (s.raise h c a t h.sp.pc)) := by
  subst hr
  unfold issueWhole
  split
  · exact .inl rfl
  · rename_i h hs
    split
    · exact .inl rfl
    · rename_i h1
      split
      · exact .inr (.inl rfl)
      · rename_i h2
        split
        · rename_i h3; exact .inr (.inr (.inl ⟨h, hs, by simpa using h3, rfl⟩))
        · rename_i h3
          have hr : Ready s h := ⟨hs, by simpa using h1, by simpa using h2, by simpa using h3⟩
          split
          · rename_i t ht; exact .inr (.inr (.inr ⟨h, hr, .inl ⟨t, ht, rfl⟩⟩))
          · exact .inr (.inl rfl)
          · rename_i c a t ht; exact .inr (.inr (.inr ⟨h, hr, .inr ⟨c, a, t, ht, rfl⟩⟩))

/-- The same of an instruction whose checks undefined values do not fail. -/
theorem issue_cases {s : State} {body : Site → Except Stop State} {r : Host.Outcome State Fault Refusal}
    (hr : issue s body = r) :
    r = .refused .noIssuingSplit ∨ r = .next s ∨
    (∃ h, s.site? = some h ∧ modeValid h.sp.mode = false ∧ r = .next (s.raise h .modeInvalid 0 h.mask h.sp.pc)) ∨
    ∃ h, Ready s h ∧
      ((∃ t, h.perform s body = .ok t ∧ r = .next t) ∨
       ∃ c a t, h.perform s body = .error (.cause c a t) ∧ r = .next (s.raise h c a t h.sp.pc)) :=
  issueWhole_cases hr

/-! ### The group of the split -/

theorem modGroup_eq {s : State} {h : Site} {g : Group} (f : Group → Group) (hg : tget s.groups h.key = some g) :
    s.modGroup h f = { s with groups := tset s.groups h.key (f g) } := by
  simp [State.modGroup, hg]

theorem modGroup_site {s : State} {h : Site} (f : Group → Group) (hs : s.site? = some h) :
    s.modGroup h f = { s with groups := tset s.groups h.key (f h.g) } := modGroup_eq f (site_group hs)

theorem goto_eq {s : State} {h : Site} {g : Group} (pc : Word64) (hg : tget s.groups h.key = some g)
    (hx : g.split h.ix = h.sp) : s.goto h pc = s.withGroup h (h.moved pc false g) := by
  simp [State.goto, State.retire, State.modSplit, modGroup_eq _ hg, modGroup_eq, State.withGroup, Site.moved, Site.onward,
    Group.setSplit, setAt, hx]

/-- An instruction that has changed its group by `f`, and goes on. -/
theorem goto_modGroup {s : State} {h : Site} (f : Group → Group) (pc : Word64) (hs : s.site? = some h)
    (hf : (f h.g).splits = h.g.splits) : (s.modGroup h f).goto h pc = s.withGroup h (h.moved pc false (f h.g)) := by
  rw [modGroup_site f hs, goto_eq pc (tget_tset_same ..)]
  · simp [State.withGroup]
  · rw [← site_split hs]; simp [Group.split, hf]

theorem advance_modGroup {s : State} {h : Site} (f : Group → Group) (hs : s.site? = some h)
    (hf : (f h.g).splits = h.g.splits) :
    (s.modGroup h f).advance h = s.withGroup h (h.moved (nextPc h.sp.pc) false (f h.g)) :=
  goto_modGroup f _ hs hf

theorem advance_eq {s : State} {h : Site} (hs : s.site? = some h) :
    s.advance h = s.withGroup h (h.moved (nextPc h.sp.pc) false h.g) :=
  goto_eq _ (site_group hs) (site_split hs)

theorem drain_withGroup {s : State} {h : Site} {g : Group} (pc : Word64) (hi : h.ix < g.splits.length) :
    (s.withGroup h (h.moved pc false g)).drain h = s.withGroup h (h.moved pc true g) := by
  simp [State.drain, State.modSplit, State.modGroup, State.withGroup, Site.moved, Group.setSplit, setAt, Group.split, atD,
    hi, Site.onward]

/-! ### Writes -/

@[simp] theorem clobber_splits (g : Group) (d : Dest) : (g.clobber d).splits = g.splits := by
  unfold Group.clobber; split <;> rfl

theorem clobber_of_not_awaits {g : Group} {d : Dest} (h : g.awaits d = false) : g.clobber d = g := by
  simp [Group.clobber, h]

@[simp] theorem putK_splits (h : Site) (n : Nat) (x : Word64) (g : Group) : (g.putK h n x).splits = g.splits := by
  simp [Group.putK]

@[simp] theorem putV_splits (h : Site) (n t : Nat) (x : Word32) (g : Group) : (g.putV h n t x).splits = g.splits := by
  simp [Group.putV]

theorem early_of_timely {s : State} {h : Site} (ht : Timely s h) : h.early = false := by simp [Site.early, ht.2]

/-- An instruction whose whole effect is to write a uniform register. -/
theorem writesK {s : State} {h : Site} {i : Instr} {d : Nat} {x : Word64} (ht : Timely s h)
    (hi : exec i s = .next ((s.writeK h d x).advance h)) : WritesK s h i false d x := by
  refine ⟨writeCell h.g.k d x, ?_, by simp, fun n hn => by simp [hn]⟩
  unfold Leaves
  rw [hi, State.writeK, advance_modGroup _ ht.1.1 (by simp)]
  have : h.g.putK h d x = { h.g.clobber (.k d) with k := writeCell h.g.k d x } := by
    simp only [Group.putK, early_of_timely ht]
    unfold Group.clobber; split <;> rfl
  rw [this]

/-- The same of the drain class. -/
theorem writesK_drain {s : State} {h : Site} {i : Instr} {d : Nat} {x : Word64} (ht : Timely s h)
    (hi : exec i s = .next (((s.writeK h d x).advance h).drain h)) : WritesK s h i true d x := by
  refine ⟨writeCell h.g.k d x, ?_, by simp, fun n hn => by simp [hn]⟩
  unfold Leaves
  rw [hi, State.writeK, advance_modGroup _ ht.1.1 (by simp), drain_withGroup _ (by simpa using site_lt ht.1.1)]
  have : h.g.putK h d x = { h.g.clobber (.k d) with k := writeCell h.g.k d x } := by
    simp only [Group.putK, early_of_timely ht]
    unfold Group.clobber; split <;> rfl
  rw [this]

end Sys2Proof.Machine
end

