-- ==== Sys2Proof/Laws/Access.lean ====
section
/-!
SUPPORT. What an access to memory leaves alone, and which bytes of memory it changes: reads set the A bit of a leaf and
count (`afterRead`), writes store bytes, set A and D, and count (`poke`).
-/

namespace Sys2Proof.Machine

open Sys2Proof

/-! ### Counting -/

theorem modCtx_frame (s : State) (c : Nat) (f : Context → Context) : s.modCtx c f = { s with ctxs := (s.modCtx c f).ctxs } := by
  unfold State.modCtx; split <;> rfl

theorem addCount_frame (s : State) (p i n : Nat) : s.addCount p i n = { s with parts := (s.addCount p i n).parts } := by
  unfold State.addCount; split <;> rfl

theorem charge_frame (s : State) (a : Acc) : s.charge a = { s with ctxs := (s.charge a).ctxs, parts := (s.charge a).parts } := by
  unfold State.charge
  have hm : ∀ n, (if a.isMem then s.modCtx a.ctx fun c =>
      { c with sterling := { c.sterling with memBytes := satAdd c.sterling.memBytes n } } else s) =
      { s with ctxs := (if a.isMem then s.modCtx a.ctx fun c =>
        { c with sterling := { c.sterling with memBytes := satAdd c.sterling.memBytes n } } else s).ctxs } := by
    intro n
    split
    · rw [modCtx_frame]
    · rfl
  split
  · rfl
  · simp only
    rw [hm]
    split <;> split <;> first | rfl | rw [addCount_frame, addCount_frame]

/-- A charge for HBM bytes counts, and nothing else. -/
theorem chargeHbm_frame (s : State) (ctx n far : Nat) : s.chargeHbm ctx n far = { s with
    ctxs := (s.chargeHbm ctx n far).ctxs, parts := (s.chargeHbm ctx n far).parts } := by
  unfold State.chargeHbm
  rw [modCtx_frame]
  simp only
  split
  · rw [addCount_frame]
  · rw [addCount_frame, addCount_frame]

theorem touchLeaf_cases (s : State) (a : Acc) (w : Bool) :
    s.touchLeaf a w = s ∨ ∃ ea x, a.leaf.map (·.1) = some ea ∧ s.touchLeaf a w = { s with mem := writeCell s.mem ea x } := by
  unfold State.touchLeaf
  cases a.leaf with
  | none => exact .inl rfl
  | some l =>
    simp only
    by_cases h : (decide ((readCell s.mem l.1 ||| 0x80#8 ||| if w = true then 0x40#8 else 0#8) = readCell s.mem l.1) || s.granuleRetired l.1) = true
    · rw [if_pos h]; exact .inl rfl
    · rw [if_neg h]; exact .inr ⟨_, _, rfl, rfl⟩

theorem touchLeaf_frame (s : State) (a : Acc) (w : Bool) : s.touchLeaf a w = { s with mem := (s.touchLeaf a w).mem } := by
  rcases touchLeaf_cases s a w with h | ⟨ea, x, _, h⟩ <;> rw [h]

theorem hotCount_frame (s : State) (a : Acc) : s.hotCount a = { s with dies := (s.hotCount a).dies } := by
  unfold State.hotCount
  split
  · split <;> rfl
  · rfl

theorem countCorrected_frame (s : State) (l : List Nat) : s.countCorrected l = { s with hbm := (s.countCorrected l).hbm } := by
  induction l generalizing s with
  | nil => rfl
  | cons x r ih =>
    unfold State.countCorrected forAll at ih ⊢
    simp only [List.foldl_cons]
    rw [ih]
    split <;> rfl

theorem countWeak_frame (s : State) (a : Acc) : s.countWeak a = { s with hbm := (s.countWeak a).hbm } :=
  countCorrected_frame s _

/-- Uncovered writes of others that become visible change host memory alone. -/
theorem settleOthers_frame (s : State) (a : Acc) : s.settleOthers a =
    { s with hostMem := (s.settleOthers a).hostMem, pubPending := (s.settleOthers a).pubPending } := rfl

theorem touchLeaf_mem (s : State) (a : Acc) (w : Bool) : (s.touchLeaf a w).mem = match a.leaf with
    | none => s.mem
    | some l => if (decide ((readCell s.mem l.1 ||| 0x80#8 ||| if w = true then 0x40#8 else 0#8) = readCell s.mem l.1) ||
        s.granuleRetired l.1) = true then s.mem
      else writeCell s.mem l.1 (readCell s.mem l.1 ||| 0x80#8 ||| if w = true then 0x40#8 else 0#8) := by
  unfold State.touchLeaf
  cases a.leaf with
  | none => rfl
  | some l => exact apply_ite State.mem _ _ _

theorem touchLeaf_host (s : State) (m : Mem) (l : List PubWrite) (a : Acc) (w : Bool) :
    ({ s with hostMem := m, pubPending := l }.touchLeaf a w).mem = (s.touchLeaf a w).mem := by
  rw [touchLeaf_mem, touchLeaf_mem]; rfl

/-- An access changes a leaf entry, makes uncovered writes visible, and counts; nothing else. -/
theorem noteAccess_frame (s : State) (a : Acc) (w : Bool) : s.noteAccess a w = { s with
    mem := (s.touchLeaf a w).mem, hostMem := (s.settleOthers a).hostMem, pubPending := (s.settleOthers a).pubPending, ctxs := (s.noteAccess a w).ctxs, parts := (s.noteAccess a w).parts,
    dies := (s.noteAccess a w).dies, hbm := (s.noteAccess a w).hbm } := by
  obtain ⟨m, l, e⟩ : ∃ m l, s.settleOthers a = { s with hostMem := m, pubPending := l } := ⟨_, _, settleOthers_frame s a⟩
  have f := touchLeaf_frame { s with hostMem := m, pubPending := l } a w
  rw [touchLeaf_host] at f
  generalize (s.touchLeaf a w).mem = x at f ⊢
  unfold State.noteAccess State.countWalk
  rw [e, f, countCorrected_frame, hotCount_frame, charge_frame]

/-- A read changes the A bit of a leaf, makes uncovered writes visible, and counts; nothing else. -/
theorem afterRead_frame (s : State) (a : Acc) : s.afterRead a = { s with
    mem := (s.touchLeaf a false).mem, hostMem := (s.settleOthers a).hostMem, pubPending := (s.settleOthers a).pubPending, ctxs := (s.afterRead a).ctxs, parts := (s.afterRead a).parts,
    dies := (s.afterRead a).dies, hbm := (s.afterRead a).hbm } := by
  simp only [State.afterRead]
  rw [countWeak_frame, noteAccess_frame]

/-- A read changes no byte of memory but the leaf entry that it walked to. -/
theorem readCell_touchLeaf {s : State} {a : Acc} {w : Bool} {k : Nat} (hk : ∀ l, a.leaf = some l → l.1 ≠ k) :
    readCell (s.touchLeaf a w).mem k = readCell s.mem k := by
  rcases touchLeaf_cases s a w with h | ⟨ea, x, he, h⟩
  · rw [h]
  · rw [h]
    cases hl : a.leaf with
    | none => simp [hl] at he
    | some l =>
      have : l.1 = ea := by simpa [hl] using he
      subst this
      simp [Ne.symm (hk l hl)]

@[simp] theorem afterRead_groups (s : State) (a : Acc) : (s.afterRead a).groups = s.groups := by rw [afterRead_frame]
@[simp] theorem afterRead_teams (s : State) (a : Acc) : (s.afterRead a).teams = s.teams := by rw [afterRead_frame]
@[simp] theorem afterRead_launches (s : State) (a : Acc) : (s.afterRead a).launches = s.launches := by rw [afterRead_frame]
@[simp] theorem afterRead_cores (s : State) (a : Acc) : (s.afterRead a).cores = s.cores := by rw [afterRead_frame]
@[simp] theorem afterRead_atoms (s : State) (a : Acc) : (s.afterRead a).atoms = s.atoms := by rw [afterRead_frame]
@[simp] theorem afterRead_freeCtr (s : State) (a : Acc) : (s.afterRead a).freeCtr = s.freeCtr := by rw [afterRead_frame]
@[simp] theorem afterRead_hostMem (s : State) (a : Acc) : (s.afterRead a).hostMem = (s.settleOthers a).hostMem := by rw [afterRead_frame]

/-- A piece that `chargedOnce` gives is one of the pieces, but for the sectors that earlier pieces charged. -/
theorem mem_chargedOnce {seen : List Nat} {ps : List Piece} {p : Piece} (h : p ∈ chargedOnce seen ps) :
    ∃ q ∈ ps, p.acc.leaf = q.acc.leaf ∧ p.acc.locs = q.acc.locs := by
  induction ps generalizing seen with
  | nil => cases h
  | cons a r ih =>
    rcases List.mem_cons.1 h with rfl | h
    · exact ⟨a, by simp, rfl, rfl⟩
    · obtain ⟨q, hq, e⟩ := ih h
      exact ⟨q, by simp [hq], e⟩

/-- Reads of several accesses. -/
theorem readAll_frame (s : State) (ps : List Piece) : s.readAll ps = { s with
    mem := (s.readAll ps).mem, hostMem := (s.readAll ps).hostMem, pubPending := (s.readAll ps).pubPending, ctxs := (s.readAll ps).ctxs, parts := (s.readAll ps).parts,
    dies := (s.readAll ps).dies, hbm := (s.readAll ps).hbm } := by
  unfold State.readAll forAll
  induction chargedOnce [] ps generalizing s with
  | nil => rfl
  | cons p r ih => rw [List.foldl_cons, ih, afterRead_frame]

@[simp] theorem readAll_groups (s : State) (ps : List Piece) : (s.readAll ps).groups = s.groups := by rw [readAll_frame]
@[simp] theorem readAll_freeCtr (s : State) (ps : List Piece) : (s.readAll ps).freeCtr = s.freeCtr := by rw [readAll_frame]

theorem readCell_readAll {s : State} {ps : List Piece} {k : Nat} (hk : ∀ p ∈ ps, ∀ l, p.acc.leaf = some l → l.1 ≠ k) :
    readCell (s.readAll ps).mem k = readCell s.mem k := by
  have hc : ∀ p ∈ chargedOnce [] ps, ∀ l, p.acc.leaf = some l → l.1 ≠ k := fun p hp l hl => by
    obtain ⟨q, hq, e, _⟩ := mem_chargedOnce hp
    exact hk q hq l (e ▸ hl)
  unfold State.readAll forAll
  revert hc
  induction chargedOnce [] ps generalizing s with
  | nil => exact fun _ => rfl
  | cons p r ih =>
    intro hc
    rw [List.foldl_cons, ih fun q hq => hc q (by simp [hq]), afterRead_frame]
    exact readCell_touchLeaf (hc p (by simp))

theorem loadVa_state {s s' : State} {ctx die : Nat} {lane : Bool} {va n : Nat} {bs : List Byte}
    (h : s.loadVa ctx die lane va n = .ok (bs, s')) :
    ∃ a, bs = s.peek a ∧ s' = if s.accWaits a then s.meetsCopy true else s.afterRead a := by
  unfold State.loadVa at h
  split at h
  · cases h
  · rename_i a _
    refine ⟨a, ?_⟩
    split at h
    · rename_i hw
      cases h; exact ⟨rfl, (if_pos hw).symm⟩
    · rename_i hw
      split at h
      · cases h
      · cases h; exact ⟨rfl, (if_neg hw).symm⟩

/-! ### Writing -/

/-- The byte of memory that a location is. -/
def Loc.isMem (l : Loc) (k : Nat) : Prop := l = .hbm k

theorem readCell_putByte {s : State} {ctx q : Nat} {l : Loc} {b : Byte} {k : Nat} (h : l ≠ .hbm k) :
    readCell (s.putByte ctx q l b).mem k = readCell s.mem k := by
  unfold State.putByte
  split
  · rename_i a
    split
    · rfl
    · have : k ≠ a := fun e => h (by rw [e])
      simp [this]
  · split <;> rfl
  · split <;> rfl
  · rfl
  · rfl
  · unfold State.modTeam; split <;> rfl
  · unfold State.modTeam; split <;> rfl
  · split <;> rfl
  · simp only; unfold State.modTeam State.spoil; split <;> split <;> rfl
  · simp only; unfold State.modTeam State.spoil; split <;> split <;> rfl

theorem readCell_putBytes {s : State} {ctx q : Nat} {ls : List Loc} {bs : List Byte} {k : Nat} (h : ∀ l ∈ ls, l ≠ .hbm k) :
    readCell (putBytes ctx q s ls bs).mem k = readCell s.mem k := by
  induction ls generalizing s bs with
  | nil => rfl
  | cons l r ih =>
    cases bs with
    | nil => rfl
    | cons b bs =>
      rw [putBytes, ih fun l hl => h l (by simp [hl]), readCell_putByte (h l (by simp))]

theorem updateWord_mem (s : State) (t o : Nat) (f : Word64 → Word64) : (s.updateWord t o f).mem = s.mem := by
  unfold State.updateWord
  split
  · rfl
  · simp only; split <;> rfl

theorem forAll_mem {α : Type} (f : State → α → State) (hf : ∀ s x, (f s x).mem = s.mem) (s : State) (l : List α) :
    (forAll f s l).mem = s.mem := by
  unfold forAll
  induction l generalizing s with
  | nil => rfl
  | cons x r ih => rw [List.foldl_cons, ih, hf]

/-- A write changes no byte of memory but those it stores and the leaf entry that it walked to. -/
theorem readCell_poke {s : State} {a : Acc} {bs : List Byte} {k : Nat} (hl : ∀ l ∈ a.locs, l ≠ .hbm k)
    (hk : ∀ l, a.leaf = some l → l.1 ≠ k) : readCell (s.poke a bs).mem k = readCell s.mem k := by
  unfold State.poke
  simp only
  rw [forAll_mem _ fun s x => updateWord_mem .., readCell_putBytes hl, noteAccess_frame]
  exact readCell_touchLeaf hk

theorem readCell_storeAll {s : State} {ps : List Piece} {n : Nat} {f : Nat → Word64} {k : Nat}
    (hl : ∀ p ∈ ps, ∀ l ∈ p.acc.locs, l ≠ .hbm k) (hk : ∀ p ∈ ps, ∀ l, p.acc.leaf = some l → l.1 ≠ k) :
    readCell (s.storeAll ps n f).mem k = readCell s.mem k := by
  have hc : ∀ p ∈ chargedOnce [] ps, (∀ l ∈ p.acc.locs, l ≠ .hbm k) ∧ ∀ l, p.acc.leaf = some l → l.1 ≠ k := fun p hp => by
    obtain ⟨q, hq, e, e'⟩ := mem_chargedOnce hp
    exact ⟨e' ▸ hl q hq, e ▸ hk q hq⟩
  unfold State.storeAll forAll
  revert hc
  induction chargedOnce [] ps generalizing s with
  | nil => exact fun _ => rfl
  | cons p r ih =>
    intro hc
    rw [List.foldl_cons, ih fun q hq => hc q (by simp [hq]), readCell_poke (hc p (by simp)).1 (hc p (by simp)).2]

end Sys2Proof.Machine
end

