-- ==== Sys2Proof/Laws/Encoding.lean ====
section
/-!
SUPPORT. Encodings: the fields of a word and the word of fields are inverse, what the field readers read of an encoded
field, and the opcode map (12 R255 to R263) one opcode at a time, so that a proof about one instruction's word does not
walk through the whole map.
-/

namespace Sys2Proof

/-- Two equal bytes of a number are equal when their low and high parts are. -/
theorem append_extract {n m : Nat} (x : BitVec (n + m)) : x.extractLsb' m n ++ x.extractLsb' 0 m = x := by
  apply BitVec.eq_of_getLsbD_eq
  intro i hi
  simp only [BitVec.getLsbD_append, BitVec.getLsbD_extractLsb']
  split
  · simp_all
  · rw [show m + (i - m) = i by omega]; simp; omega

theorem extract_append_low {n m : Nat} (x : BitVec n) (y : BitVec m) : (x ++ y).extractLsb' 0 m = y := by
  apply BitVec.eq_of_getLsbD_eq
  intro i hi
  simp only [BitVec.getLsbD_extractLsb', BitVec.getLsbD_append]
  simp [hi]

theorem extract_append_high {n m : Nat} (x : BitVec n) (y : BitVec m) : (x ++ y).extractLsb' m n = x := by
  apply BitVec.eq_of_getLsbD_eq
  intro i hi
  simp only [BitVec.getLsbD_extractLsb', BitVec.getLsbD_append]
  simp [hi]

/-- The fields of a word make it up again (R244). -/
theorem Fields.toWord_ofWord (w : Word32) : (Fields.ofWord w).toWord = w := by
  apply BitVec.eq_of_getLsbD_eq
  intro i hi
  simp only [Fields.ofWord, Fields.toWord, BitVec.getLsbD_append, BitVec.getLsbD_extractLsb']
  split
  · simp; omega
  · split
    · rw [show 8 + (i - 8) = i by omega]; simp; omega
    · split
      · rw [show 16 + (i - 8 - 8) = i by omega]; simp; omega
      · split
        · rw [show 24 + (i - 8 - 8 - 8) = i by omega]; simp; omega
        · rw [show 25 + (i - 8 - 8 - 8 - 1) = i by omega]; simp; omega

/-- The word of fields has those fields (R244). -/
theorem Fields.ofWord_toWord (f : Fields) : Fields.ofWord f.toWord = f := by
  have e : f.toWord = f.op ++ (f.x ++ (f.d ++ (f.a ++ f.b))) := by
    simp only [Fields.toWord]
    apply BitVec.eq_of_getLsbD_eq
    intro i hi
    simp only [BitVec.getLsbD_append]
    repeat' split
    all_goals first | rfl | omega
  obtain ⟨o, x, d, a, b⟩ := f
  simp only at e
  simp only [Fields.ofWord, e, Fields.mk.injEq]
  refine ⟨?_, ?_, ?_, ?_, ?_⟩ <;> apply BitVec.eq_of_getLsbD_eq <;> intro i hi <;>
    simp only [BitVec.getLsbD_extractLsb', BitVec.getLsbD_append] <;> simp [hi] <;> repeat' split
  all_goals first | rfl | omega

@[simp] theorem top2_append (x : BitVec 2) (k : BitVec 6) : top2 (x ++ k) = x := extract_append_high x k
@[simp] theorem low6_append (x : BitVec 2) (k : BitVec 6) : low6 (x ++ k) = k := extract_append_low x k
@[simp] theorem top5_append (x : BitVec 5) (k : BitVec 3) : top5 (x ++ k) = x := extract_append_high x k
@[simp] theorem low3_append (x : BitVec 5) (k : BitVec 3) : low3 (x ++ k) = k := extract_append_low x k
@[simp] theorem low4_append (x k : BitVec 4) : low4 (x ++ k) = k := extract_append_low x k
@[simp] theorem low5_append (x : BitVec 3) (k : BitVec 5) : low5 (x ++ k) = k := extract_append_low x k
@[simp] theorem halves16 (o : BitVec 16) : o.extractLsb' 8 8 ++ o.extractLsb' 0 8 = o := append_extract (n := 8) (m := 8) o
@[simp] theorem top2_low6 (b : Byte) : top2 b ++ low6 b = b := append_extract (n := 2) (m := 6) b
@[simp] theorem top5_low3 (b : Byte) : top5 b ++ low3 b = b := append_extract (n := 5) (m := 3) b


@[simp] theorem decodeFields_op00 (x : BitVec 1) (d a b : Byte) : decodeFields (mkF 0x00#7 x d a b) =
    (keep (x == 0 && d == 0 && a == 0 && b == 0) (.nop)) := rfl
@[simp] theorem decodeFields_op01 (x : BitVec 1) (d a b : Byte) : decodeFields (mkF 0x01#7 x d a b) =
    (keep (x == 0) (.br (d ++ a ++ b))) := rfl
@[simp] theorem decodeFields_op02 (x : BitVec 1) (d a b : Byte) : decodeFields (mkF 0x02#7 x d a b) =
    (keep (x == 0 && top5 d == 0) (.brp (low3 d) (a ++ b))) := rfl
@[simp] theorem decodeFields_op03 (x : BitVec 1) (d a b : Byte) : decodeFields (mkF 0x03#7 x d a b) =
    (keep (x == 0 && top5 d == 0) (.brn (low3 d) (a ++ b))) := rfl
@[simp] theorem decodeFields_op04 (x : BitVec 1) (d a b : Byte) : decodeFields (mkF 0x04#7 x d a b) =
    (keep (top2 d == 0) (if x == 0 then .bruNz (low6 d) (a ++ b) else .bruZ (low6 d) (a ++ b))) := rfl
@[simp] theorem decodeFields_op05 (x : BitVec 1) (d a b : Byte) : decodeFields (mkF 0x05#7 x d a b) =
    (keep (x == 0 && top2 d == 0) (.call (low6 d) (a ++ b))) := rfl
@[simp] theorem decodeFields_op06 (x : BitVec 1) (d a b : Byte) : decodeFields (mkF 0x06#7 x d a b) =
    (keep (x == 0 && top2 d == 0 && top2 a == 0 && b == 0) (.callt (low6 d) (low6 a))) := rfl
@[simp] theorem decodeFields_op07 (x : BitVec 1) (d a b : Byte) : decodeFields (mkF 0x07#7 x d a b) =
    (keep (x == 0 && d == 0 && top2 a == 0 && b == 0) (.jmpt (low6 a))) := rfl
@[simp] theorem decodeFields_op08 (x : BitVec 1) (d a b : Byte) : decodeFields (mkF 0x08#7 x d a b) =
    (keep (x == 0 && d == 0 && top2 a == 0 && b == 0) (.ret (low6 a))) := rfl
@[simp] theorem decodeFields_op09 (x : BitVec 1) (d a b : Byte) : decodeFields (mkF 0x09#7 x d a b) =
    (match d.extractLsb' 4 4 with
    | 0x0#4 => keep (x == 0 && low4 d == 0 && a == 0 && b == 0) .exit
    | 0x1#4 => keep (x == 0 && low4 d == 0 && a == 0 && b == 0) .yield
    | 0x2#4 => keep (x == 0 && low4 d == 0) (.brk (a ++ b))
    | 0x3#4 => keep (x == 0 && low4 d == 0) (.trap (a ++ b))
    | 0x4#4 => keep (x == 0 && low4 d == 0 && a == 0 && b == 0) .nret
    | _ => .error .illegal) := rfl
@[simp] theorem decodeFields_op0a (x : BitVec 1) (d a b : Byte) : decodeFields (mkF 0x0A#7 x d a b) =
    (keep (x == 0) (.nchk (d ++ a ++ b))) := rfl
@[simp] theorem decodeFields_op0b (x : BitVec 1) (d a b : Byte) : decodeFields (mkF 0x0B#7 x d a b) =
    (if x == 0 then keep (d == 0) (.enter (a ++ b)) else keep (d == 0 && a == 0 && b == 0) .leave) := rfl
@[simp] theorem decodeFields_op0c (x : BitVec 1) (d a b : Byte) : decodeFields (mkF 0x0C#7 x d a b) =
    (if x == 0 then
        keep (d.extractLsb' 5 3 == 0 && a.extractLsb' 4 4 == 0 && modeValueFits (low5 d) (low4 a ++ b))
          (.mode (low5 d) (low4 a ++ b))
      else keep (d == 0 && a == 0 && b.extractLsb' 5 3 == 0)
          (.modeGd (b.extractLsb' 2 3) (b.extractLsb' 1 1) (b.extractLsb' 0 1))) := rfl
@[simp] theorem decodeFields_op0d (x : BitVec 1) (d a b : Byte) : decodeFields (mkF 0x0D#7 x d a b) =
    (keep (x == 0 && d == 0 && top2 a == 0 && b == 0) (.modr (low6 a))) := rfl
@[simp] theorem decodeFields_op0e (x : BitVec 1) (d a b : Byte) : decodeFields (mkF 0x0E#7 x d a b) =
    (if x == 0 then
        if b.toNat ≤ 0x0D then keep (a == 0 && (b == 0 || top2 d == 0)) (.rsr d b) else .error .illegal
      else if b == 6 then keep (d == 0 && top2 a == 0) (.wsr (low6 a) b) else .error .illegal) := rfl
@[simp] theorem decodeFields_op10 (x : BitVec 1) (d a b : Byte) : decodeFields (mkF 0x10#7 x d a b) =
    (keep (x == 0 && top2 d == 0) (.kli (low6 d) (a ++ b))) := rfl
@[simp] theorem decodeFields_op11 (x : BitVec 1) (d a b : Byte) : decodeFields (mkF 0x11#7 x d a b) =
    (if top2 d == 0 then .error .illegal else keep (x == 0) (.klih (top2 d) (low6 d) (a ++ b))) := rfl
@[simp] theorem decodeFields_op12 (x : BitVec 1) (d a b : Byte) : decodeFields (mkF 0x12#7 x d a b) =
    (keep (x == 0 && top2 d == 0 && top2 a == 0 && b == 0) (.kmov (low6 d) (low6 a))) := rfl
@[simp] theorem decodeFields_op13 (x : BitVec 1) (d a b : Byte) : decodeFields (mkF 0x13#7 x d a b) =
    (if x == 0 then keep (top2 d == 0 && top2 a == 0 && top2 b == 0) (.kadd (low6 d) (low6 a) (low6 b))
      else keep (top2 d == 0 && top2 a == 0) (.kaddImm (low6 d) (low6 a) b)) := rfl
@[simp] theorem decodeFields_op14 (x : BitVec 1) (d a b : Byte) : decodeFields (mkF 0x14#7 x d a b) =
    (if x == 0 then keep (top2 d == 0 && top2 a == 0 && top2 b == 0) (.ksub (low6 d) (low6 a) (low6 b))
      else keep (top2 d == 0 && top2 a == 0) (.ksubImm (low6 d) (low6 a) b)) := rfl
@[simp] theorem decodeFields_op15 (x : BitVec 1) (d a b : Byte) : decodeFields (mkF 0x15#7 x d a b) =
    (if x == 0 then keep (top2 d == 0 && top2 a == 0 && top2 b == 0) (.kmul (low6 d) (low6 a) (low6 b))
      else keep (top2 d == 0 && top2 a == 0) (.kmulImm (low6 d) (low6 a) b)) := rfl
@[simp] theorem decodeFields_op17 (x : BitVec 1) (d a b : Byte) : decodeFields (mkF 0x17#7 x d a b) =
    (if x == 0 then keep (top2 d == 0 && top2 a == 0 && top2 b == 0) (.kand (low6 d) (low6 a) (low6 b))
      else keep (top2 d == 0 && top2 a == 0) (.kandImm (low6 d) (low6 a) b)) := rfl
@[simp] theorem decodeFields_op18 (x : BitVec 1) (d a b : Byte) : decodeFields (mkF 0x18#7 x d a b) =
    (if x == 0 then keep (top2 d == 0 && top2 a == 0 && top2 b == 0) (.kor (low6 d) (low6 a) (low6 b))
      else keep (top2 d == 0 && top2 a == 0) (.korImm (low6 d) (low6 a) b)) := rfl
@[simp] theorem decodeFields_op19 (x : BitVec 1) (d a b : Byte) : decodeFields (mkF 0x19#7 x d a b) =
    (if x == 0 then keep (top2 d == 0 && top2 a == 0 && top2 b == 0) (.kxor (low6 d) (low6 a) (low6 b))
      else keep (top2 d == 0 && top2 a == 0) (.kxorImm (low6 d) (low6 a) b)) := rfl
@[simp] theorem decodeFields_op16 (x : BitVec 1) (d a b : Byte) : decodeFields (mkF 0x16#7 x d a b) =
    (keep (top2 d == 0 && top2 a == 0 && top2 b == 0) (.kmulh x (low6 d) (low6 a) (low6 b))) := rfl
@[simp] theorem decodeFields_op1a (x : BitVec 1) (d a b : Byte) : decodeFields (mkF 0x1A#7 x d a b) =
    (match top2 b with
    | 0#2 => keep (top2 d == 0 && top2 a == 0) (if x == 0 then .kshl (low6 d) (low6 a) (low6 b) else .kshlImm (low6 d) (low6 a) (low6 b))
    | 1#2 => keep (top2 d == 0 && top2 a == 0) (if x == 0 then .kshr (low6 d) (low6 a) (low6 b) else .kshrImm (low6 d) (low6 a) (low6 b))
    | 2#2 => keep (top2 d == 0 && top2 a == 0) (if x == 0 then .ksar (low6 d) (low6 a) (low6 b) else .ksarImm (low6 d) (low6 a) (low6 b))
    | _ => .error .illegal) := rfl
@[simp] theorem decodeFields_op1b (x : BitVec 1) (d a b : Byte) : decodeFields (mkF 0x1B#7 x d a b) =
    (match top2 b with
    | 0#2 => keep (top2 d == 0 && top2 a == 0) (.kmin x (low6 d) (low6 a) (low6 b))
    | 1#2 => keep (top2 d == 0 && top2 a == 0) (.kmax x (low6 d) (low6 a) (low6 b))
    | _ => .error .illegal) := rfl
@[simp] theorem decodeFields_op1c (x : BitVec 1) (d a b : Byte) : decodeFields (mkF 0x1C#7 x d a b) =
    (if (x ++ top2 d).toNat < 6 then keep (top2 a == 0 && top2 b == 0) (.kcmp (x ++ top2 d) (low6 d) (low6 a) (low6 b)) else .error .illegal) := rfl
@[simp] theorem decodeFields_op1d (x : BitVec 1) (d a b : Byte) : decodeFields (mkF 0x1D#7 x d a b) =
    (keep (x == 0 && top2 d == 0 && top2 a == 0 && top2 b == 0) (.ksel (low6 d) (low6 a) (low6 b))) := rfl
@[simp] theorem decodeFields_op1e (x : BitVec 1) (d a b : Byte) : decodeFields (mkF 0x1E#7 x d a b) =
    (match b with
    | 0#8 => if x == 0 then keep (top2 d == 0 && top2 a == 0) (.kpop (low6 d) (low6 a))
      else keep (top2 d == 0 && top5 a == 0) (.kpopPred (low6 d) (low3 a))
    | 1#8 => if x == 0 then keep (top2 d == 0 && top2 a == 0) (.kfirst (low6 d) (low6 a))
      else keep (top2 d == 0 && top5 a == 0) (.kfirstPred (low6 d) (low3 a))
    | _ => .error .illegal) := rfl
@[simp] theorem decodeFields_op20 (x : BitVec 1) (d a b : Byte) : decodeFields (mkF 0x20#7 x d a b) =
    (if x == 0 then .ok (.vli d (a ++ b)) else .ok (.vliH d (a ++ b))) := rfl
@[simp] theorem decodeFields_op21 (x : BitVec 1) (d a b : Byte) : decodeFields (mkF 0x21#7 x d a b) =
    (keep (x == 0 && b == 0) (.vmov d a)) := rfl
@[simp] theorem decodeFields_op22 (x : BitVec 1) (d a b : Byte) : decodeFields (mkF 0x22#7 x d a b) =
    (keep (x == 0 && top2 a == 0 && b == 0) (.vbc d (low6 a))) := rfl
@[simp] theorem decodeFields_op23 (x : BitVec 1) (d a b : Byte) : decodeFields (mkF 0x23#7 x d a b) =
    (if x == 0 then .ok (.vadd d a b) else keep (top2 b == 0) (.vaddUniform d a (low6 b))) := rfl
@[simp] theorem decodeFields_op24 (x : BitVec 1) (d a b : Byte) : decodeFields (mkF 0x24#7 x d a b) =
    (if x == 0 then .ok (.vsub d a b) else keep (top2 b == 0) (.vsubUniform d a (low6 b))) := rfl
@[simp] theorem decodeFields_op25 (x : BitVec 1) (d a b : Byte) : decodeFields (mkF 0x25#7 x d a b) =
    (if x == 0 then .ok (.vmul d a b) else keep (top2 b == 0) (.vmulUniform d a (low6 b))) := rfl
@[simp] theorem decodeFields_op26 (x : BitVec 1) (d a b : Byte) : decodeFields (mkF 0x26#7 x d a b) =
    (if x == 0 then .ok (.vmulh d a b) else keep (top2 b == 0) (.vmulhUniform d a (low6 b))) := rfl
@[simp] theorem decodeFields_op27 (x : BitVec 1) (d a b : Byte) : decodeFields (mkF 0x27#7 x d a b) =
    (if x == 0 then .ok (.vmad d a b) else keep (top2 b == 0) (.vmadUniform d a (low6 b))) := rfl
@[simp] theorem decodeFields_op28 (x : BitVec 1) (d a b : Byte) : decodeFields (mkF 0x28#7 x d a b) =
    (if x == 0 then .ok (.vand d a b) else keep (top2 b == 0) (.vandUniform d a (low6 b))) := rfl
@[simp] theorem decodeFields_op29 (x : BitVec 1) (d a b : Byte) : decodeFields (mkF 0x29#7 x d a b) =
    (if x == 0 then .ok (.vor d a b) else keep (top2 b == 0) (.vorUniform d a (low6 b))) := rfl
@[simp] theorem decodeFields_op2a (x : BitVec 1) (d a b : Byte) : decodeFields (mkF 0x2A#7 x d a b) =
    (if x == 0 then .ok (.vxor d a b) else keep (top2 b == 0) (.vxorUniform d a (low6 b))) := rfl
@[simp] theorem decodeFields_op2c (x : BitVec 1) (d a b : Byte) : decodeFields (mkF 0x2C#7 x d a b) =
    (if x == 0 then .ok (.vshl d a b) else keep (top2 b == 0) (.vshlUniform d a (low6 b))) := rfl
@[simp] theorem decodeFields_op2d (x : BitVec 1) (d a b : Byte) : decodeFields (mkF 0x2D#7 x d a b) =
    (if x == 0 then .ok (.vshr d a b) else keep (top2 b == 0) (.vshrUniform d a (low6 b))) := rfl
@[simp] theorem decodeFields_op2e (x : BitVec 1) (d a b : Byte) : decodeFields (mkF 0x2E#7 x d a b) =
    (if x == 0 then .ok (.vmin d a b) else keep (top2 b == 0) (.vminUniform d a (low6 b))) := rfl
@[simp] theorem decodeFields_op2f (x : BitVec 1) (d a b : Byte) : decodeFields (mkF 0x2F#7 x d a b) =
    (if x == 0 then .ok (.vmax d a b) else keep (top2 b == 0) (.vmaxUniform d a (low6 b))) := rfl
@[simp] theorem decodeFields_op32 (x : BitVec 1) (d a b : Byte) : decodeFields (mkF 0x32#7 x d a b) =
    (if x == 0 then .ok (.vsel d a b) else keep (top2 b == 0) (.vselUniform d a (low6 b))) := rfl
@[simp] theorem decodeFields_op38 (x : BitVec 1) (d a b : Byte) : decodeFields (mkF 0x38#7 x d a b) =
    (if x == 0 then .ok (.fadd d a b) else keep (top2 b == 0) (.faddUniform d a (low6 b))) := rfl
@[simp] theorem decodeFields_op39 (x : BitVec 1) (d a b : Byte) : decodeFields (mkF 0x39#7 x d a b) =
    (if x == 0 then .ok (.fsub d a b) else keep (top2 b == 0) (.fsubUniform d a (low6 b))) := rfl
@[simp] theorem decodeFields_op3a (x : BitVec 1) (d a b : Byte) : decodeFields (mkF 0x3A#7 x d a b) =
    (if x == 0 then .ok (.fmul d a b) else keep (top2 b == 0) (.fmulUniform d a (low6 b))) := rfl
@[simp] theorem decodeFields_op3b (x : BitVec 1) (d a b : Byte) : decodeFields (mkF 0x3B#7 x d a b) =
    (if x == 0 then .ok (.ffma d a b) else keep (top2 b == 0) (.ffmaUniform d a (low6 b))) := rfl
@[simp] theorem decodeFields_op3c (x : BitVec 1) (d a b : Byte) : decodeFields (mkF 0x3C#7 x d a b) =
    (if x == 0 then .ok (.fmin d a b) else keep (top2 b == 0) (.fminUniform d a (low6 b))) := rfl
@[simp] theorem decodeFields_op3d (x : BitVec 1) (d a b : Byte) : decodeFields (mkF 0x3D#7 x d a b) =
    (if x == 0 then .ok (.fmax d a b) else keep (top2 b == 0) (.fmaxUniform d a (low6 b))) := rfl
@[simp] theorem decodeFields_op53 (x : BitVec 1) (d a b : Byte) : decodeFields (mkF 0x53#7 x d a b) =
    (if x == 0 then .ok (.bscl d a b) else keep (top2 b == 0) (.bsclUniform d a (low6 b))) := rfl
@[simp] theorem decodeFields_op58 (x : BitVec 1) (d a b : Byte) : decodeFields (mkF 0x58#7 x d a b) =
    (if x == 0 then .ok (.shfl d a b) else keep (top2 b == 0) (.shflUniform d a (low6 b))) := rfl
@[simp] theorem decodeFields_op2b (x : BitVec 1) (d a b : Byte) : decodeFields (mkF 0x2B#7 x d a b) =
    (keep (x == 0 && b == 0) (.vnot d a)) := rfl
@[simp] theorem decodeFields_op30 (x : BitVec 1) (d a b : Byte) : decodeFields (mkF 0x30#7 x d a b) =
    (match b with
    | 0#8 => keep (x == 0) (.vabs d a)
    | 1#8 => keep (x == 0) (.vneg d a)
    | 2#8 => keep (x == 0) (.vclz d a)
    | 3#8 => keep (x == 0) (.vpop d a)
    | _ => .error .illegal) := rfl
@[simp] theorem decodeFields_op31 (x : BitVec 1) (d a b : Byte) : decodeFields (mkF 0x31#7 x d a b) =
    (if (d.extractLsb' 3 3).toNat < 6 then
      if x == 0 then keep (top2 d == 0) (.vcmp (d.extractLsb' 3 3) (low3 d) a b)
      else keep (top2 d == 0 && top2 b == 0) (.vcmpUniform (d.extractLsb' 3 3) (low3 d) a (low6 b))
      else .error .illegal) := rfl
@[simp] theorem decodeFields_op40 (x : BitVec 1) (d a b : Byte) : decodeFields (mkF 0x40#7 x d a b) =
    (if x == 0 then keep (top2 d == 0) (.fcmp (d.extractLsb' 3 3) (low3 d) a b)
      else keep (top2 d == 0 && top2 b == 0) (.fcmpUniform (d.extractLsb' 3 3) (low3 d) a (low6 b))) := rfl
@[simp] theorem decodeFields_op33 (x : BitVec 1) (d a b : Byte) : decodeFields (mkF 0x33#7 x d a b) =
    (match top2 b with
    | 0#2 => keep (x == 0 && top5 d == 0 && top5 a == 0 && b.extractLsb' 3 3 == 0) (.pand (low3 d) (low3 a) (low3 b))
    | 1#2 => keep (x == 0 && top5 d == 0 && top5 a == 0 && b.extractLsb' 3 3 == 0) (.por (low3 d) (low3 a) (low3 b))
    | 2#2 => keep (x == 0 && top5 d == 0 && top5 a == 0 && b.extractLsb' 3 3 == 0) (.pxor (low3 d) (low3 a) (low3 b))
    | _ => keep (x == 0 && top5 d == 0 && top5 a == 0 && low6 b == 0) (.pnot (low3 d) (low3 a))) := rfl
@[simp] theorem decodeFields_op34 (x : BitVec 1) (d a b : Byte) : decodeFields (mkF 0x34#7 x d a b) =
    (if x == 0 then keep (top5 d == 0 && a == 0 && b.extractLsb' 1 7 == 0) (.pset (low3 d) (b.extractLsb' 0 1))
      else keep (top5 d == 0 && top2 a == 0 && b == 0) (.psetK (low3 d) (low6 a))) := rfl
@[simp] theorem decodeFields_op3e (x : BitVec 1) (d a b : Byte) : decodeFields (mkF 0x3E#7 x d a b) =
    (match b with
    | 0#8 => keep (x == 0) (.fabs d a)
    | 1#8 => keep (x == 0) (.fneg d a)
    | _ => .error .illegal) := rfl
@[simp] theorem decodeFields_op3f (x : BitVec 1) (d a b : Byte) : decodeFields (mkF 0x3F#7 x d a b) =
    (if top5 b == 0 then
      match low3 b with
      | 0#3 => keep (x == 0) (.frcp d a)
      | 1#3 => keep (x == 0) (.frsq d a)
      | 2#3 => keep (x == 0) (.fsqrt d a)
      | 3#3 => keep (x == 0) (.fexp d a)
      | 4#3 => keep (x == 0) (.flog d a)
      | 5#3 => keep (x == 0) (.fsin d a)
      | 6#3 => keep (x == 0) (.fcos d a)
      | _ => keep (x == 0) (.ftanh d a)
      else .error .reserved) := rfl
@[simp] theorem decodeFields_op41 (x : BitVec 1) (d a b : Byte) : decodeFields (mkF 0x41#7 x d a b) =
    (keep (x == 0 && b == 0) (.fcls d a)) := rfl
@[simp] theorem decodeFields_op50 (x : BitVec 1) (d a b : Byte) : decodeFields (mkF 0x50#7 x d a b) =
    (if (low5 b).toNat ≤ 0x0C then keep (x == 0 && b.extractLsb' 5 3 == 0) (.cvt d a (low5 b)) else .error .illegal) := rfl
@[simp] theorem decodeFields_op51 (x : BitVec 1) (d a b : Byte) : decodeFields (mkF 0x51#7 x d a b) =
    (keep (x == 0) (.bpak d a b)) := rfl
@[simp] theorem decodeFields_op52 (x : BitVec 1) (d a b : Byte) : decodeFields (mkF 0x52#7 x d a b) =
    (keep (x == 0) (.bunp d a b)) := rfl
@[simp] theorem decodeFields_op59 (x : BitVec 1) (d a b : Byte) : decodeFields (mkF 0x59#7 x d a b) =
    (if x == 0 then .ok (.shfx d a b) else .ok (.shfxImm d a b)) := rfl
@[simp] theorem decodeFields_op5a (x : BitVec 1) (d a b : Byte) : decodeFields (mkF 0x5A#7 x d a b) =
    (match b with
    | 0#8 => keep (x == 0 && top2 d == 0 && top5 a == 0) (.vany (low6 d) (low3 a))
    | 1#8 => keep (x == 0 && top2 d == 0 && top5 a == 0) (.vall (low6 d) (low3 a))
    | 2#8 => keep (x == 0 && top2 d == 0 && top5 a == 0) (.vbal (low6 d) (low3 a))
    | _ => .error .illegal) := rfl
@[simp] theorem decodeFields_op5b (x : BitVec 1) (d a b : Byte) : decodeFields (mkF 0x5B#7 x d a b) =
    (if (low3 b).toNat < 6 then keep (x == 0 && top2 d == 0 && top5 b == 0) (.gred (low6 d) a (low3 b)) else .error .illegal) := rfl
@[simp] theorem decodeFields_op5c (x : BitVec 1) (d a b : Byte) : decodeFields (mkF 0x5C#7 x d a b) =
    (if (low3 b).toNat < 6 then keep (x == 0 && top5 b == 0) (.gscan d a (low3 b)) else .error .illegal) := rfl
@[simp] theorem decodeFields_op60 (x : BitVec 1) (d a b : Byte) : decodeFields (mkF 0x60#7 x d a b) =
    (keep (top2 b == 0) (.ld x d a (low6 b))) := rfl
@[simp] theorem decodeFields_op61 (x : BitVec 1) (d a b : Byte) : decodeFields (mkF 0x61#7 x d a b) =
    (keep (top2 b == 0) (.st x d a (low6 b))) := rfl
@[simp] theorem decodeFields_op62 (x : BitVec 1) (d a b : Byte) : decodeFields (mkF 0x62#7 x d a b) =
    (if (x ++ top2 b).toNat ≤ 4 then .ok (.lda (x ++ top2 b) d a (low6 b)) else .error .illegal) := rfl
@[simp] theorem decodeFields_op63 (x : BitVec 1) (d a b : Byte) : decodeFields (mkF 0x63#7 x d a b) =
    (if (x ++ top2 b).toNat ≤ 4 then .ok (.stl (x ++ top2 b) d a (low6 b)) else .error .illegal) := rfl
@[simp] theorem decodeFields_op64 (x : BitVec 1) (d a b : Byte) : decodeFields (mkF 0x64#7 x d a b) =
    (keep (x == 0) (.lds d a b)) := rfl
@[simp] theorem decodeFields_op65 (x : BitVec 1) (d a b : Byte) : decodeFields (mkF 0x65#7 x d a b) =
    (keep (x == 0) (.sts d a b)) := rfl
@[simp] theorem decodeFields_op66 (x : BitVec 1) (d a b : Byte) : decodeFields (mkF 0x66#7 x d a b) =
    (keep (top2 d == 0 && top2 a == 0) (.ldk x (low6 d) (low6 a) b)) := rfl
@[simp] theorem decodeFields_op67 (x : BitVec 1) (d a b : Byte) : decodeFields (mkF 0x67#7 x d a b) =
    (keep (top2 d == 0 && top2 a == 0) (.stk x (low6 d) (low6 a) b)) := rfl
@[simp] theorem decodeFields_op68 (x : BitVec 1) (d a b : Byte) : decodeFields (mkF 0x68#7 x d a b) =
    (keep (x == 0 && d == 0 && a == 0 && top2 b == 0) (.lwait (low6 b))) := rfl
@[simp] theorem decodeFields_op69 (x : BitVec 1) (d a b : Byte) : decodeFields (mkF 0x69#7 x d a b) =
    (keep (x == 0 && d == 0 && top2 b == 0) (.pref a (low6 b))) := rfl
@[simp] theorem decodeFields_op6a (x : BitVec 1) (d a b : Byte) : decodeFields (mkF 0x6A#7 x d a b) =
    (keep (x == 0 && a.extractLsb' 2 6 == 0) (.ldf d (a.extractLsb' 0 2) b)) := rfl
@[simp] theorem decodeFields_op6b (x : BitVec 1) (d a b : Byte) : decodeFields (mkF 0x6B#7 x d a b) =
    (keep (x == 0 && top2 d == 0 && a.extractLsb' 2 6 == 0) (.ldfk (low6 d) (a.extractLsb' 0 2) b)) := rfl
@[simp] theorem decodeFields_op6c (x : BitVec 1) (d a b : Byte) : decodeFields (mkF 0x6C#7 x d a b) =
    (keep (x == 0 && a.extractLsb' 2 6 == 0) (.stf d (a.extractLsb' 0 2) b)) := rfl
@[simp] theorem decodeFields_op70 (x : BitVec 1) (d a b : Byte) : decodeFields (mkF 0x70#7 x d a b) =
    (if (b.extractLsb' 3 4).toNat < 8 && (low3 b).toNat ≤ 4 then keep (x == 0 && b.extractLsb' 7 1 == 0) (.atom d a (b.extractLsb' 3 4) (low3 b)) else .error .illegal) := rfl
@[simp] theorem decodeFields_op71 (x : BitVec 1) (d a b : Byte) : decodeFields (mkF 0x71#7 x d a b) =
    (if (b.extractLsb' 3 4).toNat < 6 && (low3 b).toNat ≤ 4 then keep (x == 0 && b.extractLsb' 7 1 == 0) (.atomr d a (b.extractLsb' 3 4) (low3 b)) else .error .illegal) := rfl
@[simp] theorem decodeFields_op72 (x : BitVec 1) (d a b : Byte) : decodeFields (mkF 0x72#7 x d a b) =
    (if (low3 b).toNat ≤ 4 then
      match b.extractLsb' 3 2 with
      | 0#2 => keep (x == 0 && top2 d == 0 && top2 a == 0 && b.extractLsb' 5 3 == 0) (.dqpush (low6 d) (low6 a) (low3 b))
      | 1#2 => keep (x == 0 && top2 d == 0 && top2 a == 0 && b.extractLsb' 5 3 == 0) (.dqpop (low6 d) (low6 a) (low3 b))
      | 2#2 => keep (x == 0 && top2 d == 0 && top2 a == 0 && b.extractLsb' 5 3 == 0) (.dqsteal (low6 d) (low6 a) (low3 b))
      | _ => .error .illegal
      else .error .illegal) := rfl
@[simp] theorem decodeFields_op73 (x : BitVec 1) (d a b : Byte) : decodeFields (mkF 0x73#7 x d a b) =
    (match low3 b with
    | 0#3 => keep (x == 0 && top2 d == 0 && top2 a == 0 && b.extractLsb' 4 4 == 0) (.bari (low6 d) (low6 a) (b.extractLsb' 3 1))
    | 1#3 => keep (x == 0 && top2 d == 0 && top2 a == 0 && top5 b == 0) (.barr (low6 d) (low6 a))
    | 2#3 => keep (x == 0 && top2 d == 0 && top2 a == 0 && top5 b == 0) (.barw (low6 d) (low6 a))
    | 4#3 => keep (x == 0 && top2 d == 0 && top2 a == 0 && top5 b == 0) (.barx (low6 d) (low6 a))
    | 3#3 => keep (x == 0 && d == 0 && top2 a == 0 && top5 b == 0) (.bara (low6 a))
    | _ => .error .illegal) := rfl
@[simp] theorem decodeFields_op74 (x : BitVec 1) (d a b : Byte) : decodeFields (mkF 0x74#7 x d a b) =
    (if (low3 b).toNat ≤ 4 then keep (x == 0 && d == 0 && a == 0 && top5 b == 0) (.fence (low3 b)) else .error .illegal) := rfl
@[simp] theorem decodeFields_op75 (x : BitVec 1) (d a b : Byte) : decodeFields (mkF 0x75#7 x d a b) =
    (keep (x == 0 && d == 0 && top2 a == 0 && b == 0) (.pub (low6 a))) := rfl
@[simp] theorem decodeFields_op78 (x : BitVec 1) (d a b : Byte) : decodeFields (mkF 0x78#7 x d a b) =
    (if x == 0 then keep (d == 0 && top2 a == 0) (.tdef (low6 a) b)
      else keep (top2 d == 0 && top5 a == 0) (.tget (low6 d) (low3 a) b)) := rfl
@[simp] theorem decodeFields_op79 (x : BitVec 1) (d a b : Byte) : decodeFields (mkF 0x79#7 x d a b) =
    (match top2 d ++ x with
    | 0#3 => keep (top2 a == 0 && top2 b == 0) (.cpy (low6 d) (low6 a) (low6 b))
    | 1#3 => keep (top2 a == 0 && top2 b == 0) (.cpyg (low6 d) (low6 a) (low6 b))
    | 2#3 => keep (top2 a == 0 && top2 b == 0) (.cpym (low6 d) (low6 a) (low6 b))
    | 3#3 => keep (top2 a == 0 && top2 b == 0) (.cpyo (low6 d) (low6 a) (low6 b))
    | 4#3 => keep (top2 a == 0 && top2 b == 0) (.cpyr (low6 d) (low6 a) (low6 b))
    | _ => .error .illegal) := rfl
@[simp] theorem decodeFields_op7a (x : BitVec 1) (d a b : Byte) : decodeFields (mkF 0x7A#7 x d a b) =
    (if x == 0 then keep (d == 0 && a == 0 && b == 0) .bclose else keep (d == 0 && top2 a == 0 && b == 0) (.bwait (low6 a))) := rfl
@[simp] theorem decodeFields_op7c (x : BitVec 1) (d a b : Byte) : decodeFields (mkF 0x7C#7 x d a b) =
    (match d.extractLsb' 5 3 with
    | 0#3 => keep (d.extractLsb' 3 2 == 0 && top5 a == 0) (.mma x (low3 d) (low3 a) b)
    | 1#3 => keep (d.extractLsb' 3 2 == 0 && top5 a == 0) (.mmap x (low3 d) (low3 a) b)
    | 2#3 => keep (x == 0 && d.extractLsb' 3 2 == 0 && a == 0 && b == 0) (.accz (low3 d))
    | 3#3 => keep (x == 0 && d.extractLsb' 3 2 == 0 && a == 0) (.accrd (low3 d) b)
    | 4#3 => keep (x == 0 && low5 d == 0 && top5 a == 0) (.tld (low3 a) b)
    | 5#3 => keep (x == 0 && low5 d == 0 && a == 0 && b == 0) .fenop
    | 6#3 => keep (x == 0 && low5 d == 0 && top2 a == 0 && b == 0) (.shape (low6 a))
    | _ => keep (x == 0 && low5 d == 0 && a == 0 && b == 0) .mwait) := rfl
@[simp] theorem decodeFields_op7d (x : BitVec 1) (d a b : Byte) : decodeFields (mkF 0x7D#7 x d a b) =
    (match b.extractLsb' 4 3 with
    | 0#3 => keep (b.extractLsb' 7 1 == 0 && top2 d == 0 && top2 a == 0) (if x == 0 then .calookLeaf (low6 d) (low6 a) (low4 b) else .calookInt (low6 d) (low6 a) (low4 b))
    | 1#3 => keep (x == 0 && b.extractLsb' 7 1 == 0 && top2 d == 0 && top2 a == 0) (.caread (low6 d) (low6 a) (low4 b))
    | 2#3 => keep (x == 0 && b.extractLsb' 7 1 == 0 && top2 d == 0 && top2 a == 0) (.cawalk (low6 d) (low6 a) (low4 b))
    | 3#3 => keep (x == 0 && b.extractLsb' 7 1 == 0 && top2 d == 0 && top2 a == 0) (.carswap (low6 d) (low6 a) (low4 b))
    | 6#3 => keep (x == 0 && b.extractLsb' 7 1 == 0 && top2 d == 0 && top2 a == 0) (.caout (low6 d) (low6 a) (low4 b))
    | 4#3 => keep (x == 0 && b.extractLsb' 7 1 == 0 && d == 0 && top2 a == 0) (.caref (low6 a) (low4 b))
    | 5#3 => keep (x == 0 && b.extractLsb' 7 1 == 0 && d == 0 && top2 a == 0) (.cadrop (low6 a) (low4 b))
    | _ => .error .illegal) := rfl
@[simp] theorem decodeFields_op7e (x : BitVec 1) (d a b : Byte) : decodeFields (mkF 0x7E#7 x d a b) =
    (match top2 b with
    | 0#2 => if x == 0 then keep (top2 a == 0 && low6 b == 0) (.fnew d (low6 a))
      else keep (top2 d == 0 && top2 a == 0 && low6 b == 0) (.fnewU (low6 d) (low6 a))
    | 1#2 => keep (d == 0 && a.extractLsb' 2 6 == 0 && low6 b == 0) (if x == 0 then .fret (a.extractLsb' 0 2) else .fretU (a.extractLsb' 0 2))
    | 2#2 => if x == 0 || d.extractLsb' 0 2 == 0 then .error .illegal
      else keep (d.extractLsb' 2 6 == 0 && top2 a == 0 && low6 b == 0) (.disp (d.extractLsb' 0 2) (low6 a))
    | _ => if x == 0 then keep (d == 0 && low6 b == 0) (.cont a) else keep (d == 0 && top2 a == 0 && low6 b == 0) (.contU (low6 a))) := rfl

end Sys2Proof
end

