-- ==== Sys2Proof/Laws/MemWf.lean ====
section
/-!
SUPPORT. Every operation over the memories keeps their canonical form (`State.memWf`): the byte writes, the leaf bits, the
accesses, the control blocks, the rings, the publications and the move of a page.
-/

namespace Sys2Proof.Machine

open Sys2Proof

/-- A state with the same memories has them in their canonical form. -/
theorem memWf_of_eq {s t : State} (h : s.memWf) (hm : t.mem = s.mem) (hh : t.hostMem = s.hostMem) (hp : t.peers = s.peers) :
    t.memWf := by
  unfold State.memWf at *; rw [hm, hh, hp]; exact h

theorem memWf_mem {s : State} {m : Mem} (h : s.memWf) (hm : Memory.wf m = true) : State.memWf { s with mem := m } :=
  ⟨hm, h.2⟩

theorem memWf_hostMem {s : State} {m : Mem} (h : s.memWf) (hm : Memory.wf m = true) : State.memWf { s with hostMem := m } :=
  ⟨h.1, hm, h.2.2⟩

/-- What is in a table after an update was there before or is the new entry. -/
theorem mem_tset {α : Type} {t : Table α} {k : Nat} {x : α} {y : Nat × α} (h : y ∈ tset t k x) : y ∈ t ∨ y = (k, x) := by
  induction t with
  | nil => simp [tset] at h; exact .inr h
  | cons z r ih =>
    obtain ⟨a, b⟩ := z
    simp only [tset] at h
    split at h
    · simp only [List.mem_cons] at h ⊢; tauto
    · split at h
      · simp only [List.mem_cons] at h ⊢; tauto
      · simp only [List.mem_cons] at h ⊢
        rcases h with h | h
        · exact .inl (.inl h)
        · rcases ih h with h | h
          · exact .inl (.inr h)
          · exact .inr h

theorem tget_mem {α : Type} {t : Table α} {k : Nat} {x : α} (h : tget t k = some x) : (k, x) ∈ t := by
  induction t with
  | nil => cases h
  | cons z r ih =>
    obtain ⟨a, b⟩ := z
    simp only [tget] at h
    split at h
    · rename_i e; subst e; cases h; exact List.mem_cons_self
    · exact List.mem_cons_of_mem _ (ih h)

/-- A fold of an operation that keeps the form keeps it. -/
theorem memWf_forAll {α : Type} {f : State → α → State} (hf : ∀ s x, s.memWf → (f s x).memWf) {s : State} (h : s.memWf)
    (l : List α) : (forAll f s l).memWf := by
  unfold forAll
  induction l generalizing s with
  | nil => exact h
  | cons x r ih => exact ih (hf s x h)

theorem memWf_modTeam {s : State} (h : s.memWf) (id : Nat) (f : Team → Team) : (s.modTeam id f).memWf := by
  unfold State.modTeam; split <;> exact h

theorem memWf_spoil {s : State} (h : s.memWf) (t : Nat) (acc : Bool) (i : Nat) : (s.spoil t acc i).memWf := by
  unfold State.spoil; repeat' split
  all_goals exact h

theorem memWf_putByte {s : State} (h : s.memWf) (ctx q : Nat) (l : Loc) (b : Byte) : (s.putByte ctx q l b).memWf := by
  unfold State.putByte
  split
  · split
    · exact h
    · exact memWf_mem h (wf_writeCell _ _ h.1)
  · split
    · exact h
    · exact ⟨h.1, wf_writeCell _ _ h.2.1, h.2.2⟩
  · split
    · rename_i p hp
      refine ⟨h.1, h.2.1, fun x hx => ?_⟩
      rcases mem_tset hx with hx | rfl
      · exact h.2.2 x hx
      · exact wf_writeCell _ _ (h.2.2 _ (tget_mem hp))
    · exact h
  · exact h
  · exact h
  · exact memWf_modTeam h _ _
  · exact memWf_modTeam h _ _
  · split <;> exact h
  · exact memWf_modTeam (memWf_spoil h ..) _ _
  · exact memWf_modTeam (memWf_spoil h ..) _ _

theorem memWf_putBytes {s : State} (h : s.memWf) (ctx q : Nat) (ls : List Loc) (bs : List Byte) :
    (putBytes ctx q s ls bs).memWf := by
  induction ls generalizing s bs with
  | nil => exact h
  | cons l r ih =>
    cases bs with
    | nil => exact h
    | cons b bs => exact ih (memWf_putByte h ctx q l b) bs

theorem memWf_touchLeaf {s : State} (h : s.memWf) (a : Acc) (w : Bool) : (s.touchLeaf a w).memWf := by
  rcases touchLeaf_cases s a w with e | ⟨ea, x, _, e⟩ <;> rw [e]
  · exact h
  · exact memWf_mem h (wf_writeCell _ _ h.1)

theorem memWf_charge {s : State} (h : s.memWf) (a : Acc) : (s.charge a).memWf := by rw [charge_frame]; exact h

theorem memWf_chargeHbm {s : State} (h : s.memWf) (ctx n far : Nat) : (s.chargeHbm ctx n far).memWf := by rw [chargeHbm_frame]; exact h

theorem memWf_hotCount {s : State} (h : s.memWf) (a : Acc) : (s.hotCount a).memWf := by rw [hotCount_frame]; exact h

theorem memWf_countCorrected {s : State} (h : s.memWf) (l : List Nat) : (s.countCorrected l).memWf := by
  rw [countCorrected_frame]; exact h

theorem memWf_meetsCopy {s : State} (h : s.memWf) (w : Bool) : (s.meetsCopy w).memWf := h

theorem wf_foldCells {m : Mem} {α : Type} (l : List α) (k : α → Nat) (b : α → Byte) (h : Memory.wf m = true) :
    Memory.wf (l.foldl (fun m x => writeCell m (k x) (b x)) m) = true := by
  induction l generalizing m with
  | nil => exact h
  | cons x r ih => exact ih (wf_writeCell _ _ h)

theorem memWf_flushWhere {s : State} (h : s.memWf) (p : PubWrite → Bool) : (s.flushWhere p).memWf :=
  ⟨h.1, wf_foldCells _ (fun w : PubWrite => w.addr) (·.val) h.2.1, h.2.2⟩

theorem memWf_flushQueues {s : State} (h : s.memWf) (p : PubWrite → Bool) : (s.flushQueues p).memWf := memWf_flushWhere h _

theorem memWf_repairDone {s : State} (h : s.memWf) (i : Nat) : (s.repairDone i).memWf := by
  unfold State.repairDone
  simp only
  split
  · exact h
  · exact h
  · split <;> exact h

/-- Copies that end first move no byte of the flat memory. -/
theorem memWf_afterCopies {f : State → State} (hf : ∀ s, s.memWf → (f s).memWf) {s : State} (h : s.memWf) : (s.afterCopies f).memWf := by
  unfold State.afterCopies
  simp only
  split
  · exact hf _ (memWf_of_eq (memWf_forAll (fun s i h => memWf_repairDone h i) h _) rfl rfl rfl)
  · exact hf _ (memWf_of_eq h rfl rfl rfl)

theorem memWf_noteAccess {s : State} (h : s.memWf) (a : Acc) (w : Bool) : (s.noteAccess a w).memWf :=
  memWf_countCorrected (memWf_hotCount (memWf_charge (memWf_touchLeaf (memWf_flushWhere h _) a w) a) a) _

theorem memWf_afterRead {s : State} (h : s.memWf) (a : Acc) : (s.afterRead a).memWf :=
  memWf_countCorrected (memWf_noteAccess h a false) _

theorem memWf_readAll {s : State} (h : s.memWf) (ps : List Piece) : (s.readAll ps).memWf := by
  exact memWf_forAll (fun s p h => memWf_afterRead h p.acc) h _

theorem memWf_updateWord {s : State} (h : s.memWf) (t o : Nat) (f : Word64 → Word64) : (s.updateWord t o f).memWf := by
  unfold State.updateWord
  split
  · exact h
  · simp only; split <;> exact h

theorem memWf_poke {s : State} (h : s.memWf) (a : Acc) (bs : List Byte) : (s.poke a bs).memWf := by
  unfold State.poke
  exact memWf_forAll (fun s x h => memWf_updateWord h ..)
    (memWf_putBytes (memWf_noteAccess h a true) ..) _

theorem memWf_storeAll {s : State} (h : s.memWf) (ps : List Piece) (n : Nat) (f : Nat → Word64) :
    (s.storeAll ps n f).memWf := by
  exact memWf_forAll (fun s p h => memWf_poke h ..) h _

theorem memWf_loadVa {s s' : State} {ctx die : Nat} {lane : Bool} {va n : Nat} {bs : List Byte} (h : s.memWf)
    (e : s.loadVa ctx die lane va n = .ok (bs, s')) : s'.memWf := by
  obtain ⟨a, _, rfl⟩ := loadVa_state e
  split
  · exact memWf_meetsCopy h _
  · exact memWf_afterRead h a

theorem memWf_storeVa {s s' : State} {ctx die va : Nat} {bs : List Byte} (h : s.memWf)
    (e : s.storeVa ctx die va bs = .ok s') : s'.memWf := by
  unfold State.storeVa at e
  split at e
  · cases e
  · split at e
    · cases e
    · cases e
      split
      · exact memWf_meetsCopy h _
      · exact memWf_poke h ..

theorem memWf_writeHost {s : State} (h : s.memWf) (fn a : Nat) (bs : List Byte) : (writeHost s fn a bs).memWf := by
  unfold writeHost
  split
  · exact memWf_hostMem h (wf_writeBytes _ bs h.2.1)
  · exact h

theorem memWf_qcbWrite {s : State} (h : s.memWf) (f q off : Nat) (bs : List Byte) : (s.qcbWrite f q off bs).memWf := by
  unfold State.qcbWrite
  simp only
  split
  · exact memWf_writeHost h ..
  · split
    · exact h
    · exact memWf_mem h (wf_writeBytes _ _ h.1)

theorem memWf_setQState {s : State} (h : s.memWf) (f q : Nat) (st : QState) (code : Byte) : (s.setQState f q st code).memWf :=
  memWf_qcbWrite (s := s.setQueue f q _) h ..

theorem memWf_setHead {s : State} (h : s.memWf) (f q : Nat) (x : Word32) : (s.setHead f q x).memWf :=
  memWf_qcbWrite (s := s.setQueue f q _) h ..

theorem memWf_flushPublished {s : State} (h : s.memWf) (ctx : Nat) : (s.flushPublished ctx).memWf := memWf_flushWhere h _

theorem memWf_atomStep {s : State} (h : s.memWf) (a : Acc) (ty : BitVec 5) (op : Nat) (x y : Word64) :
    (s.atomStep a ty op x y).2.memWf :=
  memWf_poke (memWf_countCorrected (memWf_flushWhere h _) _) ..

/-- An atomic update of the front end or of a publication. -/
theorem memWf_updateAt {s : State} (h : s.memWf) (a : Acc) (f : Word64 → Word64) : (s.updateAt a f).memWf :=
  memWf_poke (memWf_countCorrected (memWf_flushWhere h _) _) ..

theorem memWf_publish {s : State} (h : s.memWf) (p : PubWrite → Bool) (a : Acc) : (s.publish p a).memWf :=
  memWf_updateAt (memWf_flushWhere h p) a _

theorem wf_movePage {m : Mem} (a b size : Nat) (h : Memory.wf m = true) : Memory.wf (movePage m a b size) = true :=
  wf_foldCells (α := Nat × Byte) _ (fun x => b + (x.1 - a)) (·.2) h

end Sys2Proof.Machine
end

