-- ==== Sys2Proof/Laws/Registers.lean ====
section
/-!
SUPPORT. What a write of vector registers or predicates leaves, thread by thread.
-/

namespace Sys2Proof.Machine

open Sys2Proof

theorem threadsOf_lt {m : Word64} {t : Nat} (h : t ∈ threadsOf m) : t < 64 := by
  simp only [threadsOf, List.mem_filter, List.mem_range] at h; exact h.1

theorem mem_active {h : Site} {t : Nat} : t ∈ h.active ↔ t < 64 ∧ h.mask.getLsbD t = true := by
  simp [Site.active, threadsOf]

theorem active_lt {h : Site} {t : Nat} (ht : t ∈ h.active) : t < 64 := (mem_active.1 ht).1

theorem acting_lt {h : Site} {t : Nat} (ht : t ∈ h.acting) : t < 64 := active_lt (List.mem_filter.1 ht).1

/-! ### Vector registers -/

theorem earlyFor_eq {h : Site} (he : h.early = false) (t : Nat) : h.earlyFor t = false := by
  unfold Site.early at he
  cases hz : h.hazard with
  | nil => simp [Site.earlyFor, hz]
  | cons x r => simp [hz] at he

theorem putV_eq {h : Site} (he : h.early = false) (n t : Nat) (x : Word32) (g : Group) (ty : BitVec 5) :
    g.putV h n t x ty = { g with
      v := writeCell g.v (n * 64 + t) x, pending := (g.clobber (.v n t)).pending, done := (g.clobber (.v n t)).done } := by
  simp only [Group.putV, earlyFor_eq he]
  unfold Group.clobber; split <;> rfl

/-- Writes that change vector registers only: the shape of the group after them. -/
def SameButV (g g' : Group) : Prop := g' = { g with v := g'.v, pending := g'.pending, done := g'.done }

theorem SameButV.trans {a b c : Group} (h : SameButV a b) (h' : SameButV b c) : SameButV a c := by
  unfold SameButV at *; rw [h', h]

theorem putV_sameBut {h : Site} (he : h.early = false) (n t : Nat) (x : Word32) (g : Group) (ty : BitVec 5) :
    SameButV g (g.putV h n t x ty) := by
  rw [putV_eq he]; rfl

theorem putElem_sameBut {h : Site} (he : h.early = false) (ty : BitVec 5) (n t : Nat) (x : Word64) (g : Group) :
    SameButV g (g.putElem h ty n t x) := by
  unfold Group.putElem Group.putPair
  split
  · exact (putV_sameBut he ..).trans (putV_sameBut he ..)
  · exact putV_sameBut he ..

theorem putElem_holds {h : Site} (he : h.early = false) (ty : BitVec 5) (n t : Nat) (x : Word64) (g : Group) :
    holds ty (g.putElem h ty n t x).v n t x := by
  unfold holds Group.putElem Group.putPair
  split
  · simp [putV_eq he]
  · simp [putV_eq he]

theorem putElem_other {h : Site} (he : h.early = false) (ty : BitVec 5) (d t : Nat) (x : Word64) (g : Group) {n u : Nat}
    (ht : t < 64) (hu : u < 64) (hn : ¬(n ∈ occupied ty d ∧ u = t)) :
    readCell (g.putElem h ty d t x).v (n * 64 + u) = readCell g.v (n * 64 + u) := by
  unfold occupied at hn
  unfold Group.putElem Group.putPair
  split
  · rename_i hw
    simp only [hw, if_true, List.mem_cons, List.not_mem_nil, or_false] at hn
    simp only [putV_eq he, readCell_writeCell]
    rw [if_neg (by omega), if_neg (by omega)]
  · rename_i hw
    simp only [hw, if_false, List.mem_cons, List.not_mem_nil, or_false, Bool.false_eq_true] at hn
    simp only [putV_eq he, readCell_writeCell]
    rw [if_neg (by omega)]

theorem putElem_pending {h : Site} (he : h.early = false) (ty : BitVec 5) (d t : Nat) (x : Word64) (g : Group)
    (hf : ∀ n ∈ occupied ty d, g.awaits (.v n t) = false) :
    (g.putElem h ty d t x).pending = g.pending ∧ (g.putElem h ty d t x).done = g.done := by
  unfold occupied at hf
  unfold Group.putElem Group.putPair
  split
  · rename_i hw
    simp only [hw, if_true, List.mem_cons, List.not_mem_nil, or_false, forall_eq_or_imp, forall_eq] at hf
    simp only [putV_eq he, clobber_of_not_awaits hf.1]
    rw [clobber_of_not_awaits (by simpa [Group.awaits] using hf.2)]
    exact ⟨rfl, rfl⟩
  · rename_i hw
    simp only [hw, if_false, List.mem_cons, List.not_mem_nil, or_false, forall_eq, Bool.false_eq_true] at hf
    simp [putV_eq he, clobber_of_not_awaits hf]

theorem awaits_congr {g g' : Group} (h : g'.pending = g.pending ∧ g'.done = g.done) (d : Dest) :
    g'.awaits d = g.awaits d := by
  simp [Group.awaits, h]

/-- The fold of `writeElems` over its threads. -/
theorem writeElems_fold {h : Site} (he : h.early = false) (ty : BitVec 5) (d : Nat) (f : Nat → Word64) (ts : List Nat)
    (hts : ∀ t ∈ ts, t < 64) (g : Group) :
    let g' := ts.foldl (fun g t => g.putElem h ty d t (f t)) g
    SameButV g g' ∧ (∀ t ∈ ts, holds ty g'.v d t (f t)) ∧
    (∀ n t, t < 64 → ¬(n ∈ occupied ty d ∧ t ∈ ts) → readCell g'.v (n * 64 + t) = readCell g.v (n * 64 + t)) ∧
    (freeOfLate g (occupied ty d) ts → g'.pending = g.pending ∧ g'.done = g.done) := by
  induction ts generalizing g with
  | nil => exact ⟨rfl, by simp, by simp, fun _ => ⟨rfl, rfl⟩⟩
  | cons a r ih =>
    have ha := hts a (by simp)
    obtain ⟨h1, h2, h3, h4⟩ := ih (fun t ht => hts t (by simp [ht])) (g.putElem h ty d a (f a))
    refine ⟨(putElem_sameBut he ..).trans h1, ?_, ?_, ?_⟩
    · intro t ht
      by_cases hr : t ∈ r
      · exact h2 t hr
      · have hta : t = a := by simpa [hr] using ht
        subst hta
        have hh := putElem_holds he ty d t (f t) g
        unfold holds at *
        simp only [List.foldl_cons]
        split
        · rename_i hw
          rw [if_pos hw] at hh
          rw [h3 _ _ ha (by simp [hr]), h3 _ _ ha (by simp [hr])]; exact hh
        · rename_i hw
          rw [if_neg hw] at hh
          rw [h3 _ _ ha (by simp [hr])]; exact hh
    · intro n t ht hn
      simp only [List.foldl_cons]
      rw [h3 n t ht (fun hc => hn ⟨hc.1, by simp [hc.2]⟩)]
      exact putElem_other he ty d a (f a) g ha ht (fun hc => hn ⟨hc.1, by simp [hc.2]⟩)
    · intro hf
      have hp := putElem_pending he ty d a (f a) g (fun n hn => hf n hn a (by simp))
      simp only [List.foldl_cons]
      have h5 := h4 fun n hn t ht => by rw [awaits_congr hp]; exact hf n hn t (by simp [ht])
      exact ⟨h5.1.trans hp.1, h5.2.trans hp.2⟩

theorem sameButV_splits {g g' : Group} (h : SameButV g g') : g'.splits = g.splits := by rw [h]

/-- An instruction whose whole effect is to write an element of some threads. -/
theorem writesV {s : State} {h : Site} {i : Instr} {ty : BitVec 5} {d : Nat} {ts : List Nat} {f : Nat → Word64}
    (ht : Timely s h) (hts : ∀ t ∈ ts, t < 64) (hi : exec i s = .next ((s.writeElems h ty d ts f).advance h)) :
    WritesV s h i false ty d ts f := by
  obtain ⟨h1, h2, h3, h4⟩ := writeElems_fold (early_of_timely ht) ty d f ts hts h.g
  refine ⟨_, _, _, ?_, h2, h3, h4⟩
  unfold Leaves
  rw [hi, State.writeElems, advance_modGroup _ ht.1.1 (sameButV_splits h1), ← h1]

theorem writesV_drain {s : State} {h : Site} {i : Instr} {ty : BitVec 5} {d : Nat} {ts : List Nat} {f : Nat → Word64}
    (ht : Timely s h) (hts : ∀ t ∈ ts, t < 64) (hi : exec i s = .next (((s.writeElems h ty d ts f).advance h).drain h)) :
    WritesV s h i true ty d ts f := by
  obtain ⟨h1, h2, h3, h4⟩ := writeElems_fold (early_of_timely ht) ty d f ts hts h.g
  refine ⟨_, _, _, ?_, h2, h3, h4⟩
  unfold Leaves
  rw [hi, State.writeElems, advance_modGroup _ ht.1.1 (sameButV_splits h1),
    drain_withGroup _ (by rw [sameButV_splits h1]; exact site_lt ht.1.1), ← h1]

/-- A write of whole 32-bit registers is a write of elements of type u32. -/
theorem writeV_eq (s : State) (h : Site) (d : Nat) (ts : List Nat) (f : Nat → Word32) :
    s.writeV h d ts f = s.writeElems h 6 d ts fun t => (f t).setWidth 64 := by
  have hx : ∀ x : Word32, (extendPat 6 (x.setWidth 64)).setWidth 32 = x := by
    intro x
    unfold extendPat lowBits
    rw [if_neg (by decide), if_neg (by decide), show tyWidth 6 = 32 from by decide]
    apply BitVec.eq_of_toNat_eq
    simp only [BitVec.toNat_setWidth, BitVec.toNat_ofNat]
    omega
  have : ∀ (g : Group) (t : Nat), g.putV h d t (f t) = g.putElem h 6 d t ((f t).setWidth 64) := by
    intro g t
    unfold Group.putElem
    rw [if_neg (by decide), hx]
  simp only [State.writeV, State.writeElems, this]

/-- The checks of the operands pass. -/
theorem typed_ok {h : Site} {ty : BitVec 5} {elems plain : List Nat} (ho : OperandsOk h ty elems plain) :
    h.typed ty elems plain = .ok () := by
  have h2 : h.allotted (elems ++ plain) = .ok () := by
    unfold Site.allotted need
    rw [if_pos (List.all_eq_true.2 fun n hn => decide_eq_true (ho.2 n hn))]
  unfold Site.typed
  cases hw : tyWide ty
  · simp only [Bool.false_eq_true, if_false, evenAll, need, List.all_nil, if_true, h2]
  · have : evenAll elems = .ok () := by
      unfold evenAll need
      rw [if_pos (by simpa [List.all_eq_true] using ho.1 hw)]
    simp only [if_true, this, h2]

theorem allotted_ok {h : Site} {ns : List Nat} (ho : ∀ n ∈ ns, n < 8 * h.g.vgran) : h.allotted ns = .ok () := by
  unfold Site.allotted need
  rw [if_pos (by simpa [List.all_eq_true] using ho)]

theorem accepts_ok {h : Site} {f : BitVec 5 → Bool} (hf : f h.ty = true) : h.accepts f = .ok () := by
  simp [Site.accepts, need, hf]

/-! ### Predicates -/

theorem withBit_getLsbD (p : Word64) (t u : Nat) (b : Bool) (hu : u < 64) :
    (withBit p t b).getLsbD u = if u = t then b else p.getLsbD u := by
  have hp : (BitVec.ofNat 64 (2 ^ t)).getLsbD u = decide (t = u) := by
    rw [BitVec.getLsbD_ofNat, Nat.testBit_two_pow]; simp [hu]
  unfold withBit
  cases b
  · rw [if_neg (by simp), BitVec.getLsbD_and, BitVec.getLsbD_not, hp]
    by_cases h : u = t
    · simp [h]
    · simp [h, Ne.symm h, hu]
  · rw [if_pos rfl, BitVec.getLsbD_or, hp]
    by_cases h : u = t
    · simp [h]
    · simp [h, Ne.symm h]

theorem mergeBits_getLsbD (ts : List Nat) (f : Nat → Bool) (p : Word64) (u : Nat) (hu : u < 64) :
    (mergeBits p ts f).getLsbD u = if u ∈ ts then f u else p.getLsbD u := by
  unfold mergeBits
  induction ts generalizing p with
  | nil => simp
  | cons a r ih =>
    simp only [List.foldl_cons, ih, withBit_getLsbD _ _ _ _ hu, List.mem_cons]
    by_cases hr : u ∈ r
    · simp [hr]
    · by_cases ha : u = a
      · subst ha; simp [hr]
      · simp [hr, ha]

theorem writesP {s : State} {h : Site} {i : Instr} {d : Nat} {f : Nat → Bool} (ht : Timely s h)
    (hi : exec i s = .next ((s.writeP h d h.acting f).advance h)) : WritesP s h i d f := by
  refine ⟨writeCell h.g.p d (mergeBits (readCell h.g.p d) h.acting f), ?_, ?_, fun n hn => by simp [hn]⟩
  · unfold Leaves
    rw [hi, State.writeP, advance_modGroup _ ht.1.1 (by simp [Group.putP])]
    simp [Group.putP, earlyFor_eq (early_of_timely ht)]
  · intro t h64
    simp [mergeBits_getLsbD _ _ _ _ h64]

end Sys2Proof.Machine
end

