-- ==== Sys2Proof/Tests/Slice0.lean ====
section
/-!
SUPPORT. Tests: words of the spec's encodings, ill-formed terms, a state that meets the hypotheses of each statement, and
single steps whose results the spec gives.
-/

namespace Sys2Proof.Tests

open Sys2Proof Machine

set_option Elab.async false

/-! ### States -/

/-- One group of 16 threads on core 0, about to issue the word `w` (State.withFetchWord). -/
def at' (w : Nat) : State := State.reset.withFetchWord 32 w
def s0 : State := at' 0x12000000

def inGroup (f : Group → Group) (s : State) : State := { s with groups := tmap s.groups fun _ g => f g }
def inSplit (f : Split → Split) : State → State := inGroup fun g => g.setSplit 0 (f (g.split 0))
def inLaunch (f : Launch → Launch) (s : State) : State := { s with launches := tmap s.launches fun _ l => f l }
def inTeam (f : Team → Team) (s : State) : State := { s with teams := tmap s.teams fun _ t => f t }
def inCtx (f : Context → Context) (s : State) : State := { s with ctxs := tmap s.ctxs fun _ c => f c }
def setK (n : Nat) (x : Word64) : State → State := inGroup fun g => { g with k := writeCell g.k n x }
def setV (n : Nat) (f : Nat → Word32) : State → State :=
  inGroup fun g => { g with v := (List.range 16).foldl (fun v t => writeCell v (n * 64 + t) (f t)) g.v }
def setP (n : Nat) (x : Word64) : State → State := inGroup fun g => { g with p := writeCell g.p n x }
def setMode (m : Word32) : State → State := inSplit fun x => { x with mode := m }
def setKd (f : KDesc → KDesc) : State → State := inLaunch fun l => { l with kd := f l.kd }
def setFlags (x : Word32) : State → State := setKd fun k => { k with kflags := x }
/-- `n` bytes at a virtual address of the first GiB. -/
def setMem (va n v : Nat) (s : State) : State := { s with mem := writeLe s.mem (0x40000000 + va) n v }
/-- Tensor identifier `i`. -/
def setId (i : Nat) (bs : List Byte) : State → State := inCtx fun c => { c with ids := writeBytes c.ids (64 * i) bs }

/-! ### Finding a site that meets a condition -/

def siteSat (s : State) (p : Site → Prop) [∀ h, Decidable (p h)] : Bool :=
  match s.site? with
  | some h => !h.sp.stopped && !(h.sp.draining && h.g.hasPending h.ix) && modeValid h.sp.mode && decide (h.hazard = []) &&
      decide (p h)
  | none => false

def okAnd {ε α : Type} (e : Except ε α) (p : α → Prop) [∀ x, Decidable (p x)] : Bool :=
  match e with
  | .ok x => decide (p x)
  | .error _ => false

theorem timely_of {s : State} {p : Site → Prop} [∀ h, Decidable (p h)] (w : siteSat s p = true) : ∃ h, Timely s h ∧ p h := by
  unfold siteSat at w
  split at w
  · rename_i h e
    simp only [Bool.and_eq_true, Bool.not_eq_true', decide_eq_true_eq] at w
    exact ⟨h, ⟨⟨e, w.1.1.1.1, w.1.1.1.2, w.1.1.2⟩, w.1.2⟩, w.2⟩
  · exact absurd w (by simp)

theorem ok_of {ε α : Type} {e : Except ε α} {p : α → Prop} [∀ x, Decidable (p x)] (w : okAnd e p = true) :
    ∃ x, e = .ok x ∧ p x := by
  unfold okAnd at w
  split at w
  · exact ⟨_, rfl, of_decide_eq_true w⟩
  · exact absurd w (by simp)

theorem timely_ok {α : Type} {s : State} {e : Site → Except Stop α} {p : Site → α → Prop} [∀ h x, Decidable (p h x)]
    (w : siteSat s (fun h => okAnd (e h) (p h) = true) = true) : ∃ h, Timely s h ∧ ∃ x, e h = .ok x ∧ p h x :=
  let ⟨h, t, x⟩ := timely_of w
  ⟨h, t, ok_of x⟩

/-- What a next state holds. -/
def after (r : Host.Outcome State Fault Refusal) (p : State → Bool) : Bool :=
  match r with
  | .next t => p t
  | _ => false

def group0 (s : State) (p : Group → Bool) : Bool := match s.group? 0 0 with | some g => p g | none => false
def kIs (n : Nat) (x : Word64) (s : State) : Bool := group0 s fun g => readCell g.k n == x
def vIs (n t : Nat) (x : Word32) (s : State) : Bool := group0 s fun g => readCell g.v (n * 64 + t) == x
def pIs (n : Nat) (x : Word64) (s : State) : Bool := group0 s fun g => readCell g.p n == x
/-- Split 0 stopped on the trap core for a cause. -/
def trapped (c : Cause) (s : State) : Bool := group0 s fun g => ((g.split 0).trap.map (·.cause)) == some c

/-! ### Words written out from the encoding tables (12 R244, R255 to R263; 13 to 16) -/

theorem test_decode_control : decode 0x12000000 = .ok .exit ∧ decode 0x04010002 = .ok (.brp 1 2) ∧
    decode 0x0A0A0002 = .ok (.call 10 2) ∧ decode 0x10000A00 = .ok (.ret 10) ∧ decode 0x0801FFFE = .ok (.bruNz 1 0xFFFE) ∧
    decode 0x16000021 = .ok (.enter 0x21) ∧ decode 0x17000000 = .ok .leave ∧ decode 0x12400000 = .ok .nret ∧
    decode 0x12100000 = .ok .yield ∧ decode 0x12200005 = .ok (.brk 5) ∧ decode 0x12300007 = .ok (.trap 7) := by decide

theorem test_decode_system : decode 0x18010002 = .ok (.mode 1 2) ∧ decode 0x18030029 = .ok (.mode 3 0x29) ∧
    decode 0x1900000F = .ok (.modeGd 3 1 1) ∧ decode 0x1C07000C = .ok (.rsr 7 12) ∧ decode 0x1C010000 = .ok (.rsr 1 0) := by decide

theorem test_decode_uniform : decode 0x20010010 = .ok (.kli 1 16) ∧ decode 0x2004FFFE = .ok (.kli 4 0xFFFE) ∧
    decode 0x22C41234 = .ok (.klih 3 4 0x1234) ∧ decode 0x35050444 = .ok (.kshrImm 5 4 4) ∧
    decode 0x29010101 = .ok (.ksubImm 1 1 1) ∧ decode 0x26030301 = .ok (.kadd 3 3 1) ∧
    decode 0x38060309 = .ok (.kcmp 0 6 3 9) := by decide

theorem test_decode_vector : decode 0x47080801 = .ok (.vaddUniform 8 8 1) ∧ decode 0x63120104 = .ok (.vcmpUniform 2 2 1 4) ∧
    decode 0x4A020101 = .ok (.vmul 2 1 1) ∧ decode 0x68010001 = .ok (.pset 1 1) ∧ decode 0x70030102 = .ok (.fadd 3 1 2) ∧
    decode 0x75030202 = .ok (.fmulUniform 3 2 2) ∧ decode 0x7C020100 = .ok (.fabs 2 1) ∧ decode 0xA0020108 = .ok (.cvt 2 1 8) ∧
    decode 0xA7040205 = .ok (.bsclUniform 4 2 5) ∧ decode 0xA2050104 = .ok (.bpak 5 1 4) ∧
    decode 0xA4060504 = .ok (.bunp 6 5 4) := by decide

theorem test_decode_lanes : decode 0xB3030201 = .ok (.shfxImm 3 2 1) ∧ decode 0xB4060202 = .ok (.vbal 6 2) ∧
    decode 0xB6070200 = .ok (.gred 7 2 0) := by decide

theorem test_decode_memory : decode 0xC0020102 = .ok (.ld 0 2 1 2) ∧ decode 0xC2020102 = .ok (.st 0 2 1 2) ∧
    decode 0xCA020140 = .ok (.sts 2 1 0x40) ∧ decode 0xC8030140 = .ok (.lds 3 1 0x40) ∧ decode 0xD0000000 = .ok (.lwait 0) ∧
    decode 0xE0030402 = .ok (.atom 3 4 0 2) ∧ decode 0xE4040203 = .ok (.dqpush 4 2 3) ∧ decode 0xE405020B = .ok (.dqpop 5 2 3) ∧
    decode 0xE4060213 = .ok (.dqsteal 6 2 3) ∧ decode 0xE6020100 = .ok (.bari 2 1 0) ∧ decode 0xE6000103 = .ok (.bara 1) ∧
    decode 0xE6040104 = .ok (.barx 4 1) ∧ decode 0xEA000000 = .ok (.pub 0) := by decide

theorem test_decode_engines : decode 0xF2060203 = .ok (.cpy 6 2 3) ∧ decode 0xF4000000 = .ok .bclose ∧
    decode 0xF5000700 = .ok (.bwait 7) ∧ decode 0xF8800001 = .ok (.tld 0 1) ∧ decode 0xF8400000 = .ok (.accz 0) ∧
    decode 0xF8000002 = .ok (.mma 0 0 0 2) ∧ decode 0xF8600003 = .ok (.accrd 0 3) ∧ decode 0xF8A00000 = .ok .fenop ∧
    decode 0xF8E00000 = .ok .mwait ∧ decode 0xFA040200 = .ok (.calookLeaf 4 2 0) ∧ decode 0xFA060430 = .ok (.carswap 6 4 0) ∧
    decode 0xFA000850 = .ok (.cadrop 8 0) ∧ decode 0xFD040200 = .ok (.fnewU 4 2) ∧ decode 0xFD0008C0 = .ok (.contU 8) ∧
    decode 0xFD000140 = .ok (.fretU 1) := by decide

/-- Reserved bits and unassigned opcodes (12 R264). -/
theorem test_decode_rejects : decode 0x21010010 = .error .reserved ∧ decode 0x12000001 = .error .reserved ∧
    decode 0xFE000000 = .error .illegal ∧ decode 0x1E000000 = .error .illegal := by decide

/-- The bits of a table row, as the host numbers them, reach the decoder. -/
theorem test_table_word : decodeTableWord 32 0x20010010 = some (.kli 1 16) ∧ decodeTableWord 32 0xFE000000 = none := by decide

/-! ### Ill-formed terms -/

theorem test_wf_klih : (Instr.klih 0 1 5).wf = false ∧ (Instr.klih 1 1 5).wf = true := by decide
theorem test_wf_conditions : (Instr.kcmp 6 1 2 3).wf = false ∧ (Instr.vcmp 6 1 2 3).wf = false ∧ (Instr.vcmpUniform 7 1 2 3).wf = false ∧
    (Instr.kcmp 5 1 2 3).wf = true := by decide
theorem test_wf_cvt : (Instr.cvt 1 2 0x0D).wf = false ∧ (Instr.cvt 1 2 0x0C).wf = true := by decide
theorem test_wf_reductions : (Instr.gred 1 2 6).wf = false ∧ (Instr.gscan 1 2 7).wf = false ∧ (Instr.gred 1 2 5).wf = true := by decide
theorem test_wf_scopes : (Instr.lda 5 1 2 3).wf = false ∧ (Instr.stl 5 1 2 3).wf = false ∧ (Instr.fence 5).wf = false ∧
    (Instr.dqpush 1 2 5).wf = false ∧ (Instr.dqpop 1 2 5).wf = false ∧ (Instr.dqsteal 1 2 5).wf = false ∧
    (Instr.fence 4).wf = true := by decide
theorem test_wf_atomics : (Instr.atom 1 2 8 0).wf = false ∧ (Instr.atomr 1 2 6 0).wf = false ∧ (Instr.atom 1 2 7 5).wf = false ∧
    (Instr.atom 1 2 7 4).wf = true := by decide
theorem test_wf_mode : (Instr.mode 0 2).wf = false ∧ (Instr.mode 1 0x20).wf = false ∧ (Instr.mode 1 2).wf = true := by decide
theorem test_wf_system : (Instr.rsr 1 0x0E).wf = false ∧ (Instr.rsr 64 1).wf = false ∧ (Instr.rsr 64 0).wf = true ∧
    (Instr.wsr 1 5).wf = false ∧ (Instr.wsr 1 6).wf = true := by decide
theorem test_wf_disp : (Instr.disp 0 1).wf = false ∧ (Instr.disp 1 1).wf = true := by decide
theorem test_wf_event_links : (Instr.hotReset 2).wf = false ∧ (Instr.functionLevelReset 17).wf = false ∧
    (Instr.linkDown 2).wf = false ∧ (Instr.solderCrcRetry 4 true).wf = false ∧ (Instr.portDown 16).wf = false ∧
    (Instr.linkDown 1).wf = true ∧ (Instr.functionLevelReset 16).wf = true ∧ (Instr.portDown 15).wf = true := by decide
theorem test_wf_event_stacks : (Instr.patrolScrub 8).wf = false ∧ (Instr.rowRepair 8 0 0 0).wf = false ∧
    (Instr.repairCopyDone 8).wf = false ∧ (Instr.rowHammer 17 0 0 0).wf = false ∧ (Instr.rowHammer 0 8 0 0).wf = false ∧
    (Instr.hammerWindowEnd 8).wf = false ∧ (Instr.patrolScrub 7).wf = true := by decide
theorem test_wf_event_dies : (Instr.thermalLimit 4 0).wf = false ∧ (Instr.droop 4).wf = false ∧ (Instr.droopRecover 4).wf = false ∧
    (Instr.lockstepMismatch 4).wf = false ∧ (Instr.frontEndCheckpoint 4).wf = false ∧ (Instr.teamDispatch 4).wf = false ∧
    (Instr.dieIdle 4).wf = false ∧ (Instr.stealReq 4).wf = false ∧ (Instr.stealGive 4).wf = false ∧ (Instr.stealNone 4).wf = false ∧
    (Instr.stealDone 4).wf = false ∧ (Instr.gatherTimeout 4 0).wf = false ∧ (Instr.joinRecordEnqueue 4).wf = false ∧
    (Instr.pageMigration 4).wf = false ∧ (Instr.droop 3).wf = true := by decide
theorem test_wf_event_functions : (Instr.registerWrite 0 ⟨0, 17⟩ 0 8 0).wf = false ∧ (Instr.doorbell ⟨0, 17⟩ 0 8 0).wf = false ∧
    (Instr.registerWrite 0 ⟨2, 0⟩ 0 8 0).wf = false ∧ (Instr.doorbell ⟨2, 0⟩ 0 8 0).wf = false ∧
    (Instr.qcmdReset 17 0).wf = false ∧ (Instr.qpcmdReset 17 0).wf = false ∧ (Instr.qpcmdEnable 17 0).wf = false ∧
    (Instr.qpcmdDisable 17 0).wf = false ∧ (Instr.gcntRefresh 17).wf = false ∧ (Instr.doorbell ⟨1, 16⟩ 0 8 0).wf = true := by decide
theorem test_wf_event_cores : (Instr.squeeze 160).wf = false ∧ (Instr.squeezeHandover 160).wf = false ∧
    (Instr.switchInRestore 160).wf = false ∧ (Instr.saveDrainDone 160).wf = false ∧ (Instr.expansion 160).wf = false ∧
    (Instr.trapTake 160).wf = false ∧ (Instr.groupStateWrite 160 0 0 0).wf = false ∧ (Instr.groupStateWrite 0 64 0 0).wf = false ∧
    (Instr.pcSample 160 0).wf = false ∧ (Instr.pcSample 0 4).wf = false ∧ (Instr.matrixRetire 160).wf = false ∧
    (Instr.squeeze 159).wf = true := by decide


/-! ### States that meet the hypotheses: instructions -/

theorem witness_UniformArithmetic : ∃ h, Timely s0 h ∧ h.g.splits.length = 4 := timely_of (by decide +kernel)
theorem witness_UniformChoice : (∃ h, Timely s0 h ∧ h.g.width = 16) ∧ 5 < (6 : BitVec 3).toNat :=
  ⟨timely_of (by decide +kernel), by decide⟩

/-- Under i32, i64 (pairs), and with a uniform source. -/
theorem witness_VectorArithmetic : ∃ h, Timely (setMode 2 s0) h ∧ tyIsInt h.ty = true ∧
    OperandsOk h h.ty [1, 2, 255] [] ∧ OperandsOk h h.ty [1, 2] [] := by
  unfold OperandsOk; exact timely_of (by decide +kernel)
theorem witness_VectorArithmetic_pairs : ∃ h, Timely (setMode 3 s0) h ∧ tyIsInt h.ty = true ∧ OperandsOk h h.ty [254, 2, 4] [] := by
  unfold OperandsOk; exact timely_of (by decide +kernel)

theorem witness_VectorBits : ∃ h, Timely (setMode 3 s0) h ∧ OperandsOk h 6 [255] [] ∧ tyScalar h.ty = true ∧
    OperandsOk h h.ty [2, 4, 6] [] ∧ OperandsOk h h.ty [2, 4] [7] ∧ tyIsInt h.ty = true := by
  unfold OperandsOk; exact timely_of (by decide +kernel)

theorem witness_Predicates : (∃ h, Timely (setMode 2 s0) h ∧ tyIsInt h.ty = true ∧ OperandsOk h h.ty [1, 2] []) ∧
    5 < (7 : BitVec 3).toNat := by
  unfold OperandsOk; exact ⟨timely_of (by decide +kernel), by decide⟩

theorem witness_FloatArithmetic : ∃ h, Timely s0 h ∧ tyIsFloat h.ty = true ∧ OperandsOk h h.ty [3, 1, 2] [] ∧
    OperandsOk h h.ty [255, 0] [] := by unfold OperandsOk; exact timely_of (by decide +kernel)
theorem witness_FloatCompare : ∃ h, Timely (setMode 9 s0) h ∧ tyIsFloat h.ty = true ∧ OperandsOk h h.ty [1, 2] [] ∧
    OperandsOk h 6 [3, 1] [] := by unfold OperandsOk; exact timely_of (by decide +kernel)

/-- cvt to i64 from f32, and a block format. -/
theorem witness_Conversions : ¬(0x0D : BitVec 5).toNat ≤ 12 ∧
    (∃ h, Timely (setMode 3 s0) h ∧ tyScalar h.ty = true ∧ OperandsOk h h.ty [2] [1] ∧ OperandsOk h 8 [1] []) ∧
    ∃ h, Timely (setMode 0x18 s0) h ∧ tyIsBfp h.ty = true ∧ OperandsOk h 6 [5, 1, 4] [] ∧ OperandsOk h 6 [4, 2] [] := by
  unfold OperandsOk; exact ⟨by decide, timely_of (by decide +kernel), timely_of (by decide +kernel)⟩

theorem witness_Lanes : ∃ h, Timely (setMode 2 s0) h ∧ tyScalar h.ty = true ∧ OperandsOk h h.ty [3, 2] [1] ∧
    OperandsOk h h.ty [3, 2] [] ∧ redAccepts 5 h.ty = true ∧ OperandsOk h h.ty [2] [] := by
  unfold OperandsOk; exact timely_of (by decide +kernel)

/-- A branch that divides: 8 threads of the mask take it, and there is a free entry. -/
theorem witness_Branches : ∃ h, Timely (setP 1 0xFF00 s0) h ∧ h.g.splits.length = 4 ∧ h.mask &&& h.pr 1 ≠ 0 ∧
    h.mask &&& ~~~(h.pr 1) ≠ 0 ∧ h.g.divideReady h.ix 8 12 = true ∧ h.g.freeEntry = some 1 := timely_of (by decide +kernel)

/-- A late instruction of split 0 that is to write K[n]. -/
def lateK (n : Nat) : Pending := { id := 0, split := 0, waits := 1, dests := [.k n], results := [], clobbered := [] }
def awaitK (n : Nat) : State → State := inGroup fun g => { g with pending := [lateK n], nextPending := 1 }
/-- A target inside a packet and one at its schedule word; a dispatch table of two entries, the second of them no target. -/
def sJump : State := setK 1 1 (setK 2 4 (setK 3 0x20 (setKd (fun k => { k with dispatch := 0x100, dispatchN := 2 })
  (setMem 0x100 8 4 (setMem 0x108 8 0x20 s0)))))
/-- The piece with which an entry is read. -/
def entryOf (h : Site) (i : Nat) (x : Acc) : Piece := { t := 0, va := h.l.kd.dispatch + BitVec.ofNat 64 (8 * i), acc := { x with q := h.l.q } }
theorem witness_Transfers : ∃ h, Timely sJump h ∧ targetOk (h.sp.pc + 4 * (1 : BitVec 16).signExtend 64) = true ∧
    targetOk (h.sp.pc + 4 * (0x1F : BitVec 16).signExtend 64) = false ∧ targetOk (h.targetReg 2) = true ∧ targetOk (h.targetReg 3) = false ∧
    h.g.awaits (.k 2) = false ∧ h.l.kd.dispatchN ≤ (h.kr 2).toNat ∧ (h.kr 0).toNat < h.l.kd.dispatchN ∧ (h.kr 1).toNat < h.l.kd.dispatchN ∧
    ∀ i ∈ [0, 1], okAnd (sJump.resolve h.ctx h.die false (0x100 + 8 * i) 8 .read) (fun x =>
      (mustWait sJump h [entryOf h i x] = false ∧ sJump.accBad (entryOf h i x).acc = false) ∧
      targetOk (BitVec.ofNat 64 (leNat (sJump.peek (entryOf h i x).acc))) = (i == 0)) = true := timely_of (by decide +kernel)
theorem witness_Transfers_late : ∃ h, Timely (awaitK 2 sJump) h ∧ h.g.awaits (.k 2) = true := timely_of (by decide +kernel)

theorem witness_Exit : ∃ h, Timely s0 h ∧ h.g.hasPending h.ix = false ∧ h.l.isFrames = false ∧ h.g.charges = [] ∧
    (∀ f ∈ s0.frames, f.ctx ≠ h.ctx) := timely_of (by decide +kernel)
theorem witness_Exit_late : ∃ h, Timely (awaitK 2 s0) h ∧ h.g.hasPending h.ix = true := timely_of (by decide +kernel)
theorem witness_Yield : ∃ h, Timely s0 h ∧ h.g.liveSplits = [0] := timely_of (by decide +kernel)
theorem witness_TrapsAndNotices : (∃ h, Timely (setK 62 0x24 s0) h ∧ h.undefK 62 = false ∧ targetOk (h.targetReg 62) = true ∧
      h.g.npend = false ∧ h.g.hasPending h.ix = false) ∧
    (∃ h, Timely (setK 62 0x20 (inGroup (fun g => { g with npend := true }) s0)) h ∧ targetOk (h.targetReg 62) = false ∧ h.g.npend = true) ∧
    ∃ h, Timely (awaitK 62 s0) h ∧ h.undefK 62 = true ∧ h.g.hasPending h.ix = true :=
  ⟨timely_of (by decide +kernel), timely_of (by decide +kernel), timely_of (by decide +kernel)⟩
theorem witness_Regions : ∃ h, Timely (inGroup (fun g => { g with region := [1, 2, 3, 4, 5, 6, 7, 8] }) s0) h ∧
    h.g.region.length ≤ 8 := timely_of (by decide +kernel)
theorem witness_ModeWrites : (∃ h, Timely (setK 5 0x29 (setK 6 0xA0 s0)) h ∧ modeValid (0x000F0029 : Word32) = true ∧
      modeValid (0xA0 : Word32) = false ∧ h.undefK 5 = false ∧ modeValid (h.modeReg 5) = true ∧ modeValid (h.modeReg 6) = false) ∧
    ∃ h, Timely (awaitK 5 s0) h ∧ h.undefK 5 = true := ⟨timely_of (by decide +kernel), timely_of (by decide +kernel)⟩
theorem witness_SystemRegisters : (∃ h, Timely s0 h ∧ OperandsOk h 6 [255] []) ∧ 13 < (14 : BitVec 8).toNat ∧ (5 : BitVec 8) ≠ 6 := by
  unfold OperandsOk; exact ⟨timely_of (by decide +kernel), by decide⟩
theorem witness_UnassignedOpcodes : ((0xFE000000 : Word32).extractLsb' 25 7).toNat = 0x7F ∧ ∃ h, Timely s0 h ∧ h.mask = 0xFFFF :=
  ⟨by decide, timely_of (by decide +kernel)⟩
theorem witness_TrapStopsTheSplit : Cause.fatal .brk = false ∧ ∃ h, Timely s0 h ∧ h.ix = 0 := ⟨by decide, timely_of (by decide +kernel)⟩
theorem witness_FatalEndsTheContext : Cause.fatal .memUncorr = true ∧ (s0.ctx? 0).isSome = true ∧ (0, 0) ∈ s0.queuesOf 0 ∧ (s0.queue 0 0).state = .active ∧
    s0.launches ≠ [] ∧ s0.teams ≠ [] ∧ s0.groups ≠ [] := by decide +kernel

/-- An atomic of the group that is on its way. -/
def owed0 : AtomReq :=
  { ctx := 0, team := 2, op := 0, ty := 6, scope := 2, addr := 0x4000, acc := ⟨0, 0, [.hbm 0x40004000], none, 0, 0, []⟩, brings := .one 2 3, v2 := 0,
    core := 0, entry := 0, back := none, riders := [], pc := 4 }

/-- Threads 0 to 15 access the words from 0x4000 on. -/
def sMem : State := setK 2 0x4000 (setV 1 (fun t => BitVec.ofNat 32 (4 * t)) s0)

theorem witness_ThreadLoads : ∃ h, Timely sMem h ∧ ∃ ps, Accesses sMem h .read (vaOf h false 1 2) ps ∧
    (tyScalar h.ty = true ∧ h.sp.loadCnt < 63 ∧ Served sMem h true ps) := by
  unfold Accesses Served; exact timely_ok (by decide +kernel)
/-- Behind an atomic of the group, lda waits. -/
theorem witness_ThreadLoads_ahead : (∃ h, Timely sMem h ∧ atomsDone sMem h = .ok ()) ∧
    ∃ h, Timely { sMem with atoms := [owed0] } h ∧ atomsDone { sMem with atoms := [owed0] } h ≠ .ok () :=
  ⟨timely_of (by decide +kernel), timely_of (by decide +kernel)⟩
theorem witness_ThreadLoads_local : ∃ h, Timely sMem h ∧ ∃ ps, LocalAccesses sMem h (offOf h 1 0x40) ps ∧
    (OperandsOk h h.ty [3] [1] ∧ Served sMem h true ps) := by
  unfold LocalAccesses Served OperandsOk; exact timely_ok (by decide +kernel)
theorem witness_ThreadStores : ∃ h, Timely sMem h ∧ ∃ ps, Accesses sMem h .write (vaOf h true 1 2) ps ∧
    (atomsDone sMem h = .ok () ∧ Served sMem h false ps ∧ ps.length = 16) := by
  unfold Accesses Served; exact timely_ok (by decide +kernel)
theorem witness_UniformAccess : ∃ h, Timely sMem h ∧ ∃ acc, accessVa sMem h (h.kr 2 + 8 * (1 : BitVec 8).setWidth 64) 8 .write = .ok acc ∧
    Served sMem h false [{ t := 0, va := h.kr 2 + 8 * (1 : BitVec 8).setWidth 64, acc := acc }] := by
  unfold Served; exact timely_ok (by decide +kernel)
theorem witness_UniformAccess_local : ∃ h, Timely sMem h ∧ ∃ acc, accessLocal sMem h 0x100FF8 8 = .ok acc ∧
    Served sMem h true [{ t := 0, va := 0x100FF8, acc := acc }] := by
  unfold Served; exact timely_ok (by decide +kernel)

/-- A FRAMES launch whose launch frame has 2 slots. -/
def frame0 : Frame :=
  { ctx := 0, die := 0, offset := 64, gen := 1, parent := 0, liveN := 0, retire := 0xFFFFFFFF, size := 16, depth := 0, fstate := 1,
    bodyDone := false, isLaunch := true, launch := 1, creator := 0, slots := [(1, 7)] }
def sFrames : State :=
  { inGroup (fun g => { g with d := writeCell g.d 0 frame0.handle }) (setFlags 0x20 (inLaunch (fun l => { l with frame := frame0.handle, framed := true }) s0))
    with frames := [frame0] }

theorem witness_FrameSlots : (∃ h, Timely s0 h ∧ h.l.isFrames = false) ∧
    (∃ h, Timely sFrames h ∧ h.l.isFrames = true ∧ Views sFrames h 0 1 h.acting (h.acting.map (·, frame0)) ∧
      Views sFrames h 0 1 [lowestThread h.mask] [(lowestThread h.mask, frame0)]) := by
  unfold Views; exact ⟨timely_of (by decide +kernel), timely_of (by decide +kernel)⟩

/-- A root read of the group that is on its way. -/
def ahead0 : CaStep := { ctx := 0, store := 1, team := 2, core := 0, entry := 0, back := some 0, op := .rootRead 0x4000000000000003 8 6, pc := 4 }
theorem witness_FrameSlots_acquire : ∃ h, Timely { sFrames with caSteps := [ahead0] } h ∧ h.l.isFrames = true ∧
    sFrames.acquireAhead h = false ∧ State.acquireAhead { sFrames with caSteps := [ahead0] } h = true := timely_of (by decide +kernel)
/-- Behind an atomic and behind an Electrum step of the group, exit waits in a FRAMES launch. -/
theorem witness_Exit_ahead : (∃ h, Timely { sFrames with atoms := [owed0] } h ∧ h.l.isFrames = true ∧ owed0.isOf h.core h.entry = true) ∧
    ∃ h, Timely { sFrames with caSteps := [ahead0] } h ∧ h.l.isFrames = true ∧ ahead0.core = h.core ∧ ahead0.entry = h.entry :=
  ⟨timely_of (by decide +kernel), timely_of (by decide +kernel)⟩

/-- A load of two threads that has issued, in a split whose next word is nop. -/
def late0 : Pending :=
  { id := 0, split := 0, waits := 0, dests := [.v 3 0, .v 3 1], results := [(.v 3 0, 5), (.v 3 1, 6)], clobbered := [.v 3 1] }
def sLate : State := inSplit (fun x => { x with loadCnt := 1 }) (inGroup (fun g => { g with pending := [late0], nextPending := 1 }) (at' 0))

theorem witness_LoadComplete : ∃ g, sLate.group? 0 0 = some g ∧ (g.pending.find? fun q => q.split == 0) = some late0 ∧
    late0.waits = 0 ∧ 0 < g.splits.length ∧ (late0.results.map (·.1)).Nodup ∧
    sLate.exits g = false ∧ late0.clobbered.contains (.v 3 0) = false := ⟨(sLate.group? 0 0).getD (startGroup fetchLaunch 0 0 none 0), by decide +kernel⟩
/-- The same result when the split's next word is exit. -/
def sLateExit : State := inSplit (fun x => { x with loadCnt := 1 }) (inGroup (fun g => { g with pending := [late0], nextPending := 1 }) s0)
theorem witness_LoadComplete_exit : ∃ g, sLateExit.group? 0 0 = some g ∧ (g.pending.find? fun q => q.split == 0) = some late0 ∧
    late0.waits = 0 ∧ 0 < g.splits.length ∧ sLateExit.exits g = true :=
  ⟨(sLateExit.group? 0 0).getD (startGroup fetchLaunch 0 0 none 0), by decide +kernel⟩

theorem witness_AtomicIssue : ∃ h, Timely (setMode 6 (setV 4 (fun t => BitVec.ofNat 32 (0x4000 + 4 * t)) s0)) h ∧
    ∃ ps, pieces (atomPiece (setMode 6 (setV 4 (fun t => BitVec.ofNat 32 (0x4000 + 4 * t)) s0)) h 0 4) h.acting = .ok ps ∧
      (h.l.isInvar = false ∧ atomAccepts 0 h.ty = true ∧ ps.length = 16 ∧ h.sp.loadCnt < 63 ∧
        (ps.all fun p => !State.accWaits (setMode 6 (setV 4 (fun t => BitVec.ofNat 32 (0x4000 + 4 * t)) s0)) p.acc) = true ∧
        State.acquireAhead (setMode 6 (setV 4 (fun t => BitVec.ofNat 32 (0x4000 + 4 * t)) s0)) h = false) := timely_ok (by decide +kernel)

def acc0 : Acc := { ctx := 0, die := 0, locs := [.hbm 0x40004000, .hbm 0x40004001, .hbm 0x40004002, .hbm 0x40004003], leaf := none }
def req0 : AtomReq :=
  { ctx := 0, team := 2, op := 0, ty := 6, scope := 2, addr := 0x4000, acc := acc0, brings := .one 2 3, v2 := 0, core := 0, entry := 0, back := none,
    riders := [], pc := 4 }
def req1 : AtomReq := { req0 with brings := .one 2 4, entry := 1 }
def sAtoms : State := { s0 with atoms := [req0, req1] }

/-- At the engine, and merged by a router: the later into the earlier, and the earlier into the later. -/
theorem witness_AtomicAtEngine : sAtoms.atoms[0]? = some req0 ∧ sAtoms.atoms[1]? = some req1 ∧ firstAtom sAtoms.atoms 0 req0 = true ∧
    okAnd (sAtoms.walkedAgain req0) (fun x => x = acc0) = true ∧ acc0.locs ≠ [] ∧ sAtoms.accWaits acc0 = false ∧
    sAtoms.accBad acc0 = false ∧ mergeableAtoms req0 req1 = true ∧ mergeableAtoms req1 req0 = true ∧
    (sAtoms.atoms.eraseIdx (max 0 1)).eraseIdx (min 0 1) = [] ∧ (sAtoms.atoms.eraseIdx (max 1 0)).eraseIdx (min 1 0) = [] := by
  decide +kernel
/-- The requests of threads 1 and 2 of an instruction with one of an earlier instruction and one of a later, and an exchange between
them, which can merge with neither. -/
def owned (instr thread : Nat) : AtomReq := { req0 with instr := instr, thread := thread }
theorem witness_AtomicAtEngine_three : mergeableAtoms (owned 1 1) (owned 1 2) = true ∧
    AtomReq.deadlock [owned 0 0, owned 2 0] (owned 1 1) (owned 1 2) = false ∧ mergeableAtoms (owned 0 0) (owned 2 0) = true ∧
    AtomReq.deadlock [] req0 req1 = false ∧
    AtomReq.deadlock [{ owned 1 0 with op := 6, back := some (0, 2, 0), kept := true }] (owned 0 0) (owned 2 0) = true := by decide +kernel
/-- An undefined address whose leaf has gone since the walk. -/
def reqLost : AtomReq := { req0 with undef := true, acc := { acc0 with leaf := some (0x3008, 0x3B, 0) }, addr := 0x40000000000 }
theorem witness_AtomicAtEngine_lost : firstAtom [reqLost] 0 reqLost = true ∧ reqLost.undef = true ∧
    (match State.walkedAgain { s0 with atoms := [reqLost] } reqLost with
      | .error .addrXlate => true
      | _ => false) = true := by decide +kernel

/-- A deque of 16 entries at 0x4000 with one entry, 9. -/
def sDeque : State := setK 2 0x4000 (setK 4 5 (setMem 0x4040 8 9 (setMem 0x4008 8 1 (setMem 0x4010 8 4 s0))))
theorem witness_Deques : ∃ h, Timely sDeque h ∧ ∃ q, dequeHeader sDeque h (h.kr 2) = .ok q ∧
    (q.bottom = 1 ∧ q.top = 0 ∧ q.log = 4 ∧ okAnd (dequeEntry sDeque h (h.kr 2) q 0) (fun p => sDeque.loadNum p.acc = 9) = true ∧
      okAnd (dequeEntry sDeque h (h.kr 2) q 1) (fun _ => True) = true ∧ h.kr 4 ≠ 0 ∧ atomsDone sDeque h = .ok () ∧
      sDeque.pushParked h q.acc = false ∧ h.sp.loadCnt < 63) :=
  timely_ok (by decide +kernel)
/-- Split 1 of the group is parked on it, and there is room. -/
def sParked : State := inGroup (fun g => g.setSplit 1 { Split.start 4 2 with park := some (.deque 0x4000 5 false) }) sDeque
theorem witness_Deques_parked : ∃ h, Timely sParked h ∧ ∃ q, dequeHeader sParked h (h.kr 2) = .ok q ∧
    ((q.bottom - q.top).toNat < 2 ^ q.log ∧ sParked.pushParked h q.acc = true) := timely_ok (by decide +kernel)
/-- The same deque full, with a split parked on it. -/
def sFull : State := inSplit (fun x => { x with park := some (.deque 0x4000 5 false) }) (setMem 0x4008 8 16 sDeque)
theorem witness_Deques_full : (match sFull.site? with
    | some h => okAnd (dequeHeader sFull h 0x4000) (fun q => (q.bottom - q.top).toNat = 2 ^ q.log) && decide (h.sp.park = some (.deque 0x4000 5 false))
    | none => false) = true := by decide +kernel

/-- A split parked on it when a thief has made room. -/
def sRoom : State := inSplit (fun x => { x with park := some (.deque 0x4000 5 false) }) sDeque
theorem witness_Deques_room : (match sRoom.site? with
    | some h => okAnd (dequeHeader sRoom h 0x4000) (fun q => (q.bottom - q.top).toNat ≠ 2 ^ q.log ∧
        okAnd (dequeEntry sRoom h 0x4000 q q.bottom) (fun _ => True) = true) && decide (h.sp.park = some (.deque 0x4000 5 false))
    | none => false) = true := by decide +kernel
/-- Splits parked on a deque that the table no longer maps, of a known address and of an undefined one. -/
theorem witness_Deques_gone (lost : Bool) : (match (inSplit (fun x => { x with park := some (.deque 0x40000000000 5 lost) }) s0).site? with
    | some h => decide (h.sp.park = some (.deque 0x40000000000 5 lost)) &&
        match dequeHeader (inSplit (fun x => { x with park := some (.deque 0x40000000000 5 lost) }) s0) h 0x40000000000 with
        | .error (.cause .addrXlate _ _) => true
        | _ => false
    | none => false) = true := by cases lost <;> decide +kernel

/-- A barrier word for 1 group at the start of the barrier page. -/
def sBar : State := setK 1 0x100000 (setK 2 1 (inTeam (fun t => { t with barrier := writeLe [] 0 8 0x0001010000000000, barWords := [0x100000] }) s0))
theorem witness_Barriers : ∃ h, Timely sBar h ∧ ∃ x, barrierWord sBar h 1 = .ok x ∧
    (x = (0x100000, 0x0001010000000000) ∧ atomsDone sBar h = .ok ()) := timely_ok (by decide +kernel)
/-- K[2] makes bari set the word up again, and split 1 of the group is parked on it in phase 1; and a word not set up. -/
def sBarPark : State := setK 2 0x101 (inGroup (fun g => g.setSplit 1 { Split.start 4 2 with park := some (.barrier 0x100000 true false false) }) sBar)
theorem witness_Barriers_park : ∃ h, Timely sBarPark h ∧ ∃ x, barrierWord sBarPark h 1 = .ok x ∧
    ((h.kr 2).getLsbD 8 = true ∧ h.tid = 2 ∧ (h.g.split 1).park = some (.barrier 0x100000 true false false)) := timely_ok (by decide +kernel)
theorem witness_Barriers_new : ∃ h, Timely (inTeam (fun t => { t with barrier := [] }) sBar) h ∧
    ∃ x, barrierWord (inTeam (fun t => { t with barrier := [] }) sBar) h 1 = .ok x ∧ x.2.extractLsb' 48 8 = 0 := timely_ok (by decide +kernel)
theorem witness_BarrierPhase : ∃ t, tget sBar.teams 2 = some t ∧ (t.word 0x100000).extractLsb' 48 8 ≠ 0 ∧
    ((t.word 0x100000) - 0x0000010000000000).extractLsb' 40 8 = 0 := ⟨(tget sBar.teams 2).getD (fetchTeam 0), by decide +kernel⟩
/-- Split 0 waits in the phase, by a barw, and split 1, of a group that has not arrived, in none. -/
def sBarWait : State := inGroup (fun g => (g.setSplit 0 { g.split 0 with park := some (.barrier 0x100000 false false false) }).setSplit 1
  { Split.start 4 2 with park := some (.barrier 0x100000 false true true) }) sBar
theorem witness_BarrierPhase_waits : ((tget sBar.teams 2).map fun t => (t.word 0x100000).getLsbD 62) = some false ∧
    ((tget sBarWait.groups 0).map fun g => decide (g.team = 2 ∧ (g.split 0).park = some (.barrier 0x100000 false false false) ∧
      (g.split 1).park = some (.barrier 0x100000 false true true))) = some true ∧
    (tget (sBarWait.updateWord 2 0x100000 fun w => w - 0x0000010000000000).groups 0).isSome = true := by decide +kernel

/-- A write to a host-published page that waits for its publication. -/
def pub0 : PubWrite := { ctx := 0, q := 0, addr := 0x77, val := 9 }
def sPub : State := { sMem with pubPending := [{ pub0 with val := 8 }, pub0] }
theorem witness_FenceAndPublish_write : sPub.pubPending = [{ pub0 with val := 8 }] ++ pub0 :: [] ∧
    ∃ h, Timely sPub h ∧ ∃ acc, accessVa sPub h (h.kr 2) 8 .both = .ok acc ∧
      (pub0.ctx = h.ctx ∧ inWindow (h.kr 2).toNat = false ∧ (acc.isHbm || acc.isHost) = true ∧ atomsDone sPub h = .ok () ∧ pub0.addr ∉ acc.hostAddrs ∧
        Served sPub h true [{ t := 0, va := h.kr 2, acc := acc }] ∧ acc.locs[1]? = some (.hbm 0x40004001) ∧
        sPub.granuleRetired 0x40004001 = false) := by
  unfold Served; exact ⟨by decide +kernel, timely_ok (by decide +kernel)⟩
theorem witness_FenceAndPublish_ahead : (∃ h, Timely { s0 with atoms := [owed0] } h ∧ owed0.isOf h.core h.entry = true) ∧
    ∃ h, Timely { s0 with caSteps := [ahead0] } h ∧ ahead0.core = h.core ∧ ahead0.entry = h.entry :=
  ⟨timely_of (by decide +kernel), timely_of (by decide +kernel)⟩
theorem witness_FenceAndPublish : (4 : BitVec 3).toNat ≤ 4 ∧ 5 ≤ (5 : BitVec 3).toNat ∧
    (∃ h, Timely (setK 2 0x00FE000000000000 s0) h ∧ (h.kr 2).toNat % 8 = 0 ∧ inWindow (h.kr 2).toNat = true) ∧
    ∃ h, Timely sMem h ∧ ∃ acc, accessVa sMem h (h.kr 2) 8 .both = .ok acc ∧
      (inWindow (h.kr 2).toNat = false ∧ (acc.isHbm || acc.isHost) = true ∧ atomsDone sMem h = .ok () ∧ Served sMem h true [{ t := 0, va := h.kr 2, acc := acc }]) := by
  unfold Served; exact ⟨by decide, by decide, timely_of (by decide +kernel), timely_ok (by decide +kernel)⟩

/-! ### States that meet the hypotheses: frames, copies, the matrix unit, Electrum -/

/-- `n` bytes with some fields: offset, length, value. -/
def mk (n : Nat) (fs : List (Nat × Nat × Nat)) : List Byte :=
  readBytes (fs.foldl (fun m f => writeLe m f.1 f.2.1 f.2.2) []) 0 n

/-- A context whose heap on die 0 has one unit, filled but for 128 bytes at offset 64, where the launch frame's own heap lies on die 1;
one thread is active. -/
def frame1 : Frame := { frame0 with die := 1 }
def sHeap : State :=
  let s := inSplit (fun x => { x with mask := 1 }) (inCtx (fun c => { c with units := 1, heapUnits := [(0, 1)] })
    (setK 2 (0x0004FFFFFFFF0008) (inGroup (fun g => { g with d := writeCell g.d 0 frame1.handle })
      (setFlags 0x20 (inLaunch (fun l => { l with frame := frame1.handle, framed := true }) s0)))))
  { s with frames := [frame1, { frame0 with offset := 192, size := 0x200000 - 192 - 64, isLaunch := false }] }

/-- Wherever the heap starts to look, the one place left is the one at 64. -/
theorem heap_place (n : Nat) : heapPlace [(192, 0x200000)] 0x200000 (64 + 64 * n) 128 = some 64 := by
  rcases Nat.eq_zero_or_pos n with rfl | h
  · decide
  · have a : ¬(64 + 64 * n ≤ 64) := by omega
    have b : ¬(64 + 64 * n + 128 ≤ 192) := by omega
    have c : (64 + 64 * n + 128 ≤ 0x200000) → ¬(0x200000 ≤ 64 + 64 * n) := by omega
    by_cases d : 64 + 64 * n + 128 ≤ 0x200000
    · simp [heapPlace, List.filter, a, b, c d]
    · simp [heapPlace, List.filter, a, b, d]

theorem heap_alloc : sHeap.heapAlloc 0 0 8 = some (64, 1) := by
  have e : (tget sHeap.ctxs 0).bind (fun c => tget c.heapUnits 0) = some 1 := by decide +kernel
  have u : (sHeap.frames.filterMap fun f =>
    if f.ctx == 0 && f.die == 0 && f.fstate != 0 then some (f.offset, f.offset + frameBytes f.size) else none) = [(192, 0x200000)] := by
    decide +kernel
  have fb : frameBytes 8 = 128 := by decide
  unfold State.heapAlloc
  simp only [e, u, fb, Option.getD_some, Nat.one_mul, heap_place, Option.map_some]

theorem witness_FrameCreation_acquire : ∃ h, Timely { sHeap with caSteps := [ahead0] } h ∧ h.l.isFrames = true ∧ h.sp.loadCnt < 63 ∧
    State.acquireAhead { sHeap with caSteps := [ahead0] } h = true := timely_of (by decide +kernel)
theorem witness_FrameCreation : ∃ h, Timely sHeap h ∧ h.l.isFrames = true ∧ h.sp.loadCnt < 63 ∧ sHeap.acquireAhead h = false ∧
    ∃ s1 hs, createAll sHeap h (FrameSpec.of (h.kr 2)) [lowestThread h.mask] = .ok (s1, hs) := by
  obtain ⟨h, t, a, b, i, c, d, l⟩ : ∃ h, Timely sHeap h ∧ h.l.isFrames = true ∧ h.sp.loadCnt < 63 ∧ sHeap.acquireAhead h = false ∧
    checkAll (newParent sHeap h (FrameSpec.of (h.kr 2)) [lowestThread h.mask]) [lowestThread h.mask] = .ok () ∧
    (h.ctx = 0 ∧ h.die = 0) ∧ (FrameSpec.of (h.kr 2)).size = 8 := timely_of (by decide +kernel)
  refine ⟨h, t, a, b, i, ?_⟩
  simp only [createAll, c, newFrames, State.newFrame, d, l, heap_alloc, Option.map_some]
  exact ⟨_, _, rfl⟩

theorem witness_FrameInstructions : (∃ h, Timely s0 h ∧ h.l.isFrames = false) ∧
    (∃ h, Timely sFrames h ∧ h.l.isFrames = true ∧ viewed sFrames h 0 h.active = .ok [frame0] ∧
      (sFrames.frame? h.ctx (h.kr 5)) = none ∧ h.kr 5 = 0 ∧ (sFrames.frame? h.ctx frame0.handle).isSome = true) ∧
    ∃ h, Timely (setKd (fun k => { k with dispatchN := 1 }) sFrames) h ∧
      checkRecords (setKd (fun k => { k with dispatchN := 1 }) sFrames) h ([mk 64 []].map (·, true)) = .ok () ∧
      ((setKd (fun k => { k with dispatchN := 1 }) sFrames).die h.die).poolCount + 1 ≤ 65536 ∧
      atomsDone (setKd (fun k => { k with dispatchN := 1 }) sFrames) h = .ok () :=
  ⟨timely_of (by decide +kernel), timely_of (by decide +kernel), timely_of (by decide +kernel)⟩

/-- Identifiers of 16 f32 values: in memory, and in scratchpad at 0. -/
def idMem : List Byte := mk 64 [(0, 8, 0x4000), (16, 4, 16), (20, 4, 1), (24, 4, 1), (28, 4, 1), (59, 1, 1)]
def idSpad : List Byte := mk 64 [(16, 4, 16), (20, 4, 1), (24, 4, 1), (28, 4, 1), (59, 1, 3)]
/-- A bfp4 operand of one row of 8 in scratchpad, its scales at 0x100. -/
def idBfp : List Byte :=
  mk 64 [(8, 8, 0x100), (16, 4, 8), (20, 4, 1), (24, 4, 1), (28, 4, 1), (56, 1, 5), (57, 1, 4), (59, 1, 3)]

theorem witness_TensorIdentifiers : (Ident.of (memOf idMem)).valid = true ∧ (Ident.of (memOf idMem)).accepted (memOf idMem) = true ∧
    (Ident.of (memOf (mk 64 [(59, 1, 1)]))).accepted (memOf (mk 64 [(59, 1, 1)])) = false ∧
    ∃ h, Timely sMem h ∧ ∃ acc, accessVa sMem h (h.kr 2) 64 .read = .ok acc ∧
      Served sMem h true [{ t := 0, va := h.kr 2, acc := acc }] := by
  unfold Served
  exact ⟨by decide +kernel, by decide +kernel, by decide +kernel, timely_ok (by decide +kernel)⟩

/-- Identifiers 1 (memory) and 2 (scratchpad): K[6] names 1 as source and 2 as destination. -/
def sCopy : State := setK 6 0x00020100 (setId 1 idMem (setId 2 idSpad s0))
def copyOf (h : Site) (kind : CopyKind) : Copy :=
  { Copy.blank h kind 0 with src := sCopy.ident h.ctx 1, dst := sCopy.ident h.ctx 2 }

theorem witness_CopyIssue : ∃ h, Timely sCopy h ∧ atomsDone sCopy h = .ok () ∧ sCopy.pickEngine h.ctx h.die = some 0 ∧
    (∀ k ∈ [CopyKind.box, .multicast, .signal], checkCopy sCopy h (copyOf h k) = .ok () ∧ checkWindow sCopy h (copyOf h k) = .ok ()) ∧
    (Ident.of (copyOf h .multicast).dst).spad = true ∧
    checkCopy sCopy h { copyOf h .gather with count := 1 } = .ok () ∧ 0 + 4 * 1 ≤ sCopy.teamScratch h.team ∧
    sCopy.queued 0 < 256 ∧ sCopy.groupCopies h.key < 64 := timely_of (by decide +kernel)
theorem witness_CopyIssue_registers : ∃ h, Timely sMem h ∧ (h.kr 2).toNat % 4 = 0 ∧ 1 + 2 ≤ 8 * h.g.vgran ∧
    ∀ i, i < 2 → sMem.windowCheck h.ctx .write { addr := h.kr 2 + BitVec.ofNat 64 i * 64, n := 64, esz := 4 } = .ok () :=
  timely_of (by decide +kernel)

/-- A store with one leaf line, bound with every right to handle 0. -/
def line0 : Line := { interior := false, pre := 5, index := 1, count := 1, content := mk 256 [], dying := none }
def store0 : Store :=
  { part := 0, linesLog := 12, rootsLog := 4, share := 0, lines := [line0], used := [], roots := [(3, { name := line0.name, version := 2 })],
    drops := [(0, line0.name)] }
def sCa : State :=
  setK 4 0x4000 (setK 6 (line0.name.setWidth 64) (setK 8 0x4000000000000003 (setK 10 15
    { inCtx (fun c => { c with binds := [(0, { store := 1, rights := 7 })] }) s0 with stores := [(1, store0)] })))

theorem witness_CopyIssue_tree : ∃ h, Timely sCa h ∧ bound sCa h 0 0 = .ok (1, store0) ∧ store0.live? (h.kr 7 ++ h.kr 6) = some line0 ∧
    line0.interior = decide (0 < 0) ∧ (h.kr 4).toNat % 16 = 0 ∧ 16 ≤ 256 * 16 ^ 0 ∧ sCa.pickEngine h.ctx h.die = some 0 ∧
    (∀ y ∈ sCa.caSteps, ¬(y.core = h.core ∧ y.entry = h.entry)) ∧ sCa.queued 0 < 256 ∧ h.l.isInvar = false :=
  timely_of (by decide +kernel)

def copy0 : Copy :=
  { kind := .box, ctx := 0, engine := 0, team := 2, group := 0, q := 0, pc := 4, into := [], src := memOf idMem, dst := memOf idSpad, s := 0, d := 0, bw := false,
    bar := 0, mask := 0, sig := 0, list := 0, stride := 0, first := 0, count := 0, root := 0, store := 0, height := 0, next := 0,
    finished := false }
def sBatch : State := { inGroup (fun g => { g with unclosed := [9] }) s0 with copies := [(9, copy0), (10, { copy0 with next := 1 })] }

theorem witness_Batches : (∃ h, Timely (setK 7 0 sBatch) h ∧ h.sp.park = none ∧
      ¬((h.kr 7).setWidth 32 - h.g.batchOpen : Word32).toNat < 2 ^ 31 ∧ (h.g.batchDone - (h.kr 7).setWidth 32 : Word32).toNat < 2 ^ 31) ∧
    tget sBatch.copies 9 = some copy0 ∧ copy0.kind ≠ .tree ∧ copy0.next < copy0.rows ∧
    okAnd (sBatch.deliverRow copy0) (fun _ => True) = true ∧ copy0.splitsWords = false ∧ okAnd (deliverRows copy0 1 sBatch) (fun _ => True) = true ∧
    ¬{ copy0 with next := 1 }.next < { copy0 with next := 1 }.rows ∧
    okAnd (sBatch.signalWord { copy0 with next := 1 }) (fun _ => True) = true :=
  ⟨timely_of (by decide +kernel), by decide +kernel⟩
/-- A row whose page the table does not map, of a copy with defined operands and of one with an undefined one. -/
theorem witness_Batches_stop : copy0.undef = false ∧ { copy0 with undef := true }.undef = true ∧ (match sBatch.deliverRow { copy0 with src := writeLe copy0.src 0 8 0x40000000000 } with
    | .error (.cause .addrXlate _ _) => true
    | _ => false) = true ∧ (match deliverRows { copy0 with src := writeLe copy0.src 0 8 0x40000000000 } 1 sBatch with
    | .error (.cause .addrXlate _ _) => true
    | _ => false) = true := by decide +kernel
/-- A copy of two rows of one 16-bit element into a register view. -/
def copyView : Copy :=
  { copy0 with
    into := [(2, 0)], src := memOf (mk 64 [(0, 8, 0x4000), (16, 4, 1), (20, 4, 2), (24, 4, 1), (28, 4, 1), (32, 8, 2), (56, 1, 1), (59, 1, 1)]),
    dst := memOf (mk 64 [(0, 8, 0x00FE000000000000), (16, 4, 1), (20, 4, 2), (24, 4, 1), (28, 4, 1), (32, 8, 2), (56, 1, 1), (59, 1, 1)]) }
theorem witness_Batches_words : copyView.splitsWords = true ∧ copyView.next < copyView.rows ∧ copyView.kind ≠ .tree := by decide +kernel
/-- A copy of a tree of one leaf: a chunk of it, its end, and one whose root is a leaf where an interior line should stand. -/
def copyTree (height next : Nat) : Copy :=
  { copy0 with kind := .tree, store := 1, root := line0.name.toNat, height := height, list := 0x4000, count := 100, next := next }
theorem witness_Batches_tree : tget { sCa with copies := [(9, copyTree 0 1)] }.copies 9 = some (copyTree 0 1) ∧ (copyTree 0 1).kind = .tree ∧
    (copyTree 0 1).sig = 0 ∧ tget sCa.stores 1 = some store0 ∧ (copyTree 0 1).next < (copyTree 0 1).rows ∧ ¬(copyTree 0 2).next < (copyTree 0 2).rows ∧
    ((store0.treeChunk 0 (BitVec.ofNat 128 (copyTree 0 1).root) 64).map fun bs =>
      okAnd (sCa.engineWrite (copyTree 0 1).agent 0x4040 (bs.take 36)) (fun _ => True)) = some true ∧
    store0.treeChunk 1 (BitVec.ofNat 128 (copyTree 1 1).root) 64 = none ∧ (copyTree 1 1).undef = false := by decide +kernel

def sMatrix : State := setId 1 idBfp (setId 3 idSpad s0)
theorem witness_MatrixIssue : ∃ h, Timely sMatrix h ∧ h.l.isInvar = false ∧ atomsDone sMatrix h = .ok () ∧
    (sMatrix.core 0).owner = some h.tid ∧ checkOperand sMatrix h (Ident.of (sMatrix.ident h.ctx 1)) 1 128 true = .ok () ∧
    (Ident.of (sMatrix.ident h.ctx 3)).valid = true ∧ (Ident.of (sMatrix.ident h.ctx 3)).dim 0 ≤ 128 ∧
    (Ident.of (sMatrix.ident h.ctx 3)).fmt ≤ 5 := timely_of (by decide +kernel)
theorem witness_MatrixIssue_pair :
    ∃ h, Timely (setId 1 (mk 64 [(8, 8, 0x100), (16, 4, 8), (20, 4, 2), (24, 4, 1), (28, 4, 1), (32, 8, 16), (56, 1, 5), (57, 1, 4), (59, 1, 3)])
        (setFlags 1 (inTeam (fun t => { t with pair := true }) s0))) h ∧ h.team.pair = true ∧
      checkOperand (setId 1 (mk 64 [(8, 8, 0x100), (16, 4, 8), (20, 4, 2), (24, 4, 1), (28, 4, 1), (32, 8, 16), (56, 1, 5), (57, 1, 4), (59, 1, 3)])
        (setFlags 1 (inTeam (fun t => { t with pair := true }) s0))) h
        (Ident.of ((setId 1 (mk 64 [(8, 8, 0x100), (16, 4, 8), (20, 4, 2), (24, 4, 1), (28, 4, 1), (32, 8, 16), (56, 1, 5), (57, 1, 4), (59, 1, 3)]) s0).ident h.ctx 1))
        2 256 h.team.pair = .ok () := timely_of (by decide +kernel)

def mat0 : MatOp := { core := 0, team := 2, group := 0, ctx := 0, kind := .accz 7, id := [], spoiled := false, pc := 4, q := 0, into := [] }
theorem witness_MatrixRetire : ∃ t, headOf { s0 with mats := [mat0] } 0 = some 0 ∧ { s0 with mats := [mat0] }.mats[0]? = some mat0 ∧
    tget { s0 with mats := [mat0] }.teams mat0.team = some t ∧ mat0.kind = .accz 7 ∧ mat0.spoiled = false :=
  ⟨(tget s0.teams 2).getD (fetchTeam 0), by decide +kernel⟩
/-- A team whose tile register 1 holds one row of 8 mantissas, which the operand's row fits, and one whose register holds no operand. -/
def tileTeam : Team := { fetchTeam 0 with tiles := writeBytes [] (0x4000 + 16320) (tileDesc (Ident.of (memOf idBfp))) }
def matOf (kind : MatKind) : MatOp := { mat0 with kind := kind, id := memOf idBfp }
/-- What `headOf` needs of each is as for mat0. -/
theorem witness_MatrixRetire_tile : (loadTile tileTeam (Ident.of (matOf (.tld 1)).id)).length ≤ 16320 ∧
    (let a := Tile.of (memOf (readBytes tileTeam.tiles (tileOff tileTeam 0 1) 0x4000))
     a.tvalid = true ∧ 1 ≤ a.mx ∧ 8 % a.bl = 0 ∧ 8 ≤ a.kx ∧ ¬9 ≤ a.kx) ∧
    (matOf (.shape 1 1 9)).undef = false ∧ State.badTile (s0.setTeam 2 tileTeam) (matOf (.shape 1 1 9)) = false := by
  refine ⟨by decide +kernel, ?_, by decide +kernel, by decide +kernel⟩
  have k (i : Nat) (h : i < 0x4000) := readCell_memOf_readBytes tileTeam.tiles (tileOff tileTeam 0 1) h
  generalize memOf (readBytes tileTeam.tiles (tileOff tileTeam 0 1) 0x4000) = d at k ⊢
  simp only [Tile.of, readLe, readBytes, Nat.reduceAdd, k 16320 (by decide), k 16321 (by decide), k 16322 (by decide), k 16323 (by decide),
    k 16329 (by decide), k 16330 (by decide)]
  decide +kernel
/-- The leader core's latch holds a register that fits the operand, or one that holds none. -/
def sLatch (tiles : Mem) : State := s0.setCore 0 { s0.core 0 with latch := some { team := 2, group := 0, tile := 1, data := tiles } }
theorem witness_MatrixRetire_product : (∀ good ∈ [true, false],
    let a := Tile.of (latchRead (sLatch (if good then writeBytes [] 16320 (tileDesc (Ident.of (memOf idBfp))) else [])) (matOf (.mma false 7 1)) tileTeam false 1).1
    a.tvalid = good ∧ (good = true → a.k = (Ident.of (memOf idBfp)).dim 0 ∧ a.k % max a.bl (Ident.of (memOf idBfp)).bl = 0)) ∧
    (Ident.of (memOf idBfp)).dim 1 ≤ 128 ∧ ((Ident.of (memOf idBfp)).dim 1 + 1) / 2 ≤ 128 ∧ (tget s0.ctxs 0).isSome = true := by decide +kernel
theorem witness_MatrixRetire_read : okAnd (accDeliver s0 { mat0 with kind := .accrd 7, id := memOf idSpad } tileTeam 7 [0] s0) (fun _ => True) = true ∧
    (match accDeliver s0 { mat0 with kind := .accrd 7, id := writeLe (memOf idMem) 0 8 0x40000000000 } tileTeam 7 [0] s0 with
      | .error (.cause .addrXlate _ _) => true
      | _ => false) = true := by decide +kernel

theorem witness_ElectrumIssue : (∃ h, Timely sCa h ∧ h.l.isInvar = false ∧ h.sp.loadCnt < 63 ∧ bound sCa h 0 0 = .ok (1, store0) ∧
      bound sCa h 0 1 = .ok (1, store0) ∧ bound sCa h 0 2 = .ok (1, store0) ∧ atomsDone sCa h = .ok () ∧
      okAnd (accessVa sCa h (h.kr 4) 256 .read) (fun _ => True) = true ∧ (h.kr 8).getLsbD 62 = true ∧
      (h.kr 8).toNat % 2 ^ 32 < 2 ^ store0.rootsLog ∧ (h.kr 10).getLsbD 62 = false ∧ (h.kr 10).toNat % 2 ^ 32 ≤ 2 ^ store0.rootsLog ∧
      bound sCa h 1 1 = .error (.cause .tableBound 0 h.mask)) ∧
    ∃ h, Timely (inCtx (fun c => { c with binds := [(0, { store := 1, rights := 0 })] }) sCa) h ∧
      bound (inCtx (fun c => { c with binds := [(0, { store := 1, rights := 0 })] }) sCa) h 0 1 = .error (.cause .addrPerm 0 h.mask) :=
  ⟨timely_of (by decide +kernel), timely_of (by decide +kernel)⟩

def step0 (op : CaOp) (back : Option Nat) : CaStep := { ctx := 0, store := 1, team := 2, core := 0, entry := 0, back := back, op := op, pc := 4 }
/-- The first step of its group, whatever it does; a second one of the group; and a store that is not there. -/
theorem witness_ElectrumSteps (op : CaOp) (back : Option Nat) : { sCa with caSteps := [step0 op back] }.caSteps[0]? = some (step0 op back) ∧
    firstCa [step0 op back] 0 (step0 op back) = true ∧ tget sCa.stores 1 = some store0 ∧ (step0 op back).undef = false ∧ (step0 op back).loose = false ∧
    firstCa [step0 op back, step0 op back] 1 (step0 op back) = false ∧ tget s0.stores 1 = none :=
  ⟨rfl, rfl, by decide +kernel, rfl, rfl, rfl, by decide +kernel⟩
/-- 256 zeros, and an interior content of one child, 7, that is not live. -/
def zeros : List Byte := mk 256 []
def kid : List Byte := mk 256 [(0, 8, 7)]
def contentIs (s : State) (bs : List Byte) : Bool := okAnd (s.engineRead { ctx := 0, die := dieOf 0, q := 0, into := [] } 0x4000 256) fun x => x.1 = bs
/-- A content that a line holds as a leaf and none as an interior line; a prefix without an index left; a full store with a drop under way
and one without; a child that is not live; and an address that the table does not map. -/
theorem witness_ElectrumSteps_look : contentIs sCa zeros = true ∧ (line0.dying = none ∧ line0.interior = false ∧ line0.content = zeros) ∧
    (∀ l ∈ store0.lines, l.interior ≠ true) ∧ childrenOf zeros = [] ∧ contentPrefix true zeros ≠ 0 ∧
    (∀ l ∈ store0.lines, ¬(l.pre = contentPrefix true zeros ∧ l.index = 0)) ∧ store0.used = [] ∧ store0.lines.length < 2 ^ store0.linesLog ∧
    (∀ n, n < 256 → (contentPrefix true zeros, n) ∈ (List.range 256).map fun n => (contentPrefix true zeros, n)) ∧
    ¬{ store0 with linesLog := 0 }.lines.length < 2 ^ 0 ∧ store0.pendingSteps = true ∧ { store0 with drops := [] }.pendingSteps = false ∧
    contentIs (setMem 0x4000 8 7 sCa) kid = true ∧ (7 ∈ childrenOf kid ∧ store0.live? 7 = none) ∧
    (match sCa.engineRead { ctx := 0, die := dieOf 0, q := 0, into := [] } 0x40000000000 256 with
      | .error (.cause .addrXlate _ _) => true
      | _ => false) = true := by
  refine ⟨by decide +kernel, by decide +kernel, by decide +kernel, by decide +kernel, by decide +kernel, by decide +kernel, rfl, by decide,
    fun n h => List.mem_map.mpr ⟨n, List.mem_range.mpr h, rfl⟩, by decide, by decide, by decide, by decide +kernel, by decide +kernel, by decide +kernel⟩
/-- A live leaf, a live interior line with child 0 and no child 1, and a name that is stale. -/
def tree0 : Line := { line0 with interior := true, content := kid }
theorem witness_ElectrumSteps_names : store0.live? line0.name = some line0 ∧ store0.live? 0 = none ∧
    ({ store0 with lines := [tree0] } : Store).live? tree0.name = some tree0 ∧ childOf tree0.content 0 ≠ 0 ∧ childOf tree0.content 1 = 0 := by decide +kernel
/-- A root at version 2, and a slot that nothing has written; a new name that is live, one that is stale, and none. -/
theorem witness_ElectrumSteps_roots : tget store0.roots ((0x4000000000000003 : Word64).toNat % 2 ^ 32) = some { name := line0.name, version := 2 } ∧
    tget store0.roots 4 = none ∧ (store0.live? line0.name).isSome = true ∧ ((7 : BitVec 128) ≠ 0 ∧ store0.live? 7 = none) := by decide +kernel
/-- A reference to a stale name that was an undefined value. -/
theorem witness_ElectrumSteps_undefined : sCa.caExcused { step0 (.ref 7) none with undef := true } = true ∧
    (match caStepAt sCa { step0 (.ref 7) none with undef := true } store0 with
      | .error (.cause .caStale 0 0) => true
      | _ => false) = true := by decide +kernel
/-- A drop that a swap has left; a dying line with a child and one without; and nothing. -/
def dying0 (kids : List (BitVec 128)) : Line := { line0 with count := 0, dying := some (2, kids) }
theorem witness_ElectrumSteps_cascade : store0.drops = (0, line0.name) :: [] ∧
    ({ store0 with drops := [], lines := [line0, dying0 [7]] } : Store).lines = [line0] ++ dying0 [7] :: [] ∧ line0.dying = none ∧
    (dying0 [7]).dying = some (2, 7 :: []) ∧ (dying0 []).dying = some (2, []) ∧ ∀ l ∈ ({ store0 with drops := [] } : Store).lines, l.dying = none := by
  decide +kernel

theorem witness_FrameEvents : ({ sFrames with decs := [{ ctx := 0, handle := frame0.handle }], frames := [{ frame0 with liveN := 2 }] } : State).frame?
      0 frame0.handle = some { frame0 with liveN := 2 } ∧
    ({ sFrames with frames := [{ frame0 with liveN := 1, bodyDone := true }] } : State).frame? 0 frame0.handle =
      some { frame0 with liveN := 1, bodyDone := true } ∧
    (∀ f ∈ [{ frame0 with liveN := 0 }, { frame0 with liveN := 1, bodyDone := false }, { frame0 with liveN := 1, bodyDone := true, fstate := 3, retire := 5 },
      { frame0 with liveN := 1, bodyDone := true, retire := 0xFFFFFFFF }, { frame0 with liveN := 1, bodyDone := true, fstate := 2, retire := 5 }],
      ({ sFrames with frames := [f] } : State).frame? 0 frame0.handle = some f) ∧
    ((s0.setDie 0 { s0.die 0 with joins := [(1, mk 64 [])] }).die 0).joins = (1, mk 64 []) :: [] ∧
    ((s0.setDie 0 { s0.die 0 with joins := [(1, mk 64 [])] }).die 0).poolCount < 65536 := by decide +kernel

/-! ### States that meet the hypotheses: the host, the mailbox, scheduling, the package -/

def inQueue (f : Queue → Queue) (s : State) : State := s.setQueue 0 0 (f (s.queue 0 0))
/-- A request in the mailbox. -/
def req (fs : List (Nat × Nat × Nat)) (s : State) : State := { s with mgmt := { s.mgmt with active := some (mk 64 fs) } }
def atTime (t : Nat) (s : State) : State := { s with refTime := t }
def inFunc (f : Func → Func) (s : State) : State := s.setFunc 0 (f (s.func 0))
def inDie (f : Die → Die) (s : State) : State := s.setDie 0 (f (s.die 0))
def inCore (f : Core → Core) (s : State) : State := s.setCore 0 (f (s.core 0))

/-- A TAIL one ring beyond HEAD, the greatest sequence distance, and a queue that is not ACTIVE. -/
theorem witness_HostRegisters_doorbell : (s0.queue 0 0).thief = none ∧ (s0.queue 0 0).state = .active ∧
    0 < ((0x7FFF000000000001 : Word64).extractLsb' 48 16 - (s0.queue 0 0).lseq).toNat ∧
    ((0x7FFF000000000001 : Word64).extractLsb' 48 16 - (s0.queue 0 0).lseq).toNat ≤ 32767 ∧
    ((0x7FFF000000000001 : Word64).extractLsb' 0 32 - (s0.queue 0 0).tail).toNat < 2 ^ 31 ∧
    ((0x7FFF000000000001 : Word64).extractLsb' 0 32 - (s0.queue 0 0).head).toNat ≤ 2 ^ (s0.queue 0 0).ringLog ∧
    s0.windowReaches 0 = true ∧ s0.windowReaches 1 = false ∧
    (s0.queue 16 1023).thief = none ∧ (s0.queue 16 1023).state ≠ .active ∧ (s0.queue 16 1023).state = .disabled := by decide +kernel
theorem witness_HostRegisters_mailbox :
    listedCodes.contains (field (mk 64 [(0, 1, 0xEE)]) 0 1) = false ∧ (req [(0, 1, 0xEE)] s0).mgmt.active = some (mk 64 [(0, 1, 0xEE)]) ∧
    (req [(0, 1, 0xEE)] s0).mgmt.answer = none ∧
    ({ s0 with mgmt := { s0.mgmt with answer := some (mk 64 []), rspIe := true } } : State).mgmt.answer = some (mk 64 []) ∧
    ({ s0 with mgmt := { s0.mgmt with waiting := [mk 64 []] } } : State).mgmt.waiting = mk 64 [] :: [] := by decide +kernel

/-- A control block of queue 1 at 0x10000, of context 1. -/
def sQcb : State := inFunc (fun f => { f with qreg := writeCell f.qreg 1 0x10000 })
  { s0 with mem := writeLe (writeLe (writeLe (writeLe s0.mem 0x10008 1 4) 0x1000C 4 1) 0x10010 8 0x1000) 0x10028 4 4 }
def sDrain : State := sQcb.setQueue 0 1 { sQcb.queue 0 1 with
  state := .resetting, drain := some { head := 5, disable := false, viaQp := true, tamper := false } }

theorem witness_QueueCommands : (sQcb.func 0).cmds = [] ∧ sQcb.draining 0 = false ∧ (sQcb.queue 0 1).state = .disabled ∧
    (sQcb.enableCheck 0 1).1 = 0 ∧ (sQcb.enableCheck 0 2).1 = 7 ∧ (sQcb.queue 0 0).state ≠ .disabled ∧
    (sDrain.queue 0 1).drain = some { head := 5, disable := false, viaQp := true, tamper := false } := by decide +kernel
/-- The privileged half of an ACTIVE queue's block is as it was read; of another's it is not. -/
def sTamper : State := sQcb.setQueue 0 1 { sQcb.queue 0 1 with state := .active }
theorem witness_QueueCommands_reconcile : s0.plant.nextReconcile ≤ (atTime 50000 s0).refTime ∧ (sTamper.queue 0 1).state ≠ .disabled ∧
    (sTamper.queue 0 1).drain = none ∧ ((sTamper.qcbRead 0 1 0 128).map fun bs => decide (bs = (sTamper.queue 0 1).priv)) = some false ∧
    ((s0.qcbRead 0 0 0 128).map fun bs => decide (bs = (s0.queue 0 0).priv)) = some true ∧
    ((s0.qcbCount 0 0 0 128).qcbRead 0 0 0x88 8).isSome = true := by decide +kernel

/-- Queue 0 with its ring at 0x8000 and one packet. -/
def sPkt (fs : List (Nat × Nat × Nat)) : State :=
  inQueue (fun q => { q with priv := mk 128 [(0, 8, 0x8000), (8, 1, 4), (0x10, 8, 0x1000)], tail := 1 })
    { s0 with mem := writeBytes s0.mem 0x40008000 (mk 64 fs) }
/-- A packet of a type that may start, with what its body needs. -/
def mayRun (s : State) (ty : Nat) (p : List Byte → State → Bool) : Bool :=
  match s.readPacket ty with
  | .ok (bs, s1) => p bs s1
  | .error _ => false
def wordOk (s1 : State) (bs : List Byte) (k : Access) : Bool :=
  match s1.packetWord bs (field bs 16 8) k with
  | .ok a => (a.isHbm || a.isHost) && !s1.accBad a
  | .error _ => false

theorem witness_PacketStart_small : mayRun (sPkt []) 0 (fun bs _ => zeroFrom bs 16 48) = true ∧
    (∀ op ∈ [0, 1, 2], mayRun (sPkt [(0, 1, 2), (16, 8, 0x4000), (24, 1, op), (32, 8, 5)]) 2 (fun bs s1 =>
      zeroFrom bs 25 7 && zeroFrom bs 40 24 && decide (field bs 24 1 ≤ 2) && wordOk s1 bs .both) = true) ∧
    mayRun (sPkt [(0, 1, 5), (16, 8, 0x4000)]) 5 (fun bs s1 => zeroFrom bs 24 40 && wordOk s1 bs .write) = true ∧
    mayRun (sPkt [(0, 1, 4), (16, 8, 0x4000)]) 4 (fun bs s1 => zeroFrom bs 24 40 && wordOk s1 bs .both) = true := by decide +kernel
theorem witness_PacketStart_wait : mayRun (sPkt [(0, 1, 3), (16, 8, 0x4000), (24, 1, 0), (28, 4, 7), (32, 8, 5)]) 3 (fun bs s1 =>
    zeroFrom bs 25 3 && zeroFrom bs 40 24 && decide (field bs 24 1 ≤ 3) && wordOk s1 bs .read &&
    okAnd (s1.checkWait { addr := 0x4000, cond := 0, value := 5, deadline := none }) (fun x => x.1 = false)) = true := by decide +kernel

/-- A LAUNCH of 2 × 1 × 1 teams whose descriptor lies at 0x9000. -/
def sLaunch : State :=
  let s := sPkt [(0, 1, 1), (16, 8, 0x9000), (24, 4, 2), (28, 4, 1), (32, 4, 1)]
  { s with mem := writeBytes s.mem 0x40009000 (mk 128 [(8, 1, 16), (9, 1, 1), (10, 1, 1), (20, 1, 1), (21, 1, 1), (24, 4, 1)]) }
theorem witness_PacketStart_launch : mayRun sLaunch 1 (fun bs s1 =>
    zeroFrom bs 36 4 && zeroFrom bs 50 2 && zeroFrom bs 56 8 && launchBodyOk bs &&
    match s1.resolve 0 0 false (field bs 16 8) 128 .read with
      | .ok a =>
        let s2 := s1.afterRead a
        let l := launchOf s2 bs (KDesc.of (s1.peek a))
        !s1.accWaits a && !s1.accBad a && l.kd.ok (s1.peek a) l.scratchDyn 0 && decide (l.minDies ≤ l.maxDies) &&
          admission l (s2.ownCores (s2.partOf 0)) == 0
      | .error _ => false) = true := by decide +kernel

def pkt0 : Pkt := { ix := 0, ptype := 3, event := true, tag := 1, doneSig := 0x4000, finished := true, signalled := false, lid := none }
def wait0 : WaitSt := { addr := 0x4000, cond := 0, value := 0, deadline := some 100 }
def sWait : State := atTime 100 (inQueue (fun q => { q with wait := some wait0, pkts := [pkt0] }) s0)
theorem witness_PacketEnd_deadline : (atTime 101 sWait |>.queue 0 0).wait = some wait0 ∧ wait0.deadline = some 100 ∧ 100 < (atTime 101 sWait).refTime ∧
    sWait.refTime ≤ 100 := by decide +kernel
theorem witness_PacketEnd : (sWait.queue 0 0).wait = some wait0 ∧ (match sWait.checkWait wait0 with | .ok (met, _) => met | .error _ => false) = true ∧
    (sWait.queue 0 0).pkts.head? = some pkt0 ∧ 100 ≤ sWait.refTime ∧ ((sWait.queue 0 0).orphans ++ (sWait.queue 0 0).pkts).find? sWait.packetDone = some pkt0 ∧
    (match sWait.decSignal 0 0 (sWait.queue 0 0) pkt0 with | .ok _ => true | .error _ => false) = true := by decide +kernel

/-- The first and the last stack, both ends of the power range, a live context and one that never was, and a store. -/
theorem witness_ManagementReads :
    (∀ n ∈ [0, 7], (req [(0, 1, 0x1A), (8, 1, n)] s0).request 0x1A = some (mk 64 [(0, 1, 0x1A), (8, 1, n)]) ∧ headerOk (mk 64 [(0, 1, 0x1A), (8, 1, n)]) = true ∧
      field (mk 64 [(0, 1, 0x1A), (8, 1, n)]) 8 1 < 8 ∧ tailZero (mk 64 [(0, 1, 0x1A), (8, 1, n)]) 9 = true) ∧
    (∀ w ∈ [1200, 2400], 1200 ≤ field (mk 64 [(0, 1, 0x1B), (8, 1, 2), (10, 2, w)]) 10 2 ∧ field (mk 64 [(0, 1, 0x1B), (8, 1, 2), (10, 2, w)]) 10 2 ≤ 2400 ∧
      field (mk 64 [(0, 1, 0x1B), (8, 1, 2), (10, 2, w)]) 10 2 % 25 = 0 ∧ tailZero (mk 64 [(0, 1, 0x1B), (8, 1, 2), (10, 2, w)]) 12 = true ∧
      (req [(0, 1, 0x1B), (8, 1, 2), (10, 2, w)] s0).request 0x1B = some (mk 64 [(0, 1, 0x1B), (8, 1, 2), (10, 2, w)])) ∧
    (s0.sterlingOf 0).isSome = true ∧ s0.sterlingOf 1 = none ∧ ctxWellFormed 0 = true ∧ tget sCa.stores 1 = some store0 := by decide +kernel
theorem witness_ManagementReads_inval : (req [(0, 1, 0x20), (12, 1, 57)] s0).request 0x20 = some (mk 64 [(0, 1, 0x20), (12, 1, 57)]) ∧
    16 ≤ field (mk 64 [(0, 1, 0x20), (12, 1, 57)]) 12 1 ∧ field (mk 64 [(0, 1, 0x20), (12, 1, 57)]) 12 1 ≤ 57 ∧
    zeroFrom (mk 64 [(0, 1, 0x20), (12, 1, 57)]) 13 3 = true ∧ tailZero (mk 64 [(0, 1, 0x20), (12, 1, 57)]) 24 = true ∧
    (req [(0, 1, 0x18), (8, 2, 1), (10, 1, 2), (12, 4, 15)] sCa).request 0x18 = some (mk 64 [(0, 1, 0x18), (8, 2, 1), (10, 1, 2), (12, 4, 15)]) ∧
    field (mk 64 [(0, 1, 0x18), (8, 2, 1), (10, 1, 2), (12, 4, 15)]) 12 4 < 2 ^ store0.rootsLog := by decide +kernel

/-- PART_SET of partition 1 with core 1, and with core 0: that displaces the team on core 0, which a pending load keeps busy. -/
def partReq (cores : Nat) : List (Nat × Nat × Nat) :=
  [(0, 1, 0x10), (8, 2, 1), (12, 1, 1), (16, 20, cores), (48, 2, 64), (50, 2, 512)]
def sPart : State := { s0 with parts := tset s0.parts 1 { Part.of (mk 64 (partReq 1)) with parent := 0 } }
/-- The change `put` of a request, as PART_SET makes it. -/
def putOf (fs : List (Nat × Nat × Nat)) (s : State) : State := s.putPart 1 (Part.of (mk 64 fs)) (partFuncs (mk 64 fs))
theorem witness_ManagementWrites_partitions : (req (partReq 2) s0).partStatus (mk 64 (partReq 2)) = 0 ∧
    (req (partReq 2) s0).request 0x10 = some (mk 64 (partReq 2)) ∧ s0.partStatus (mk 64 ((58, 2, 2) :: partReq 2)) ≠ 0 ∧
    (s0.vacate (putOf (partReq 2))).displaced (putOf (partReq 2) s0) = [] ∧
    s0.displaced (putOf (partReq 1) s0) = [2] ∧ (tget sPart.parts 1).isSome = true ∧ sPart.children 1 = [] := by decide +kernel
theorem witness_ManagementWrites_stores :
    (∀ fs ∈ [[(0, 1, 0x14), (8, 2, 255), (12, 1, 1), (13, 1, 12), (14, 1, 16)], [(0, 1, 0x14), (8, 2, 1), (12, 1, 2)]],
      (req fs sCa).request 0x14 = some (mk 64 fs) ∧ 1 ≤ field (mk 64 fs) 8 2 ∧ field (mk 64 fs) 8 2 ≤ 255 ∧ field (mk 64 fs) 15 1 = 0 ∧
      tailZero (mk 64 fs) 48 = true) ∧
    tget sCa.stores 255 = none ∧ (tget sCa.parts 0).isSome = true ∧
    (∀ n ∈ [7, 8], bindOk (mk 64 [(0, 1, 0x15), (12, 1, 15), (13, 1, n), (14, 2, 1)]) = true) ∧ (sCa.ctx? 0).isSome = true := by decide +kernel
theorem witness_ManagementWrites_finalise :
    finalFields (mk 64 [(0, 1, 0x16), (12, 4, 1), (16, 8, 0x4000), (24, 8, 0x5000)]) = true ∧ finalFields (mk 64 [(0, 1, 0x16)]) = false ∧
    (match packetAccs s0 0 .read 0x4000 1, packetAccs s0 0 .write 0x5000 1 with
      | .ok a, .ok b => !((a ++ b).any s0.accWaits) && !a.any s0.accBad && b.all fun x => (s0.peerRefuses x true).isNone
      | _, _ => false) = true := by decide +kernel

def sq0 : SqReq := { origin := 0, ctx := 0, fn := 0, q := 0, matrix := false, scr := 1, lanes := [8, 0, 0, 0], pool := [1, 0, 0, 0] }
def sqFields : List (Nat × Nat × Nat) := [(0, 1, 0x12), (14, 2, 1), (16, 1, 8), (24, 2, 1)]
/-- The request once it is in the core's queue. -/
def sqQueued : State := ((req sqFields s0).queueSqueeze 0).getD s0
theorem witness_Squeezes : SqReq.of (mk 64 sqFields) = some sq0 ∧ (req sqFields s0).request 0x12 = some (mk 64 sqFields) ∧
    ((req sqFields s0).core 0).sqQueue = [] ∧ ((req sqFields s0).core 0).sqRun = none ∧ (req sqFields s0).victimTeams 0 0 = [2] ∧
    (sqQueued.core 0).sqQueue = [.squeeze sq0] ∧ sqQueued.queueSqueeze 0 = none ∧ sqQueued.nextReq 0 = some (.squeeze sq0) ∧
    (sqQueued.core 0).busy = false ∧ sqQueued.reqVictims 0 sq0 = [2] ∧ sqQueued.foldsElse 0 [2] = false ∧ (s0.ctx? 0).isSome = true := by decide +kernel
/-- A scheduler's request of another queue of the same level, while queue 0 is over budget and while it is not. -/
theorem witness_Squeezes_victims :
    s0.reqVictims 0 { sq0 with origin := 1, q := 1 } = [2] ∧
    (inQueue (fun q => { q with priv := mk 128 [(0x18, 4, 1)] }) s0).reqVictims 0 { sq0 with origin := 1, q := 1 } = [] := by decide +kernel
def unsq : List Byte := mk 64 [(0, 1, 0x17), (12, 1, 159)]
theorem witness_Squeezes_unsqueeze : (req [(0, 1, 0x17), (12, 1, 159)] s0).request 0x17 = some unsq ∧ headerOk unsq = true ∧
    field unsq 12 1 < 160 ∧ ctxFn (ctxBits (field unsq 8 4)) ≤ 16 ∧ zeroFrom unsq 13 51 = true := by decide +kernel
theorem witness_Squeezes_expansion : s0.coreOpen 0 = true ∧ s0.nextReq 0 = none ∧
    (inCore (fun c => { c with sqQueue := [.squeeze sq0] }) s0).coreOpen 0 = true ∧
    (inCore (fun c => { c with sqQueue := [.squeeze sq0] }) s0).nextReq 0 ≠ none ∧
    ((inCore (fun c => { c with sqQueue := [.squeeze sq0] }) s0).core 0).cut = false := by decide +kernel
def sqRun0 : SqRun := { req := { sq0 with origin := 1 }, victims := [2], seq := 1, scrGot := 1, lanesGot := [8, 0, 0, 0], poolGot := [1, 0, 0, 0], matrixGot := false, gflags := 0 }
theorem witness_Squeezes_handover : ((inCore (fun c => { c with sqRun := some sqRun0 }) s0).core 0).sqRun = some sqRun0 ∧
    sqRun0.req.origin = 1 ∧ s0.reclaimWaits 0 sqRun0 = false ∧ (req sqFields s0).request 0x12 = some (mk 64 sqFields) ∧
    ({ sqRun0 with req := sq0 } : SqRun).req.origin = 0 ∧ ({ sqRun0 with req := { sq0 with origin := 2 } } : SqRun).req.origin = 2 := by decide +kernel
/-- A request for the matrix state of a victim that owns it, with and without an operation that has not retired. -/
def sqMat : SqRun := { sqRun0 with req := { sq0 with matrix := true } }
def sqOp : MatOp := { core := 0, team := 2, group := 0, ctx := 0, kind := .accz 7, id := [], spoiled := false, pc := 4, q := 0, into := [] }
theorem witness_Squeezes_reclaim : sqMat.req.matrix = true ∧ sqMat.gflags.getLsbD 4 = false ∧ (s0.core 0).owner = some 2 ∧ 2 ∈ sqMat.victims ∧
    (tget s0.teams 2).isSome = true ∧ s0.reclaimWaits 0 sqMat = false ∧ State.reclaimWaits { s0 with mats := [sqOp] } 0 sqMat = true := by
  decide +kernel

def swOut : List (Nat × Nat × Nat) := [(0, 1, 0x19), (13, 1, 1)]
def swIn : List (Nat × Nat × Nat) := [(0, 1, 0x19), (13, 1, 2)]
/-- The team of context 0 held out of core 0, its SWITCH OP 2 waiting. -/
def sHeld : State := inCore (fun c => { c with sqQueue := [.switchIn 0 0] }) (req swIn (s0.saveTeam true 2))
theorem witness_Switches_started : (s0.core 0).savedFor 0 .mailbox = false ∧
    (∀ by' ∈ [SavedBy.mailbox, .slice], (((s0.setSaving [0] (some 0) by').core 0).saving = some 0 ∧ ((s0.setSaving [0] (some 0) by').core 0).savingBy = by' ∧
      ((s0.setSaving [0] (some 0) by').core 0).savedFor 0 .mailbox = (by' == .mailbox))) ∧
    s0.hasCores (s0.switchCores 0 0) (.switchOut 0) = true := by decide +kernel
theorem witness_Switches : s0.switchCheck (mk 64 swOut) = .ok (0, 0) ∧ (req swOut s0).request 0x19 = some (mk 64 swOut) ∧
    s0.victimTeams 0 0 = [2] ∧ (∀ x ∈ s0.switchCores 0 0, (s0.core x).sqRun = none ∧ (s0.core x).saving = none) ∧ s0.quiet [2] = true ∧
    (inGroup (fun g => { g with pending := [late0] }) s0).quiet [2] = false ∧ (s0.takeSpill 0 [2]).isSome = true ∧
    ((inCore (fun k => { k with savedRun := some (s0.released 0 0 [2] 0) }) s0).core 0).savedRun = some (s0.released 0 0 [2] 0) ∧
    (inFunc (fun f => { f with part := some 0 }) { s0 with parts := [] }).takeSpill 0 [2] = none := by decide +kernel
theorem witness_Switches_in : sHeld.switchCheck (mk 64 swIn) = .ok (0, 0) ∧ sHeld.switchInCtx 0 = some 0 ∧ sHeld.heldOut 0 0 ≠ [] ∧
    (∀ y ∈ sHeld.inCores 0 0, sHeld.coreOpen y = true) ∧ sHeld.hasCores (sHeld.inCores 0 0) (.switchIn 0 0) = true ∧ sHeld.request 0x19 = some (mk 64 swIn) ∧
    (State.restoreAll 0 false (sHeld.heldOut 0 0) sHeld).isSome = true := by decide +kernel
theorem witness_Switches_save : ((inCore (fun c => { c with saving := some 0 }) s0).core 0).saving = some 0 ∧ s0.request 0x19 = none ∧
    (inCore (fun c => { c with saving := some 0 }) s0).quiet ((inCore (fun c => { c with saving := some 0 }) s0).victimTeams 0 0) = true ∧
    (s0.plant.vacated.all fun x => !((s0.switchCores 0 0).contains x.1 && x.2 == 0)) = true ∧ (s0.group? 0 0).isSome = true ∧ (tget s0.teams 2).isSome = true ∧
    s0.plant.nextPeriod ≤ (atTime 1000000 s0).refTime := by decide +kernel

/-- A launch of 4 teams of which none is agreed. -/
def sNew : State := inLaunch (fun l => { l with tx := 4, nextStep := 0, shares := [] }) s0
/-- Its teams agreed, the first to be dispatched. -/
def sReady : State := inLaunch (fun l => { l with tx := 4, nextStep := 4, shares := [{ die := 0, base := 0, first := 0, next := 1, stop := 4 }] }) s0
theorem witness_Scheduling_steps : (s0.queue 0 0).state ≠ .disabled ∧ (s0.queue 0 0).timeBudget * chargeUnit ≤ (s0.queue 0 0).charge ∧
    0 < bitCount (s0.ownCores ((s0.func 0).part.getD 0)) ∧ (s0.die 0).frontFailed = false ∧ ((sReady.candidates 0).head?.bind (sReady.placeNext 0)).isSome = true ∧ s0.candidates 0 = [] ∧
    ((tget sNew.launches 1).map fun l => decide (l.isInvar = false ∧ l.nextStep < l.total ∧ sNew.stepDies l ≠ [])) = some true ∧
    ((tget sNew.launches 1).map fun l => match sNew.frameLaunch 1 l (sNew.stepDies l) with
      | .ok s1 => (tget s1.launches 1).isSome
      | .error _ => false) = some true := by decide +kernel
def sDone : State := { inTeam (fun t => { t with groupsLeft := 0 }) s0 with groups := [] }
theorem witness_Scheduling_complete : ((tget sDone.teams 2).map fun t => decide (sDone.teamBusy 2 t = false ∧ t.formed = false) &&
      (tget sDone.launches t.launch).isSome) = some true := by decide +kernel
/-- Die 1 has been idle for 5 µs; die 0 gives queue 0, whose last dispatch is 5 µs old. -/
def sIdle : State := atTime 10000 (inQueue (fun q => { q with tail := 1 })
  (s0.setDie 1 { s0.die 1 with idleDie := some 5000 }))
theorem witness_Scheduling_steal : (sIdle.die 1).stealAsk = 0 ∧ (sIdle.die 1).backoffUntil ≤ sIdle.refTime ∧ sIdle.accepts 1 = true ∧
    (∃ y ∈ sIdle.parts, sIdle.idleCores 1 (sIdle.openCores y.1) ≠ []) ∧ ((sIdle.die 1).idleDie.any fun t => decide (t + 5000 ≤ sIdle.refTime)) = true ∧
    (inDie (fun d => { d with stealInbox := [(1, [0])] }) sIdle).agreeDue 0 = false ∧ ((inDie (fun d => { d with stealInbox := [(1, [0])] }) sIdle).die 0).stealInbox = (1, [0]) :: [] ∧
    sIdle.givable 0 [0] 0 (sIdle.queue 0 0) = true ∧ s0.givable 0 [0] 0 (s0.queue 0 0) = false ∧
    ((inDie (fun d => { d with stealGiven := some (0, 0) }) s0).die 0).stealGiven.isSome = true ∧
    ((inDie (fun d => { d with stealAsk := 3 }) s0).die 0).stealAsk = 3 ∧ ((inDie (fun d => { d with stealAsk := 4 }) s0).die 0).stealAsk = 4 ∧
    ((inQueue (fun q => { q with thief := some 1 }) s0).queues.find? fun z => z.2.home == 0 && z.2.thief.any fun t => (s0.die t).stealGiven != some (z.1 / 1024, z.1 % 1024)).isSome = true := by
  decide +kernel
def bin0 : Bin := { launch := 1, entry := 0, d1 := 0, recs := [(mk 64 [], none, 0)] }
theorem witness_Scheduling_gather : ((inDie (fun d => { d with bins := [bin0] }) (atTime 2001 s0)).die 0).bins[0]? = some bin0 ∧
    ((tget s0.launches 1).map fun l => decide (l.isInvar = false) && (atTime 2001 s0).binWaited l bin0) = some true ∧
    (sBatch.copies.all fun y => decide (y.2.ctx = 0 ∧ y.2.team = 2)) = true ∧ Cause.fatal .memUncorr = true := by decide +kernel

def trap0 : TrapRec := { cause := .brk, pc := 8, addr := 0, threads := 1, word := 0, time := 0, untaken := true }
def sTrap : State := inCore (fun c => { c with trapQ := [(0, 0, 0)] }) (inSplit (fun x => { x with trap := some trap0 }) s0)
theorem witness_TrapCore_take : (sTrap.core (pairOf 1)).trapQ = (0, 0, 0) :: [] ∧ ((sTrap.siteAt 0 0 0).map fun h => h.sp.trap) = some (some trap0) ∧
    (∀ n ∈ [0, 1, 2], ∃ p ∈ [0, 1, 2, 3, 4, 8, 16, 32, 64, 128, 256, 512], trapAction (BitVec.ofNat 10 p) .brk = n) ∧
    (∀ n ∈ [159, 160], (req [(0, 1, 0x13), (8, 1, n)] s0).request 0x13 = some (mk 64 [(0, 1, 0x13), (8, 1, n)])) ∧
    field (mk 64 [(0, 1, 0x13), (8, 1, 159)]) 8 1 < 160 ∧ 160 ≤ field (mk 64 [(0, 1, 0x13), (8, 1, 160)]) 8 1 := by decide +kernel
theorem witness_TrapCore_control : ((sTrap.group? 0 0).map fun g => decide (g.tableOk = true) && g.splits.all fun x => !x.live || x.halted || x.trap.isSome) = some true ∧
    ((s0.group? 0 0).map fun g => g.splits.any fun x => x.live && !x.halted && x.trap.isNone) = some true := by decide +kernel
/-- A pending notice with K[63] at a valid target, at a bad one, and 0. -/
def sNotice (x : Word64) : State := setK 63 x (inGroup (fun g => { g with nen := true, npend := true }) s0)
def noticeSat (x : Word64) : Bool :=
  match (sNotice x).site? with
  | some h => h.noticed && decide (h.g.awaits (.k 63) = false) && decide ((readCell h.g.k 63 : Word64) = x)
  | none => false
theorem witness_TrapCore_notice : noticeSat 0x24 = true ∧ targetOk 0x24 = true := by decide +kernel
theorem witness_TrapCore_notice_bad : noticeSat 0x20 = true ∧ targetOk 0x20 = false := by decide +kernel
theorem witness_TrapCore_notice_zero : noticeSat 0 = true := by decide +kernel
theorem witness_TrapCore_notice_late : (match (awaitK 63 (sNotice 0)).site? with
    | some h => h.noticed && h.g.awaits (.k 63)
    | none => false) = true := by decide +kernel

/-- Two splits: 0 has issued 2^24 instructions, 1 is parked at a barrier for the watchdog time. -/
def sWatch : State := atTime 2000000001 (inGroup (fun g => (g.setSplit 0 { g.split 0 with mask := 1, issues := 2 ^ 24 }).setSplit 1
  { Split.start 4 2 with park := some (.barrier 0x100000 false true true) }) s0)
theorem witness_Watchdogs : (match sWatch.site? with
    | some h => !h.sp.stopped && decide (2 ^ 24 ≤ h.sp.issues) && h.g.othersWait h.ix &&
        decide (atD (sWatch.core h.core).issuedAt (quarterOf h.entry) 0 ≤ sWatch.cycleOf h.core)
    | none => false) = true ∧ (match ({ sWatch with cur := { sWatch.cur with split := 1 } } : State).site? with
    | some h => h.sp.park.isSome && !h.sp.halted && h.sp.trap.isNone && !h.team.exempt h.sp &&
        decide (sWatch.plant.watchdogNs < h.sp.parkedNs + (sWatch.refTime - h.sp.parkStart)) &&
        decide (h.sp.parkedNs + ((atTime 2000000000 sWatch).refTime - h.sp.parkStart) ≤ sWatch.plant.watchdogNs)
    | none => false) = true := by decide +kernel
/-- The cycle's issue is over in quarter 0. -/
def sSample : State := inCore (fun c => { c with issuedAt := setAt c.issuedAt 0 (s0.cycleOf 0 + 1) }) (inFunc (fun f => { f with sampleOn := true, sampleBase := 0x4000 }) s0)
theorem witness_Watchdogs_sample : (match ((List.range 16).map fun i => 16 * 0 + (15 + 1 + i) % 16).findSome? (sSample.eligible 0) with
    | some h => okAnd (sSample.storeVa h.ctx h.die (0x4000 + 64) (sSample.sampleBytes h)) (fun _ => True)
    | none => false) = true ∧ ((sSample.func 0).samples + 1) % 64 ≠ 0 ∧ atD (sSample.core 0).sampledAt 0 0 ≠ sSample.cycleOf 0 + 1 ∧ s0.issueOver 0 0 = false ∧
    sSample.issueOver 0 0 = true := by decide +kernel

/-- A page at 0x5000 of a context that is pinned (bit 54 of its leaf). -/
def sPin : State := { s0 with mem := writeLe s0.mem 0x3000 8 0x004000004000003B }
theorem witness_Package : (∀ i ∈ [0, 1, 2, 3, 4, 5], s0.imageOk 0x3F i = true) ∧ s0.imageOk 0x3E 0 = false ∧ s0.imageOk 0x3D 1 = false ∧ s0.imageOk 0x1F 5 = false ∧ s0.plant.linkUp[1]? = some true ∧
    s0.plant.dualHost = false ∧ s0.plant.boundUp[3]? = some true ∧ s0.plant.retries[3]? = some 0 ∧ s0.plant.portUp[15]? = some true ∧
    ((sPin.pinnedAcc 0 0x5000 8).any fun a => !sPin.accWaits a && a.locs.all fun l => !sPin.locBad l) = true ∧ (s0.pinnedAcc 0 0x5000 8).isNone = true ∧
    flits 9 0x5000 8 = [(0x5000, 8)] ∧ s0.plant.linkUp[0]? = some true ∧ (flits 201 0x50C0 200) = [(0x50C0, 64), (0x5100, 136)] ∧
    ((flits 201 0x50C0 200).all fun x => (sPin.pinnedAcc 0 x.1 x.2).any fun a => !sPin.accWaits a) = true ∧ sPin.walkStall 0 0x5000 = none ∧
    ((sPin.setStack 0 { sPin.stack 0 with copying := some (.granule (granuleOf 0x3000)) }).walkStall 0 0x5000).isSome = true := by decide +kernel
theorem witness_Package_more : ({ s0 with plant := { s0.plant with retries := [63, 0, 0, 0] } } : State).plant.retries[0]? = some 63 ∧
    (({ s0 with peers := [(1, { mem := [], pinned := [], ports := [15] })] } : State).peers.find? fun x => x.2.ports.contains 15).isSome = true ∧
    ({ s0 with plant := { s0.plant with recovery := true } } : State).plant.recovery = true := by decide +kernel

theorem witness_StacksAndPower : (s0.stack 7).outOfUse = false ∧ (s0.stack 0).copying = none ∧ granuleOf 0 / 0x2800000000 = 0 / 2 ∧ 0 < hbmEnd ∧
    s0.granuleRetired (granuleOf 0) = false ∧ ((s0.setStack 0 { s0.stack 0 with copying := some (.row 1 2) }).stack 0).copying = some (.row 1 2) ∧
    (((s0.setStack 0 { s0.stack 0 with copying := some (.granule 5) }).setStack 1 { s0.stack 1 with copying := some (.granule 5) }).stack
      (otherStack 0)).copying = some (.granule 5) ∧ (1, 2) ∉ (s0.stack 0).throttled ∧
    (tget s0.parts ((s0.func 1).part.getD 0)).isSome = true ∧ (s0.die 3).frontFailed = false := by decide +kernel

/-- A page selected for migration to die 1, and its leaf as it was. -/
def mig0 : Migration := { ctx := 0, leaf := 0x3000, entry := 0x4000003B, size := 0x200000, target := 1 }
def sMig : State := inDie (fun d => { d with migrations := [mig0] }) s0
theorem witness_Timers : ((inFunc (fun f => { f with gcntEnable := true }) s0).func 0).gcntEnable = true ∧
    ((inFunc (fun f => { f with gcntEnable := true }) s0).func 0).gcntAt ≤ s0.refTime ∧ (sMig.die 0).migrations = mig0 :: [] ∧
    (sMig.ctx? 0).isSome = true ∧ leafKey (BitVec.ofNat 64 (readLe sMig.mem mig0.leaf 8)) = leafKey mig0.entry ∧
    Memory.wf sMig.mem = true ∧ (∀ x ∈ sMig.mem, x.1 < 0x2800000000) ∧ mig0.leaf + 8 ≤ 0x2800000000 := by decide +kernel

/-- Nothing keeps any place that the device may choose from being used. -/
theorem witness_Timers_places (a b n : Nat) : sMig.pageWaits mig0.leaf a b n = false ∧ sMig.pageBad a n = false := by
  have r : sMig.plant.retireList = [] := by decide +kernel
  have k (i : Nat) : sMig.stack i = Stack.reset := by
    have e : sMig.hbm = [] := by decide +kernel
    simp [State.stack, e, tget]
  simp [State.pageWaits, State.pageBad, k, r, Stack.reset]
/-- A leaf that the driver has changed. -/
theorem witness_Timers_changed : leafKey (BitVec.ofNat 64 (readLe { sMig with mem := writeLe sMig.mem 0x3000 8 0 }.mem mig0.leaf 8)) ≠
    leafKey mig0.entry := by decide +kernel

/-- What a site holds. -/
def siteIs (s : State) (p : Site → Bool) : Bool := match s.site? with | some h => p h | none => false
/-- A move with an event, and issues: of a good word that is alone on its core, a word that is none, U and a reserved bit. -/
theorem witness_StepRunsTheDecodedInstruction : isEvent .sterlingFold = true ∧ needsDies .schedPeriod = true ∧ (at' 0).dark = false ∧
    siteIs (at' 0) (fun h => (at' 0).splitReady h && !h.noticed && okAnd (fetchWords (at' 0) h) (fun x => decode x.2.1 = .ok .nop) &&
      (((at' 0).chosen 0 0 0 []).map fun a => decide (a.h.entry = h.entry ∧ a.h.ix = h.ix)) == some true && ((at' 0).attempts 0 []).length == 1 &&
      ((at' 0).unitsFrom h .nop ((at' 0).gapCycle h)).isSome) = true ∧
    siteIs (at' 0xFE000000) (fun h => okAnd (fetchWords (at' 0xFE000000) h) (fun x => decode x.2.1 = .error .illegal)) = true ∧
    siteIs (setMem 0 4 0x80000000 s0) (fun h => okAnd (fetchWords (setMem 0 4 0x80000000 s0) h) (fun x => x.1.getLsbD 31 = true)) = true ∧
    siteIs (setMem 0 4 0x10000000 s0) (fun h => okAnd (fetchWords (setMem 0 4 0x10000000 s0) h) (fun x =>
      x.1.getLsbD 31 = false ∧ x.1.extractLsb' 28 3 ≠ 0)) = true := by decide +kernel
theorem witness_DecodeAndEncodeAgree : (Instr.kli 1 5).wf = true ∧ (instrShape (.kli 1 5)).isSome = true ∧ decode 0x20010005 = .ok (.kli 1 5) := by decide
theorem witness_StepKeepsTheMemories : s0.memWf ∧ after (step s0) (fun _ => true) = true := by unfold State.memWf; decide +kernel

/-! ### One step each, on values that the spec gives -/

def sTidx (m : Word32) : State := setMode m (setV 1 (fun t => BitVec.ofNat 32 t) s0)

/-- 13, building a constant, and the results after it; R295 wrapping and shift amounts. -/
theorem test_kli : after (exec (.kli 4 0xFFFE) s0) (kIs 4 0xFFFFFFFFFFFFFFFE) = true := by decide +kernel
theorem test_klih : after (exec (.klih 3 4 0x1234) (setK 4 0xFFFFFFFFFFFFFFFE s0)) (kIs 4 0x1234FFFFFFFFFFFE) = true := by decide +kernel
theorem test_kshr : after (exec (.kshrImm 5 4 4) (setK 4 0x1234FFFFFFFFFFFE s0)) (kIs 5 0x01234FFFFFFFFFFF) = true := by decide +kernel
theorem test_kshl_amount : after (exec (.kshl 5 4 6) (setK 4 3 (setK 6 65 s0))) (kIs 5 6) = true := by decide +kernel
theorem test_kadd_wraps : after (exec (.kadd 1 2 3) (setK 2 0x7FFFFFFFFFFFFFFF (setK 3 1 s0))) (kIs 1 0x8000000000000000) = true := by decide +kernel
theorem test_kmulh_n : after (exec (.kmulh 1 3 1 2) (setK 1 0x8000000000000000 (setK 2 4 s0))) (kIs 3 2) = true := by decide +kernel
theorem test_kmulh_i : after (exec (.kmulh 0 3 1 2) (setK 1 0xFFFFFFFFFFFFFFFF (setK 2 5 s0))) (kIs 3 0xFFFFFFFFFFFFFFFF) = true := by decide +kernel
theorem test_kmin_i : after (exec (.kmin 0 3 1 2) (setK 1 0xFFFFFFFFFFFFFFFF (setK 2 3 s0))) (kIs 3 0xFFFFFFFFFFFFFFFF) = true := by decide +kernel
theorem test_kmin_n : after (exec (.kmin 1 3 1 2) (setK 1 0xFFFFFFFFFFFFFFFF (setK 2 3 s0))) (kIs 3 3) = true := by decide +kernel
theorem test_kfirst : after (exec (.kfirstPred 1 2) (setP 2 0x0C00 s0)) (kIs 1 10) = true := by decide +kernel
theorem test_kcmp : after (exec (.kcmp 0 6 3 9) (setK 3 15 (setK 9 15 s0))) (kIs 6 1) = true := by decide +kernel

/-- 13 R289: the example, and a value for which MODE_INVALID ends the context. -/
theorem test_mode : after (exec (.mode 3 0x29) s0) (fun t => group0 t fun g => (g.split 0).mode == 0x29) = true := by decide +kernel
theorem test_mode_invalid : after (exec (.mode 2 0xA0) s0) (fun t => (t.queue 0 0).state == .faulted && t.groups.isEmpty) = true := by decide +kernel
theorem test_mode_gdn : after (exec (.modeGd 3 1 1) (setMode 0x29 s0)) (fun t => group0 t fun g => (g.split 0).mode == 0x000F0029) = true := by
  decide +kernel
theorem test_rsr_mode : after (exec (.rsr 7 12) (setMode 0x000F0029 s0)) (kIs 7 0x000F0029) = true := by decide +kernel
theorem test_rsr_tidx : after (exec (.rsr 1 0) (setMode 2 s0)) (fun t => vIs 1 0 0 t && vIs 1 15 15 t) = true := by decide +kernel

/-- 14: the vector example, and R197 on i8. -/
theorem test_vcmp : after (exec (.vcmpUniform 2 2 1 4) (setK 4 5 (sTidx 2))) (pIs 2 0x1F) = true := by decide +kernel
theorem test_vmul_guarded : after (exec (.vmul 2 1 1) (setP 2 0x1F (sTidx 0x00090002))) (fun t => vIs 2 4 16 t && vIs 2 5 0 t) = true := by
  decide +kernel
theorem test_vbal : after (exec (.vbal 6 2) (setP 2 0x1F s0)) (kIs 6 0x1F) = true := by decide +kernel
theorem test_gred : after (exec (.gred 7 2 0) (setV 2 (fun t => if t < 5 then BitVec.ofNat 32 (t * t) else 0) (setMode 2 s0))) (kIs 7 30) = true := by
  decide +kernel
theorem test_vadd_i8 : after (exec (.vadd 3 1 2) (setV 1 (fun _ => 100) (setV 2 (fun _ => 50) (setMode 0 s0)))) (vIs 3 0 0xFFFFFF96) = true := by
  decide +kernel
theorem test_vadd_i8_sat : after (exec (.vadd 3 1 2) (setV 1 (fun _ => 100) (setV 2 (fun _ => 50) (setMode 0x100 s0)))) (vIs 3 0 0x7F) = true := by
  decide +kernel
theorem test_vabs : after (exec (.vabs 3 1) (setV 1 (fun _ => 0xFFFFFF80) (setMode 0 s0))) (vIs 3 0 0xFFFFFF80) = true := by decide +kernel
theorem test_vabs_sat : after (exec (.vabs 3 1) (setV 1 (fun _ => 0xFFFFFF80) (setMode 0x100 s0))) (vIs 3 0 127) = true := by decide +kernel
theorem test_vneg_n8_sat : after (exec (.vneg 3 1) (setV 1 (fun _ => 1) (setMode 0x104 s0))) (vIs 3 0 0) = true := by decide +kernel

/-- 09 R202, R204, and the block of R207. -/
theorem test_cvt_f8e4 : after (exec (.cvt 2 1 8) (setV 1 (fun t => if t = 0 then 0x43960000 else 0x43FA0000) (setMode 0x0B s0)))
    (fun t => vIs 2 0 0x79 t && vIs 2 1 0x7F t) = true := by decide +kernel
theorem test_cvt_f8e4_sat : after (exec (.cvt 2 1 8) (setV 1 (fun t => if t = 0 then 0x43960000 else 0x43FA0000) (setMode 0x10B s0)))
    (fun t => vIs 2 0 0x79 t && vIs 2 1 0x7E t) = true := by decide +kernel
def block : Nat → Word32 := fun t =>
  atD [0x40400000, 0xBFC00000, 0x3E800000, 0, 0x3F800000, 0xC0600000, 0x3F400000, 0x40000000] t 0
theorem test_bscl : after (exec (.bsclUniform 4 2 5) (setV 2 (fun t => if t < 8 then 0x40600000 else 0) (setMode 0x14 s0)))
    (fun t => vIs 4 0 0x80 t && vIs 4 8 0 t) = true := by decide +kernel
theorem test_bpak : after (exec (.bpak 5 1 4) (setV 4 (fun t => if t < 8 then 0x80 else 0) (setV 1 block (setMode 0x14 s0))))
    (fun t => vIs 5 0 6 t && vIs 5 1 0xFFFFFFFD t && vIs 5 2 0 t && vIs 5 5 0xFFFFFFF9 t && vIs 5 6 2 t && vIs 5 7 4 t) = true := by
  decide +kernel
theorem test_bunp : after (exec (.bunp 6 5 4) (setV 4 (fun t => if t < 8 then 0x80 else 0)
      (setV 5 (fun t => if t = 1 then 0xFFFFFFFD else 2) (setMode 0x14 s0))))
    (fun t => vIs 6 1 0xBFC00000 t && vIs 6 0 0x3F800000 t) = true := by decide +kernel
theorem test_fmax : after (exec (.fmax 2 2 3) (setV 2 (fun _ => 0x40400000) (setV 3 (fun _ => 0x7FC00000) s0))) (vIs 2 0 0x40400000) = true := by
  decide +kernel
theorem test_fadd : after (exec (.fadd 3 1 2) (setV 1 (fun _ => 0x4B800000) (setV 2 (fun _ => 0x3F800000) s0))) (vIs 3 0 0x4B800000) = true := by
  decide +kernel
theorem test_shfx : after (exec (.shfxImm 3 2 1) (setV 2 (fun t => BitVec.ofNat 32 t) s0)) (fun t => vIs 3 0 1 t && vIs 3 5 4 t) = true := by
  decide +kernel

/-- 06 R126: the branch of the example, with the threads 0 to 7 for the else part. -/
theorem test_brp : after (exec (.brp 1 2) (setP 1 0x00FF s0)) (fun t => group0 t fun g =>
    (g.split 0).mask == 0xFF00 && (g.split 1).mask == 0x00FF && (g.split 0).pc == 8 && (g.split 1).pc == 12) = true := by decide +kernel
theorem test_bru_back : after (exec (.bruNz 1 0xFFFF) (setK 1 1 (inSplit (fun x => { x with pc := 12 }) s0)))
    (fun t => group0 t fun g => (g.split 0).pc == 8) = true := by decide +kernel
theorem test_exit : after (exec .exit s0) (fun t => (t.group? 0 0).isNone || group0 t fun g => !(g.split 0).live) = true := by decide +kernel
theorem test_brk : after (exec (.brk 5) s0) (trapped .brk) = true := by decide +kernel

/-- A load and a store of one word by each thread, and a uniform store of 8 bytes, low byte first. -/
theorem test_ld : after (exec (.ld 0 3 1 2) (setMem 0x4004 4 0x12345678 sMem)) (fun t => group0 t fun g => !g.pending.isEmpty) = true := by
  decide +kernel
theorem test_st : after (exec (.st 0 3 1 2) (setV 3 (fun t => BitVec.ofNat 32 (0x11223344 + t)) sMem))
    (fun t => decide (readLe t.mem 0x40004000 8 = 0x1122334511223344)) = true := by decide +kernel
theorem test_stk : after (exec (.stk 0 5 2 1) (setK 5 0x1122334455667788 sMem))
    (fun t => decide (readLe t.mem 0x40004008 1 = 0x88) && decide (readLe t.mem 0x4000400F 1 = 0x11)) = true := by decide +kernel

/-- One step from reset runs the word at the program counter, and a word of no instruction ends the context (06 R133: the cause is fatal). -/
theorem test_step_kli : after (step (at' 0x2004FFFE)) (kIs 4 0xFFFFFFFFFFFFFFFE) = true := by decide +kernel
theorem test_step_illegal : after (step (at' 0xFE000000)) (fun t => (t.queue 0 0).state == .faulted && t.groups.isEmpty) = true := by decide +kernel

/-- 01: a fifth droop event of a die stretches its clock. -/
theorem test_droop : after (exec (.droop 1) (s0.setDie 1 { s0.die 1 with droopEvents := 4 }))
    (fun t => (t.die 1).droopEvents == 5 && (t.die 1).droopActive) = true := by decide +kernel

/-- 09 R212: an i32 add of 3 at the engine. A load that completes (R122 of 06). A doorbell of sequence 1 and index 1 (02 R38). -/
theorem test_atom_engine : after (exec (.atomicAtEngine 0 0) sAtoms) (fun t => decide (readLe t.mem 0x40004000 4 = 3)) = true := by decide +kernel
theorem test_atom_engine_merged : after (exec (.atomicAtEngine 0 1) sAtoms) (fun t => t.atoms.map (·.value) == [7]) = true := by decide +kernel
theorem test_load_complete : after (exec .loadComplete (inGroup (fun g => { g with pending := [{ late0 with clobbered := [] }] }) sLate)) (fun t => vIs 3 0 5 t && group0 t fun g => g.pending.isEmpty) = true := by
  decide +kernel
theorem test_copy_row : after (exec (.copyDeliver 9) { sBatch with mem := writeLe sBatch.mem 0x40004004 4 0x3F800000 })
    (fun t => decide ((tget t.teams 2).map (fun x => readLe x.scratch 4 4) = some 0x3F800000)) = true := by decide +kernel

end Sys2Proof.Tests
end

section
/-!
SUPPORT. The region stack (06 R146): what an update of it answers at a region edge and away from one, and the fields of REGION.
-/

namespace Sys2Proof.Machine

open Sys2Proof

/-! ### The region edge -/

/-- RBRK is enabled for the identifier that an instruction enters or leaves, if there is one (06 R146). -/
abbrev State.breaksAt (s : State) (h : Site) (id : Option Word16) : Prop :=
  (s.core h.core).rbrk.getLsbD 16 = true ∧ id = some ((s.core h.core).rbrk.extractLsb' 0 16)

theorem regionEdge_eq (s : State) (h : Site) (id : Option Word16) (stk : List Word16) :
    regionEdge s h id stk =
      if s.breaksAt h id then stopAfter (s.modGroup h fun g => { g with region := stk }) h .brk
      else .ok ((s.modGroup h fun g => { g with region := stk }).advance h) := by
  simp only [regionEdge, State.breaksAt, Bool.and_eq_true, beq_iff_eq]

theorem stopAfter_pending {h : Site} (s : State) (c : Cause) (hp : h.g.hasPending h.ix = true) :
    stopAfter s h c = .error .wait := by
  simp [stopAfter, hp]

theorem stopAfter_written {h : Site} (s : State) (c : Cause) (hp : h.g.hasPending h.ix = false) :
    stopAfter s h c = .ok (s.raise h c 0 h.mask (nextPc h.sp.pc)) := by
  simp [stopAfter, hp]

section
variable {s : State} {h : Site} {i : Instr} {body : Site → Except Stop State} {id : Option Word16} {stk : List Word16}
  (hr : Ready s h) (hi : exec i s = issue s body) (hb : body h = regionEdge s h id stk)
include hr hi hb

/-- Away from a region edge the stack changes and the split goes on. -/
theorem leaves_of_not_breaksAt (he : ¬s.breaksAt h id) : Leaves s h i false { h.g with region := stk } := by
  rw [regionEdge_eq, if_neg he, advance_modGroup _ hr.1 rfl] at hb
  exact hi.trans (issue_ok hr hb)

/-- At a region edge the split first waits for its earlier results. -/
theorem waits_of_breaksAt (he : s.breaksAt h id) (hp : h.g.hasPending h.ix = true) : Waits s i := by
  rw [regionEdge_eq, if_pos he, stopAfter_pending _ _ hp] at hb
  exact hi.trans (issue_wait hr hb)

/-- At a region edge with every earlier result written, the stack changes and the split takes BRK. -/
theorem takes_brk_of_breaksAt (he : s.breaksAt h id) (hp : h.g.hasPending h.ix = false) :
    exec i s = .next (State.raise { s with groups := tset s.groups h.key { h.g with region := stk } } h .brk 0 h.mask
      (nextPc h.sp.pc)) := by
  rw [regionEdge_eq, if_pos he, stopAfter_written _ _ hp, modGroup_site _ hr.1] at hb
  exact hi.trans (issue_ok hr hb)

/-- Everything an update of the region stack can answer. -/
theorem regionEdge_answers :
    if ¬s.breaksAt h id then Leaves s h i false { h.g with region := stk }
    else if h.g.hasPending h.ix = true then Waits s i
    else ∃ n, exec i s = .next (State.raise
      { s with groups := tset s.groups h.key { h.g with region := stk, retired := n } } h .brk 0 h.mask (nextPc h.sp.pc)) := by
  split
  case isTrue he => exact leaves_of_not_breaksAt hr hi hb he
  case isFalse he =>
    rw [not_not] at he
    split
    case isTrue hp => exact waits_of_breaksAt hr hi hb he hp
    case isFalse hp => exact ⟨h.g.retired, takes_brk_of_breaksAt hr hi hb he (Bool.eq_false_iff.2 hp)⟩

end

/-! ### REGION -/

/-- Bits of a sum of fields of 4, 16, 16 and 16 bits, the highest first. -/
theorem fields_div_mod {n a b c x : Nat} (hn : n < 16) (ha : a < 65536) (hb : b < 65536) (hc : c < 65536)
    (hx : x = n * 281474976710656 + a * 4294967296 + b * 65536 + c) :
    x / 4503599627370496 = 0 ∧ x / 281474976710656 % 16 = n ∧ x / 4294967296 % 65536 = a ∧ x / 65536 % 65536 = b ∧
      x % 65536 = c := by
  omega

/-- REGION as a number: the depth above the three top entries, of which one that is not there counts as 0. -/
theorem regionWord_toNat {g : Group} (hg : g.region.length ≤ 8) :
    g.regionWord.toNat = g.region.length * 281474976710656 + ((g.region[2]?).getD 0).toNat * 4294967296 +
      ((g.region[1]?).getD 0).toNat * 65536 + ((g.region[0]?).getD 0).toNat := by
  have h2 := ((g.region[2]?).getD 0).isLt
  have h1 := ((g.region[1]?).getD 0).isLt
  have h0 := ((g.region[0]?).getD 0).isLt
  simp only [Group.regionWord, atD, BitVec.toNat_ofNat, Nat.min_eq_left hg, Nat.reducePow] at *
  omega

theorem regionWord_fields {g : Group} (hg : g.region.length ≤ 8) :
    g.regionWord.toNat / 4503599627370496 = 0 ∧ g.regionWord.toNat / 281474976710656 % 16 = g.region.length ∧
      g.regionWord.toNat / 4294967296 % 65536 = ((g.region[2]?).getD 0).toNat ∧
      g.regionWord.toNat / 65536 % 65536 = ((g.region[1]?).getD 0).toNat ∧
      g.regionWord.toNat % 65536 = ((g.region[0]?).getD 0).toNat :=
  fields_div_mod (by omega) (BitVec.isLt _) (BitVec.isLt _) (BitVec.isLt _) (regionWord_toNat hg)

theorem extractLsb'_eq_iff {n : Nat} (x : Word64) (i : Nat) (y : BitVec n) :
    x.extractLsb' i n = y ↔ x.toNat / 2 ^ i % 2 ^ n = y.toNat := by
  rw [← BitVec.toNat_inj, BitVec.extractLsb'_toNat, Nat.shiftRight_eq_div_pow]

theorem regionWord_reserved {g : Group} (hg : g.region.length ≤ 8) : g.regionWord.extractLsb' 52 12 = 0 := by
  obtain ⟨hres, -⟩ := regionWord_fields hg
  rw [extractLsb'_eq_iff, show 2 ^ 52 = 4503599627370496 from by norm_num, hres]
  rfl

theorem regionWord_depth {g : Group} (hg : g.region.length ≤ 8) :
    (g.regionWord.extractLsb' 48 4).toNat = g.region.length := by
  obtain ⟨-, hdepth, -⟩ := regionWord_fields hg
  rwa [BitVec.extractLsb'_toNat, Nat.shiftRight_eq_div_pow]

theorem regionWord_entry {g : Group} (hg : g.region.length ≤ 8) {n : Nat} (hn : n < 3) :
    g.regionWord.extractLsb' (16 * n) 16 = (g.region[n]?).getD 0 := by
  obtain ⟨-, -, hthird, hsecond, htop⟩ := regionWord_fields hg
  rw [extractLsb'_eq_iff]
  match n, hn with
  | 0, _ => simpa using htop
  | 1, _ => simpa using hsecond
  | 2, _ => simpa using hthird

/-- rsr of REGION writes the word to K[d]. -/
theorem rsr_region_writesK {s : State} {h : Site} (ht : Timely s h) (d : BitVec 8) :
    WritesK s h (.rsr d 11) false (d.toNat % 64) h.g.regionWord := by
  have hx : exec (.rsr d 11) s = execRsr d 11 s := rfl
  exact writesK ht (hx.trans (issue_ok ht.1 rfl))

/-! ### The statement -/

/-- Settles O15: enter and leave each come down to one update of the region stack, whose three answers `regionEdge_answers` gives,
and the fields of REGION are read off the word as a number. -/
theorem regions : Obligations.Regions := by
  unfold Obligations.Regions
  intro s h hr id d
  refine ⟨regionEdge_answers hr rfl rfl, regionEdge_answers hr rfl rfl, fun hz hg => ?_⟩
  exact ⟨h.g.regionWord, rsr_region_writesK ⟨hr, hz⟩ d, regionWord_reserved hg, regionWord_depth hg,
    fun _ hn => regionWord_entry hg hn⟩

end Sys2Proof.Machine
end

section
/-!
SUPPORT. Writes of MODE (13 R289): what `writeMode` answers, and the fields of the values that mode and mode.gd write (12 R249).
-/

namespace Sys2Proof.Machine

open Sys2Proof

/-! ### Writing MODE -/

/-- The group of `h` once its split has taken the mode `m` and gone on, in the drain class. -/
abbrev Site.withMode (h : Site) (m : Word32) : Group :=
  { h.g with splits := h.g.splits.set h.ix { h.onward (nextPc h.sp.pc) true with mode := m }, retired := h.g.retired + 1 }

/-- The split that issues changes its MODE and goes on. -/
theorem advance_mode {s : State} {h : Site} (m : Word32) (hs : s.site? = some h) :
    ((s.modSplit h fun x => { x with mode := m }).advance h).drain h = s.withGroup h (h.withMode m) := by
  have hi := site_lt hs
  have hx : h.g.splits[h.ix] = h.sp := by simpa [Group.split, atD, hi] using site_split hs
  simp [State.modSplit, modGroup_site _ hs, State.advance, State.goto, State.retire, State.drain, modGroup_eq,
    State.withGroup, Site.withMode, Site.onward, Split.settle, Group.setSplit, setAt, Group.split, atD, hi, hx]

theorem writeMode_valid {s : State} {h : Site} {m : Word32} (hs : s.site? = some h) (hm : modeValid m = true) :
    writeMode s h m = .ok (s.withGroup h (h.withMode m)) := by
  simp [writeMode, hm, advance_mode m hs]

theorem writeMode_invalid {h : Site} {m : Word32} (s : State) (hm : modeValid m = false) :
    writeMode s h m = .error (.cause .modeInvalid 0 h.mask) := by
  simp [writeMode, hm]

/-- An instruction that does nothing but write MODE writes a valid value, or raises MODE_INVALID and writes nothing. -/
theorem writeMode_answers {s : State} {h : Site} {i : Instr} {body : Site → Except Stop State} {m : Word32} (hr : Ready s h)
    (hi : exec i s = issue s body) (hb : body h = writeMode s h m) :
    if modeValid m = true then exec i s = .next (s.withGroup h (h.withMode m)) else Raises s h i .modeInvalid 0 h.mask := by
  split
  case isTrue hm => exact hi.trans (issue_ok hr (hb.trans (writeMode_valid hr.1 hm)))
  case isFalse hm =>
    exact fun hu => hi.trans (issue_cause hr hu (hb.trans (writeMode_invalid s (Bool.eq_false_iff.2 hm))))

/-! ### Replacing fields -/

/-- The mode `o` with the bits of `f` replaced by those of `w`. -/
def replaceBits (o w f : Word32) : Word32 := (o &&& ~~~f) ||| (w &&& f)

theorem getLsbD_replaceBits (o w f : Word32) {i : Nat} (hi : i < 32) :
    (replaceBits o w f).getLsbD i = (if f.getLsbD i then w else o).getLsbD i := by
  rw [replaceBits, BitVec.getLsbD_or, BitVec.getLsbD_and, BitVec.getLsbD_and, BitVec.getLsbD_not]
  cases f.getLsbD i <;> simp [hi]

/-- A field that lies wholly inside or wholly outside the replaced bits comes from one of the two values. -/
theorem extractLsb'_replaceBits {o w f : Word32} {lo n : Nat} {b : Bool} (hn : lo + n ≤ 32)
    (hf : ∀ i < n, f.getLsbD (lo + i) = b) :
    (replaceBits o w f).extractLsb' lo n = (if b then w else o).extractLsb' lo n := by
  ext i hi
  rw [BitVec.getElem_extractLsb', BitVec.getElem_extractLsb', getLsbD_replaceBits _ _ _ (by omega), hf i hi]

/-- A field wholly outside the replaced bits is kept. -/
theorem extractLsb'_replaceBits_outside {o w f : Word32} {lo n : Nat} (hn : lo + n ≤ 32)
    (hf : ∀ i < n, f.getLsbD (lo + i) = false) : (replaceBits o w f).extractLsb' lo n = o.extractLsb' lo n := by
  simpa using extractLsb'_replaceBits hn hf

/-! ### The fields that mode replaces -/

theorem modeFieldBits_type : ∀ m : BitVec 5, ∀ i < 5, (modeFieldBits m).getLsbD (0 + i) = m.getLsbD 0 := by decide
theorem modeFieldBits_round : ∀ m : BitVec 5, ∀ i < 3, (modeFieldBits m).getLsbD (5 + i) = m.getLsbD 1 := by decide
theorem modeFieldBits_sat : ∀ m : BitVec 5, (modeFieldBits m).getLsbD 8 = m.getLsbD 2 := by decide
theorem modeFieldBits_ftz : ∀ m : BitVec 5, (modeFieldBits m).getLsbD 9 = m.getLsbD 3 := by decide
theorem modeFieldBits_blen : ∀ m : BitVec 5, ∀ i < 2, (modeFieldBits m).getLsbD (10 + i) = m.getLsbD 4 := by decide
theorem modeFieldBits_rest : ∀ m : BitVec 5, ∀ i < 20, (modeFieldBits m).getLsbD (12 + i) = false := by decide

/-- Each field of the value that mode writes is the new one if the mask selects it, and else the old one. -/
theorem mode_fields (m : BitVec 5) (o w : Word32) :
    let x := replaceBits o w (modeFieldBits m)
    modeType x = (if m.getLsbD 0 then w else o).extractLsb' 0 5 ∧ modeRound x = (if m.getLsbD 1 then w else o).extractLsb' 5 3 ∧
    modeSat x = (if m.getLsbD 2 then w else o).getLsbD 8 ∧ modeFtz x = (if m.getLsbD 3 then w else o).getLsbD 9 ∧
    modeBlen x = (if m.getLsbD 4 then w else o).extractLsb' 10 2 ∧ x.extractLsb' 12 20 = o.extractLsb' 12 20 := by
  refine ⟨extractLsb'_replaceBits (by omega) (modeFieldBits_type m), extractLsb'_replaceBits (by omega) (modeFieldBits_round m),
    ?sat, ?ftz, extractLsb'_replaceBits (by omega) (modeFieldBits_blen m),
    extractLsb'_replaceBits_outside (by omega) (modeFieldBits_rest m)⟩
  case sat => rw [modeSat, getLsbD_replaceBits _ _ _ (by omega), modeFieldBits_sat]
  case ftz => rw [modeFtz, getLsbD_replaceBits _ _ _ (by omega), modeFieldBits_ftz]

/-! ### The guard fields that mode.gd replaces -/

/-- The guard fields GPRED, GSENSE and GEN in their places. -/
def guardBits (n : BitVec 3) (sense en : BitVec 1) : Word32 := (n ++ sense ++ en).setWidth 32 <<< 16

/-- The guard fields fit in the bits that mode.gd replaces. -/
theorem guardBits_fit : ∀ (n : BitVec 3) (sense en : BitVec 1), guardBits n sense en &&& 0x1F0000#32 = guardBits n sense en := by
  decide

theorem guardBits_fields : ∀ (n : BitVec 3) (sense en : BitVec 1),
    modeGpred (guardBits n sense en) = n ∧ modeSense (guardBits n sense en) = (sense == 1) ∧
      modeGen (guardBits n sense en) = (en == 1) := by
  decide

/-- The value that mode.gd writes, as a replacement of the guard fields. -/
theorem modeGd_eq_replaceBits (o : Word32) (n : BitVec 3) (sense en : BitVec 1) :
    (o &&& ~~~0x1F0000#32) ||| ((n ++ sense ++ en).setWidth 32 <<< 16) =
      replaceBits o (guardBits n sense en) 0x1F0000#32 := by
  rw [replaceBits, guardBits_fit, guardBits]

/-- The value that mode.gd writes has the new guard fields, and every other bit as it was. -/
theorem modeGd_fields (o : Word32) (n : BitVec 3) (sense en : BitVec 1) :
    let x := replaceBits o (guardBits n sense en) 0x1F0000#32
    modeGpred x = n ∧ modeSense x = (sense == 1) ∧ modeGen x = (en == 1) ∧
      x.extractLsb' 0 16 = o.extractLsb' 0 16 ∧ x.extractLsb' 21 11 = o.extractLsb' 21 11 := by
  obtain ⟨hpred, hsense, hen⟩ := guardBits_fields n sense en
  refine ⟨?pred, ?sense, ?en, extractLsb'_replaceBits_outside (by omega) (by decide),
    extractLsb'_replaceBits_outside (by omega) (by decide)⟩
  case pred => exact (extractLsb'_replaceBits (b := true) (by omega) (by decide)).trans hpred
  case sense => exact (getLsbD_replaceBits _ _ _ (by omega)).trans hsense
  case en => exact (getLsbD_replaceBits _ _ _ (by omega)).trans hen

/-! ### The value that modr reads -/

theorem modeReg_of_defined {h : Site} {n : Nat} (hn : h.undefK n = false) :
    h.modeReg n = (readCell h.g.k n).setWidth 32 := by
  simp [Site.modeReg, Site.kr, hn]

/-! ### The statement -/

/-- Settles O16: each form comes down to one write of MODE, whose two answers `writeMode_answers` gives, of a value whose fields
`mode_fields` and `modeGd_fields` read off. -/
theorem modeWrites : Obligations.ModeWrites := by
  unfold Obligations.ModeWrites
  intro s h hr m v n sense en a
  refine ⟨⟨replaceBits h.sp.mode (v.setWidth 32) (modeFieldBits m), writeMode_answers hr rfl rfl, mode_fields ..⟩,
    ⟨replaceBits h.sp.mode (guardBits n sense en) 0x1F0000#32, writeMode_answers hr rfl ?_, modeGd_fields ..⟩,
    writeMode_answers hr rfl rfl, modeReg_of_defined⟩
  rw [← modeGd_eq_replaceBits]

end Sys2Proof.Machine
end

section
/-!
SUPPORT. The encodings are inverse (12 R244 to R246): what `keep` accepts, the bytes that hold several fields, and the two
directions over the opcode map.
-/

namespace Sys2Proof

open Machine

/-! ### Values in parts -/

/-- A value is the sequence of its parts. -/
theorem append_eq_iff {n m : Nat} (x : BitVec n) (y : BitVec m) (b : BitVec (n + m)) :
    x ++ y = b ↔ b.extractLsb' m n = x ∧ b.extractLsb' 0 m = y := by
  refine ⟨?_, ?_⟩
  · rintro rfl
    exact ⟨extract_append_high x y, extract_append_low x y⟩
  · rintro ⟨rfl, rfl⟩
    exact append_extract b

/-- A part of a part of a value. -/
theorem extractLsb'_extractLsb' {w : Nat} (x : BitVec w) {i n j m : Nat} (h : j + m ≤ n) :
    (x.extractLsb' i n).extractLsb' j m = x.extractLsb' (i + j) m := by
  ext k hk
  rw [BitVec.getElem_extractLsb', BitVec.getElem_extractLsb', BitVec.getLsbD_extractLsb', Nat.add_assoc]
  simp only [Bool.and_eq_right_iff_imp, decide_eq_true_eq]
  omega

theorem toNat_zero_append {n m : Nat} (y : BitVec m) : (0#n ++ y).toNat = y.toNat := by simp

theorem bit_ne_zero {x : BitVec 1} : ¬x = 0#1 ↔ x = 1#1 := by revert x; decide

/-! ### The bytes that hold several fields -/

theorem append_low6_eq_iff {x : BitVec 2} {b : Byte} : x ++ low6 b = b ↔ top2 b = x := by
  rw [append_eq_iff]; exact and_iff_left rfl
theorem append_low5_eq_iff {x : BitVec 3} {b : Byte} : x ++ low5 b = b ↔ b.extractLsb' 5 3 = x := by
  rw [append_eq_iff]; exact and_iff_left rfl
theorem append_low4_eq_iff {x : BitVec 4} {b : Byte} : x ++ low4 b = b ↔ b.extractLsb' 4 4 = x := by
  rw [append_eq_iff]; exact and_iff_left rfl
theorem append_low3_eq_iff {x : BitVec 5} {b : Byte} : x ++ low3 b = b ↔ top5 b = x := by
  rw [append_eq_iff]; exact and_iff_left rfl
theorem append_low2_eq_iff {x : BitVec 6} {b : Byte} : x ++ b.extractLsb' 0 2 = b ↔ b.extractLsb' 2 6 = x := by
  rw [append_eq_iff]; exact and_iff_left rfl
theorem append_low1_eq_iff {x : BitVec 7} {b : Byte} : x ++ b.extractLsb' 0 1 = b ↔ b.extractLsb' 1 7 = x := by
  rw [append_eq_iff]; exact and_iff_left rfl

/-- The guard fields of mode.gd (R289) behind the reserved bits. -/
theorem guard_fields_eq_iff {x : BitVec 3} {b : Byte} :
    b.extractLsb' 1 7 = x ++ b.extractLsb' 2 3 ++ b.extractLsb' 1 1 ↔ b.extractLsb' 5 3 = x := by
  rw [eq_comm, append_eq_iff (n := 6) (m := 1), extractLsb'_extractLsb' _ (by omega), extractLsb'_extractLsb' _ (by omega),
    eq_comm (b := x ++ _), append_eq_iff (n := 3) (m := 3), extractLsb'_extractLsb' _ (by omega),
    extractLsb'_extractLsb' _ (by omega)]
  simp

/-- The sub-function byte of bari (R339): EXT between reserved bits and the sub-function 0. -/
theorem bari_byte_eq_iff {b : Byte} : 0#4 ++ b.extractLsb' 3 1 ++ 0#3 = b ↔ b.extractLsb' 4 4 = 0#4 ∧ low3 b = 0#3 := by
  rw [append_eq_iff (n := 5) (m := 3), eq_comm, append_eq_iff (n := 4) (m := 1), extractLsb'_extractLsb' _ (by omega),
    extractLsb'_extractLsb' _ (by omega)]
  simp [low3]

/-- The sub-function of a copy (R346): two bits of the byte `d` before the bit `x`. -/
theorem copy_subfunction_eq_iff {t : BitVec 2} {x : BitVec 1} {k : BitVec 3} :
    t ++ x = k ↔ t = k.extractLsb' 1 2 ∧ x = k.extractLsb' 0 1 := by
  rw [append_eq_iff (n := 2) (m := 1), eq_comm (b := t), eq_comm (b := x)]

theorem top2_eq_zero_iff {b : Byte} : top2 b = 0#2 ↔ b.toNat < 64 := by
  have := b.isLt
  rw [← BitVec.toNat_inj, top2, BitVec.extractLsb'_toNat, Nat.shiftRight_eq_div_pow]
  simp only [BitVec.toNat_ofNat]
  omega

/-! ### Immediates in bytes -/

theorem extract_bytes24_high (x y z : Byte) : (x ++ y ++ z).extractLsb' 16 8 = x := by
  rw [BitVec.extractLsb'_append_eq_of_le (by omega)]; exact extract_append_high x y
theorem extract_bytes24_mid (x y z : Byte) : (x ++ y ++ z).extractLsb' 8 8 = y := by
  rw [BitVec.extractLsb'_append_eq_of_le (by omega)]; exact extract_append_low x y
theorem extract_bytes24_low (x y z : Byte) : (x ++ y ++ z).extractLsb' 0 8 = z := extract_append_low _ z
theorem extract_bytes16_high (x y : Byte) : (x ++ y).extractLsb' 8 8 = x := extract_append_high x y
theorem extract_bytes16_low (x y : Byte) : (x ++ y).extractLsb' 0 8 = y := extract_append_low x y
theorem extract_bits12_high (x : BitVec 4) (y : Byte) : (x ++ y).extractLsb' 8 4 = x := extract_append_high x y
theorem extract_bits12_low (x : BitVec 4) (y : Byte) : (x ++ y).extractLsb' 0 8 = y := extract_append_low x y
theorem extract_bits3_high (x : BitVec 1) (y : BitVec 2) : (x ++ y).extractLsb' 2 1 = x := extract_append_high x y
theorem extract_bits3_low (x : BitVec 1) (y : BitVec 2) : (x ++ y).extractLsb' 0 2 = y := extract_append_low x y

theorem bytes24 (o : BitVec 24) : o.extractLsb' 16 8 ++ o.extractLsb' 8 8 ++ o.extractLsb' 0 8 = o := by
  have h := append_extract (n := 8) (m := 8) (o.extractLsb' 8 16)
  rw [extractLsb'_extractLsb' _ (by omega), extractLsb'_extractLsb' _ (by omega)] at h
  exact h ▸ append_extract (n := 16) (m := 8) o

theorem bits12 (v : BitVec 12) : v.extractLsb' 8 4 ++ v.extractLsb' 0 8 = v := append_extract (n := 4) (m := 8) v
theorem bits3 (v : BitVec 3) : v.extractLsb' 2 1 ++ v.extractLsb' 0 2 = v := append_extract (n := 1) (m := 2) v

/-! ### From a word to its instruction and back -/

theorem keep_eq_ok {c : Bool} {i j : Instr} : keep c i = .ok j ↔ c = true ∧ i = j := by
  unfold keep; split <;> simp_all


/-- The instruction that the opcode map takes the fields for is well-formed and has these fields. -/
def Fields.Encode (f : Fields) : Prop := ∀ i, decodeFields f = .ok i → i.wf = true ∧ encodeFields i = some f

/-- The opcodes whose sub-function stands beside reserved bits or operands in a byte that the encoding writes as one number. -/
def subfunctionOps : List (BitVec 7) := [0x33, 0x3F, 0x72, 0x73, 0x79, 0x7C, 0x7D, 0x7E]

/-- Under an opcode with sub-functions, the arm of a sub-function fixes the byte that holds it: arithmetic on the parts of that byte. -/

theorem encode_of_mem_subfunctionOps {op : BitVec 7} (hop : op ∈ subfunctionOps) (x : BitVec 1) (d a b : Byte) :
    (mkF op x d a b).Encode := by
  intro i hd
  simp only [subfunctionOps, List.mem_cons, List.not_mem_nil, or_false] at hop
  rcases hop with rfl | rfl | rfl | rfl | rfl | rfl | rfl | rfl <;>
    simp only [decodeFields_op33, decodeFields_op3f, decodeFields_op72, decodeFields_op73, decodeFields_op79,
      decodeFields_op7c, decodeFields_op7d, decodeFields_op7e, BitVec.ofNat_eq_ofNat] at hd <;> (repeat' split at hd) <;>
    simp only [keep_eq_ok, Bool.and_eq_true, beq_iff_eq, reduceCtorEq, BitVec.ofNat_eq_ofNat, bit_ne_zero,
      copy_subfunction_eq_iff, Bool.or_eq_true, not_or] at * <;>
    obtain ⟨hd, rfl⟩ := hd <;>
    simp [*, encodeFields, mkF, Instr.wf, append_low6_eq_iff, append_low4_eq_iff, append_low3_eq_iff, append_low2_eq_iff,
      bari_byte_eq_iff] <;>
    simp only [top5, top2, low6, low5, low3, ← BitVec.toNat_inj, BitVec.extractLsb'_toNat, BitVec.toNat_ofNat,
      Nat.shiftRight_eq_div_pow, imp_false] at * <;> omega

/-- The opcode map answers an instruction only for the fields that encode it: in each arm, the conditions that it checks say what the bytes
are that the encoding writes. -/
theorem Fields.encode (f : Fields) : f.Encode := by
  obtain ⟨op, x, d, a, b⟩ := f
  intro i hd
  simp only [decodeFields] at hd
  split at hd
  case h_59 | h_62 | h_86 | h_87 | h_91 | h_93 | h_94 | h_95 => exact encode_of_mem_subfunctionOps (by decide) x d a b i hd
  all_goals
    (repeat' split at hd) <;>
    simp only [keep_eq_ok, Except.ok.injEq, Bool.and_eq_true, Bool.or_eq_true, beq_iff_eq, reduceCtorEq, BitVec.ofNat_eq_ofNat,
      bit_ne_zero, top2_eq_zero_iff] at * <;>
    (try obtain ⟨hd, rfl⟩ := hd) <;> (try subst hd) <;>
    simp [*, encodeFields, mkF, Instr.wf, append_low6_eq_iff, append_low5_eq_iff, append_low4_eq_iff, append_low3_eq_iff,
      append_low2_eq_iff, append_low1_eq_iff, guard_fields_eq_iff, top2_eq_zero_iff, extract_bytes24_high, extract_bytes24_mid,
      extract_bytes24_low, extract_bytes16_high, extract_bytes16_low, extract_bits12_high, extract_bits12_low,
      extract_bits3_high, extract_bits3_low, -BitVec.extractLsb'_toNat] <;>
    simp only [top5, low4, low3, ← BitVec.toNat_inj, BitVec.extractLsb'_toNat,
      toNat_zero_append (n := 1) (m := 4), toNat_zero_append (n := 2) (m := 3), BitVec.toNat_ofNat,
      Nat.shiftRight_eq_div_pow] at * <;> omega

open BitVec in
/-- The fields of a well-formed instruction decode to it: the opcode map reads each field where the encoding puts it. -/
theorem decodeFields_of_encodeFields {i : Instr} {f : Fields} (hw : i.wf = true) (he : encodeFields i = some f) :
    decodeFields f = .ok i := by
  cases i <;> cases he <;> simp [keep, -extractLsb'_toNat] <;>
    simp_all [Instr.wf, top2, low6, low5, low3, low4, top5, bytes24, bits12, bits3,
      extractLsb'_append_eq_of_le (v := 3) (w := 5),
      extractLsb'_append_eq_of_le (v := 4) (w := 4), 
      extractLsb'_append_eq_of_le (v := 5) (w := 3), 
      extractLsb'_append_eq_of_le (v := 6) (w := 2), extractLsb'_append_eq_of_add_le (v := 6) (w := 2),
      extractLsb'_append_eq_of_le (v := 7) (w := 1), extractLsb'_append_eq_of_add_le (v := 7) (w := 1),
      extractLsb'_append_eq_of_le (v := 6) (w := 1), extractLsb'_append_eq_of_add_le (v := 6) (w := 1),
      extractLsb'_append_eq_of_le (v := 3) (w := 3), extractLsb'_append_eq_of_add_le (v := 3) (w := 3),
      extractLsb'_append_eq_of_le (v := 2) (w := 3), extractLsb'_append_eq_of_add_le (v := 2) (w := 3),
      extractLsb'_append_eq_of_le (v := 1) (w := 4), extractLsb'_append_eq_of_add_le (v := 1) (w := 4),
      extractLsb'_append_eq_of_le (v := 4) (w := 1), extractLsb'_append_eq_of_add_le (v := 4) (w := 1),
      -extractLsb'_toNat]
  case rsr d s => exact ite_cond_eq_true _ _ (eq_true (hw.2.imp_right top2_eq_zero_iff.2))

/-- The instructions with fields are those of memory. -/
theorem encodeFields_isSome (i : Instr) : (encodeFields i).isSome = (instrShape i).isSome := by
  cases i
  case rsr d n =>
    change true = (ite (n = 0) (some _) (some _) : Option Shape).isSome
    split <;> rfl
  all_goals rfl

/-! ### The statement -/

/-- Settles O58: each direction comes down to the fields of the word, over which the opcode map and the encoding agree. -/
theorem decodeAndEncodeAgree : Obligations.DecodeAndEncodeAgree := by
  unfold Obligations.DecodeAndEncodeAgree
  refine ⟨fun i hw hs => ?_, fun w i hd => ?_⟩
  · obtain ⟨f, hf⟩ := Option.isSome_iff_exists.1 ((encodeFields_isSome i).trans hs)
    refine ⟨f.toWord, by rw [encode, hf]; rfl, ?_⟩
    rw [decode, Fields.ofWord_toWord]
    exact decodeFields_of_encodeFields hw hf
  · obtain ⟨hw, hf⟩ := (Fields.ofWord w).encode i hd
    refine ⟨hw, ?_⟩
    rw [encode, hf, Option.map_some, Fields.toWord_ofWord]

end Sys2Proof
end

section
/-!
SUPPORT. Uniform instructions (13 R293, R294): each writes one value computed from the registers at issue, and what the values are.
-/

namespace Sys2Proof.Machine

open Sys2Proof

/-! ### What a uniform instruction leaves -/

/-- An instruction that computes one value from the registers at issue writes it to K[d] and nothing else. -/
theorem uniform_writesK {s : State} {h : Site} {i : Instr} {d : BitVec 6} {f : Site → Word64} (ht : Timely s h)
    (hi : exec i s = uniform s d f) : WritesK s h i false d.toNat (f h) :=
  writesK ht (hi.trans (issue_ok ht.1 rfl))

/-- The same with the value written in another way. -/
theorem uniform_writesK_of_eq {s : State} {h : Site} {i : Instr} {d : BitVec 6} {f : Site → Word64} {x : Word64} (ht : Timely s h)
    (hi : exec i s = uniform s d f) (hx : f h = x) : WritesK s h i false d.toNat x :=
  hx ▸ uniform_writesK ht hi

theorem amount_eq (x : Word64) : amount x = x.toNat % 64 := by simp [amount]

/-- Settles O1: every form computes one value from the registers at issue (`uniform_writesK`); a shift amount is the value modulo 64. -/
theorem uniformArithmetic : Obligations.UniformArithmetic := by
  unfold Obligations.UniformArithmetic
  intro s h ht d a b i j n A B m r
  have hm : amount B = m := amount_eq B
  refine ⟨?_, ?_, ?_, ?_, ?_, ?_, ?_, ?_, ?_, ?_, ?_, ?_, ?_, ?_, ?_, ?_, ?kshl, ?_, ?kshr, ?_, ?ksar, ?_⟩
  case kshl => exact uniform_writesK_of_eq ht rfl (congrArg (A <<< ·) hm)
  case kshr => exact uniform_writesK_of_eq ht rfl (congrArg (A >>> ·) hm)
  case ksar => exact uniform_writesK_of_eq ht rfl (congrArg A.sshiftRight hm)
  all_goals exact uniform_writesK_of_eq ht rfl rfl

/-! ### Values of klih, minimum, maximum, kpop and kfirst -/

/-- klih's value has the immediate in halfword `p` and every other halfword of the old one. -/
theorem extractLsb'_klih (x : Word64) (j : BitVec 16) {p n : Nat} (hp : p < 4) (hn : n < 4) :
    ((x &&& ~~~(0xFFFF#64 <<< (16 * p))) ||| (j.setWidth 64 <<< (16 * p))).extractLsb' (16 * n) 16 =
      if n = p then j else x.extractLsb' (16 * n) 16 := by
  ext k hk
  have hones : ∀ i, (0xFFFF#64).getLsbD i = decide (i < 16) := fun i => by
    rw [show (0xFFFF#64) = (BitVec.allOnes 16).setWidth 64 from rfl, BitVec.getLsbD_setWidth, BitVec.getLsbD_allOnes]
    by_cases hi : i < 16 <;> simp [hi]
    omega
  simp only [BitVec.getElem_extractLsb', BitVec.getLsbD_or, BitVec.getLsbD_and, BitVec.getLsbD_not, BitVec.getLsbD_shiftLeft,
    BitVec.getLsbD_setWidth, hones]
  split
  case isTrue e =>
    subst e
    have h1 : 16 * n + k < 64 := by omega
    have h2 : ¬16 * n + k < 16 * n := by omega
    have h3 : 16 * n + k - 16 * n = k := by omega
    simp [h1, h2, h3, hk, show k < 64 by omega]
  case isFalse e =>
    have h1 : 16 * n + k < 64 := by omega
    by_cases hlt : 16 * n + k < 16 * p
    · simp [h1, hlt]
    · have h2 : ¬16 * n + k - 16 * p < 16 := by omega
      simp [h1, hlt, h2, BitVec.getLsbD_of_ge j _ (Nat.le_of_not_lt h2)]

theorem minU_signed (x y : Word64) : (minU 0 x y).toInt = min x.toInt y.toInt := by
  simp only [minU, BitVec.slt_iff_toInt_lt, show ¬(0 : BitVec 1) = 1 from by decide, if_false]
  split <;> omega

theorem minU_unsigned (x y : Word64) : (minU 1 x y).toNat = min x.toNat y.toNat := by
  simp only [minU, BitVec.ult_iff_lt, BitVec.lt_def, if_true]
  split <;> omega

theorem maxU_signed (x y : Word64) : (maxU 0 x y).toInt = max x.toInt y.toInt := by
  simp only [maxU, BitVec.slt_iff_toInt_lt, show ¬(0 : BitVec 1) = 1 from by decide, if_false]
  split <;> omega

theorem maxU_unsigned (x y : Word64) : (maxU 1 x y).toNat = max x.toNat y.toNat := by
  simp only [maxU, BitVec.ult_iff_lt, BitVec.lt_def, if_true]
  split <;> omega

theorem popCount_eq (x : Word64) : popCount x = BitVec.ofNat 64 ((List.range 64).countP fun i => x.getLsbD i) := by
  rw [popCount, threadsOf, List.countP_eq_length_filter]

/-- A thread of a mask below which no thread is in it stands first. -/
theorem threadsOf_eq_nil_iff {x : Word64} : threadsOf x = [] ↔ x = 0 := by
  refine ⟨fun hx => BitVec.eq_of_getLsbD_eq fun i hi => ?_, fun hx => by simp [hx, threadsOf]⟩
  rw [threadsOf, List.filter_eq_nil_iff] at hx
  simpa using hx i (by simpa using hi)

/-- The first thread of a mask, and no thread before it. -/
theorem threadsOf_head {x : Word64} {t : Nat} {r : List Nat} (hx : threadsOf x = t :: r) :
    t < 64 ∧ x.getLsbD t = true ∧ ∀ j, j < t → x.getLsbD j = false := by
  have hmem : t ∈ threadsOf x := by simp [hx]
  simp only [threadsOf, List.mem_filter, List.mem_range] at hmem
  refine ⟨hmem.1, hmem.2, fun j hj => Bool.eq_false_iff.2 fun hb => ?_⟩
  have hsorted : (threadsOf x).Pairwise (· < ·) := List.pairwise_lt_range.filter _
  have hjx : j ∈ threadsOf x := by simp only [threadsOf, List.mem_filter, List.mem_range]; exact ⟨by omega, hb⟩
  rw [hx] at hsorted hjx
  rcases List.mem_cons.1 hjx with rfl | hjr
  · omega
  · have := (List.pairwise_cons.1 hsorted).1 j hjr
    omega

theorem firstOne_lowestOne (x : Word64) : LowestOne x (firstOne x) := by
  refine ⟨fun hx => by simp [firstOne, threadsOf_eq_nil_iff.2 hx], fun hx => ?_⟩
  cases hl : threadsOf x with
  | nil => exact absurd (threadsOf_eq_nil_iff.1 hl) hx
  | cons t r =>
    obtain ⟨ht, hbit, hlow⟩ := threadsOf_head hl
    have : (firstOne x).toNat = t := by simp [firstOne, hl]; omega
    rw [this]
    exact ⟨hbit, hlow⟩

/-! ### klih and kcmp, which refuse some of their words -/

theorem raises_of_cause {s : State} {h : Site} {i : Instr} {body : Site → Except Stop State} {c : Cause} {a t : Word64} (hr : Ready s h)
    (hi : exec i s = issue s body) (hb : body h = .error (.cause c a t)) : Raises s h i c a t :=
  fun hu => hi.trans (issue_cause hr hu hb)

theorem kcmp_writesK {s : State} {h : Site} {c : BitVec 3} {d a b : BitVec 6} {x : Word64} (ht : Timely s h) (hc : ¬5 < c.toNat)
    (hx : (if kcmpCond c.toNat (h.kr a.toNat) (h.kr b.toNat) then 1 else 0) = x) :
    WritesK s h (.kcmp c d a b) false d.toNat x :=
  writesK ht ((show exec (.kcmp c d a b) s = execKcmp c d a b s from rfl).trans
    (issue_ok ht.1 ((if_neg hc).trans (by rw [hx]))))

theorem klih_writesK {s : State} {h : Site} {p : BitVec 2} {d : BitVec 6} {j : BitVec 16} (ht : Timely s h) (hp : p ≠ 0) :
    WritesK s h (.klih p d j) false d.toNat
      ((h.kr d.toNat &&& ~~~(0xFFFF#64 <<< (16 * p.toNat))) ||| (j.setWidth 64 <<< (16 * p.toNat))) :=
  writesK ht ((show exec (.klih p d j) s = execKlih p d j s from rfl).trans (issue_ok ht.1 (if_neg hp)))

/-- Settles O2: the values by the lemmas above; klih and kcmp are stopped by their own words alone. -/
theorem uniformChoice : Obligations.UniformChoice := by
  unfold Obligations.UniformChoice
  intro s h ht d a b c p j q A B P r
  refine ⟨?klih, ⟨_, uniform_writesK_of_eq ht rfl rfl, minU_signed A B⟩, ⟨_, uniform_writesK_of_eq ht rfl rfl, minU_unsigned A B⟩,
    ⟨_, uniform_writesK_of_eq ht rfl rfl, maxU_signed A B⟩, ⟨_, uniform_writesK_of_eq ht rfl rfl, maxU_unsigned A B⟩, ?ksel,
    kcmp_writesK ht (by decide) ?eq, kcmp_writesK ht (by decide) ?ne, kcmp_writesK ht (by decide) ?slt,
    kcmp_writesK ht (by decide) ?sle, kcmp_writesK ht (by decide) ?ult, kcmp_writesK ht (by decide) ?ule,
    fun hc => raises_of_cause ht.1 rfl (if_pos hc), uniform_writesK_of_eq ht rfl (popCount_eq A),
    uniform_writesK_of_eq ht rfl (popCount_eq P), ⟨_, uniform_writesK_of_eq ht rfl rfl, firstOne_lowestOne A⟩,
    ⟨_, uniform_writesK_of_eq ht rfl rfl, firstOne_lowestOne P⟩⟩
  case klih =>
    split
    case isTrue hp => exact raises_of_cause ht.1 rfl (if_pos hp)
    case isFalse hp => exact ⟨_, klih_writesK ht hp, fun n hn => extractLsb'_klih _ _ (by omega) hn⟩
  case ksel => exact uniform_writesK_of_eq ht rfl (ite_not ..).symm
  all_goals simp [kcmpCond, A, B, BitVec.slt_iff_toInt_lt, BitVec.sle_iff_toInt_le, BitVec.ult_iff_lt, BitVec.ule_iff_le, BitVec.lt_def,
    BitVec.le_def]

end Sys2Proof.Machine
end

section
/-!
SUPPORT. Vector integer, compare and predicate instructions (14 R297 to R305): the operand checks pass, and each acting thread's
element or bit is written.
-/

namespace Sys2Proof.Machine

open Sys2Proof

/-! ### Bodies that check their operands -/

/-- The checks of MODE.type and of the registers pass, so the instruction comes to its end. -/
theorem checks_ok {α : Type} {h : Site} {ok : BitVec 5 → Bool} {ty : BitVec 5} {elems plain : List Nat} (x : α) (hk : ok h.ty = true)
    (ho : OperandsOk h ty elems plain) : (do h.accepts ok; h.typed ty elems plain; .ok x : Except Stop α) = .ok x := by
  rw [accepts_ok hk, typed_ok ho]; rfl

section
variable {s : State} {h : Site} {i : Instr} {body : Site → Except Stop State} {ok : BitVec 5 → Bool} {ty : BitVec 5}
  {elems plain : List Nat} (ht : Timely s h) (hk : ok h.ty = true) (ho : OperandsOk h ty elems plain) (hi : exec i s = issue s body)
include ht hk ho hi

/-- An instruction that checks its operands and then writes V[d] of the acting threads. -/
theorem checked_writesV {d : BitVec 8} {f : Nat → Word64}
    (hb : body h = do h.accepts ok; h.typed ty elems plain; .ok (vecWrite s h d f)) :
    WritesV s h i false h.ty d.toNat h.acting f :=
  writesV ht (fun _ => acting_lt) (hi.trans (issue_ok ht.1 (hb.trans (checks_ok _ hk ho))))

/-- An instruction that checks its operands and then writes P[d] of the acting threads. -/
theorem checked_writesP {d : Nat} {f : Nat → Bool}
    (hb : body h = do h.accepts ok; h.typed ty elems plain; .ok ((s.writeP h d h.acting f).advance h)) :
    WritesP s h i d f :=
  writesP ht (hi.trans (issue_ok ht.1 (hb.trans (checks_ok _ hk ho))))

end

/-- Registers of 32 bits that lie within the allotment. -/
theorem operandsOk_word {h : Site} {ns : List Nat} (ho : OperandsOk h 6 ns []) : h.allotted ns = .ok () :=
  allotted_ok (by simpa using ho.2)

/-- An instruction that checks the allotment alone and then writes 32-bit registers of the acting threads. -/
theorem allotted_writesV {s : State} {h : Site} {i : Instr} {body : Site → Except Stop State} {d : BitVec 8} {ns : List Nat}
    {f : Nat → Word32} (ht : Timely s h) (ho : OperandsOk h 6 ns []) (hi : exec i s = issue s body)
    (hb : body h = do h.allotted ns; .ok ((s.writeV h d.toNat h.acting f).advance h)) :
    WritesV s h i false 6 d.toNat h.acting fun t => (f t).setWidth 64 := by
  refine writesV ht (fun _ => acting_lt) (hi.trans (issue_ok ht.1 (hb.trans ?_)))
  rw [operandsOk_word ho, writeV_eq]; rfl

/-! ### Integer arithmetic -/

/-- Settles O3: each instruction checks its operands and writes the narrowed value of each acting thread (`checked_writesV`). -/
theorem vectorArithmetic : Obligations.VectorArithmetic := by
  unfold Obligations.VectorArithmetic
  intro s h ht hk d a b k A B D K w r
  refine ⟨fun ho => ?_, fun ho => ?_⟩
  · refine ⟨?_, ?_, ?_, ?_, ?_, ?_, ?_⟩
    all_goals exact checked_writesV ht hk ho rfl rfl
  · refine ⟨?_, ?_, ?_, ?_, ?_, ?_, ?_, ?_, ?_⟩
    all_goals exact checked_writesV ht hk ho rfl rfl

/-! ### Immediates, moves, selects, bits and shifts -/

theorem popOf_eq_countP (w : Nat) (x : Word64) : popOf w x = ((List.range w).countP fun i => x.getLsbD i : Nat) := by
  rw [popOf, List.countP_eq_length_filter]

/-- A shift amount in a vector register is the number that its 32 bits hold. -/
theorem srcPlain_v_toNat (h : Site) (b : BitVec 8) (t : Nat) : (h.srcPlain (.v b) t).toNat = (h.vr b.toNat t).toNat := by
  rw [Site.srcPlain, BitVec.toNat_setWidth, Nat.mod_eq_of_lt (by omega)]

/-- Settles O4: each instruction checks its operands and writes the value of each acting thread; a select and a count are written in
another way. -/
theorem vectorBits : Obligations.VectorBits := by
  unfold Obligations.VectorBits
  intro s h ht d a b k j A B K w r r32 ri
  refine ⟨fun ho => ⟨allotted_writesV ht ho rfl rfl, allotted_writesV ht ho rfl rfl⟩, fun hk => ?scalar, fun hk => ?int⟩
  case scalar =>
    refine ⟨fun ho => checked_writesV ht hk ho rfl rfl, fun ho => checked_writesV ht hk ho rfl rfl, fun ho => ?_, fun ho => ?_⟩
    all_goals
      simp only [r, ne_eq, ite_not]
      exact checked_writesV ht hk ho rfl rfl
  case int =>
    refine ⟨fun ho => ?_, fun ho => ?_, fun ho => ?_⟩
    · refine ⟨?_, ?_, ?_⟩
      all_goals exact checked_writesV ht hk ho rfl rfl
    · refine ⟨?_, ?_⟩
      all_goals
        simp only [ri, ← srcPlain_v_toNat]
        exact checked_writesV ht hk ho rfl rfl
    · refine ⟨?_, ?_, ?_, ?_, ?_, ?_, ?_, ?vpop⟩
      case vpop =>
        simp only [ri, ← popOf_eq_countP]
        exact checked_writesV ht hk ho rfl rfl
      all_goals exact checked_writesV ht hk ho rfl rfl

/-! ### Compares and predicate logic -/

/-- Predicate logic writes the bits of the acting threads. -/
theorem predOp_writesP {s : State} {h : Site} {i : Instr} {d : BitVec 3} {f : Site → Nat → Bool} {g : Nat → Bool} (ht : Timely s h)
    (hi : exec i s = predOp s d f) (hf : f h = g) : WritesP s h i d.toNat g :=
  hf ▸ writesP ht (hi.trans (issue_ok ht.1 rfl))

/-- A compare whose condition is one of the six, and whose operands pass, writes the bits of the acting threads. -/
theorem vecCmp_writesP {s : State} {h : Site} {i : Instr} {c p : BitVec 3} {a : BitVec 8} {b : Src} {f : Nat → Bool}
    (ht : Timely s h) (hk : tyIsInt h.ty = true) (ho : OperandsOk h h.ty (a.toNat :: b.regs) []) (hi : exec i s = vecCmp s c p a b)
    (hc : c.toNat ≤ 5)
    (hf : (fun t => vcmpCond c.toNat (intOf h.ty (h.elem h.ty a.toNat t)) (intOf h.ty (h.src h.ty b t))) = f) :
    WritesP s h i p.toNat f := by
  subst hf
  refine checked_writesP ht hk ho hi ?_
  rw [need, if_pos (decide_eq_true hc)]; rfl

/-- Settles O5: predicate logic writes the bits of the acting threads, and so does a compare once its word and operands pass. -/
theorem predicates : Obligations.Predicates := by
  unfold Obligations.Predicates
  intro s h ht d p q a b k c i P Q r
  refine ⟨predOp_writesP ht rfl rfl, predOp_writesP ht rfl rfl, predOp_writesP ht rfl rfl, predOp_writesP ht rfl rfl,
    predOp_writesP ht rfl rfl, predOp_writesP ht rfl rfl, fun hc => ?illegal, fun hk ho => ?_, fun hk ho => ?_⟩
  case illegal =>
    refine raises_of_cause ht.1 rfl ?_
    rw [need, if_neg (by simpa using hc)]; rfl
  · intro A B
    refine ⟨?_, ?_, ?_, ?_, ?_, ?_⟩
    all_goals exact vecCmp_writesP ht hk ho rfl (by decide) rfl
  · intro A K
    refine ⟨?_, ?_, ?_, ?_, ?_, ?_⟩
    all_goals exact vecCmp_writesP ht hk ho rfl (by decide) rfl

end Sys2Proof.Machine
end

section
/-!
SUPPORT. Floating-point instructions, conversions and the block formats (14 R306 to R316).
-/

namespace Sys2Proof.Machine

open Sys2Proof

/-! ### Arithmetic -/

/-- Settles O6: each instruction checks its operands and writes the rounded value of each acting thread (`checked_writesV`). -/
theorem floatArithmetic : Obligations.FloatArithmetic := by
  unfold Obligations.FloatArithmetic
  intro s h ht hk d a b k rd A B D K r
  refine ⟨fun ho => ?_, fun ho => ?_⟩
  · refine ⟨?_, ?_, ?_, ?_, ?_, ?_⟩
    all_goals exact checked_writesV ht hk ho rfl rfl
  · refine ⟨?_, ?_, ?_, ?_, ?_, ?_, ?_, ?_, ?_, ?_, ?_, ?_, ?_, ?_, ?_, ?_⟩
    all_goals exact checked_writesV ht hk ho rfl rfl

/-! ### Compares and classes -/

/-- A floating-point compare whose operands pass writes the bits of the acting threads. -/
theorem vecFCmp_writesP {s : State} {h : Site} {i : Instr} {c p : BitVec 3} {a : BitVec 8} {b : Src} {f : Nat → Bool}
    (ht : Timely s h) (hk : tyIsFloat h.ty = true) (ho : OperandsOk h h.ty (a.toNat :: b.regs) [])
    (hi : exec i s = vecFCmp s c p a b) (hf : (fun t => fcmpCond c.toNat (h.fval a.toNat t) (h.fsrc b t)) = f) :
    WritesP s h i p.toNat f :=
  hf ▸ checked_writesP ht hk ho hi rfl

/-- A 32-bit result of an instruction that checks MODE.type and the allotment of its plain registers. -/
theorem accepted_writesV {s : State} {h : Site} {i : Instr} {body : Site → Except Stop State} {ok : BitVec 5 → Bool}
    {d : BitVec 8} {ns : List Nat} {f : Nat → Word32} (ht : Timely s h) (hk : ok h.ty = true) (ho : OperandsOk h 6 ns [])
    (hi : exec i s = issue s body)
    (hb : body h = do h.accepts ok; h.allotted ns; .ok ((s.writeV h d.toNat h.acting f).advance h)) :
    WritesV s h i false 6 d.toNat h.acting fun t => (f t).setWidth 64 := by
  refine writesV ht (fun _ => acting_lt) (hi.trans (issue_ok ht.1 (hb.trans ?_)))
  rw [accepts_ok hk, operandsOk_word ho, writeV_eq]; rfl

/-- Settles O7: a compare writes the bits of the acting threads for each condition, and fcls writes a 32-bit number. -/
theorem floatCompare : Obligations.FloatCompare := by
  unfold Obligations.FloatCompare
  intro s h ht hk p d a b k cases
  refine ⟨fun ho => ?_, fun ho => ?_, fun ho => accepted_writesV ht hk ho rfl rfl⟩
  all_goals
    refine ⟨?_, ?_, ?_, ?_, ?_, ?_, ?_, ?_⟩
    all_goals exact vecFCmp_writesP ht hk ho rfl rfl

/-! ### Conversions and block formats -/

theorem evenAll_append {xs ys : List Nat} (hx : ∀ n ∈ xs, n % 2 = 0) (hy : ∀ n ∈ ys, n % 2 = 0) :
    evenAll (xs ++ ys) = .ok () := by
  have hall : ((xs ++ ys).all fun n => n % 2 == 0) = true := by
    simpa [List.all_append] using ⟨hx, hy⟩
  rw [evenAll, need, if_pos hall]

/-- Registers of a pair are even when the type is wide. -/
theorem even_of_operandsOk {h : Site} {ty : BitVec 5} {elems plain : List Nat} (ho : OperandsOk h ty elems plain) :
    ∀ n ∈ (if tyWide ty then elems else []), n % 2 = 0 := by
  by_cases hw : tyWide ty = true
  · rw [if_pos hw]; exact ho.1 hw
  · rw [if_neg hw]; simp

/-- cvt checks its source type, MODE.type and each side's registers. -/
theorem cvt_writesV {s : State} {h : Site} {d a : BitVec 8} {src : BitVec 5} (ht : Timely s h) (hs : src.toNat ≤ 12)
    (hk : tyScalar h.ty = true) (ho : OperandsOk h h.ty [d.toNat] [a.toNat]) (hsrc : OperandsOk h src [a.toNat] []) :
    WritesV s h (.cvt d a src) false h.ty d.toNat h.acting fun t => convert src h.ty h.fctl (h.elem src a.toNat t) := by
  have heven := evenAll_append (even_of_operandsOk ho) (even_of_operandsOk hsrc)
  have hall : h.allotted [d.toNat, a.toNat] = .ok () := allotted_ok ho.2
  have hi : exec (.cvt d a src) s = execCvt d a src s := rfl
  refine writesV ht (fun _ => acting_lt) (hi.trans (issue_ok ht.1 ?_))
  rw [need, if_pos (show tyScalar src = true from decide_eq_true hs), accepts_ok hk, heven, hall]; rfl

/-- The 32-bit pattern of a block format's source. -/
theorem srcPlain_v_word (h : Site) (b : BitVec 8) (t : Nat) : (h.srcPlain (.v b) t).setWidth 32 = h.vr b.toNat t :=
  BitVec.setWidth_setWidth_of_le _ (by decide)

/-- The signed mantissa in the low `m` bits of a pattern (R315). -/
def signedMant (m x : Nat) : Int := if 2 ^ (m - 1) ≤ x % 2 ^ m then ((x % 2 ^ m : Nat) : Int) - 2 ^ m else (x % 2 ^ m : Nat)

theorem signedMant_eq (m x : Nat) :
    signedMant m x = if (2 : Int) ^ (m - 1) ≤ (x : Int) % 2 ^ m then (x : Int) % 2 ^ m - 2 ^ m else (x : Int) % 2 ^ m := by
  have hle : 2 ^ (m - 1) ≤ x % 2 ^ m ↔ (2 : Int) ^ (m - 1) ≤ (x : Int) % 2 ^ m := by exact_mod_cast Iff.rfl
  simp only [signedMant, hle, Int.natCast_emod, Int.natCast_pow, Nat.cast_ofNat]

/-- Settles O8: cvt by its checks (`cvt_writesV`), and the block-format instructions by theirs. -/
theorem conversions : Obligations.Conversions := by
  unfold Obligations.Conversions
  intro s h ht d a b k src r X E Q
  refine ⟨fun hs => ?illegal, fun hs hk ho hsrc => cvt_writesV ht hs hk ho hsrc, fun hk => ⟨fun ho => ⟨?_, ?bunp, ?bscl⟩, fun ho => ?_⟩⟩
  case illegal =>
    have hi : exec (.cvt d a src) s = execCvt d a src s := rfl
    refine raises_of_cause ht.1 hi ?_
    rw [need, if_neg (by simpa [tyScalar] using hs)]; rfl
  case bunp =>
    have hQ : Q = fun t => signedMant h.bfpM (h.vr a.toNat t).toNat := funext fun t => (signedMant_eq _ _).symm
    simp only [hQ]
    exact accepted_writesV ht hk ho rfl rfl
  case bscl =>
    simp only [← srcPlain_v_word]
    exact accepted_writesV ht hk ho rfl rfl
  all_goals exact accepted_writesV ht hk ho rfl rfl

end Sys2Proof.Machine
end

section
/-!
SUPPORT. Shuffles, votes, reductions and scans (14 R317 to R319; 09 R211).
-/

namespace Sys2Proof.Machine

open Sys2Proof

/-! ### Shuffles and votes -/

theorem pick_eq (h : Site) (j t : Nat) : h.pick j t = if j < h.g.width ∧ h.mask.getLsbD j = true then j else t := by
  simp [Site.pick]

/-- A shuffle writes the element of the thread that the index names, and drains. -/
theorem shuffle_writesV {s : State} {h : Site} {i : Instr} {d a : BitVec 8} {plain : List Nat} {ix : Site → Nat → Nat}
    (ht : Timely s h) (hk : tyScalar h.ty = true) (ho : OperandsOk h h.ty [d.toNat, a.toNat] plain)
    (hi : exec i s = shuffle s d a plain ix) :
    WritesV s h i true h.ty d.toNat h.acting fun t =>
      h.elem h.ty a.toNat (if ix h t < h.g.width ∧ h.mask.getLsbD (ix h t) = true then ix h t else t) := by
  simp only [← pick_eq]
  exact writesV_drain ht (fun _ => acting_lt) (hi.trans (issue_ok ht.1 (checks_ok _ hk ho)))

/-- A vote writes the value computed from the predicate's bits. -/
theorem vote_writesK {s : State} {h : Site} {i : Instr} {d : BitVec 6} {f : Site → Word64} {x : Word64} (ht : Timely s h)
    (hi : exec i s = vote s d f) (hx : f h = x) : WritesK s h i false d.toNat x :=
  hx ▸ writesK ht (hi.trans (issue_ok ht.1 rfl))

theorem foldl_withBit_getLsbD (f : Nat → Bool) (ts : List Nat) (m : Word64) {t : Nat} (ht : t < 64) :
    (ts.foldl (fun m u => if f u then withBit m u true else m) m).getLsbD t = true ↔ m.getLsbD t = true ∨ (t ∈ ts ∧ f t = true) := by
  induction ts generalizing m with
  | nil => simp
  | cons u r ih =>
    have hbit : (if f u then withBit m u true else m).getLsbD t = true ↔ m.getLsbD t = true ∨ (t = u ∧ f t = true) := by
      by_cases hu : f u = true
      · rw [if_pos hu, withBit_getLsbD _ _ _ _ ht]; split <;> simp_all
      · rw [if_neg hu]; constructor
        · exact Or.inl
        · rintro (hm | ⟨rfl, hf⟩)
          exacts [hm, absurd hf hu]
    rw [List.foldl_cons, ih, hbit, List.mem_cons, or_and_right, or_assoc]

/-- A mask has the bits of the threads of the list that satisfy the test. -/
theorem maskWhere_getLsbD (f : Nat → Bool) (ts : List Nat) {t : Nat} (ht : t < 64) :
    (maskWhere f ts).getLsbD t = true ↔ t ∈ ts ∧ f t = true := by
  rw [maskWhere, foldl_withBit_getLsbD f ts 0 ht]; simp

/-! ### Reductions and scans -/

theorem scanFrom_getLast? (f : Word64 → Word64 → Word64) (acc : Word64) (l : List (Nat × Word64)) :
    ((scanFrom f acc l).getLast?.map Prod.snd).getD acc = l.foldl (fun v p => f v p.2) acc := by
  induction l generalizing acc with
  | nil => rfl
  | cons p r ih =>
    rw [scanFrom, List.getLast?_cons, List.foldl_cons, ← ih]
    cases (scanFrom f (f acc p.2) r).getLast? <;> rfl

/-- The last of the running results is the combination of all contributors. -/
theorem scan_getLast? (h : Site) (a o : Nat) : ((h.scan a o).getLast?.map Prod.snd) = reduced h a o h.acting := by
  unfold Site.scan
  cases h.acting with
  | nil => rfl
  | cons t r =>
    have hlast := scanFrom_getLast? (combine h.ty h.fctl o) (enterAcc h.ty h.fctl (h.elem h.ty a t))
      (r.map fun u => (u, enterAcc h.ty h.fctl (h.elem h.ty a u)))
    rw [List.foldl_map] at hlast
    rw [List.map_cons, scanAll, List.getLast?_cons, reduced, ← hlast]
    cases (scanFrom (combine h.ty h.fctl o) (enterAcc h.ty h.fctl (h.elem h.ty a t))
      (r.map fun u => (u, enterAcc h.ty h.fctl (h.elem h.ty a u)))).getLast? <;> rfl

/-- In an ascending list the running result at `u` combines the contributors up to `u`. -/
theorem tget_scanFrom (f : Word64 → Word64 → Word64) (x : Nat → Word64) (acc : Word64) {ts : List Nat} (hs : ts.Pairwise (· < ·))
    {u : Nat} (hu : u ∈ ts) :
    tget (scanFrom f acc (ts.map fun t => (t, x t))) u = some ((ts.filter (· ≤ u)).foldl (fun v t => f v (x t)) acc) := by
  induction ts generalizing acc with
  | nil => cases hu
  | cons t r ih =>
    obtain ⟨hlt, hr⟩ := List.pairwise_cons.1 hs
    rw [List.map_cons, scanFrom, tget]
    rcases List.mem_cons.1 hu with rfl | hmem
    · have hnone : r.filter (· ≤ u) = [] := List.filter_eq_nil_iff.2 fun v hv => by simpa using hlt v hv
      simp [hnone]
    · have htu := hlt u hmem
      rw [if_neg (Nat.ne_of_lt htu), ih _ hr hmem, List.filter_cons_of_pos (by simpa using Nat.le_of_lt htu), List.foldl_cons]

theorem acting_pairwise (h : Site) : h.acting.Pairwise (· < ·) :=
  (List.pairwise_lt_range.filter _).filter _

/-- The running result of a thread that acts is the combination of the contributors up to it. -/
theorem tget_scan (h : Site) (a o : Nat) {u : Nat} (hu : u ∈ h.acting) :
    reduced h a o (h.acting.filter (· ≤ u)) = tget (h.scan a o) u := by
  have hs := acting_pairwise h
  unfold Site.scan
  generalize h.acting = ts at hu hs
  cases ts with
  | nil => cases hu
  | cons t r =>
    obtain ⟨hlt, hr⟩ := List.pairwise_cons.1 hs
    rw [List.map_cons, scanAll, tget]
    rcases List.mem_cons.1 hu with rfl | hmem
    · have hnone : r.filter (· ≤ u) = [] := List.filter_eq_nil_iff.2 fun v hv => by simpa using hlt v hv
      simp [hnone, reduced]
    · have htu := hlt u hmem
      rw [if_neg (Nat.ne_of_lt htu), tget_scanFrom _ _ _ hr hmem, List.filter_cons_of_pos (by simpa using Nat.le_of_lt htu), reduced]

theorem reduced_some {h : Site} {a o t : Nat} {ts : List Nat} (hm : t ∈ ts) : ∃ x, reduced h a o ts = some x := by
  cases ts with
  | nil => cases hm
  | cons u r => exact ⟨_, rfl⟩

/-- gred writes the combination of the contributors, 0 if there is none. -/
theorem gred_writesK {s : State} {h : Site} {k : BitVec 6} {a : BitVec 8} {o : BitVec 3} (ht : Timely s h) (ho : o.toNat ≤ 5)
    (hk : redAccepts o h.ty = true) (hr : OperandsOk h h.ty [a.toNat] []) :
    WritesK s h (.gred k a o) true k.toNat (match reduced h a.toNat o.toNat h.acting with
      | none => 0
      | some x => redResult h.ty (storeAcc h.ty h.fctl x)) := by
  have hi : exec (.gred k a o) s = execGred k a o s := rfl
  refine writesK_drain ht (hi.trans (issue_ok ht.1 ?_))
  rw [need, if_pos (decide_eq_true ho), ← scan_getLast?]
  refine (checks_ok _ hk hr).trans ?_
  cases (h.scan a.toNat o.toNat).getLast? <;> rfl

/-- gscan writes each contributor's running result. -/
theorem gscan_writesV {s : State} {h : Site} {d a : BitVec 8} {o : BitVec 3} (ht : Timely s h) (ho : o.toNat ≤ 5)
    (hk : redAccepts o h.ty = true) (hr : OperandsOk h h.ty [d.toNat, a.toNat] []) :
    WritesV s h (.gscan d a o) true h.ty d.toNat h.acting fun t =>
      storeAcc h.ty h.fctl ((tget (h.scan a.toNat o.toNat) t).getD 0) := by
  have hi : exec (.gscan d a o) s = execGscan d a o s := rfl
  refine writesV_drain ht (fun _ => acting_lt) (hi.trans (issue_ok ht.1 ?_))
  rw [need, if_pos (decide_eq_true ho)]
  exact checks_ok _ hk hr

theorem red_illegal {s : State} {h : Site} {i : Instr} {o : BitVec 3} {body : Site → Except Stop State} {rest : Except Stop State}
    (ht : Timely s h) (ho : 5 < o.toNat) (hi : exec i s = issue s body)
    (hb : body h = (need (decide (o.toNat ≤ 5)) .encIllegal 0 h.mask >>= fun _ => rest)) : Raises s h i .encIllegal 0 h.mask := by
  refine raises_of_cause ht.1 hi (hb.trans ?_)
  rw [need, if_neg (by simpa using ho)]; rfl

/-- Settles O9: shuffles and votes by their general forms, gred and gscan by the running results (`scan_getLast?`, `tget_scan`). -/
theorem lanes : Obligations.Lanes := by
  unfold Obligations.Lanes
  intro s h ht k d a b i o q from' r P rk
  refine ⟨fun hk => ⟨fun ho => ⟨?_, ?_⟩, fun ho => ⟨?_, ?_⟩⟩, ?vany, ?vall, ?vbal, fun ho => ⟨?_, ?_⟩, fun ho hk => ⟨fun hr => ?_, fun hr => ?_⟩⟩
  case vany => exact vote_writesK ht rfl (by simp [P])
  case vall => exact vote_writesK ht rfl (by simp [P])
  case vbal =>
    exact ⟨_, vote_writesK ht rfl rfl, fun t h64 => maskWhere_getLsbD _ _ h64⟩
  · exact shuffle_writesV (ix := fun h t => (h.vr b.toNat t).toNat) ht hk ho rfl
  · exact shuffle_writesV (ix := fun h t => t ^^^ (h.vr b.toNat t).toNat) ht hk ho rfl
  · exact shuffle_writesV (ix := fun h _ => (h.kr k.toNat).toNat) ht hk ho rfl
  · exact shuffle_writesV (ix := fun _ t => t ^^^ i.toNat) ht hk ho rfl
  · exact red_illegal ht ho rfl rfl
  · exact red_illegal ht ho rfl rfl
  · exact gred_writesK ht ho hk hr
  · refine ⟨_, gscan_writesV ht ho hk hr, fun t hact => ?_⟩
    have hm : t ∈ h.acting.filter (· ≤ t) := List.mem_filter.2 ⟨hact, decide_eq_true (Nat.le_refl t)⟩
    obtain ⟨x, hx⟩ := reduced_some (h := h) (a := a.toNat) (o := o.toNat) hm
    rw [← tget_scan h _ _ hact, hx]; rfl

end Sys2Proof.Machine
end

section
/-!
SUPPORT. Control and system instructions (13 R274 to R292): yield, traps, notices, system registers and transfers.
-/

namespace Sys2Proof.Machine

open Sys2Proof

/-! ### What an instruction makes of its group -/

/-- A further change of the split that has gone on. -/
theorem modSplit_withGroup {s : State} {h : Site} {g : Group} {pc : Word64} {b : Bool} (f : Split → Split) (hi : h.ix < g.splits.length) :
    (s.withGroup h (h.moved pc b g)).modSplit h f =
      s.withGroup h { h.moved pc b g with splits := g.splits.set h.ix (f (h.onward pc b)) } := by
  simp [State.modSplit, State.modGroup, State.withGroup, Site.moved, Group.setSplit, setAt, Group.split, atD, hi]

/-- A group's change that leaves the issuing split as it is, before the split goes on. -/
theorem goto_modGroup_split {s : State} {h : Site} (f : Group → Group) (pc : Word64) (hg : tget s.groups h.key = some h.g)
    (hf : (f h.g).split h.ix = h.sp) : (s.modGroup h f).goto h pc = s.withGroup h (h.moved pc false (f h.g)) := by
  rw [modGroup_eq f hg, goto_eq pc (tget_tset_same ..) hf]
  simp [State.withGroup]

/-- A group's change that leaves its splits as they are, and a move to `pc` in the drain class. -/
theorem goto_drain_modGroup {s : State} {h : Site} (f : Group → Group) (pc : Word64) (hg : tget s.groups h.key = some h.g)
    (hx : h.g.split h.ix = h.sp) (hi : h.ix < h.g.splits.length) (hf : (f h.g).splits = h.g.splits) :
    ((s.modGroup h f).goto h pc).drain h = s.withGroup h (h.moved pc true (f h.g)) := by
  rw [goto_modGroup_split f pc hg (by rw [Group.split, hf]; exact hx), drain_withGroup pc (hf.symm ▸ hi)]

theorem branchTarget_eq {w : Nat} (a : Word64) (o : BitVec w) : branchTarget a o = a + 4 * o.signExtend 64 := by
  have h4 : o.signExtend 64 <<< 2 = o.signExtend 64 * 4#64 := BitVec.shiftLeft_eq_mul_twoPow ..
  rw [branchTarget, h4, BitVec.mul_comm]; rfl

theorem undefK_of_timely {s : State} {h : Site} (ht : Timely s h) (n : Nat) : h.undefK n = h.g.awaits (.k n) := by
  simp [Site.undefK, Site.unready, ht.2]

theorem targetReg_of_defined {h : Site} {n : Nat} (hn : h.undefK n = false) :
    h.targetReg n = readCell h.g.k n ∧ h.kr n = h.targetReg n := by
  simp [Site.targetReg, Site.kr, hn]

theorem targetOk_anyTarget (x : Word64) : targetOk (anyTarget x) = true := by
  have h0 : (anyTarget x).extractLsb' 0 2 = 0 := by
    ext i hi
    have hi' : i = 0 ∨ i = 1 := by omega
    rcases hi' with rfl | rfl <;> simp [anyTarget]
  have h1 : (anyTarget x).extractLsb' 2 3 ≠ 0 := fun he => by
    have hbit := congrArg (·.getLsbD 0) he
    simp [anyTarget] at hbit
  rw [targetOk, h0, Bool.and_eq_true]
  exact ⟨rfl, bne_iff_ne.2 h1⟩

/-- A target register that is not written yet is some valid target. -/
theorem targetOk_targetReg_of_undefK {h : Site} {n : Nat} (hn : h.undefK n = true) : targetOk (h.targetReg n) = true := by
  rw [Site.targetReg, if_pos hn, targetOk_anyTarget]

theorem modeValid_modeReg_of_undefK {h : Site} {n : Nat} (hn : h.undefK n = true) : modeValid (h.modeReg n) = true := by
  simp only [Site.modeReg, if_pos hn, anyMode]
  split
  · assumption
  · decide

/-! ### nop and yield -/

theorem split_unhold {g : Group} {i : Nat} (hi : i < g.splits.length) : (g.unhold i).split i = g.split i := by
  simp [Group.unhold, Group.split, atD, hi]

/-- The splits of a group whose split `i` yields. -/
theorem splits_yield {h : Site} {s : State} (hs : s.site? = some h) (b : Bool) :
    (h.g.unhold h.ix).splits.set h.ix { h.onward (nextPc h.sp.pc) false with held := b } =
      h.g.splits.mapIdx fun j x => if j = h.ix then { x with pc := nextPc x.pc, held := b } else { x with held := false } := by
  have hlt := site_lt hs
  have hx : h.g.splits[h.ix] = h.sp := by simpa [Group.split, atD, hlt] using site_split hs
  refine List.ext_getElem (by simp [Group.unhold]) fun j h1 h2 => ?_
  by_cases hj : j = h.ix
  · subst hj
    simp [Site.onward, hx]
  · simp [Group.unhold, hj, Ne.symm hj]

/-- Settles O13: nop goes on, and yield releases the other splits and sets its own hold. -/
theorem yield : Obligations.Yield := by
  unfold Obligations.Yield
  intro s h hr others
  have hs := hr.1
  have hlt := site_lt hs
  have hnop : exec .nop s = execNop s := rfl
  have hyield : exec .yield s = execYield s := rfl
  refine ⟨hnop.trans ((issue_ok hr rfl).trans (congrArg _ (advance_eq hs))), hyield.trans ((issue_ok hr rfl).trans (congrArg _ ?_))⟩
  have hun : (s.modGroup h fun g => g.unhold h.ix).advance h = s.withGroup h (h.moved (nextPc h.sp.pc) false (h.g.unhold h.ix)) :=
    goto_modGroup_split _ _ (site_group hs) ((split_unhold hlt).trans (site_split hs))
  rw [hun, modSplit_withGroup _ (by simpa [Group.unhold] using hlt), splits_yield hs]
  rfl

/-! ### Traps and notices -/

/-- brk and trap wait for the split's results and then stop it. -/
theorem stopAfter_answers {s : State} {h : Site} {i : Instr} {c : Cause} (hr : Ready s h)
    (hi : exec i s = issue s fun h => stopAfter s h c) :
    if h.g.hasPending h.ix = true then Waits s i else exec i s = .next (s.raise h c 0 h.mask (nextPc h.sp.pc)) := by
  split
  case isTrue hp => exact hi.trans (issue_wait hr (stopAfter_pending s c hp))
  case isFalse hp => exact hi.trans (issue_ok hr (stopAfter_written s c (by simpa using hp)))

/-- Settles O14: brk and trap by `stopAfter_answers`, nret and nchk by the cases of their targets. -/
theorem trapsAndNotices : Obligations.TrapsAndNotices := by
  unfold Obligations.TrapsAndNotices
  intro s h hr code o T K r
  have hs := hr.1
  have hT : branchTarget h.sp.pc o = T := branchTarget_eq ..
  refine ⟨stopAfter_answers hr rfl, stopAfter_answers hr rfl, ?undef, fun a ha => modeValid_modeReg_of_undefK ha, ?nret, ?nchk⟩
  case undef =>
    split
    case isTrue hu => exact targetOk_targetReg_of_undefK hu
    case isFalse hu => exact (targetReg_of_defined (by simpa using hu)).1
  case nret =>
    have hi : exec .nret s = execNret s := rfl
    split
    case isTrue hk =>
      have hret : s.noticeReturn h K = s.withGroup h (h.moved K true { h.g with nen := true }) :=
        goto_drain_modGroup _ K (site_group hs) (site_split hs) (site_lt hs) rfl
      exact hi.trans (issue_ok hr ((if_neg (by simpa using hk)).trans (congrArg _ hret)))
    case isFalse hk =>
      exact raises_of_cause hr hi (if_pos (by simpa using hk))
  case nchk =>
    have hi : exec (.nchk o) s = execNchk o s := rfl
    split
    case isTrue hk => exact raises_of_cause hr hi (if_pos (by rw [hT, hk]; rfl))
    case isFalse hk =>
      have hok : ¬(!targetOk (branchTarget h.sp.pc o)) = true := by rw [hT]; simpa using hk
      split
      case isTrue hn =>
        refine hi.trans (issue_ok hr ((if_neg hok).trans ((if_pos hn).trans (congrArg _ ?_))))
        rw [hT, goto_modGroup _ _ hs rfl]
      case isFalse hn => exact hi.trans (issue_ok hr ((if_neg hok).trans ((if_neg hn).trans (congrArg _ (advance_eq hs)))))

/-! ### System registers -/

/-- rsr of a number other than TIDX writes the register's value to a k register. -/
theorem rsr_writesK {s : State} {h : Site} {d n : BitVec 8} {x : Word64} (ht : Timely s h) (hn : n.toNat ≤ 13) (h0 : n ≠ 0)
    (hx : h.sysReg s n.toNat = x) : WritesK s h (.rsr d n) false (d.toNat % 64) x := by
  have hi : exec (.rsr d n) s = execRsr d n s := rfl
  refine writesK ht (hi.trans (issue_ok ht.1 ?_))
  rw [if_neg (by omega), if_neg h0, hx]

theorem rsr_tidx_writesV {s : State} {h : Site} {d : BitVec 8} (ht : Timely s h) (ho : OperandsOk h 6 [d.toNat] []) :
    WritesV s h (.rsr d 0) false 6 d.toNat h.active fun t => (BitVec.ofNat 32 t).setWidth 64 := by
  have hi : exec (.rsr d 0) s = execRsr d 0 s := rfl
  refine writesV ht (fun _ => active_lt) (hi.trans (issue_ok ht.1 ?_))
  rw [if_neg (by decide), if_pos rfl, operandsOk_word ho, writeV_eq]; rfl

theorem ofNat_setWidth_of_lt {t : Nat} (ht : t < 64) : (BitVec.ofNat 32 t).setWidth 64 = BitVec.ofNat 64 t := by
  apply BitVec.eq_of_toNat_eq; simp; omega

theorem writesV_congr {s : State} {h : Site} {i : Instr} {b : Bool} {ty : BitVec 5} {d : Nat} {ts : List Nat} {f g : Nat → Word64}
    (hf : ∀ t ∈ ts, f t = g t) (hw : WritesV s h i b ty d ts f) : WritesV s h i b ty d ts g := by
  obtain ⟨v', ps, ds, hl, hh, hk, hp⟩ := hw
  exact ⟨v', ps, ds, hl, fun t ht => hf t ht ▸ hh t ht, hk, hp⟩

/-- Settles O17: each number reads its value (`rsr_writesK`), TIDX writes a vector register, and wsr changes two bits of the group. -/
theorem systemRegisters : Obligations.SystemRegisters := by
  unfold Obligations.SystemRegisters
  intro s h ht d n a r
  have hs := ht.1.1
  refine ⟨fun ho => writesV_congr (fun t hm => ofNat_setWidth_of_lt (active_lt hm)) (rsr_tidx_writesV ht ho),
    ?r1, ?r2, ?r3, ?r4, rsr_writesK ht (by decide) (by decide) rfl, rsr_writesK ht (by decide) (by decide) rfl,
    rsr_writesK ht (by decide) (by decide) rfl, rsr_writesK ht (by decide) (by decide) rfl, ?r9,
    rsr_writesK ht (by decide) (by decide) rfl, rsr_writesK ht (by decide) (by decide) rfl,
    rsr_writesK ht (by decide) (by decide) rfl, rsr_writesK ht (by decide) (by decide) rfl, fun hn => ?illegal, fun hn => ?_, ?wsr⟩
  case r1 => exact rsr_writesK ht (by decide) (by decide) (apply_ite (BitVec.ofNat 64) ..)
  case r2 => exact rsr_writesK ht (by decide) (by decide) rfl
  case r3 => exact rsr_writesK ht (by decide) (by decide) rfl
  case r4 => exact rsr_writesK ht (by decide) (by decide) rfl
  case r9 => exact rsr_writesK ht (by decide) (by decide) rfl
  case illegal =>
    exact raises_of_cause ht.1 (show exec (.rsr d n) s = execRsr d n s from rfl) (if_pos hn)
  · exact raises_of_cause ht.1 (show exec (.wsr a n) s = execWsr a n s from rfl) (if_pos hn)
  case wsr =>
    have hi : exec (.wsr a 6) s = execWsr a 6 s := rfl
    refine hi.trans (issue_ok ht.1 ?_)
    exact (if_neg (by decide)).trans (congrArg _ (goto_drain_modGroup _ _ (site_group hs) (site_split hs) (site_lt hs) rfl))

end Sys2Proof.Machine
end

section
/-!
SUPPORT. Unassigned opcodes (12 R264) and transfers of a whole split (13 R278, R279).
-/

namespace Sys2Proof.Machine

open Sys2Proof

/-! ### Unassigned opcodes -/

/-- The opcodes that R264 leaves unassigned, with 0x7F. -/
def unassignedOps : List (BitVec 7) :=
  [0x0F, 0x1F, 0x35, 0x36, 0x37, 0x42, 0x43, 0x44, 0x45, 0x46, 0x47, 0x48, 0x49, 0x4A, 0x4B,
    0x4C, 0x4D, 0x4E, 0x4F, 0x54, 0x55, 0x56, 0x57, 0x5D, 0x5E, 0x5F, 0x6D, 0x6E, 0x6F, 0x76, 0x77, 0x7B, 0x7F]

theorem decodeFields_unassigned {op : BitVec 7} (hop : op ∈ unassignedOps) (x : BitVec 1) (d a b : Byte) :
    decodeFields (mkF op x d a b) = .error .illegal := by
  simp only [unassignedOps, List.mem_cons, List.not_mem_nil, or_false] at hop
  rcases hop with rfl | rfl | rfl | rfl | rfl | rfl | rfl | rfl | rfl | rfl | rfl | rfl | rfl | rfl | rfl | rfl | rfl | rfl | rfl | rfl |
    rfl | rfl | rfl | rfl | rfl | rfl | rfl | rfl | rfl | rfl | rfl | rfl | rfl
  all_goals rfl

/-- Settles O18: the map has no arm for these opcodes, and the instruction raises its cause once the split can issue. -/
theorem unassignedOpcodes : Obligations.UnassignedOpcodes := by
  unfold Obligations.UnassignedOpcodes
  refine ⟨fun w hw => ?_, fun s h w hs hstop hdrain _ => ?_⟩
  · have hmem : w.extractLsb' 25 7 ∈ unassignedOps := by
      have hall : ∀ op : BitVec 7, op.toNat ∈ unassignedOps.map BitVec.toNat → op ∈ unassignedOps := by decide
      exact hall _ hw
    exact decodeFields_unassigned hmem _ _ _ _
  · have hi : exec (.unassignedOpcode w) s = execUnassignedOpcode w s := rfl
    rw [hi, execUnassignedOpcode]
    simp only [hs, hstop, hdrain, Bool.false_eq_true, if_false]

/-! ### Transfers -/

/-- A write of K[d] and a move to `t` in the drain class. -/
theorem writeK_goto_drain {s : State} {h : Site} (d : Nat) (x t : Word64) (hg : tget s.groups h.key = some h.g)
    (hx : h.g.split h.ix = h.sp) (hi : h.ix < h.g.splits.length) (he : h.early = false) :
    ((s.writeK h d x).goto h t).drain h =
      s.withGroup h (h.moved t true { h.g.clobber (.k d) with k := writeCell h.g.k d x }) := by
  rw [State.writeK, goto_drain_modGroup _ t hg hx hi (by simp [Group.putK])]
  have hput : h.g.putK h d x = { h.g.clobber (.k d) with k := writeCell h.g.k d x } := by
    simp only [Group.putK, he]
    unfold Group.clobber; split <;> rfl
  rw [hput]

theorem transfer_ok {s : State} {h : Site} {t : Word64} {link : Option (BitVec 6)} (hok : targetOk t = true) :
    transfer s h t link = .ok (((match link with
      | some d => s.writeK h d.toNat (nextPc h.sp.pc)
      | none => s).goto h t).drain h) :=
  if_neg (by rw [hok]; decide)

/-- `i` writes Next(A) to K[d] and goes to `t`, from `s'`, which differs from the state before in memory alone. -/
def Links (s' s : State) (h : Site) (i : Instr) (d : Nat) (t : Word64) : Prop :=
  ∃ k', exec i s = .next (s'.withGroup h (h.moved t true { h.g.clobber (.k d) with k := k' })) ∧
    readCell k' d = nextPc h.sp.pc ∧ ∀ n, n ≠ d → readCell k' n = readCell h.g.k n

section
variable {s s' : State} {h : Site} {i : Instr} {body : Site → Except Stop State} {t : Word64} (ht : Timely s h)
  (hg : tget s'.groups h.key = some h.g) (hok : targetOk t = true) (hi : exec i s = issue s body)
include ht hg hok hi

/-- A transfer with a link. -/
theorem links_of_transfer {d : BitVec 6} (hb : body h = transfer s' h t (some d)) : Links s' s h i d.toNat t := by
  refine ⟨writeCell h.g.k d.toNat (nextPc h.sp.pc), hi.trans (issue_ok ht.1 (hb.trans ?_)), by simp, fun n hn => by simp [hn]⟩
  exact (transfer_ok hok).trans
    (congrArg _ (writeK_goto_drain _ _ _ hg (site_split ht.1.1) (site_lt ht.1.1) (early_of_timely ht)))

/-- A transfer without one. -/
theorem plain_of_transfer (hb : body h = transfer s' h t none) : exec i s = .next (s'.withGroup h (h.moved t true h.g)) := by
  refine hi.trans (issue_ok ht.1 (hb.trans ?_))
  have hgoto : (s'.goto h t).drain h = s'.withGroup h (h.moved t true h.g) := by
    rw [goto_eq t hg (site_split ht.1.1)]; exact drain_withGroup t (site_lt ht.1.1)
  exact (transfer_ok hok).trans (congrArg _ hgoto)

end

theorem transfer_illegal {s s' : State} {h : Site} {i : Instr} {body : Site → Except Stop State} {t : Word64} {link : Option (BitVec 6)}
    (ht : Timely s h) (hok : targetOk t = false) (hi : exec i s = issue s body) (hb : body h = transfer s' h t link) :
    Raises s h i .brAlign 0 h.mask :=
  raises_of_cause ht.1 hi (hb.trans (if_pos (by rw [hok]; rfl)))

/-- The entry of the dispatch table that a served read gives. -/
theorem dispatchEntry_served {s : State} {h : Site} {a : BitVec 6} {p : Piece} (hu : h.undefK a.toNat = false)
    (hp : dispatchAcc s h a = .ok p) (hserved : Served s h true [p]) :
    dispatchEntry s h a = .ok (s.loadNum p.acc, s.readAll [p]) := by
  have hread : readable s h [p] = .ok () := by
    have hfind : [p].find? (fun p => s.accBad p.acc) = none :=
      List.find?_eq_none.2 fun x hx => by simp [hserved.2 rfl x hx]
    rw [readable, hserved.1, hfind]; rfl
  rw [dispatchEntry, hu, hp]
  simp only [Bool.false_eq_true, if_false, hread]

theorem dispatchEntry_undefined {s : State} {h : Site} {a : BitVec 6} (hu : h.undefK a.toNat = true) :
    dispatchEntry s h a = .ok (h.targetReg a.toNat, s) := if_pos hu

theorem dispatchEntry_bound {s : State} {h : Site} {a : BitVec 6} (hu : h.undefK a.toNat = false)
    (hn : h.l.kd.dispatchN ≤ (h.kr a.toNat).toNat) : dispatchEntry s h a = .error (.cause .tableBound 0 h.mask) := by
  rw [dispatchEntry, hu, dispatchAcc, if_pos hn]; rfl

theorem dispatchAcc_resolved {s : State} {h : Site} {a : BitVec 6} {x : Acc} (hn : (h.kr a.toNat).toNat < h.l.kd.dispatchN)
    (hx : s.resolve h.ctx h.die false (h.l.kd.dispatch + BitVec.ofNat 64 (8 * (h.kr a.toNat).toNat)).toNat 8 .read = .ok x) :
    dispatchAcc s h a = .ok { t := 0, va := h.l.kd.dispatch + BitVec.ofNat 64 (8 * (h.kr a.toNat).toNat), acc := { x with q := h.l.q } } := by
  rw [dispatchAcc, if_neg (by omega), hx]

/-- Settles O11: call and ret are plain transfers; callt and jmpt transfer to what `dispatchEntry` answers in each case. -/
theorem transfers : Obligations.Transfers := by
  unfold Obligations.Transfers
  intro s h ht d a o T K R va link plain
  have hg := site_group ht.1.1
  have hT : branchTarget h.sp.pc o = T := branchTarget_eq ..
  have hcall : exec (.call d o) s = execCall d o s := rfl
  have hret : exec (.ret a) s = execRet a s := rfl
  have hcallt : exec (.callt d a) s = execCallt d a s := rfl
  have hjmpt : exec (.jmpt a) s = execJmpt a s := rfl
  refine ⟨fun hok => links_of_transfer ht hg hok hcall (by rw [hT]), fun hok => transfer_illegal ht hok hcall (by rw [hT]),
    fun hok => plain_of_transfer ht hg hok hret rfl, fun hok => transfer_illegal ht hok hret rfl, ?_⟩
  split
  case isTrue hu =>
    rw [← undefK_of_timely ht] at hu
    have he := dispatchEntry_undefined (s := s) hu
    have hok : targetOk R = true := targetOk_targetReg_of_undefK hu
    exact ⟨hok, links_of_transfer ht hg hok hcallt (by rw [he]; rfl), plain_of_transfer ht hg hok hjmpt (by rw [he]; rfl)⟩
  case isFalse hu =>
    have hu : h.undefK a.toNat = false := by rw [undefK_of_timely ht]; simpa using hu
    refine ⟨(targetReg_of_defined hu).1, (targetReg_of_defined hu).2, fun hn => ?_, fun hn x hx => ?_⟩
    · have he := dispatchEntry_bound (s := s) hu hn
      exact ⟨raises_of_cause ht.1 hcallt (by rw [he]; rfl), raises_of_cause ht.1 hjmpt (by rw [he]; rfl)⟩
    · intro p hserved t
      have he : dispatchEntry s h a = .ok (t, s.readAll [p]) := dispatchEntry_served hu (dispatchAcc_resolved hn hx) hserved
      have hg' : tget (s.readAll [p]).groups h.key = some h.g := by simpa using hg
      split
      case isTrue hok =>
        exact ⟨links_of_transfer ht hg' hok hcallt (by rw [he]; rfl), plain_of_transfer ht hg' hok hjmpt (by rw [he]; rfl)⟩
      case isFalse hok =>
        have hok : targetOk t = false := by simpa using hok
        exact ⟨transfer_illegal (link := some d) (s' := s.readAll [p]) ht hok hcallt (by rw [he]; rfl),
          transfer_illegal (link := none) (s' := s.readAll [p]) ht hok hjmpt (by rw [he]; rfl)⟩

end Sys2Proof.Machine
end

section
/-!
SUPPORT. Branches (13 R276): what a division leaves of the splits of a group with its four entries (06 R124).
-/

namespace Sys2Proof.Machine

open Sys2Proof

/-! ### Splits of a group -/

theorem split_setSplit_of_lt {g : Group} {i : Nat} (hi : i < g.splits.length) (x : Split) (j : Nat) :
    (g.setSplit i x).split j = if j = i then x else g.split j := by
  by_cases hj : j = i
  · subst hj; simp [Group.setSplit, Group.split, setAt, atD, hi]
  · simp [Group.setSplit, Group.split, setAt, atD, hj, Ne.symm hj]

@[simp] theorem splits_length_setSplit (g : Group) (i : Nat) (x : Split) : (g.setSplit i x).splits.length = g.splits.length := by
  simp [Group.setSplit, setAt]

@[simp] theorem splits_length_addThreads (g : Group) (i j : Nat) (m : Word64) :
    (g.addThreads i j m).splits.length = g.splits.length := by simp [Group.addThreads]

theorem mem_liveSplits {g : Group} {j : Nat} : j ∈ g.liveSplits ↔ j < 4 ∧ (g.split j).live = true := by
  simp [Group.liveSplits]

theorem joinable_some {g : Group} {i j : Nat} {pc : Word64} (hj : g.joinable i pc = some j) :
    j < 4 ∧ (g.split j).live = true ∧ j ≠ i ∧ (g.split j).pc = pc ∧ (g.split j).mode = (g.split i).mode := by
  have hmem := List.mem_of_find?_eq_some hj
  have hp := List.find?_some hj
  obtain ⟨h4, hlive⟩ := mem_liveSplits.1 hmem
  simp only [Bool.and_eq_true, bne_iff_ne, beq_iff_eq] at hp
  obtain ⟨⟨⟨hne, _⟩, hpc⟩, hmode⟩ := hp
  exact ⟨h4, hlive, hne, hpc, hmode⟩

theorem freeEntry_some {g : Group} {n : Nat} (hn : g.freeEntry = some n) : n < 4 ∧ (g.split n).live = false := by
  have hmem := List.mem_of_find?_eq_some hn
  have hp := List.find?_some hn
  exact ⟨List.mem_range.1 hmem, by simpa using hp⟩

theorem freeEntry_isSome {g : Group} {n : Nat} (h4 : n < 4) (hn : (g.split n).live = false) : g.freeEntry.isSome = true := by
  rw [Group.freeEntry, List.find?_isSome]
  exact ⟨n, List.mem_range.2 h4, by simp [hn]⟩

/-- Split `x` with threads added, in the same place and mode. -/
def Split.Extends (x : Split) (m : Word64) (y : Split) : Prop :=
  y.live = x.live ∧ y.pc = x.pc ∧ y.mode = x.mode ∧ y.mask = x.mask ||| m

theorem split_addThreads_same {g : Group} {i j : Nat} (hj : j < g.splits.length) (m : Word64) :
    (g.split j).Extends m ((g.addThreads i j m).split j) := by
  rw [Group.addThreads, split_setSplit_of_lt hj, if_pos rfl]
  exact ⟨rfl, rfl, rfl, rfl⟩

theorem split_addThreads_other {g : Group} {i j k : Nat} (hj : j < g.splits.length) (m : Word64) (hk : k ≠ j) :
    (g.addThreads i j m).split k = g.split k := by
  rw [Group.addThreads, split_setSplit_of_lt hj, if_neg hk]

/-- The threads of the splits of `g` are still there. -/
theorem split_addThreads_keeps {g : Group} {i j : Nat} (hj : j < g.splits.length) (m : Word64) (k : Nat) :
    ∃ m', (g.split k).Extends m' ((g.addThreads i j m).split k) := by
  by_cases hk : k = j
  · exact ⟨m, hk ▸ split_addThreads_same hj m⟩
  · exact ⟨0, by rw [split_addThreads_other hj m hk]; exact ⟨rfl, rfl, rfl, by simp⟩⟩

/-! ### Divisions -/

/-- What a division of split `i` leaves: the takers at `T`, the stayers at `next`, the other splits at their places. -/
structure Divided (g g' : Group) (i : Nat) (take stay next T : Word64) : Prop where
  frame : g' = { g with splits := g'.splits }
  takers : ∀ t, take.getLsbD t = true → ThreadAt g g' i t T
  stayers : ∀ t, stay.getLsbD t = true → ThreadAt g g' i t next
  others : ∀ j, j ≠ i → (g.split j).live = true →
    (g'.split j).live = true ∧ (g'.split j).pc = (g.split j).pc ∧ (g'.split j).mode = (g.split j).mode

/-- Threads added to a split at `pc` are at `pc`. -/
theorem threadAt_of_extends {g g' : Group} {i j t : Nat} {m pc : Word64} {x : Split} (hx : x.Extends m (g'.split j))
    (hlive : x.live = true) (hpc : x.pc = pc) (hmode : x.mode = (g.split i).mode) (ht : (x.mask ||| m).getLsbD t = true) :
    ThreadAt g g' i t pc := by
  obtain ⟨h1, h2, h3, h4⟩ := hx
  exact ⟨j, h1.trans hlive, h4 ▸ ht, h2.trans hpc, h3.trans hmode⟩

theorem getLsbD_or_right {x m : Word64} {t : Nat} (ht : m.getLsbD t = true) : (x ||| m).getLsbD t = true := by
  rw [BitVec.getLsbD_or, ht, Bool.or_true]

theorem getLsbD_or_left {x m : Word64} {t : Nat} (ht : x.getLsbD t = true) : (x ||| m).getLsbD t = true := by
  rw [BitVec.getLsbD_or, ht, Bool.true_or]

section
variable {g : Group} {i : Nat} {take stay next T : Word64} (hlen : g.splits.length = 4) (hi : i < 4) (hlive : (g.split i).live = true)
include hlen hi

/-- Takers and stayers both join other splits. -/
theorem divided_join_join {j j' : Nat} (hj : g.joinable i T = some j) (hj' : g.joinable i next = some j') :
    Divided g (((g.addThreads i j take).addThreads i j' stay).setSplit i Split.empty) i take stay next T := by
  obtain ⟨j4, jlive, jne, jpc, jmode⟩ := joinable_some hj
  obtain ⟨j4', jlive', jne', jpc', jmode'⟩ := joinable_some hj'
  have h1 : j < g.splits.length := hlen ▸ j4
  have h2 : j' < (g.addThreads i j take).splits.length := by rw [splits_length_addThreads, hlen]; exact j4'
  have h3 : i < ((g.addThreads i j take).addThreads i j' stay).splits.length := by simpa [hlen] using hi
  refine ⟨rfl, fun t ht => ?_, fun t ht => ?_, fun k hk klive => ?_⟩
  · obtain ⟨e1, e2, e3, e4⟩ := split_addThreads_same (i := i) h1 take
    obtain ⟨m', hm⟩ := split_addThreads_keeps (i := i) h2 stay j
    refine threadAt_of_extends (j := j) (x := (g.addThreads i j take).split j) (m := m') ?_ (e1.trans jlive) (e2.trans jpc)
      (e3.trans jmode) ?_
    · rw [split_setSplit_of_lt h3, if_neg jne]; exact hm
    · rw [e4]; exact getLsbD_or_left (getLsbD_or_right ht)
  · obtain ⟨m', e1, e2, e3, e4⟩ := split_addThreads_keeps (i := i) h1 take j'
    refine threadAt_of_extends (j := j') (x := (g.addThreads i j take).split j') (m := stay) ?_ (e1.trans jlive') (e2.trans jpc')
      (e3.trans jmode') (getLsbD_or_right ht)
    rw [split_setSplit_of_lt h3, if_neg jne']; exact split_addThreads_same h2 stay
  · rw [split_setSplit_of_lt h3, if_neg hk]
    obtain ⟨_, e1, e2, e3, _⟩ := split_addThreads_keeps (i := i) h1 take k
    obtain ⟨_, f1, f2, f3, _⟩ := split_addThreads_keeps (i := i) h2 stay k
    exact ⟨f1.trans (e1.trans klive), f2.trans e2, f3.trans e3⟩

/-- The takers join a split, and the stayers keep the entry. -/
theorem divided_join_stay {j : Nat} (hlive : (g.split i).live = true) (hj : g.joinable i T = some j) :
    Divided g ((g.addThreads i j take).setSplit i { (g.split i).settle with held := false, mask := stay, pc := next }) i
      take stay next T := by
  obtain ⟨j4, jlive, jne, jpc, jmode⟩ := joinable_some hj
  have h1 : j < g.splits.length := hlen ▸ j4
  have h3 : i < (g.addThreads i j take).splits.length := by simpa [hlen] using hi
  refine ⟨rfl, fun t ht => ?_, fun t ht => ⟨i, ?_⟩, fun k hk klive => ?_⟩
  · refine threadAt_of_extends (j := j) (x := g.split j) (m := take) ?_ jlive jpc jmode (getLsbD_or_right ht)
    rw [split_setSplit_of_lt h3, if_neg jne]; exact split_addThreads_same h1 take
  · rw [split_setSplit_of_lt h3, if_pos rfl]
    exact ⟨hlive, ht, rfl, rfl⟩
  · rw [split_setSplit_of_lt h3, if_neg hk]
    obtain ⟨_, e1, e2, e3, _⟩ := split_addThreads_keeps (i := i) h1 take k
    exact ⟨e1.trans klive, e2, e3⟩

/-- The stayers join a split, and the takers get an entry that is then free. -/
theorem divided_new_join {j' n : Nat} {x : Split} (hx : x.mode = (g.split i).mode) (hj' : g.joinable i next = some j')
    (hn : (g.setSplit i Split.empty).freeEntry = some n) :
    Divided g (((g.addThreads i j' stay).setSplit i Split.empty).setSplit n (x.taken take T)) i take stay next T := by
  obtain ⟨j4', jlive', jne', jpc', jmode'⟩ := joinable_some hj'
  obtain ⟨n4, nfree⟩ := freeEntry_some hn
  have h1 : j' < g.splits.length := hlen ▸ j4'
  have hig : i < g.splits.length := hlen ▸ hi
  have h2 : i < (g.addThreads i j' stay).splits.length := by simpa [hlen] using hi
  have h3 : n < ((g.addThreads i j' stay).setSplit i Split.empty).splits.length := by simpa [hlen] using n4
  have hne : ∀ k, k ≠ i → (g.split k).live = true → k ≠ n := fun k hk klive e => by
    rw [split_setSplit_of_lt hig, ← e, if_neg hk, klive] at nfree
    cases nfree
  have hother : ∀ k, k ≠ i → (g.split k).live = true → (((g.addThreads i j' stay).setSplit i Split.empty).setSplit n
      (x.taken take T)).split k = (g.addThreads i j' stay).split k := fun k hk klive => by
    rw [split_setSplit_of_lt h3, if_neg (hne k hk klive), split_setSplit_of_lt h2, if_neg hk]
  refine ⟨rfl, fun t ht => ⟨n, ?_⟩, fun t ht => ?_, fun k hk klive => ?_⟩
  · rw [split_setSplit_of_lt h3, if_pos rfl]
    exact ⟨rfl, ht, rfl, hx⟩
  · refine threadAt_of_extends (j := j') (x := g.split j') (m := stay) ?_ jlive' jpc' jmode' (getLsbD_or_right ht)
    rw [hother j' jne' jlive']; exact split_addThreads_same h1 stay
  · rw [hother k hk klive]
    obtain ⟨_, e1, e2, e3, _⟩ := split_addThreads_keeps (i := i) h1 stay k
    exact ⟨e1.trans klive, e2, e3⟩

/-- The stayers keep the entry, and the takers get a free one. -/
theorem divided_new_stay {n : Nat} {x : Split} (hlive : (g.split i).live = true) (hx : x.mode = (g.split i).mode)
    (hn : g.freeEntry = some n) :
    Divided g ((g.setSplit i { (g.split i).settle with held := false, mask := stay, pc := next }).setSplit n (x.taken take T)) i
      take stay next T := by
  obtain ⟨n4, nfree⟩ := freeEntry_some hn
  have hig : i < g.splits.length := hlen ▸ hi
  have hin : i ≠ n := fun e => by rw [← e, hlive] at nfree; cases nfree
  have h3 : n < (g.setSplit i { (g.split i).settle with held := false, mask := stay, pc := next }).splits.length := by
    simpa [hlen] using n4
  refine ⟨rfl, fun t ht => ⟨n, ?_⟩, fun t ht => ⟨i, ?_⟩, fun k hk klive => ?_⟩
  · rw [split_setSplit_of_lt h3, if_pos rfl]
    exact ⟨rfl, ht, rfl, hx⟩
  · rw [split_setSplit_of_lt h3, if_neg hin, split_setSplit_of_lt hig, if_pos rfl]
    exact ⟨hlive, ht, rfl, rfl⟩
  · have hkn : k ≠ n := fun e => by rw [← e, klive] at nfree; cases nfree
    rw [split_setSplit_of_lt h3, if_neg hkn, split_setSplit_of_lt hig, if_neg hk]
    exact ⟨klive, rfl, rfl⟩

include hlive

/-- A division fails only where it needs an entry and none is free. -/
theorem divideAt_spec : (g.joinable i T = none ∧ g.joinable i next = none ∧ g.freeEntry = none ∧
      g.divideAt i take stay next T = none) ∨
    (¬(g.joinable i T = none ∧ g.joinable i next = none ∧ g.freeEntry = none) ∧
      ∃ g', g.divideAt i take stay next T = some g' ∧ Divided g g' i take stay next T) := by
  unfold Group.divideAt
  split
  next j j' hj hj' => exact .inr ⟨fun e => by simp [hj] at e, _, rfl, divided_join_join hlen hi hj hj'⟩
  next j hj hj' => exact .inr ⟨fun e => by simp [hj] at e, _, rfl, divided_join_stay hlen hi hlive hj⟩
  next j' hj hj' =>
    have hfree : (g.setSplit i Split.empty).freeEntry.isSome = true :=
      freeEntry_isSome hi (by rw [split_setSplit_of_lt (hlen ▸ hi), if_pos rfl]; rfl)
    obtain ⟨n, hn⟩ := Option.isSome_iff_exists.1 hfree
    exact .inr ⟨fun e => by simp [hj'] at e, _, by rw [hn]; rfl, divided_new_join (x := { (g.split i).settle with held := false }) hlen hi rfl hj' hn⟩
  next hj hj' =>
    cases hn : g.freeEntry with
    | none => exact .inl ⟨hj, hj', rfl, rfl⟩
    | some n => exact .inr ⟨fun e => by simp at e, _, rfl, divided_new_stay hlen hi hlive rfl hn⟩

end

/-! ### Covering -/

@[simp] theorem leaveClobbered_splits (base : Nat) (g : Group) (p : Pending) : (g.leaveClobbered base p).splits = g.splits := by
  unfold Group.leaveClobbered
  induction p.clobbered generalizing g with
  | nil => rfl
  | cons d r ih => exact (ih _).trans (by cases d <;> rfl)

/-- Writing destinations changes register files alone. -/
theorem putDests_frame (f : Dest → Word64) (ds : List Dest) (g : Group) :
    ∃ v k, ds.foldl (fun g d => g.putDest d (f d)) g = { g with v := v, k := k } := by
  induction ds generalizing g with
  | nil => exact ⟨g.v, g.k, rfl⟩
  | cons d r ih =>
    obtain ⟨v, k, e⟩ := ih (g.putDest d (f d))
    exact ⟨v, k, e.trans (by cases d <;> rfl)⟩

theorem leaveClobbered_frame (base : Nat) (g : Group) (p : Pending) : ∃ v k, g.leaveClobbered base p = { g with v := v, k := k } :=
  putDests_frame _ _ g

theorem leaveClobbereds_frame (base : Nat) (ps : List Pending) (g : Group) :
    ∃ v k, ps.foldl (Group.leaveClobbered base) g = { g with v := v, k := k } := by
  induction ps generalizing g with
  | nil => exact ⟨g.v, g.k, rfl⟩
  | cons p r ih =>
    obtain ⟨v, k, e⟩ := leaveClobbered_frame base g p
    obtain ⟨v', k', e'⟩ := ih (g.leaveClobbered base p)
    exact ⟨v', k', by rw [List.foldl_cons, e', e]⟩

theorem leaveClobbereds_of_nil {base : Nat} {ps : List Pending} (hp : ∀ p ∈ ps, p.clobbered = []) (g : Group) :
    ps.foldl (Group.leaveClobbered base) g = g := by
  induction ps generalizing g with
  | nil => rfl
  | cons p r ih =>
    have hnil : g.leaveClobbered base p = g := by rw [Group.leaveClobbered, hp p (List.mem_cons_self ..)]; rfl
    rw [List.foldl_cons, hnil, ih fun q hq => hp q (List.mem_cons_of_mem _ hq)]

/-- Covering changes the register files and the list of late instructions alone. -/
theorem cover_frame (g : Group) (base i n : Nat) : ∃ v k ds, g.cover base i n = { g with v := v, k := k, done := ds } := by
  obtain ⟨v, k, e⟩ := leaveClobbereds_frame base _ { g with done := _ }
  exact ⟨v, k, _, e⟩

/-- If nothing has been overwritten, covering keeps the registers. -/
theorem cover_registers {g : Group} {base i n : Nat} (hd : ∀ p ∈ g.done, p.clobbered = []) :
    (g.cover base i n).v = g.v ∧ (g.cover base i n).k = g.k := by
  unfold Group.cover
  simp only
  rw [leaveClobbereds_of_nil fun p hp => hd p (List.mem_filter.1 (List.mem_of_mem_take hp)).1]
  exact ⟨rfl, rfl⟩

/-! ### Branches -/

/-- What a division leaves, seen from a group that differs in registers and late instructions alone. -/
theorem divided_of_splits {g g₁ g' : Group} {i : Nat} {take stay next T : Word64} (hs : ∀ j, g₁.split j = g.split j)
    (hd : Divided g₁ g' i take stay next T) :
    (∀ t, take.getLsbD t = true → ThreadAt g g' i t T) ∧ (∀ t, stay.getLsbD t = true → ThreadAt g g' i t next) ∧
    ∀ j, j ≠ i → (g.split j).live = true →
      (g'.split j).live = true ∧ (g'.split j).pc = (g.split j).pc ∧ (g'.split j).mode = (g.split j).mode := by
  have hat : ∀ {t pc}, ThreadAt g₁ g' i t pc → ThreadAt g g' i t pc := fun ⟨j, h1, h2, h3, h4⟩ => ⟨j, h1, h2, h3, h4.trans (by rw [hs])⟩
  refine ⟨fun t ht => hat (hd.takers t ht), fun t ht => hat (hd.stayers t ht), fun j hj hl => ?_⟩
  rw [← hs j] at hl ⊢
  exact hd.others j hj hl

/-- The group that a division covers first. -/
def Group.covered (g : Group) (base i : Nat) (next : Word64) : Group :=
  if (g.joinable i next).isSome then g.cover base i 0 else g

theorem covered_frame (g : Group) (base i : Nat) (next : Word64) :
    ∃ v k ds, g.covered base i next = { g with v := v, k := k, done := ds } := by
  unfold Group.covered
  split
  · exact cover_frame ..
  · exact ⟨g.v, g.k, g.done, rfl⟩

theorem covered_of_none {g : Group} {base i : Nat} {next : Word64} (hn : g.joinable i next = none) : g.covered base i next = g := by
  rw [Group.covered, hn]; rfl

theorem covered_registers {g : Group} {base i : Nat} {next : Word64} (hd : ∀ p ∈ g.done, p.clobbered = []) :
    (g.covered base i next).v = g.v ∧ (g.covered base i next).k = g.k := by
  unfold Group.covered
  split
  · exact cover_registers hd
  · exact ⟨rfl, rfl⟩

/-- A branch answers as `branchOn` does, but where an undefined condition fails the check of a free entry. -/
theorem branch_ok {s : State} {h : Site} {T take : Word64} {t : State} (hb : branchOn s h T take = .ok t) : branch s h T take = .ok t := by
  rw [branch, hb]

theorem branch_wait {s : State} {h : Site} {T take : Word64} (hb : branchOn s h T take = .error .wait) :
    branch s h T take = .error .wait := by rw [branch, hb]

theorem branch_cause {s : State} {h : Site} {T take a t : Word64} {c : Cause} (hb : branchOn s h T take = .error (.cause c a t))
    (hu : h.undef &&& h.mask = 0) : branch s h T take = .error (.cause c a t) := by rw [branch, hb]; exact if_pos hu

theorem branch_badTarget {s : State} {h : Site} {T take : Word64} (hT : targetOk T = false) :
    branch s h T take = .error (.cause .brAlign 0 h.mask) := by
  have hbad : ∀ x, branchOn s h T x = .error (.cause .brAlign 0 h.mask) := fun x => if_pos (by rw [hT]; rfl)
  rw [branch, hbad]
  simp only [hbad, ite_self]

theorem targetOk_eq_false {T : Word64} : targetOk T = false ↔ T.extractLsb' 0 2 ≠ 0 ∨ T.extractLsb' 2 3 = 0 := by
  simp only [targetOk, Bool.and_eq_false_iff, beq_eq_false_iff_ne, bne_eq_false_iff_eq]

section
variable {s : State} {h : Site} {T take : Word64} (hok : targetOk T = true)
include hok

theorem branchOn_eq : branchOn s h T take =
    if h.mask &&& take = 0 then .ok (s.advance h)
    else if h.mask &&& ~~~take = 0 then .ok (s.goto h T)
    else if !h.g.divideReady h.ix (nextPc h.sp.pc) T then .error .wait
    else match h.g.divide h.coverBase h.ix (h.mask &&& take) (h.mask &&& ~~~take) (nextPc h.sp.pc) T with
      | none => .error (.cause .tableBound 0 h.mask)
      | some g => .ok ((s.modGroup h fun _ => g).retire h) := if_neg (by rw [hok]; decide)

variable (htake : ¬h.mask &&& take = 0) (hstay : ¬h.mask &&& ~~~take = 0)
include htake hstay

theorem branchOn_waits (hd : h.g.divideReady h.ix (nextPc h.sp.pc) T = false) : branchOn s h T take = .error .wait := by
  rw [branchOn_eq hok, if_neg htake, if_neg hstay, hd]; rfl

variable (hready : ¬h.g.divideReady h.ix (nextPc h.sp.pc) T = false)
include hready

theorem branchOn_divides : branchOn s h T take =
    match h.g.divide h.coverBase h.ix (h.mask &&& take) (h.mask &&& ~~~take) (nextPc h.sp.pc) T with
      | none => .error (.cause .tableBound 0 h.mask)
      | some g => .ok ((s.modGroup h fun _ => g).retire h) := by
  rw [branchOn_eq hok, if_neg htake, if_neg hstay, if_neg (by simpa using hready)]

end

/-- A division of the group as the split that branches sees it. -/
theorem divide_spec {g : Group} {base i : Nat} {take stay next T : Word64} (hlen : g.splits.length = 4) (hi : i < 4)
    (hlive : (g.split i).live = true) :
    (g.joinable i T = none ∧ g.joinable i next = none ∧ g.freeEntry = none ∧ g.divide base i take stay next T = none) ∨
    (¬(g.joinable i T = none ∧ g.joinable i next = none ∧ g.freeEntry = none) ∧
      ∃ g', g.divide base i take stay next T = some g' ∧ Divided (g.covered base i next) g' i take stay next T) := by
  have hdiv : g.divide base i take stay next T = (g.covered base i next).divideAt i take stay next T := rfl
  obtain ⟨v, k, ds, e⟩ := covered_frame g base i next
  have hjoin : ∀ pc, (g.covered base i next).joinable i pc = g.joinable i pc := fun _ => by rw [e]; rfl
  have hfree : (g.covered base i next).freeEntry = g.freeEntry := by rw [e]; rfl
  have hspec := divideAt_spec (g := g.covered base i next) (take := take) (stay := stay) (next := next) (T := T)
    (by rw [e]; exact hlen) hi (by rw [e]; exact hlive)
  rwa [hjoin, hjoin, hfree, ← hdiv] at hspec

theorem retire_modGroup {s : State} {h : Site} {g : Group} (hg : tget s.groups h.key = some h.g) :
    (s.modGroup h fun _ => g).retire h = s.withGroup h { g with retired := g.retired + 1 } := by
  simp [State.retire, modGroup_eq _ hg, modGroup_eq, State.withGroup]

/-- Every form of branch, by the cases of `branchOn` and of the division. -/
theorem branchEffect {s : State} {h : Site} {i : Instr} {body : Site → Except Stop State} {T take : Word64} (hr : Ready s h)
    (hlen : h.g.splits.length = 4) (hi : exec i s = issueWhole s body) (hb : body h = branch s h T take) :
    BranchEffect s h i T take := by
  have hs := hr.1
  have hlt : h.ix < 4 := hlen ▸ site_lt hs
  have hlive : (h.g.split h.ix).live = true := by rw [site_split hs]; exact (site_spec hs).2.2.2.2.1
  have hoks : ∀ {t}, branchOn s h T take = .ok t → exec i s = .next t := fun ht =>
    hi.trans (issueWhole_ok hr (hb.trans (branch_ok ht)))
  unfold BranchEffect
  intro stay next
  split
  case isTrue hbad =>
    exact fun _ => hi.trans (issueWhole_cause hr (hb.trans (branch_badTarget (targetOk_eq_false.2 hbad))))
  case isFalse hgood =>
  have hok : targetOk T = true := by
    rw [← targetOk_eq_false] at hgood
    simpa using hgood
  split
  case isTrue htake => exact hoks (by rw [branchOn_eq hok, if_pos htake, advance_eq hs])
  case isFalse htake =>
  split
  case isTrue hstay => exact hoks (by rw [branchOn_eq hok, if_neg htake, if_pos hstay, goto_eq T (site_group hs) (site_split hs)])
  case isFalse hstay =>
  split
  case isTrue hwait => exact hi.trans (issueWhole_wait hr (hb.trans (branch_wait (branchOn_waits hok htake hstay hwait))))
  case isFalse hready =>
  have hdiv := branchOn_divides (s := s) hok htake hstay hready
  obtain ⟨h1, h2, h3, hnone⟩ | ⟨hfree, g', hsome, hd⟩ := divide_spec (base := h.coverBase) (take := h.mask &&& take) (stay := stay)
    (next := next) (T := T) hlen hlt hlive
  · rw [if_pos ⟨h1, h2, h3⟩]
    rw [hnone] at hdiv
    rintro (hu | hu)
    · exact hi.trans (issueWhole_cause hr (hb.trans (branch_cause hdiv hu)))
    · cases hu
  · rw [if_neg hfree]
    rw [hsome] at hdiv
    obtain ⟨v, k, ds, e⟩ := covered_frame h.g h.coverBase h.ix next
    have hframe : g' = { h.g with splits := g'.splits, v := v, k := k, done := ds } := by
      have hf := hd.frame
      rw [e] at hf
      exact hf
    have hv : g'.v = (h.g.covered h.coverBase h.ix next).v ∧ g'.k = (h.g.covered h.coverBase h.ix next).k ∧
        g'.done = (h.g.covered h.coverBase h.ix next).done := by rw [hd.frame]; exact ⟨rfl, rfl, rfl⟩
    refine ⟨g', hoks (hdiv.trans (congrArg _ (retire_modGroup (site_group hs)))), ?_, fun hn => ?_, fun hc => ?_,
      divided_of_splits (fun j => by rw [e]; rfl) hd⟩
    · rw [hframe]
    · rw [covered_of_none hn] at hv; exact hv
    · obtain ⟨hcv, hck⟩ := covered_registers (base := h.coverBase) (i := h.ix) (next := next) hc
      exact ⟨hv.1.trans hcv, hv.2.1.trans hck⟩

/-- Settles O10: every form comes down to one branch with its target and the threads that take it. -/
theorem branches : Obligations.Branches := by
  unfold Obligations.Branches
  intro s h hr hlen o24 o p k T K
  have hT : branchTarget h.sp.pc o = T := branchTarget_eq ..
  have hnz : exec (.bruNz k o) s = execBruNz k o s := rfl
  refine ⟨branchEffect hr hlen rfl (congrArg (branch s h · _) (branchTarget_eq ..)), branchEffect hr hlen rfl (congrArg (branch s h · _) hT),
    branchEffect hr hlen rfl (congrArg (branch s h · _) hT), branchEffect hr hlen hnz ?nz,
    branchEffect hr hlen rfl (congrArg (branch s h · _) hT)⟩
  case nz => simp only [hT, K, ne_eq, ite_not]

end Sys2Proof.Machine
end

section
/-!
SUPPORT. What the ends of frames, teams and launches leave of the groups, and exit (13 R281; 06 R123; 11 R237).
-/

namespace Sys2Proof.Machine

open Sys2Proof

/-- What each step of a loop keeps, the loop keeps. -/
theorem forAll_keeps {α β σ : Type} (π : σ → β) {f : σ → α → σ} (hf : ∀ s x, π (f s x) = π s) (s : σ) (l : List α) :
    π (forAll f s l) = π s := by
  unfold forAll
  induction l generalizing s with
  | nil => rfl
  | cons x r ih => rw [List.foldl_cons, ih, hf]

/-- A property that each step of a loop keeps, the loop keeps. -/
theorem forAll_invariant {α σ : Type} {P : σ → Prop} {f : σ → α → σ} (hf : ∀ s x, P s → P (f s x)) {s : σ} (h : P s) (l : List α) :
    P (forAll f s l) := by
  unfold forAll
  induction l generalizing s with
  | nil => exact h
  | cons x r ih => exact ih (hf s x h)

/-! ### Frames and records keep the groups -/

@[simp] theorem modCtx_groups (s : State) (c : Nat) (f : Context → Context) : (s.modCtx c f).groups = s.groups := by
  unfold State.modCtx; split <;> rfl

@[simp] theorem setFrame_groups (s : State) (f : Frame) : (s.setFrame f).groups = s.groups := by
  unfold State.setFrame; split <;> rfl

@[simp] theorem noteFree_groups (s : State) (f : Frame) : (s.noteFree f).groups = s.groups := modCtx_groups ..

@[simp] theorem freeFrame_groups (s : State) (f : Frame) : (s.freeFrame f).groups = s.groups := by
  unfold State.freeFrame; simp only; split <;> simp

@[simp] theorem settleFrame_groups (s : State) (f : Frame) : (s.settleFrame f).groups = s.groups := by
  unfold State.settleFrame
  split
  · split <;> simp
  · simp

@[simp] theorem finishBody_groups (s : State) (f : Frame) : (s.finishBody f).groups = s.groups := by
  unfold State.finishBody; split <;> simp

@[simp] theorem finishBodies_groups (s : State) (fs : List Frame) : (s.finishBodies fs).groups = s.groups :=
  forAll_keeps State.groups (fun s f => by split <;> simp) s fs

@[simp] theorem decLive_groups (s : State) (d : FrameDec) : (s.decLive d).groups = s.groups := by
  unfold State.decLive
  split
  · split <;> simp
  · rfl

@[simp] theorem takeDec_groups (s : State) (i : Nat) : (s.takeDec i).groups = s.groups := by
  unfold State.takeDec; split <;> simp

@[simp] theorem formGroup_groups (s : State) (die n : Nat) (b : Bin) : (s.formGroup die n b).groups = s.groups := by
  unfold State.formGroup; split <;> simp

@[simp] theorem pool_groups (s : State) (die launch : Nat) (rec : List Byte) (core : Option Nat) :
    (s.pool die launch rec core).groups = s.groups := by
  unfold State.pool
  split
  · rfl
  · simp only; split <;> simp

@[simp] theorem takeJoin_groups (s : State) (die : Nat) : (s.takeJoin die).groups = s.groups := by
  unfold State.takeJoin
  simp only
  split
  · split <;> simp
  · rfl

@[simp] theorem runDecs_groups (ctx n : Nat) (s : State) : (s.runDecs ctx n).groups = s.groups := by
  induction n generalizing s with
  | zero => rfl
  | succ n ih =>
    unfold State.runDecs
    split
    · rw [ih, takeDec_groups]
    · split
      · rw [ih, takeJoin_groups]
      · rfl

@[simp] theorem formFull_groups (launch width n : Nat) (s : State) : (s.formFull launch width n).groups = s.groups := by
  induction n generalizing s with
  | zero => rfl
  | succ n ih =>
    unfold State.formFull
    split
    · rw [ih, formGroup_groups]
    · rfl

@[simp] theorem endTurnFrames_groups (s : State) (h : Site) : (s.endTurnFrames h).groups = s.groups := by
  unfold State.endTurnFrames; split <;> simp

@[simp] theorem endLaunchFrame_groups (s : State) (l : Nat) : (s.endLaunchFrame l).groups = s.groups := by
  unfold State.endLaunchFrame
  split
  · rfl
  · split
    · split <;> simp
    · rfl

/-! ### A team that leaves its cores brings no group back -/

theorem tget_tmap_eq_none {α : Type} {t : Table α} {f : Nat → α → α} {k : Nat} : tget (tmap t f) k = none ↔ tget t k = none := by
  rw [tget_tmap, Option.map_eq_none_iff]

theorem showAs_absent {s : State} {key : Nat} (hk : tget s.groups key = none) (grant : Option (Word32 × Byte)) (id : Nat)
    (f : Team → Nat → Group → Resid) : tget (s.showAs grant id f).groups key = none := by
  unfold State.showAs
  split
  · exact hk
  · simp only [tget_tmap_eq_none, hk]

theorem showSpill_absent {s : State} {key : Nat} (hk : tget s.groups key = none) (grant : Option (Word32 × Byte)) (id : Nat) :
    tget (s.showSpill grant id).groups key = none := showAs_absent hk ..

theorem giveMatrix_absent {s : State} {key : Nat} (hk : tget s.groups key = none) (c id : Nat) (grant : Option (Word32 × Byte)) :
    tget (s.giveMatrix c id grant).groups key = none := by
  unfold State.giveMatrix
  simp only
  split
  · exact hk
  · split
    · refine showSpill_absent ?_ ..
      exact hk
    · exact hk

theorem afterLeave_absent {s : State} {key : Nat} (hk : tget s.groups key = none) (gone : List (Nat × Nat)) (c : Nat) :
    tget (s.afterLeave gone c).groups key = none := by
  unfold State.afterLeave State.passOwner
  split
  · exact giveMatrix_absent (s := s.endHolds c gone) hk ..
  · exact hk

theorem teamLeaves_absent {s : State} {key : Nat} (hk : tget s.groups key = none) (id : Nat) :
    tget (s.teamLeaves id).groups key = none := by
  unfold State.teamLeaves
  split
  · exact hk
  · refine forAll_invariant (P := fun s : State => tget s.groups key = none) (fun s c h => afterLeave_absent h _ c) ?_ _
    refine (congrArg (tget · key) (forAll_keeps State.groups (fun s c => ?_) _ _)).trans hk
    rfl

/-- The entry of a group that leaves its core is free. -/
theorem groupLeaves_absent (s : State) (key : Nat) : tget (s.groupLeaves key).groups key = none := by
  unfold State.groupLeaves
  split
  case h_1 hnone => exact hnone
  case h_2 g hg =>
    simp only
    split
    · simp [tget_terase]
    · split
      · rw [endLaunchFrame_groups]
        exact teamLeaves_absent (by simp [tget_terase]) _
      · simp [tget_terase]

/-! ### Arrival keeps the threads -/

/-- Two lists of splits with the same live splits and threads. -/
def sameThreads (xs ys : List Split) : Prop := xs.map (fun x => (x.live, x.mask)) = ys.map fun y => (y.live, y.mask)

theorem sameThreads_map {f : Split → Split} (hf : ∀ x, (f x).live = x.live ∧ (f x).mask = x.mask) (xs : List Split) :
    sameThreads (xs.map f) xs := by
  unfold sameThreads
  rw [List.map_map]
  exact List.map_congr_left fun x _ => by simp [hf x]

theorem arrivedSplit_threads (ph : Bool) (x : Split) : (arrivedSplit ph x).live = x.live ∧ (arrivedSplit ph x).mask = x.mask := by
  unfold arrivedSplit
  split
  · split <;> exact ⟨rfl, rfl⟩
  · exact ⟨rfl, rfl⟩

theorem wakeSplit_threads (off : Nat) (old : Bool) (x : Split) :
    (wakeSplit off old x).live = x.live ∧ (wakeSplit off old x).mask = x.mask := by
  unfold wakeSplit
  split
  · split <;> exact ⟨rfl, rfl⟩
  · exact ⟨rfl, rfl⟩

/-- The group at an entry, as a wake-up leaves it. -/
theorem updateWord_group {s : State} {key : Nat} {g : Group} (hg : tget s.groups key = some g) (team off : Nat) (f : Word64 → Word64) :
    ∃ xs, tget (s.updateWord team off f).groups key = some { g with splits := xs } ∧ sameThreads xs g.splits := by
  unfold State.updateWord
  split
  · exact ⟨_, hg, rfl⟩
  · simp only
    split
    · rw [State.wakeTeam, tget_tmap, setTeam_groups, hg]
      simp only [Option.map_some]
      split
      · exact ⟨_, rfl, sameThreads_map (wakeSplit_threads _ _) _⟩
      · exact ⟨_, rfl, rfl⟩
    · exact ⟨_, hg, rfl⟩

/-- The group at an entry, as an arrival leaves it. -/
theorem tryArrive_group {s : State} {key : Nat} {g : Group} (hg : tget s.groups key = some g) :
    ∃ xs, tget (s.tryArrive key).groups key = some { g with splits := xs } ∧ sameThreads xs g.splits := by
  unfold State.tryArrive
  rw [hg]
  simp only
  split
  · obtain ⟨xs, he, hx⟩ := updateWord_group (s := { s with groups := tset s.groups key _ }) (tget_tset_same ..) g.team _ _
    exact ⟨xs, he, hx.trans (sameThreads_map (arrivedSplit_threads _) _)⟩
  · exact ⟨_, hg, rfl⟩

theorem split_of_sameThreads {g g' : Group} (hx : sameThreads g'.splits g.splits) (j : Nat) :
    (g'.split j).live = (g.split j).live ∧ (g'.split j).mask = (g.split j).mask := by
  have hj := congrArg (fun l => l[j]?) hx
  simp only [List.getElem?_map] at hj
  simp only [Group.split, atD]
  cases h1 : g'.splits[j]? <;> cases h2 : g.splits[j]? <;> simp_all

/-! ### exit -/

theorem tget_modGroup (s : State) (h : Site) (f : Group → Group) :
    tget (s.modGroup h f).groups h.key = (tget s.groups h.key).map f := by
  unfold State.modGroup
  split
  case h_1 g hg => rw [hg]; exact tget_tset_same ..
  case h_2 hnone => rw [hnone]; rfl

/-- The group that a split leaves. -/
def Site.left (h : Site) : Group :=
  let g := ((h.g.cover h.coverBase h.ix 0).setSplit h.ix Split.empty).unhold h.ix
  { g with
    alive := g.alive &&& ~~~h.mask, charges := g.charges.filter fun (t, _) => !h.active.contains t,
    retired := g.retired + 1 }

theorem left_alive (h : Site) : h.left.alive = h.g.alive &&& ~~~h.mask := by
  obtain ⟨v, k, ds, e⟩ := cover_frame h.g h.coverBase h.ix 0
  simp only [Site.left, e]
  rfl

theorem left_split_self {h : Site} (hi : h.ix < h.g.splits.length) : h.left.split h.ix = Split.empty := by
  obtain ⟨v, k, ds, e⟩ := cover_frame h.g h.coverBase h.ix 0
  simp only [Site.left, e]
  simp [Group.unhold, Group.setSplit, Group.split, setAt, atD, hi]

theorem left_split_other (h : Site) {j : Nat} (hj : j ≠ h.ix) :
    (h.left.split j).live = (h.g.split j).live ∧ (h.left.split j).mask = (h.g.split j).mask := by
  obtain ⟨v, k, ds, e⟩ := cover_frame h.g h.coverBase h.ix 0
  simp only [Site.left, e]
  simp only [Group.unhold, Group.setSplit, Group.split, setAt, atD, List.getElem?_mapIdx, List.getElem?_set, Ne.symm hj, if_false]
  cases h.g.splits[j]? <;> simp [hj]

/-- The state before the group leaves or arrives. -/
def State.exitBase (s : State) (h : Site) : State :=
  let mine := h.g.charges.filter fun (t, _) => h.active.contains t
  let s := s.finishBodies (s.createdBy h h.active)
  let s := { s with decs := s.decs ++ mine.map fun (x : Nat × Word64) => ({ ctx := h.ctx, handle := x.2 } : FrameDec) }
  let s := s.modGroup h fun g =>
    let g := ((g.cover h.coverBase h.ix 0).setSplit h.ix Split.empty).unhold h.ix
    { g with
      alive := g.alive &&& ~~~h.mask, charges := g.charges.filter fun (t, _) => !h.active.contains t,
      retired := g.retired + 1 }
  { s with freeCtr := s.freeCtr + 1 }

theorem exitBase_group {s : State} {h : Site} (hs : s.site? = some h) : tget (s.exitBase h).groups h.key = some h.left := by
  have hg : tget (s.finishBodies (s.createdBy h h.active)).groups h.key = some h.g := by simpa using site_group hs
  exact (tget_modGroup ..).trans (congrArg (Option.map _) hg)

theorem exitSplit_eq {s : State} {h : Site} (hs : s.site? = some h) : s.exitSplit h =
    ((if h.left.liveSplits.isEmpty then (s.exitBase h).groupLeaves h.key else (s.exitBase h).tryArrive h.key).endTurnFrames h) := by
  have hb : s.exitSplit h = match tget (s.exitBase h).groups h.key with
    | none => s.exitBase h
    | some g => (if g.liveSplits.isEmpty then (s.exitBase h).groupLeaves h.key else (s.exitBase h).tryArrive h.key).endTurnFrames h := rfl
  rw [hb, exitBase_group hs]

/-- What exit leaves of the group. -/
theorem exitSplit_group {s : State} {h : Site} (hs : s.site? = some h) :
    match tget (s.exitSplit h).groups h.key with
    | none => ∀ j, j < 4 → j ≠ h.ix → (h.g.split j).live = false
    | some g' => (g'.split h.ix).live = false ∧ g'.alive = h.g.alive &&& ~~~h.mask ∧
        ∀ j, j ≠ h.ix → (g'.split j).mask = (h.g.split j).mask := by
  rw [exitSplit_eq hs, endTurnFrames_groups]
  by_cases hempty : h.left.liveSplits.isEmpty = true
  · rw [if_pos hempty, groupLeaves_absent]
    intro j h4 hj
    by_contra hlive
    have hmem : j ∈ h.left.liveSplits := mem_liveSplits.2 ⟨h4, by rw [(left_split_other h hj).1]; simpa using hlive⟩
    simp [List.isEmpty_iff.1 hempty] at hmem
  · obtain ⟨xs, he, hx⟩ := tryArrive_group (exitBase_group hs)
    rw [if_neg hempty, he]
    have hsplit := fun j => split_of_sameThreads (g := h.left) (g' := { h.left with splits := xs }) hx j
    refine ⟨?_, left_alive h, fun j hj => (hsplit j).2.trans (left_split_other h hj).2⟩
    rw [(hsplit h.ix).1, left_split_self (site_lt hs)]; rfl

theorem stepsAhead_iff {s : State} {h : Site} : s.stepsAhead h = true ↔
    (∃ r ∈ s.atoms, r.isOf h.core h.entry = true) ∨ ∃ r ∈ s.caSteps, r.core = h.core ∧ r.entry = h.entry := by
  simp [State.stepsAhead]

/-- Settles O12: exit waits for what is on its way, and else the group is as `exitSplit_group` says. -/
theorem exit : Obligations.Exit := by
  unfold Obligations.Exit
  intro s h hr ahead
  have hi : exec .exit s = execExit s := rfl
  have hwaits : (h.g.hasPending h.ix || (h.l.isFrames && s.stepsAhead h)) = true ↔ h.g.hasPending h.ix = true ∨ ahead := by
    rw [Bool.or_eq_true, Bool.and_eq_true, stepsAhead_iff]
  split
  case isTrue hw => exact hi.trans (issue_wait hr (if_pos (hwaits.2 hw)))
  case isFalse hw => exact ⟨hi.trans (issue_ok hr (if_neg (mt hwaits.1 hw))), exitSplit_group hr.1⟩

end Sys2Proof.Machine
end

section
/-!
SUPPORT. Words of the opcode map, and the device after reset (12 R255 to R263; 01 R24).
-/

namespace Sys2Proof.Machine

open Sys2Proof

/-- Settles O57: each word is decoded by evaluation. -/
theorem wordsOfTheMap : Obligations.WordsOfTheMap := by
  unfold Obligations.WordsOfTheMap
  refine ⟨?_, ?_, ?_, ?_, ?_, ?_, ?_, ?_, ?_, ?_, ?_, ?_, ?_, ?_, ?_, ?_, ?_, ?_, ?_, ?_⟩
  all_goals rfl

/-- Settles O59: every clause reads a field of the state after reset. -/
theorem resetState : Obligations.ResetState := by
  unfold Obligations.ResetState
  intro s
  refine ⟨⟨rfl, rfl, by simp [s, State.reset]⟩, fun a => rfl, rfl, rfl, rfl, rfl, fun f q => rfl, fun f => ⟨rfl, rfl⟩,
    fun c => ⟨rfl, rfl, rfl⟩, ⟨_, rfl, rfl, rfl, rfl, rfl, rfl⟩, fun c => rfl⟩

end Sys2Proof.Machine
end

section
/-!
SUPPORT. Loads, stores and lwait (15 R322 to R331): what the late results of a load leave of its group, and which bytes a store writes.
-/

namespace Sys2Proof.Machine

open Sys2Proof

/-! ### Late results -/

theorem clobber_frame (g : Group) (d : Dest) : ∃ ps ds, g.clobber d = { g with pending := ps, done := ds } ∧ ps.length = g.pending.length := by
  unfold Group.clobber
  split
  · exact ⟨_, _, rfl, by simp [clobberAll]⟩
  · exact ⟨g.pending, g.done, rfl, rfl⟩

theorem clobbers_frame (ds : List Dest) (g : Group) :
    ∃ ps os, ds.foldl Group.clobber g = { g with pending := ps, done := os } ∧ ps.length = g.pending.length := by
  induction ds generalizing g with
  | nil => exact ⟨g.pending, g.done, rfl, rfl⟩
  | cons d r ih =>
    obtain ⟨ps, os, e, hlen⟩ := clobber_frame g d
    obtain ⟨ps', os', e', hlen'⟩ := ih (g.clobber d)
    refine ⟨ps', os', by rw [List.foldl_cons, e', e], hlen'.trans ?_⟩
    rw [e]; exact hlen

theorem clobbers_of_not_awaits {ds : List Dest} {g : Group} (hd : ∀ d ∈ ds, g.awaits d = false) : ds.foldl Group.clobber g = g := by
  induction ds with
  | nil => rfl
  | cons d r ih =>
    rw [List.foldl_cons, clobber_of_not_awaits (hd d (List.mem_cons_self ..))]
    exact ih fun x hx => hd x (List.mem_cons_of_mem _ hx)

/-- The record of a late instruction. -/
def Group.newPending (g : Group) (i : Nat) (ty : BitVec 5) (waits : Nat) (dests : List Dest) (rs : List (Dest × Word64)) : Pending :=
  { id := g.nextPending, split := i, ty := ty, waits := waits, dests := dests, results := rs, clobbered := dests.filter g.awaits }

theorem addPending_frame (g : Group) (i : Nat) (ty : BitVec 5) (waits : Nat) (dests : List Dest) (rs : List (Dest × Word64)) :
    ∃ ps os, ps.length = g.pending.length ∧ ((∀ d ∈ dests, g.awaits d = false) → os = g.done) ∧
      g.addPending i ty waits dests rs =
        { g with splits := setAt g.splits i { g.split i with loadCnt := (g.split i).loadCnt + 1 },
                 pending := ps ++ [g.newPending i ty waits dests rs], done := os, nextPending := g.nextPending + 1 } := by
  obtain ⟨ps, os, e, hlen⟩ := clobbers_frame dests g
  refine ⟨ps, os, hlen, fun hd => ?_, ?_⟩
  · rw [clobbers_of_not_awaits hd] at e
    exact (congrArg Group.done e).symm
  · unfold Group.addPending
    simp only [e]
    rfl

/-- The group at `h`'s entry as its split goes on from what a change has left. -/
theorem goto_group {s : State} {h : Site} {g : Group} (pc : Word64) (hg : tget s.groups h.key = some g) : s.goto h pc =
    s.withGroup h { g with splits := setAt g.splits h.ix { g.split h.ix with pc := pc, held := false }, retired := g.retired + 1 } := by
  simp [State.goto, State.retire, State.modSplit, modGroup_eq _ hg, modGroup_eq, State.withGroup, Group.setSplit]

theorem advance_modGroup_group {s : State} {h : Site} {g : Group} (f : Group → Group) (hg : tget s.groups h.key = some g) :
    (s.modGroup h f).advance h = s.withGroup h { f g with
      splits := setAt (f g).splits h.ix { (f g).split h.ix with pc := nextPc h.sp.pc, held := false }, retired := (f g).retired + 1 } := by
  rw [State.advance, modGroup_eq f hg, goto_group _ (tget_tset_same ..)]
  simp [State.withGroup]

theorem mark_of_not_early {h : Site} (he : h.early = false) (ty : BitVec 5) (rs : List (Dest × Word64)) : h.mark ty rs = rs := by
  rw [Site.mark, he]; rfl

/-- What an instruction that issues a late one leaves of its group: the split goes on with one more in its load count, the record `q` is the
last one, and no register has changed. -/
structure Pends (h : Site) (g' : Group) (q : Pending) (waits : Nat) (dests : List Dest) (rs : List (Dest × Word64)) : Prop where
  frame : g' = { h.g with
    splits := g'.splits, retired := h.g.retired + 1, pending := g'.pending, done := g'.done, nextPending := h.g.nextPending + 1 }
  done : (∀ d ∈ dests, h.g.awaits d = false) → g'.done = h.g.done
  loadCnt : (g'.split h.ix).loadCnt = h.sp.loadCnt + 1
  pc : (g'.split h.ix).pc = nextPc h.sp.pc
  others : ∀ j, j ≠ h.ix → g'.split j = h.g.split j
  last : g'.pending.getLast? = some q
  length : g'.pending.length = h.g.pending.length + 1
  record : q.split = h.ix ∧ q.waits = waits ∧ q.results = rs ∧ q.dests = dests

theorem pends_of_addPending {s u : State} {h : Site} (hs : s.site? = some h) (hg : tget u.groups h.key = some h.g) (ty : BitVec 5)
    (waits : Nat) (dests : List Dest) (rs : List (Dest × Word64)) :
    ∃ g' q, (u.modGroup h fun g => g.addPending h.ix ty waits dests rs).advance h = u.withGroup h g' ∧ Pends h g' q waits dests rs := by
  have hlt := site_lt hs
  obtain ⟨ps, os, hlen, hos, e⟩ := addPending_frame h.g h.ix ty waits dests rs
  refine ⟨_, h.g.newPending h.ix ty waits dests rs, by rw [advance_modGroup_group _ hg, e], rfl, hos, ?_, ?_, fun j hj => ?_, ?_, ?_,
    rfl, rfl, rfl, rfl⟩
  · simp [Group.split, atD, setAt, hlt, ← site_split hs]
  · simp [Group.split, atD, setAt, hlt]
  · simp [Group.split, atD, setAt, Ne.symm hj]
  · simp
  · simp [hlen]

/-- What a load leaves once its accesses have left the state `u`. -/
theorem loadsFrom {s u : State} {h : Site} {i : Instr} {rs : List (Dest × Word64)} {ty : BitVec 5} (ht : Timely s h)
    (hg : tget u.groups h.key = some h.g) (hi : exec i s = .next ((u.late h rs ty).advance h)) : LoadsFrom s u h i rs := by
  rw [State.late, mark_of_not_early (early_of_timely ht)] at hi
  unfold LoadsFrom
  split
  case isTrue hinvar => rwa [if_pos hinvar] at hi
  case isFalse hinvar =>
    obtain ⟨g', q, e, hp⟩ := pends_of_addPending ht.1.1 hg ty 0 (rs.map (·.1)) rs
    rw [if_neg hinvar, e] at hi
    obtain ⟨h1, h2, h3, h4⟩ := hp.record
    refine ⟨g', q, hi, hp.frame, fun hr => hp.done fun d hd => ?_, hp.loadCnt, hp.pc, hp.others, hp.last, hp.length, h1, h2, h3, h4⟩
    obtain ⟨r, hmem, rfl⟩ := List.mem_map.1 hd
    exact hr r hmem

/-! ### Loads -/

theorem ok_bind {ε α β : Type} (x : α) (f : α → Except ε β) : ((.ok x : Except ε α) >>= f) = f x := rfl

theorem readable_of_served {s : State} {h : Site} {ps : List Piece} (hs : Served s h true ps) : readable s h ps = .ok () := by
  have hfind : ps.find? (fun p => s.accBad p.acc) = none := List.find?_eq_none.2 fun x hx => by simp [hs.2 rfl x hx]
  rw [readable, hs.1, hfind]; rfl

theorem writable_of_served {s : State} {h : Site} {b : Bool} {ps : List Piece} (hs : Served s h b ps) : writable s h ps = .ok () := by
  rw [writable, hs.1]; rfl

theorem room_ok {h : Site} (hr : h.sp.loadCnt < 63) : h.room = .ok () := if_neg (by omega)

/-- A load that has left the state after its reads. -/
theorem loads_of_exec {s : State} {h : Site} {i : Instr} {ps : List Piece} {rs : List (Dest × Word64)} {ty : BitVec 5} (ht : Timely s h)
    (hi : exec i s = .next (((s.readAll ps).late h rs ty).advance h)) : Loads s h i ps rs :=
  ⟨fun _ hk => readCell_readAll hk, loadsFrom ht (by simpa using site_group ht.1.1) hi⟩

section
variable {s : State} {h : Site} {i : Instr} {ok acquire : Bool} {d a : BitVec 8} {va : Site → Nat → Except Stop (Word64 × Acc)}
  (ht : Timely s h) (hk : tyScalar h.ty = true) (hr : h.sp.loadCnt < 63) (hok : ok = true) (ho : OperandsOk h h.ty [d.toNat] [a.toNat])
  (hi : exec i s = loadOp s ok acquire d a va)
include ht hk hr hok ho hi

/-- A per-thread load whose accesses pass the checks. -/
theorem loads_of_loadOp {ps : List Piece} (hdone : acquire = true → atomsDone s h = .ok ()) (hs : Served s h true ps)
    (hp : pieces (va h) h.acting = .ok ps) :
    Loads s h i ps (ps.flatMap fun p => elemResult h.ty d.toNat p.t (BitVec.ofNat 64 (leNat (s.peek p.acc)))) := by
  refine loads_of_exec (ty := h.ty) ht (hi.trans (issue_ok ht.1 ?_))
  cases acquire with
  | false => simp only [need, if_pos hok, accepts_ok hk, typed_ok ho, room_ok hr, ok_bind, Bool.false_eq_true, if_false, hp,
      readable_of_served hs, State.loadNum]
  | true => simp only [need, if_pos hok, accepts_ok hk, typed_ok ho, room_ok hr, ok_bind, if_true, hdone rfl, hp,
      readable_of_served hs, State.loadNum]

/-- An acquire behind the group's atomics. -/
theorem waits_of_loadOp (hacq : acquire = true) (hdone : atomsDone s h = .error .wait) : Waits s i := by
  refine hi.trans (issue_wait ht.1 ?_)
  rw [need, if_pos hok, accepts_ok hk, typed_ok ho, room_ok hr, if_pos hacq, hdone]; rfl

end

theorem atomsDone_cases (s : State) (h : Site) : atomsDone s h = .ok () ∨ atomsDone s h = .error .wait := by
  unfold atomsDone
  split
  · exact .inr rfl
  · exact .inl rfl

/-- The bit that selects zero extension. -/
theorem siteVaOf_eq (h : Site) (e : BitVec 1) (a : BitVec 8) (b : BitVec 6) : h.vaOf e a b = vaOf h (e == 1) a b := by
  funext t
  simp [Site.vaOf, vaOf]

theorem siteOffOf_eq (h : Site) (a i : BitVec 8) : h.offOf a i = offOf h a i := by
  funext t
  apply BitVec.eq_of_toNat_eq
  have h32 : ∀ x, x % 4294967296 % 18446744073709551616 = x % 4294967296 := fun x => by omega
  simp [Site.offOf, offOf, Site.size, h32, Nat.add_mod, Nat.mul_mod]

/-- Settles O21: each load checks its operands and accesses (`loads_of_loadOp`); lda first waits for the group's atomics. -/
theorem threadLoads : Obligations.ThreadLoads := by
  unfold Obligations.ThreadLoads
  intro s h ht hk hr e c d a i b ps ho hs rs
  have hld : exec (.ld e d a b) s = execLd e d a b s := rfl
  have hlda : exec (.lda c d a b) s = execLda c d a b s := rfl
  have hlds : exec (.lds d a i) s = execLds d a i s := rfl
  refine ⟨fun hp => loads_of_loadOp ht hk hr rfl ho hld (by simp) hs (by rw [siteVaOf_eq]; exact hp), fun hc => ?lda,
    fun hp => loads_of_loadOp ht hk hr rfl ho hlds (by simp) hs (by rw [siteOffOf_eq]; exact hp)⟩
  have hscope : scopeOk c = true := decide_eq_true hc
  split
  case isTrue hdone =>
    exact fun hp => loads_of_loadOp ht hk hr hscope ho hlda (fun _ => hdone) hs (by rw [siteVaOf_eq]; exact hp)
  case isFalse hdone =>
    exact waits_of_loadOp ht hk hr hscope ho hlda rfl ((atomsDone_cases s h).resolve_left hdone)

end Sys2Proof.Machine
end

section
/-!
SUPPORT. Uniform accesses, prefetch and lwait (15 R322, R328, R331).
-/

namespace Sys2Proof.Machine

open Sys2Proof

/-! ### The bytes that a write stores -/

@[simp] theorem putByte_plant (s : State) (ctx q : Nat) (l : Loc) (b : Byte) : (s.putByte ctx q l b).plant = s.plant := by
  unfold State.putByte
  split
  · split <;> rfl
  · split <;> rfl
  · split <;> rfl
  · rfl
  · rfl
  · unfold State.modTeam; split <;> rfl
  · unfold State.modTeam; split <;> rfl
  · split <;> rfl
  · simp only; unfold State.modTeam State.spoil; split <;> split <;> rfl
  · simp only; unfold State.modTeam State.spoil; split <;> split <;> rfl

theorem granuleRetired_of_plant {s t : State} (h : t.plant = s.plant) (k : Nat) : t.granuleRetired k = s.granuleRetired k := by
  rw [State.granuleRetired, h]; rfl

theorem readCell_putByte_hbm {s : State} {ctx q k : Nat} {b : Byte} (hk : s.granuleRetired k = false) :
    readCell (s.putByte ctx q (.hbm k) b).mem k = b := by
  simp [State.putByte, hk]

/-- Byte `j` of a write is at its location, if no later byte is written there. -/
theorem readCell_putBytes_stored {s : State} {ctx q : Nat} {ls : List Loc} {bs : List Byte} {j k : Nat} {b : Byte}
    (hl : ls[j]? = some (.hbm k)) (hn : ls.Nodup) (hb : bs[j]? = some b) (hk : s.granuleRetired k = false) :
    readCell (putBytes ctx q s ls bs).mem k = b := by
  induction ls generalizing s bs j with
  | nil => simp at hl
  | cons l r ih =>
    obtain ⟨hmem, hr⟩ := List.nodup_cons.1 hn
    cases bs with
    | nil => simp at hb
    | cons x bs =>
      rw [putBytes]
      cases j with
      | zero =>
        obtain rfl : l = .hbm k := by simpa using hl
        obtain rfl : x = b := by simpa using hb
        rw [readCell_putBytes fun y hy e => hmem (e ▸ hy), readCell_putByte_hbm hk]
      | succ j => exact ih (by simpa using hl) hr (by simpa using hb) (by rw [granuleRetired_of_plant (putByte_plant ..)]; exact hk)

theorem readCell_poke_stored {s : State} {a : Acc} {bs : List Byte} {j k : Nat} {b : Byte} (hl : a.locs[j]? = some (.hbm k))
    (hn : a.locs.Nodup) (hb : bs[j]? = some b) (hk : s.granuleRetired k = false) : readCell (s.poke a bs).mem k = b := by
  unfold State.poke
  simp only
  rw [forAll_mem _ fun s x => updateWord_mem ..]
  refine readCell_putBytes_stored hl hn hb ?_
  rw [noteAccess_frame]
  exact hk

theorem natBytes_getElem? {n j : Nat} (x : Nat) (hj : j < n) : (natBytes n x)[j]? = some (BitVec.ofNat 8 (x / 256 ^ j)) := by
  induction n generalizing x j with
  | zero => omega
  | succ n ih =>
    cases j with
    | zero => simp [natBytes]
    | succ j => rw [natBytes, List.getElem?_cons_succ, ih _ (by omega), Nat.div_div_eq_div_mul, Nat.pow_succ']

/-- A store of one piece. -/
theorem stores_of_exec {s : State} {h : Site} {i : Instr} {p : Piece} {n : Nat} {f : Nat → Word64}
    (hi : exec i s = .next ((s.storeAll [p] n f).advance h)) : Stores s h i [p] n f := by
  have hmem : ∀ u : State, (u.advance h).mem = u.mem := fun u => by
    simp only [State.advance, State.goto, State.retire, State.modSplit, State.modGroup]
    split <;> (try split) <;> rfl
  refine ⟨hi, fun k hk => ?_, fun qs p' rest j k hps hj hl hn hret _ => ?_⟩
  · rw [hmem]
    exact readCell_storeAll (fun p hp => (hk p hp).1) fun p hp => (hk p hp).2
  · obtain ⟨rfl, hrest⟩ : qs = [] ∧ [p] = p' :: rest := by
      cases qs with
      | nil => exact ⟨rfl, hps⟩
      | cons q qs => simp at hps
    obtain ⟨rfl, rfl⟩ := List.cons.inj hrest
    rw [hmem]
    exact readCell_poke_stored (a := { p.acc with seen := [] }) hl hn (natBytes_getElem? _ hj) hret

/-! ### ldk, stk, pref and lwait -/

theorem uniformPiece_ok {s : State} {h : Site} {m : BitVec 1} {a : BitVec 6} {i : BitVec 8} {k : Access} {acc : Acc}
    (hk : (if m = 1 then accessLocal s h (h.kr a.toNat + 8 * i.setWidth 64) 8
      else accessVa s h (h.kr a.toNat + 8 * i.setWidth 64) 8 k) = .ok acc) :
    uniformPiece s h m a i k = .ok { t := 0, va := h.kr a.toNat + 8 * i.setWidth 64, acc := acc } := by
  rw [uniformPiece, BitVec.mul_comm _ 8, hk]

/-- Covering takes late instructions off. -/
theorem cover_done (g : Group) (base i n : Nat) : ∀ p ∈ (g.cover base i n).done, p ∈ g.done := by
  intro p hp
  unfold Group.cover at hp
  simp only at hp
  obtain ⟨v, k, e⟩ := leaveClobbereds_frame base _ { g with done := _ }
  rw [e] at hp
  exact (List.mem_filter.1 hp).1

/-- Covering all of a split's late instructions leaves none of them. -/
theorem cover_zero_done {g : Group} {base i : Nat} : ∀ p ∈ (g.cover base i 0).done, p.split ≠ i := by
  intro p hp
  unfold Group.cover at hp
  simp only [Nat.zero_sub, Nat.sub_zero, List.take_length] at hp
  obtain ⟨v, k, e⟩ := leaveClobbereds_frame base (g.done.filter fun p => p.split == i) { g with done := _ }
  rw [e] at hp
  obtain ⟨hmem, hnot⟩ := List.mem_filter.1 hp
  intro hsplit
  have hin : p ∈ g.done.filter fun p => p.split == i := List.mem_filter.2 ⟨hmem, by simp [hsplit]⟩
  simp only [Bool.not_eq_true', List.any_eq_false] at hnot
  exact hnot p hin (by simp)

/-- Settles O23: ldk and stk make their one access, and lwait covers late instructions once the load count allows. -/
theorem uniformAccess : Obligations.UniformAccess := by
  unfold Obligations.UniformAccess
  intro s h ht m d a b i v n acc va p ok
  have hs := ht.1.1
  have hldk : exec (.ldk m d a i) s = execLdk m d a i s := rfl
  have hstk : exec (.stk m d a i) s = execStk m d a i s := rfl
  have hpref : exec (.pref v b) s = execPref v b s := rfl
  have hlwait : exec (.lwait n) s = execLwait n s := rfl
  refine ⟨fun hk hr hserved => ?ldk, fun hk hserved => ?stk, fun hv => ?pref, ?lwait⟩
  case ldk =>
    refine loads_of_exec (ty := 8) ht (hldk.trans (issue_ok ht.1 ?_))
    simp only [room_ok hr, ok_bind, uniformPiece_ok hk]
    rw [readable_of_served hserved]; rfl
  case stk =>
    refine stores_of_exec (hstk.trans (issue_ok ht.1 ?_))
    simp only [ok_bind, uniformPiece_ok hk]
    rw [writable_of_served hserved]; rfl
  case pref =>
    have hall : h.allotted [v.toNat] = .ok () := allotted_ok (by simpa using hv)
    refine hpref.trans (issue_ok ht.1 ?_)
    rw [hall, ok_bind, advance_eq hs]
  case lwait =>
    split
    case isTrue hn =>
      obtain ⟨w, k, ds, e⟩ := cover_frame h.g h.coverBase h.ix n.toNat
      refine ⟨h.g.cover h.coverBase h.ix n.toNat, ?_, by rw [e], cover_done _ _ _ _, fun h0 => ?_, cover_registers⟩
      · refine hlwait.trans (issue_ok ht.1 ((if_neg (by omega)).trans (congrArg _ (advance_modGroup _ hs ?_))))
        rw [e]
      · subst h0; exact cover_zero_done
    case isFalse hn => exact hlwait.trans (issue_wait ht.1 (if_pos (by omega)))

end Sys2Proof.Machine
end

section
/-!
SUPPORT. Frame slots (15 R332).
-/

namespace Sys2Proof.Machine

open Sys2Proof

@[simp] theorem addCount_ctxs (s : State) (p i n : Nat) : (s.addCount p i n).ctxs = s.ctxs := by
  unfold State.addCount; split <;> rfl

/-- A charge of HBM sectors, in the record of its context. -/
theorem chargeHbm_ctx {s : State} {ctx : Nat} {c : Context} (hc : tget s.ctxs ctx = some c) (n far : Nat) :
    ∃ c', tget (s.chargeHbm ctx n far).ctxs ctx = some c' ∧ c'.sterling.memBytes = satAdd c.sterling.memBytes n := by
  have hctxs : (s.chargeHbm ctx n far).ctxs =
      tset s.ctxs ctx { c with sterling := { c.sterling with memBytes := satAdd c.sterling.memBytes n } } := by
    unfold State.chargeHbm
    simp only
    split <;> simp [State.modCtx, hc]
  exact ⟨_, by rw [hctxs]; exact tget_tset_same .., rfl⟩

theorem chargeSlots_groups (s : State) (h : Site) (fs : List Frame) : (s.chargeSlots h fs).groups = s.groups := by
  rw [State.chargeSlots, chargeHbm_frame]

theorem slotFrame_bound {s : State} {h : Site} (hf : h.l.isFrames = false) (k : BitVec 2) (slot : BitVec 8) (t : Nat) :
    slotFrame s h k slot t = .error (.cause .frameBound 0 h.mask) := by rw [slotFrame, hf]; rfl

theorem slotFrame_ok {s : State} {h : Site} {k : BitVec 2} {slot : BitVec 8} {t : Nat} {f : Frame} (hf : h.l.isFrames = true)
    (hv : s.frame? h.ctx (View h t k.toNat) = some f) (hs : 8 * slot.toNat < f.size) : slotFrame s h k slot t = .ok f := by
  rw [slotFrame, hf, hv]
  exact if_neg (Nat.not_le.2 hs)

/-- The frames that threads view are found, each in turn. -/
theorem slotFrames_ok {s : State} {h : Site} {k : BitVec 2} {slot : BitVec 8} {ts : List Nat} {fs : List (Nat × Frame)}
    (hf : h.l.isFrames = true) (hv : Views s h k slot ts fs) : slotFrames s h k slot ts = .ok fs := by
  obtain ⟨rfl, hv⟩ := hv
  induction fs with
  | nil => rfl
  | cons x r ih =>
    obtain ⟨hframe, hsize⟩ := hv x (List.mem_cons_self ..)
    rw [List.map_cons, slotFrames, slotFrame_ok hf hframe hsize]
    simp only
    rw [ih fun y hy => hv y (List.mem_cons_of_mem _ hy)]

theorem rootDone_wait {s : State} {h : Site} (ha : s.acquireAhead h = true) : rootDone s h = .error .wait := if_pos ha

theorem rootDone_ok {s : State} {h : Site} (ha : ¬s.acquireAhead h = true) : rootDone s h = .ok () := if_neg ha

theorem evenAll_single {n : Nat} (hn : n % 2 = 0) : evenAll [n] = .ok () := evenAll_append (xs := [n]) (ys := []) (by simpa using hn) (by simp)

theorem err_bind {ε α β : Type} (e : ε) (f : α → Except ε β) : ((.error e : Except ε α) >>= f) = .error e := rfl

/-- Settles O24: the checks pass or stop in the order of the instruction, and what a slot gives is a late result. -/
theorem frameSlots : Obligations.FrameSlots := by
  unfold Obligations.FrameSlots
  intro s h ht d kd k slot fs pair ok
  have hr := ht.1
  have hldf : exec (.ldf d k slot) s = execLdf d k slot s := rfl
  have hstf : exec (.stf d k slot) s = execStf d k slot s := rfl
  have hldfk : exec (.ldfk kd k slot) s = execLdfk kd k slot s := rfl
  have hgroup : ∀ l, tget (s.chargeSlots h l).groups h.key = some h.g := fun l => by rw [chargeSlots_groups]; exact site_group hr.1
  have hall : ok → h.allotted [d.toNat] = .ok () := fun hok => allotted_ok (by simpa using hok.2)
  refine ⟨fun l c hc => chargeHbm_ctx hc .., fun hf => ⟨fun hok => ⟨?_, ?_⟩, fun hroom => ?_⟩, fun hf hok hv => ?slots, fun hf hroom f hv => ?uniform⟩
  · refine raises_of_cause hr hldf ?_
    simp only [evenAll_single hok.1, hall hok, ok_bind, need, hf]; rfl
  · refine raises_of_cause hr hstf ?_
    simp only [evenAll_single hok.1, hall hok, ok_bind, need, hf]; rfl
  · refine raises_of_cause hr hldfk ?_
    rw [room_ok hroom, ok_bind, slotFrame_bound hf]; rfl
  case slots =>
    split
    case isTrue ha =>
      refine ⟨fun hroom => hldf.trans (issue_wait hr ?_), hstf.trans (issue_wait hr ?_)⟩
      · simp only [evenAll_single hok.1, hall hok, ok_bind, need, hf, if_true, room_ok hroom, slotFrames_ok hf hv, rootDone_wait ha]; rfl
      · simp only [evenAll_single hok.1, hall hok, ok_bind, need, hf, if_true, slotFrames_ok hf hv, rootDone_wait ha]; rfl
    case isFalse ha =>
      refine ⟨fun hroom => loadsFrom (ty := 8) ht (hgroup _) (hldf.trans (issue_ok hr ?_)), hstf.trans (issue_ok hr ?_)⟩
      · simp only [evenAll_single hok.1, hall hok, ok_bind, need, hf, if_true, room_ok hroom, slotFrames_ok hf hv, rootDone_ok ha]; rfl
      · simp only [evenAll_single hok.1, hall hok, ok_bind, need, hf, if_true, slotFrames_ok hf hv, rootDone_ok ha]
  case uniform =>
    obtain ⟨hframe, hsize⟩ := hv.2 _ (List.mem_singleton_self _)
    split
    case isTrue ha =>
      refine hldfk.trans (issue_wait hr ?_)
      simp only [room_ok hroom, ok_bind, slotFrame_ok hf hframe hsize, rootDone_wait ha]; rfl
    case isFalse ha =>
      refine loadsFrom (ty := 8) ht (hgroup _) (hldfk.trans (issue_ok hr ?_))
      simp only [room_ok hroom, ok_bind, slotFrame_ok hf hframe hsize, rootDone_ok ha]

end Sys2Proof.Machine
end

section
/-!
SUPPORT. LOAD_COMPLETE: a late result is written (15 R329, R331).
-/

namespace Sys2Proof.Machine

open Sys2Proof

/-! ### Writing late results -/

/-- Writes results one after another. -/
def Group.putResults (g : Group) (rs : List (Dest × Word64)) : Group := rs.foldl (fun g r => g.putDest r.1 r.2) g

theorem putResults_frame (rs : List (Dest × Word64)) (g : Group) : ∃ v k, g.putResults rs = { g with v := v, k := k } := by
  unfold Group.putResults
  induction rs generalizing g with
  | nil => exact ⟨g.v, g.k, rfl⟩
  | cons r rs ih =>
    obtain ⟨v, k, e⟩ := ih (g.putDest r.1 r.2)
    refine ⟨v, k, e.trans ?_⟩
    cases r.1 <;> rfl

/-- A vector register's cell is that of its destination alone. -/
theorem cell_eq_iff {n t n' t' : Nat} (ht : t < 64) (ht' : t' < 64) : n * 64 + t = n' * 64 + t' ↔ n = n' ∧ t = t' := by omega

/-- The results name threads of a group. -/
def ThreadsOk (rs : List (Dest × Word64)) : Prop := ∀ r ∈ rs, ∀ n t, r.1 = .v n t → t < 64

theorem ThreadsOk.tail {r : Dest × Word64} {rs : List (Dest × Word64)} (h : ThreadsOk (r :: rs)) : ThreadsOk rs :=
  fun x hx => h x (List.mem_cons_of_mem _ hx)

theorem readCell_putDest_v {g : Group} {d : Dest} {x : Word64} {n t : Nat} (ht : t < 64) (hd : ∀ n' t', d = .v n' t' → t' < 64) :
    readCell (g.putDest d x).v (n * 64 + t) = if d = .v n t then x.setWidth 32 else readCell g.v (n * 64 + t) := by
  cases d with
  | v n' t' =>
    have hcell := cell_eq_iff (n := n') (n' := n) (hd n' t' rfl) ht
    by_cases he : Dest.v n' t' = .v n t
    · obtain ⟨rfl, rfl⟩ : n' = n ∧ t' = t := by simpa using he
      rw [if_pos rfl]; simp [Group.putDest]
    · have hne : n * 64 + t ≠ n' * 64 + t' := fun e => he (by rw [(hcell.1 e.symm).1, (hcell.1 e.symm).2])
      rw [if_neg he]; simp [Group.putDest, hne]
  | k m => rfl

theorem readCell_putDest_k {g : Group} {d : Dest} {x : Word64} {n : Nat} :
    readCell (g.putDest d x).k n = if d = .k n then x else readCell g.k n := by
  cases d with
  | v n' t' => rfl
  | k m =>
    by_cases he : m = n
    · subst he; simp [Group.putDest]
    · have hne : ¬Dest.k m = .k n := by simpa using he
      rw [if_neg hne]; simp [Group.putDest, Ne.symm he]

theorem readCell_putResults_v_other {g : Group} {rs : List (Dest × Word64)} {n t : Nat} (ht : t < 64) (hok : ThreadsOk rs)
    (hn : Dest.v n t ∉ rs.map (·.1)) : readCell (g.putResults rs).v (n * 64 + t) = readCell g.v (n * 64 + t) := by
  unfold Group.putResults
  induction rs generalizing g with
  | nil => rfl
  | cons r rs ih =>
    obtain ⟨h1, h2⟩ : Dest.v n t ≠ r.1 ∧ Dest.v n t ∉ rs.map (·.1) := by simpa only [List.map_cons, List.mem_cons, not_or] using hn
    rw [List.foldl_cons, ih hok.tail h2, readCell_putDest_v ht (hok r (List.mem_cons_self ..)), if_neg (Ne.symm h1)]

theorem readCell_putResults_k_other {g : Group} {rs : List (Dest × Word64)} {n : Nat} (hn : Dest.k n ∉ rs.map (·.1)) :
    readCell (g.putResults rs).k n = readCell g.k n := by
  unfold Group.putResults
  induction rs generalizing g with
  | nil => rfl
  | cons r rs ih =>
    obtain ⟨h1, h2⟩ : Dest.k n ≠ r.1 ∧ Dest.k n ∉ rs.map (·.1) := by simpa only [List.map_cons, List.mem_cons, not_or] using hn
    rw [List.foldl_cons, ih h2, readCell_putDest_k, if_neg (Ne.symm h1)]

theorem readCell_putResults_v {g : Group} {rs : List (Dest × Word64)} {n t : Nat} {x : Word64} (ht : t < 64) (hok : ThreadsOk rs)
    (hnd : (rs.map (·.1)).Nodup) (hm : (Dest.v n t, x) ∈ rs) : readCell (g.putResults rs).v (n * 64 + t) = x.setWidth 32 := by
  unfold Group.putResults
  induction rs generalizing g with
  | nil => cases hm
  | cons r rs ih =>
    obtain ⟨h1, h2⟩ := List.nodup_cons.1 hnd
    rw [List.foldl_cons]
    rcases List.mem_cons.1 hm with rfl | hm
    · have hother := readCell_putResults_v_other (g := g.putDest (.v n t) x) ht hok.tail h1
      rw [Group.putResults] at hother
      rw [hother, readCell_putDest_v ht (hok _ (List.mem_cons_self ..)), if_pos rfl]
    · exact ih hok.tail h2 hm

theorem readCell_putResults_k {g : Group} {rs : List (Dest × Word64)} {n : Nat} {x : Word64} (hnd : (rs.map (·.1)).Nodup)
    (hm : (Dest.k n, x) ∈ rs) : readCell (g.putResults rs).k n = x := by
  unfold Group.putResults
  induction rs generalizing g with
  | nil => cases hm
  | cons r rs ih =>
    obtain ⟨h1, h2⟩ := List.nodup_cons.1 hnd
    rw [List.foldl_cons]
    rcases List.mem_cons.1 hm with rfl | hm
    · have hother := readCell_putResults_k_other (g := g.putDest (.k n) x) h1
      rw [Group.putResults] at hother
      rw [hother, readCell_putDest_k, if_pos rfl]
    · exact ih h2 hm

/-! ### What LOAD_COMPLETE writes -/

/-- A result as it is written: a free value where something else has written meanwhile. -/
def State.lateValue (s : State) (p : Pending) (i : Nat) (r : Dest × Word64) : Dest × Word64 :=
  if p.clobbered.contains r.1 then (r.1, r.1.typed p.ty (Config.freeValue 64 (s.freeCtr * 2 ^ 24 + 0x20000 + i))) else r

/-- The results that are written: at an exit only those that something else has written. -/
def State.lateOut (s : State) (g : Group) (p : Pending) : List (Dest × Word64) :=
  if s.exits g then p.results.filter fun r => p.clobbered.contains r.1 else p.results

/-- The results as they are written. -/
def State.lateResults (s : State) (g : Group) (p : Pending) : List (Dest × Word64) := (s.lateOut g p).mapIdx (s.lateValue p)

theorem lateValue_fst (s : State) (p : Pending) (i : Nat) (r : Dest × Word64) : (s.lateValue p i r).1 = r.1 := by
  unfold State.lateValue; split <;> rfl

theorem lateResults_fst (s : State) (g : Group) (p : Pending) : (s.lateResults g p).map (·.1) = (s.lateOut g p).map (·.1) := by
  refine List.ext_getElem (by simp [State.lateResults]) fun i h1 h2 => ?_
  simp [State.lateResults, lateValue_fst]

theorem lateOut_sublist (s : State) (g : Group) (p : Pending) : (s.lateOut g p).Sublist p.results := by
  unfold State.lateOut
  split
  · exact List.filter_sublist
  · exact List.Sublist.refl _

/-- A result that nothing else has written is written as it is. -/
theorem mem_lateResults {s : State} {g : Group} {p : Pending} {r : Dest × Word64} (hm : r ∈ s.lateOut g p)
    (hc : p.clobbered.contains r.1 = false) : r ∈ s.lateResults g p := by
  obtain ⟨i, hi, rfl⟩ := List.getElem_of_mem hm
  refine List.mem_mapIdx.2 ⟨i, hi, ?_⟩
  rw [State.lateValue, hc]; rfl

/-- The group that LOAD_COMPLETE leaves. -/
def State.completed (s : State) (g : Group) (p : Pending) : Group :=
  let g := g.putResults (s.lateResults g p)
  let x := g.split s.cur.split
  let g := g.setSplit s.cur.split { x with loadCnt := x.loadCnt - 1 }
  { g with pending := g.pending.filter fun q => q.id != p.id, done := g.done ++ [{ p with results := [], clobbered := [] }] }

/-- What LOAD_COMPLETE changes of the group but its registers. -/
theorem completed_frame (s : State) (g : Group) (p : Pending) : s.completed g p = { g with
    v := (g.putResults (s.lateResults g p)).v, k := (g.putResults (s.lateResults g p)).k,
    splits := setAt g.splits s.cur.split { g.split s.cur.split with loadCnt := (g.split s.cur.split).loadCnt - 1 },
    pending := g.pending.filter (fun q => q.id != p.id), done := g.done ++ [{ p with results := [], clobbered := [] }] } := by
  obtain ⟨v, k, e⟩ := putResults_frame (s.lateResults g p) g
  simp only [State.completed, e]
  rfl

/-- Settles O25: the results are written by `putResults`, whose four read lemmas give every clause. -/
theorem loadComplete : Obligations.LoadComplete := by
  unfold Obligations.LoadComplete
  intro s g p hg hp hw hlt hnd hok
  have hexec : exec .loadComplete s = execLoadComplete s := rfl
  have hsub := lateOut_sublist s g p
  have hfst := lateResults_fst s g p
  have hnd' : ((s.lateResults g p).map (·.1)).Nodup := by rw [hfst]; exact (hsub.map _).nodup hnd
  have hmem : ∀ d, d ∈ (s.lateResults g p).map (·.1) → ∃ x, (d, x) ∈ s.lateOut g p := fun d hd => by
    rw [hfst] at hd
    obtain ⟨r, hr, rfl⟩ := List.mem_map.1 hd
    exact ⟨r.2, hr⟩
  have hok' : ThreadsOk (s.lateResults g p) := fun r hr n t he => by
    obtain ⟨x, hx⟩ := hmem r.1 (List.mem_map_of_mem hr)
    exact hok _ (hsub.subset hx) n t he
  refine ⟨s.completed g p, ?_, ?_, by rw [completed_frame], by rw [completed_frame], fun d hd => ?_, ?_, fun he => ⟨?_, ?_, ?_⟩, fun he => ⟨?_, ?_⟩, ?_, ?_⟩
  · rw [hexec, execLoadComplete, hg]
    simp only
    rw [hp]
    exact if_neg (by simpa using hw)
  · rw [completed_frame]
  · have hlate : lateTo d (s.completed g p).done = true := by
      rw [completed_frame]
      simpa [lateTo] using .inr hd
    rw [Group.awaits, hlate, Bool.or_true]
  · rw [completed_frame]
    simp [Group.split, atD, setAt, hlt]
  · have hexits := he
    simp only [State.exits, Bool.and_eq_true, beq_iff_eq] at hexits
    exact hexits.2
  · intro n t h64 hc
    rw [completed_frame]
    refine readCell_putResults_v_other h64 hok' fun hd => ?_
    obtain ⟨x, hx⟩ := hmem _ hd
    rw [State.lateOut, if_pos he] at hx
    exact absurd (List.mem_filter.1 hx).2 (by simpa using hc)
  · intro n hc
    rw [completed_frame]
    refine readCell_putResults_k_other fun hd => ?_
    obtain ⟨x, hx⟩ := hmem _ hd
    rw [State.lateOut, if_pos he] at hx
    exact absurd (List.mem_filter.1 hx).2 (by simpa using hc)
  · intro n t x h64 hm hc
    rw [completed_frame]
    exact readCell_putResults_v h64 hok' hnd' (mem_lateResults (by rw [State.lateOut, he]; exact hm) hc)
  · intro n x hm hc
    rw [completed_frame]
    exact readCell_putResults_k hnd' (mem_lateResults (by rw [State.lateOut, he]; exact hm) hc)
  · intro n t h64 hn
    rw [completed_frame]
    refine readCell_putResults_v_other h64 hok' fun hd => ?_
    obtain ⟨x, hx⟩ := hmem _ hd
    exact hn x (hsub.subset hx)
  · intro n hn
    rw [completed_frame]
    refine readCell_putResults_k_other fun hd => ?_
    obtain ⟨x, hx⟩ := hmem _ hd
    exact hn x (hsub.subset hx)

end Sys2Proof.Machine
end

section
/-!
SUPPORT. Atomics: their issue, and what an engine and a router do with a request (15 R333 to R335; 08 R188, R189).
-/

namespace Sys2Proof.Machine

open Sys2Proof

/-! ### Issue -/

/-- An instruction goes on in a state whose groups are as before. -/
theorem advance_of_groups {s u : State} {h : Site} (hs : s.site? = some h) (hu : u.groups = s.groups) :
    u.advance h = u.withGroup h (h.moved (nextPc h.sp.pc) false h.g) :=
  goto_eq _ (hu ▸ site_group hs) (site_split hs)

section
variable {s : State} {h : Site} {i : Instr} {ret : Bool} {d a : BitVec 8} {o : BitVec 4} {sc : BitVec 3} {ps : List Piece}
  (ht : Timely s h) (hinvar : h.l.isInvar = false) (hsc : sc.toNat ≤ 4) (hk : atomAccepts o.toNat h.ty = true) (ha : a.toNat % 2 = 0)
  (haa : a.toNat < 8 * h.g.vgran) (hd : (tyWide h.ty || o.toNat == 7) = true → d.toNat % 2 = 0) (hda : d.toNat < 8 * h.g.vgran)
  (hd2 : (tyWide h.ty && o.toNat == 7) = true → d.toNat + 2 < 8 * h.g.vgran)
  (hp : pieces (atomPiece s h o.toNat a) h.acting = .ok ps) (hw : ∀ p ∈ ps, s.accWaits p.acc = false) (hacq : s.acquireAhead h = false)
include ha hd in
theorem atom_even : evenAll ([a.toNat] ++ if tyWide h.ty || o.toNat == 7 then [d.toNat] else []) = .ok () := by
  refine evenAll_append (by simpa using ha) ?_
  split
  · simpa using hd ‹_›
  · simp

include haa hda hd2 in
theorem atom_allotted : h.allotted ([d.toNat, a.toNat] ++ if o.toNat == 7 && tyWide h.ty then [d.toNat + 2] else []) = .ok () := by
  refine allotted_ok fun n hn => ?_
  rcases List.mem_append.1 hn with hn | hn
  · rcases List.mem_pair.1 hn with rfl | rfl
    exacts [hda, haa]
  · split at hn
    case isTrue hc =>
      obtain rfl := List.mem_singleton.1 hn
      exact hd2 (by rw [Bool.and_comm]; exact hc)
    case isFalse => simp at hn

/-- The requests of the acting threads. -/
def atomReqs (s : State) (h : Site) (o : BitVec 4) (d a : BitVec 8) (sc : BitVec 3) (ret : Bool) (ps : List Piece) : List AtomReq :=
  ps.map (atomReq s h o.toNat d a sc (if ret then some h.g.nextPending else none))

/-- The destinations of atom. -/
def atomDests (h : Site) (d : BitVec 8) (ps : List Piece) : List Dest := ps.flatMap fun p => (elemResult h.ty d.toNat p.t 0).map (·.1)

include ht hinvar hsc hk ha haa hd hda hd2 hp hw hacq in
/-- An atomic whose checks pass sends its requests. -/
theorem exec_atomOp (hi : exec i s = atomOp s ret d a o sc) (hop : o.toNat ≤ if ret then 7 else 5) (hroom : ret = true → h.sp.loadCnt < 63) :
    exec i s = .next (State.advance { (if ret then s.modGroup h fun g => g.addPending h.ix h.ty ps.length (atomDests h d ps) [] else s) with
      atoms := s.atoms ++ atomReqs s h o d a sc ret ps } h) := by
  have hwait : ((ps.any fun p => s.accWaits p.acc) || s.acquireAhead h) = false := by
    rw [hacq, Bool.or_false, List.any_eq_false]
    exact fun p hm => by simp [hw p hm]
  have hspoil : (atomDests h d ps).filter h.spoils = [] := by
    refine List.filter_eq_nil_iff.2 fun x _ => ?_
    have he := early_of_timely ht
    cases x <;> simp [Site.spoils, he, earlyFor_eq he]
  have hneed : ∀ {n}, o.toNat ≤ n → (scopeOk sc && decide (o.toNat ≤ n)) = true := fun hn => by
    rw [Bool.and_eq_true]
    exact ⟨decide_eq_true hsc, decide_eq_true hn⟩
  have hchecks := atom_allotted (h := h) haa hda hd2
  have heven := atom_even (h := h) ha hd
  refine hi.trans (issue_ok ht.1 ?_)
  unfold atomDests at hspoil
  cases ret with
  | false =>
    have hlimit := hneed (n := 5) hop
    simp only [need, hlimit, if_true, accepts_ok hk, heven, hchecks, ok_bind, Bool.false_eq_true, if_false, hp, hwait, hinvar]
    rfl
  | true =>
    have hlimit := hneed (n := 7) hop
    simp only [need, hlimit, if_true, accepts_ok hk, heven, hchecks, ok_bind, room_ok (hroom rfl), hp, hwait, hinvar, hspoil,
      Bool.false_eq_true, if_false, List.foldl_nil, State.modGroup, site_group ht.1.1]
    rfl

end

/-- Settles O26: the checks pass, the requests are sent, and atom leaves one late instruction (`pends_of_addPending`). -/
theorem atomicIssue : Obligations.AtomicIssue := by
  unfold Obligations.AtomicIssue
  intro s h ht hinvar d a o sc ps op hsc hk ha haa hd hda hd2 hp hw hacq
  have hs := ht.1.1
  refine ⟨fun hop => ?_, fun hop hroom => ?_⟩
  · have hi : exec (.atomr d a o sc) s = atomOp s false d a o sc := rfl
    rw [exec_atomOp ht hinvar hsc hk ha haa hd hda hd2 hp hw hacq hi hop (by simp)]
    exact congrArg _ (advance_of_groups hs rfl)
  · have hi : exec (.atom d a o sc) s = atomOp s true d a o sc := rfl
    obtain ⟨g', q, e, hpend⟩ := pends_of_addPending (u := { s with atoms := s.atoms ++ atomReqs s h o d a sc true ps }) hs (site_group hs)
      h.ty ps.length (atomDests h d ps) []
    refine ⟨g', q, ?_, hpend.frame, hpend.loadCnt, hpend.pc, hpend.last, hpend.record.1, hpend.record.2.1, hpend.record.2.2.1⟩
    rw [exec_atomOp ht hinvar hsc hk ha haa hd hda hd2 hp hw hacq hi hop fun _ => hroom, if_pos rfl]
    refine congrArg _ (Eq.trans ?_ e)
    simp only [State.modGroup, site_group hs]

/-! ### At the engine -/

theorem atomAccess_ok {s : State} {r : AtomReq} {acc : Acc} (hwalk : s.walkedAgain r = .ok acc) (hbad : s.accBad acc = false) :
    s.atomAccess r = .ok acc := by
  rw [State.atomAccess, hwalk]
  simp only [hbad, Bool.false_and, Bool.false_eq_true, if_false]

/-- A request that reaches nothing. -/
def AtomReq.nowhere (r : AtomReq) : Acc := { r.acc with locs := [], leaf := none }

theorem atomAccess_undef {s : State} {r : AtomReq} {c : Cause} (hwalk : s.walkedAgain r = .error c) (hu : r.undef = true) :
    s.atomAccess r = .ok r.nowhere := by
  rw [State.atomAccess, hwalk, hu]; rfl

/-- A request of one thread at its engine. -/
theorem exec_atEngine {s : State} {i : Nat} {r : AtomReq} (hr : s.atoms[i]? = some r) (hf : firstAtom s.atoms i r = true) :
    exec (.atomicAtEngine i i) s = .next (s.runAtom i r) := by
  have hi : exec (.atomicAtEngine i i) s = execAtomicAtEngine i i s := rfl
  rw [hi, execAtomicAtEngine, hr]
  simp only [ne_eq, not_true_eq_false, if_false, hf, if_true]

theorem mem_owners_with {r b : AtomReq} {x : Rider} (hx : x ∈ r.owners ∨ x ∈ b.owners) : x ∈ (r.with' b).owners := by
  simp only [AtomReq.owners, AtomReq.with', AtomReq.ride, List.mem_cons, List.mem_append] at hx ⊢
  rcases hx with (hx | hx) | hx | hx
  · exact .inl hx
  · exact .inr (.inl hx)
  · exact .inr (.inr (.inl hx))
  · exact .inr (.inr (.inr hx))

theorem value_with {r b : AtomReq} (hm : mergeableAtoms r b = true) : (r.with' b).value = atomNew r.ty r.op r.value b.value 0 := by
  simp only [mergeableAtoms, Bool.and_eq_true, beq_iff_eq] at hm
  obtain ⟨⟨⟨_, hop⟩, hty⟩, _⟩ := hm
  simp only [AtomReq.value, AtomReq.with', Combine.value, hop, hty]

/-- Settles O27: a request executes or is gone by the access that it makes now, and two that may merge become one. -/
theorem atomicAtEngine : Obligations.AtomicAtEngine := by
  unfold Obligations.AtomicAtEngine
  intro s i j r b hr hb
  refine ⟨fun hij hf acc hwalk hlocs hw hbad => ?_, fun hij hf hu c hwalk => ?_, ?_⟩
  · subst hij
    intro at' u old s1 s2
    rw [exec_atEngine hr hf, State.runAtom, atomAccess_ok hwalk hbad]
    simp only [hw, Bool.false_eq_true, if_false, hlocs]
    rfl
  · subst hij
    refine ⟨Config.freeValue 64 (s.freeCtr * 2 ^ 24 + 0x30000 + i), ?_⟩
    intro s2
    rw [exec_atEngine hr hf, State.runAtom, atomAccess_undef hwalk hu]
    simp only [AtomReq.nowhere, if_true]
    rfl
  · intro m hij hm hd
    have hi : exec (.atomicAtEngine i j) s = execAtomicAtEngine i j s := rfl
    refine ⟨?_, fun x hx => mem_owners_with hx, value_with hm⟩
    rw [hi, execAtomicAtEngine, hr, hb]
    simp only [ne_eq, hij, not_false_eq_true, if_true, State.mergeAtoms, hm, hd, Bool.not_false, Bool.and_self]
    rfl

end Sys2Proof.Machine
end

section
/-!
SUPPORT. Work-stealing deques (15 R336, R337, R342).
-/

namespace Sys2Proof.Machine

open Sys2Proof

theorem atomsDone_of_ne {s : State} {h : Site} (hd : atomsDone s h ≠ .ok ()) : atomsDone s h = .error .wait :=
  (atomsDone_cases s h).resolve_left hd

/-- While a parked push has room, an instruction that issues waits. -/
theorem dequeFor_waits {s : State} {h : Site} {va : Word64} {q : Deque} (hq : dequeHeader s h va = .ok q)
    (hp : (q.bottom - q.top).toNat < 2 ^ q.log ∧ s.pushParked h q.acc = true) : dequeFor s h va = .error .wait := by
  rw [dequeFor, hq]
  exact if_pos (by rw [decide_eq_true hp.1, hp.2]; rfl)

theorem dequeFor_ok {s : State} {h : Site} {va : Word64} {q : Deque} (hq : dequeHeader s h va = .ok q)
    (hp : ¬((q.bottom - q.top).toNat < 2 ^ q.log ∧ s.pushParked h q.acc = true)) : dequeFor s h va = .ok q := by
  rw [dequeFor, hq]
  exact if_neg (by simpa using hp)

/-! ### A push -/

section
variable {s : State} {h : Site} {va v : Word64} {q : Deque}

theorem pushStep_zero : pushStep s h va 0 (.ok q) = .ok (true, s.afterRead q.acc) := by
  rw [pushStep]; exact if_pos rfl

theorem pushStep_full (hv : v ≠ 0) (hf : (q.bottom - q.top).toNat = 2 ^ q.log) :
    pushStep s h va v (.ok q) = .ok (false, s.afterRead q.acc) := (if_neg hv).trans (if_pos hf)

theorem pushStep_room {p : Piece} (hv : v ≠ 0) (hf : ¬(q.bottom - q.top).toNat = 2 ^ q.log) (hp : dequeEntry s h va q q.bottom = .ok p) :
    pushStep s h va v (.ok q) = .ok (true, (s.poke p.acc (natBytes 8 v.toNat)).putHeader q q.top (q.bottom + 1)) :=
  (if_neg hv).trans ((if_neg hf).trans (by rw [hp]))

end

/-- What dqpush does with the answer of its push. -/
theorem exec_dqpush {s : State} {h : Site} {d a : BitVec 6} {c : BitVec 3} {room : Bool} {u : State} (ht : Timely s h) (hc : c.toNat ≤ 4)
    (hd : atomsDone s h = .ok ()) (hp : pushStep s h (h.kr a.toNat) (h.kr d.toNat) (dequeFor s h (h.kr a.toNat)) = .ok (room, u)) :
    exec (.dqpush d a c) s =
      .next (if room then u.advance h else u.parkSplit h (.deque (h.kr a.toNat) (h.kr d.toNat) (h.undefK a.toNat))) := by
  have hi : exec (.dqpush d a c) s = execDqpush d a c s := rfl
  refine hi.trans (issue_ok ht.1 ?_)
  simp only [need, scopeOk, decide_eq_true hc, if_true, ok_bind, hd, hp]

/-! ### A pop or a steal -/

/-- The entry that a pop or a steal takes. -/
def Deque.taken (q : Deque) (steal : Bool) : Word64 := if steal then q.top else q.bottom - 1

/-- The header that a pop or a steal leaves. -/
def State.afterTake (s : State) (q : Deque) (p : Piece) (steal : Bool) : State :=
  let s' := s.afterRead p.acc
  if steal then s'.putHeader q (q.top + 1) q.bottom else s'.putHeader q q.top (q.taken steal)

section
variable {s : State} {h : Site} {va : Word64} {q : Deque} {steal : Bool} (hf : dequeFor s h va = .ok q)
include hf

theorem takeStep_empty (hq : q.bottom = q.top) : takeStep s h va steal = .ok (0, s.afterRead q.acc) := by
  rw [takeStep, hf]
  exact if_pos hq

theorem takeStep_entry {p : Piece} (hq : q.bottom ≠ q.top) (hp : dequeEntry s h va q (q.taken steal) = .ok p) :
    takeStep s h va steal = .ok (s.loadNum p.acc, s.afterTake q p steal) := by
  rw [takeStep, hf]
  refine (if_neg hq).trans ?_
  unfold Deque.taken at hp
  simp only [hp]
  rfl

end

/-- What dqpop and dqsteal do with the answer. -/
theorem exec_take {s : State} {h : Site} {i : Instr} {steal : Bool} {d a : BitVec 6} {c : BitVec 3} {x : Word64} {u : State}
    (ht : Timely s h) (hi : exec i s = takeOp s steal d a c) (hc : c.toNat ≤ 4) (hr : h.sp.loadCnt < 63) (hd : atomsDone s h = .ok ())
    (hp : takeStep s h (h.kr a.toNat) steal = .ok (x, u)) : exec i s = .next ((u.late h [(.k d.toNat, x)]).advance h) := by
  refine hi.trans (issue_ok ht.1 ?_)
  simp only [need, scopeOk, decide_eq_true hc, if_true, ok_bind, room_ok hr, hd, hp]

/-! ### Waiting -/

section
variable {s : State} {h : Site} {d a : BitVec 6} {c : BitVec 3} {q : Deque} (ht : Timely s h) (hc : c.toNat ≤ 4)
  (hq : dequeHeader s h (h.kr a.toNat) = .ok q)
  (hw : atomsDone s h ≠ .ok () ∨ ((q.bottom - q.top).toNat < 2 ^ q.log ∧ s.pushParked h q.acc = true))
include ht hc hq hw

theorem dqpush_waits : Waits s (.dqpush d a c) := by
  have hi : exec (.dqpush d a c) s = execDqpush d a c s := rfl
  refine hi.trans (issue_wait ht.1 ?_)
  by_cases hd : atomsDone s h = .ok ()
  · simp only [need, scopeOk, decide_eq_true hc, if_true, ok_bind, hd, dequeFor_waits hq (hw.resolve_left (not_not.2 hd)), pushStep]
    rfl
  · simp only [need, scopeOk, decide_eq_true hc, if_true, ok_bind, atomsDone_of_ne hd, err_bind]

theorem take_waits {i : Instr} {steal : Bool} (hi : exec i s = takeOp s steal d a c) (hr : h.sp.loadCnt < 63) : Waits s i := by
  refine hi.trans (issue_wait ht.1 ?_)
  by_cases hd : atomsDone s h = .ok ()
  · simp only [need, scopeOk, decide_eq_true hc, if_true, ok_bind, room_ok hr, hd,
      dequeFor_waits hq (hw.resolve_left (not_not.2 hd)), takeStep]
    rfl
  · simp only [need, scopeOk, decide_eq_true hc, if_true, ok_bind, room_ok hr, atomsDone_of_ne hd, err_bind]

end

/-! ### The retry -/

section
variable {s : State} {h : Site} {va v : Word64} {lost : Bool} (hs : s.site? = some h) (hp : h.sp.park = some (.deque va v lost))
include hs hp

theorem exec_retry : exec .dqpushRetry s = match pushStep s h va v (dequeHeader s h va) with
    | .ok (true, s') => .next (s'.modSplit h Split.unpark)
    | .ok (false, _) => .next s
    | .error .wait => .next s
    | .error (.cause c a t) => .next (if lost then s.modSplit h Split.unpark else (s.headerRead h va).raise h c a t h.sp.pc) := by
  have hi : exec .dqpushRetry s = execDqpushRetry s := rfl
  rw [hi, execDqpushRetry, hs]
  simp only [hp] <;> rfl

end

/-- Settles O28: each instruction answers with its push or its take, and a retry with its push. -/
theorem deques : Obligations.Deques := by
  unfold Obligations.Deques
  refine ⟨fun s h ht d a c q p hc => ?issue, fun s h va v lost hs hpark hv => ⟨fun q p hq => ?push, fun c x m hq => ?stop⟩⟩
  case issue =>
    intro va v full hq
    split
    case isTrue hw => exact ⟨dqpush_waits ht hc hq hw, fun hr => ⟨take_waits ht hc hq hw rfl hr, take_waits ht hc hq hw rfl hr⟩⟩
    case isFalse hw =>
      obtain ⟨hd, hpark⟩ := not_or.1 hw
      have hd := not_not.1 hd
      have hfor : dequeFor s h va = .ok q := dequeFor_ok hq hpark
      refine ⟨⟨fun h0 => ?_, fun h0 hf => ?_, fun h0 hf hp => ?_⟩, fun hr => ⟨fun he => ⟨?_, ?_⟩, fun he hp => ?_, fun he hp => ?_⟩⟩
      · exact exec_dqpush ht hc hd (by rw [hfor, show h.kr d.toNat = 0 from h0]; exact pushStep_zero)
      · exact exec_dqpush ht hc hd (by rw [hfor]; exact pushStep_full h0 hf)
      · exact exec_dqpush ht hc hd (by rw [hfor]; exact pushStep_room h0 hf hp)
      · exact exec_take ht rfl hc hr hd (takeStep_empty (steal := false) hfor he)
      · exact exec_take ht rfl hc hr hd (takeStep_empty (steal := true) hfor he)
      · exact exec_take ht rfl hc hr hd (takeStep_entry (steal := false) hfor he hp)
      · exact exec_take ht rfl hc hr hd (takeStep_entry (steal := true) hfor he hp)
  case push =>
    split
    case isTrue hf => rw [exec_retry hs hpark, hq, pushStep_full hv hf]
    case isFalse hf =>
      intro hp
      rw [exec_retry hs hpark, hq, pushStep_room hv hf hp]
      rfl
  case stop =>
    rw [exec_retry hs hpark, hq]
    rfl

end Sys2Proof.Machine
end

section
/-!
SUPPORT. Barrier words (15 R338, R339; 07 R163; 06 R127).
-/

namespace Sys2Proof.Machine

open Sys2Proof

/-! ### The fields of a barrier word -/

/-- A field that lies in the high part of two joined words. -/
theorem extract_append_high_at {n m k : Nat} (x : BitVec n) (y : BitVec m) (lo : Nat) :
    (x ++ y).extractLsb' (m + lo) k = x.extractLsb' lo k := by
  apply BitVec.eq_of_getLsbD_eq
  intro i hi
  rw [BitVec.getLsbD_extractLsb', BitVec.getLsbD_extractLsb', BitVec.getLsbD_append, if_neg (by omega)]
  congr 2; omega

theorem bariWord_ext (w : Word64) (e : BitVec 1) (n : Byte) : (bariWord w e n).getLsbD 63 = (e == 1) := by
  have he : ∀ e : BitVec 1, e.getLsbD 0 = (e == 1) := by decide
  simp only [bariWord, BitVec.getLsbD_append, show ¬63 < 40 by decide, show ¬63 - 40 < 8 by decide, show ¬63 - 40 - 8 < 8 by decide,
    show ¬63 - 40 - 8 - 8 < 6 by decide, show ¬63 - 40 - 8 - 8 - 6 < 1 by decide, if_false]
  exact he e

theorem bariWord_phase (w : Word64) (e : BitVec 1) (n : Byte) : (bariWord w e n).getLsbD 62 = false := by
  simp only [bariWord, BitVec.getLsbD_append, show ¬62 < 40 by decide, show ¬62 - 40 < 8 by decide, show ¬62 - 40 - 8 < 8 by decide,
    show ¬62 - 40 - 8 - 8 < 6 by decide, show 62 - 40 - 8 - 8 - 6 < 1 by decide, if_false, if_true]
  rfl

theorem bariWord_reserved (w : Word64) (e : BitVec 1) (n : Byte) : (bariWord w e n).extractLsb' 56 6 = w.extractLsb' 56 6 :=
  calc (bariWord w e n).extractLsb' (40 + 16) 6
      = (e ++ 0#1 ++ w.extractLsb' 56 6 ++ n ++ n).extractLsb' (8 + 8) 6 := extract_append_high_at ..
    _ = (e ++ 0#1 ++ w.extractLsb' 56 6 ++ n).extractLsb' (8 + 0) 6 := extract_append_high_at ..
    _ = (e ++ 0#1 ++ w.extractLsb' 56 6).extractLsb' 0 6 := extract_append_high_at ..
    _ = w.extractLsb' 56 6 := extract_append_low ..

theorem bariWord_init (w : Word64) (e : BitVec 1) (n : Byte) : (bariWord w e n).extractLsb' 48 8 = n :=
  calc (bariWord w e n).extractLsb' (40 + 8) 8
      = (e ++ 0#1 ++ w.extractLsb' 56 6 ++ n ++ n).extractLsb' (8 + 0) 8 := extract_append_high_at ..
    _ = (e ++ 0#1 ++ w.extractLsb' 56 6 ++ n).extractLsb' 0 8 := extract_append_high_at ..
    _ = n := extract_append_low ..

theorem bariWord_left (w : Word64) (e : BitVec 1) (n : Byte) : (bariWord w e n).extractLsb' 40 8 = n :=
  calc (bariWord w e n).extractLsb' (40 + 0) 8
      = (e ++ 0#1 ++ w.extractLsb' 56 6 ++ n ++ n).extractLsb' 0 8 := extract_append_high_at ..
    _ = n := extract_append_low ..

theorem bariWord_bytes (w : Word64) (e : BitVec 1) (n : Byte) : (bariWord w e n).extractLsb' 0 40 = 0 := extract_append_low ..

/-! ### The instructions -/

theorem barrierBody_ok {s : State} {h : Site} {a : BitVec 6} {off : Nat} {w : Word64} (hd : atomsDone s h = .ok ())
    (hw : barrierWord s h a = .ok (off, w)) (f : Nat × Word64 → Except Stop State) :
    (atomsDone s h >>= fun _ => barrierWord s h a >>= f) = f (off, w) := by rw [hd, hw]; rfl

theorem rephaseSplit_parked {off : Nat} {x : Split} {p b c : Bool} (hx : x.park = some (.barrier off p b c)) :
    rephaseSplit off x = { x with park := some (.barrier off false b c) } := by
  simp only [rephaseSplit, hx, if_true]

/-- Splits parked on a word wait in phase 0 once a bari has set it up. -/
theorem rephase_parked {s : State} {team off key i : Nat} {g : Group} {x : Split} {p b c : Bool} (hg : tget s.groups key = some g)
    (ht : g.team = team) (hi : g.splits[i]? = some x) (hx : x.park = some (.barrier off p b c)) :
    ∃ g' x', tget (s.rephase team off).groups key = some g' ∧ g'.splits[i]? = some x' ∧
      x' = { x with park := some (.barrier off false b c) } := by
  refine ⟨{ g with splits := g.splits.map (rephaseSplit off) }, rephaseSplit off x, ?_, ?_, rephaseSplit_parked hx⟩
  · rw [State.rephase, tget_tmap, hg, Option.map_some, if_pos ht]
  · rw [List.getElem?_map, hi]; rfl

theorem bariSets_iff (w k : Word64) : (decide (bwInit w = 0) || k.getLsbD 8) = true ↔ w.extractLsb' 48 8 = 0 ∨ k.getLsbD 8 = true := by
  rw [Bool.or_eq_true, decide_eq_true_iff]; rfl

/-- Settles O29: each form runs once the group's atomics are done, with the word that its address names. -/
theorem barriers : Obligations.Barriers := by
  unfold Obligations.Barriers
  intro s h ht hd d a e off w hw K phase noted
  have hr := ht.1
  have hbari : exec (.bari d a e) s = execBari d a e s := rfl
  have hbarr : exec (.barr d a) s = execBarr d a s := rfl
  have hbarw : exec (.barw d a) s = execBarw d a s := rfl
  refine ⟨?bari, fun hroom => ?barr, ?barw, (issue_ok hr (barrierBody_ok hd hw _)), (issue_ok hr (barrierBody_ok hd hw _))⟩
  case bari =>
    by_cases hsets : w.extractLsb' 48 8 = 0 ∨ K.getLsbD 8 = true
    · refine ⟨bariWord w e (K.extractLsb' 0 8), ?_⟩
      intro u
      rw [if_pos hsets]
      have hb := (bariSets_iff w K).2 hsets
      refine ⟨hbari.trans (issue_ok hr ((barrierBody_ok hd hw _).trans ?_)), fun key i g x b c hg hteam hi hx => rephase_parked hg hteam hi hx,
        bariWord_ext .., bariWord_phase .., bariWord_reserved .., bariWord_init .., bariWord_left .., bariWord_bytes ..⟩
      simp only [show (h.kr d.toNat) = K from rfl, hb, if_true]
      rfl
    · refine ⟨w, ?_⟩
      intro u
      rw [if_neg hsets]
      have hb := Bool.eq_false_iff.2 (mt (bariSets_iff w K).1 hsets)
      refine ⟨rfl, hbari.trans (issue_ok hr ((barrierBody_ok hd hw _).trans ?_))⟩
      simp only [show (h.kr d.toNat) = K from rfl, hb, Bool.false_eq_true, if_false]
      rfl
  case barr =>
    refine hbarr.trans (issue_ok hr ?_)
    rw [room_ok hroom]
    exact barrierBody_ok hd hw _
  case barw =>
    split
    case isTrue hp => exact hbarw.trans (issue_ok hr ((barrierBody_ok hd hw _).trans (if_pos (bne_iff_ne.2 hp))))
    case isFalse hp => exact hbarw.trans (issue_ok hr ((barrierBody_ok hd hw _).trans (if_neg (mt bne_iff_ne.1 hp))))

/-! ### Words of a team -/

theorem leNat_natBytes (n x : Nat) : leNat (natBytes n x) = x % 256 ^ n := by
  induction n generalizing x with
  | zero => simp [natBytes, leNat, Nat.mod_one]
  | succ n ih =>
    rw [natBytes, leNat, ih, BitVec.toNat_ofNat, Nat.pow_succ' (n := n)]
    exact Nat.mod_mul.symm

@[simp] theorem length_natBytes (n x : Nat) : (natBytes n x).length = n := by
  induction n generalizing x with
  | zero => rfl
  | succ n ih => simp [natBytes, ih]

theorem readBytes_writeBytes (m : Mem) (a : Nat) (bs : List Byte) : readBytes (writeBytes m a bs) a bs.length = bs := by
  refine List.ext_getElem (by simp) fun k h1 h2 => ?_
  rw [getElem_readBytes, readCell_writeBytes h2]

theorem readLe_writeLe (m : Mem) (a n x : Nat) : readLe (writeLe m a n x) a n = x % 256 ^ n := by
  have hb := readBytes_writeBytes m a (natBytes n x)
  rw [length_natBytes] at hb
  rw [readLe, writeLe, hb, leNat_natBytes]

theorem ofNat_mod_256 (w : Word64) : BitVec.ofNat 64 (w.toNat % 256 ^ 8) = w := by
  rw [Nat.mod_eq_of_lt (by simpa using w.isLt), BitVec.ofNat_toNat, BitVec.setWidth_eq]

@[simp] theorem word_setWord (t : Team) (off : Nat) (w : Word64) : (t.setWord off w).word off = w := by
  by_cases ho : 0x100000 ≤ off
  · simp only [Team.word, Team.setWord, if_pos ho, readLe_writeLe, ofNat_mod_256]
  · simp only [Team.word, Team.setWord, if_neg ho, readLe_writeLe, ofNat_mod_256]

/-! ### The end of a phase -/

theorem bwCompletes_iff (w : Word64) :
    bwCompletes w = true ↔ w.extractLsb' 40 8 = 0 ∧ w.extractLsb' 0 40 = 0 ∧ w.extractLsb' 48 8 ≠ 0 := by
  simp only [bwCompletes, bwLeft, bwBytes, bwInit, Bool.and_eq_true, beq_iff_eq, bne_iff_ne, and_assoc]

theorem toggled_bit (w : Word64) {i : Nat} (hi : i < 64) :
    (w ^^^ (1#64 <<< 62)).getLsbD i = (w.getLsbD i ^^ decide (i = 62)) := by
  rw [BitVec.getLsbD_xor, BitVec.getLsbD_shiftLeft]
  congr 1
  by_cases h : i < 62
  · simp [h, Nat.ne_of_lt h]
  · have h' : i = 62 ∨ i = 63 := by omega
    rcases h' with rfl | rfl <;> rfl

theorem bwNextPhase_phase (w : Word64) : (bwNextPhase w).getLsbD 62 = !w.getLsbD 62 := by
  rw [bwNextPhase, bwWithLeft, BitVec.getLsbD_append, if_neg (by decide), BitVec.getLsbD_append, if_neg (by decide),
    BitVec.getLsbD_extractLsb', toggled_bit w (by decide)]
  simp

theorem bwNextPhase_left (w : Word64) : (bwNextPhase w).extractLsb' 40 8 = w.extractLsb' 48 8 :=
  (extract_append_high_at (k := 8) _ _ 0).trans (extract_append_low ..)

/-- A field of the word that the toggle leaves as it is. -/
theorem toggled_field (w : Word64) {lo n : Nat} (hn : lo + n ≤ 62) : (w ^^^ (1#64 <<< 62)).extractLsb' lo n = w.extractLsb' lo n := by
  apply BitVec.eq_of_getLsbD_eq
  intro i hi
  have hne : lo + i ≠ 62 := by omega
  rw [BitVec.getLsbD_extractLsb', BitVec.getLsbD_extractLsb', toggled_bit w (by omega), decide_eq_false hne, Bool.xor_false]

theorem bwNextPhase_init (w : Word64) : (bwNextPhase w).extractLsb' 48 8 = w.extractLsb' 48 8 :=
  calc (bwNextPhase w).extractLsb' (40 + 8) 8
      = ((w ^^^ (1#64 <<< 62)).extractLsb' 48 16 ++ bwInit w).extractLsb' (8 + 0) 8 := extract_append_high_at ..
    _ = ((w ^^^ (1#64 <<< 62)).extractLsb' 48 16).extractLsb' 0 8 := extract_append_high_at ..
    _ = (w ^^^ (1#64 <<< 62)).extractLsb' 48 8 := extractLsb'_extractLsb' _ (by decide)
    _ = w.extractLsb' 48 8 := toggled_field w (by decide)

theorem bwNextPhase_bytes (w : Word64) : (bwNextPhase w).extractLsb' 0 40 = w.extractLsb' 0 40 :=
  (extract_append_low ..).trans (toggled_field w (by decide))

/-- Split `j` of a group whose splits are changed one by one, by a change that keeps a free entry free. -/
theorem split_map {g : Group} {f : Split → Split} (hf : f Split.empty = Split.empty) (j : Nat) :
    ({ g with splits := g.splits.map f } : Group).split j = f (g.split j) := by
  simp only [Group.split, atD, List.getElem?_map]
  cases g.splits[j]? <;> simp [hf]

/-- The group at an entry after a wake-up of a team's splits. -/
theorem wakeTeam_split {s : State} {team off key : Nat} {old : Bool} {g g' : Group} (hg : tget s.groups key = some g)
    (hg' : tget (s.wakeTeam team off old).groups key = some g') (j : Nat) :
    g'.split j = if g.team = team then wakeSplit off old (g.split j) else g.split j := by
  rw [State.wakeTeam, tget_tmap, hg, Option.map_some] at hg'
  obtain rfl := Option.some.inj hg'
  by_cases ht : g.team = team
  · rw [if_pos ht, if_pos ht]; exact split_map rfl j
  · rw [if_neg ht, if_neg ht]

theorem wakeSplit_parked {off : Nat} {old b : Bool} {x : Split} (hx : x.park = some (.barrier off old false b)) :
    (wakeSplit off old x).park = none ∧ (wakeSplit off old x).pc = nextPc x.pc := by
  simp [wakeSplit, hx]

theorem wakeSplit_elsewhere {off : Nat} {old : Bool} {x : Split} (hx : ∀ b, x.park ≠ some (.barrier off old false b)) :
    wakeSplit off old x = x := by
  unfold wakeSplit
  split
  next o ph arriving b hp =>
    split
    next hc =>
      simp only [Bool.and_eq_true, decide_eq_true_eq, beq_iff_eq, Bool.not_eq_true'] at hc
      obtain ⟨⟨rfl, rfl⟩, rfl⟩ := hc
      exact absurd hp (hx b)
    next => rfl
  next => rfl

/-- Settles O30: a completing word toggles its phase and wakes the splits parked in the old one (`wakeTeam_split`). -/
theorem barrierPhase : Obligations.BarrierPhase := by
  unfold Obligations.BarrierPhase
  intro s team off t f ht w u
  by_cases hc : bwCompletes w = true
  · have hu : u = (s.setTeam team (t.setWord off (bwNextPhase w))).wakeTeam team off (bwPhase w) := by
      simp only [u, State.updateWord, ht]
      exact if_pos hc
    have hcond := (bwCompletes_iff w).1 hc
    refine ⟨t.setWord off (bwNextPhase w), by rw [hu]; exact tget_tset_same .., ?_⟩
    rw [if_pos hcond, word_setWord]
    refine ⟨bwNextPhase_phase w, bwNextPhase_left w, bwNextPhase_init w, (bwNextPhase_bytes w).trans hcond.2.1,
      fun key g g' hg hg' hteam j a b hpark hj => ?_, fun key g g' hg hg' j hother => ?_⟩
    · rw [hu] at hg'
      rw [hj, wakeTeam_split (s := s.setTeam team _) hg hg' j, if_pos hteam]
      exact wakeSplit_parked hpark
    · rw [hu] at hg'
      rw [wakeTeam_split (s := s.setTeam team _) hg hg' j]
      rcases hother with hteam | hpark
      · exact if_neg hteam
      · rw [show wakeSplit off (bwPhase w) (g.split j) = g.split j from wakeSplit_elsewhere hpark, ite_self]
  · have hu : u = s.setTeam team (t.setWord off w) := by
      simp only [u, State.updateWord, ht]
      exact if_neg hc
    refine ⟨t.setWord off w, by rw [hu]; exact tget_tset_same .., ?_⟩
    rw [if_neg (mt (bwCompletes_iff w).2 hc), word_setWord, hu]
    exact ⟨rfl, rfl⟩

end Sys2Proof.Machine
end

section
/-!
SUPPORT. A publication whose counter lies in a host page that another context of the function writes too (15 R341; 02 R46).
-/

namespace Sys2Proof.Machine

open Sys2Proof

/-! ### Concrete sites -/

/-- A split can issue in time, and an answer about it is `.ok` of something with a property. -/
def holdsAt {α : Type} (s : State) (e : Site → Except Stop α) (p : Site → α → Bool) : Bool :=
  match s.site? with
  | some h => !h.sp.stopped && !(h.sp.draining && h.g.hasPending h.ix) && modeValid h.sp.mode && decide (h.hazard = []) &&
    (match e h with | .ok x => p h x | .error _ => false)
  | none => false

theorem exists_of_holdsAt {α : Type} {s : State} {e : Site → Except Stop α} {p : Site → α → Bool} (hh : holdsAt s e p = true) :
    ∃ h x, Timely s h ∧ e h = .ok x ∧ p h x = true := by
  unfold holdsAt at hh
  split at hh
  next h hs =>
    simp only [Bool.and_eq_true, Bool.not_eq_true', decide_eq_true_eq] at hh
    obtain ⟨⟨⟨⟨h1, h2⟩, h3⟩, h4⟩, h5⟩ := hh
    split at h5
    next x hx => exact ⟨h, x, ⟨⟨hs, h1, h2, h3⟩, h4⟩, hx, h5⟩
    next => cases h5
  next => cases hh

/-! ### The counterexample -/

/-- A group whose K[2] is the address of a counter in a host page; another context's queue has two writes on their way, one elsewhere, and
then one to the counter's first byte. -/
def sharedCounter : State :=
  let s := State.reset.withFetchWord 32 0x12000000
  { s with
    groups := tmap s.groups fun _ g => { g with k := writeCell g.k 2 0x4000 },
    mem := writeLe s.mem 0x3000 8 0x2000004000003B,
    pubPending := [{ ctx := 1, q := 0, addr := 0x77, val := 9 }, { ctx := 1, q := 0, addr := 0x40004000, val := 1 }] }

/-- The hypotheses of the statement hold, and the byte elsewhere changes. -/
def sharedCounterCheck (h : Site) (acc : Acc) : Bool :=
  !inWindow (h.kr 2).toNat && (acc.isHbm || acc.isHost) && decide (atomsDone sharedCounter h = .ok ()) &&
  !mustWait sharedCounter h [{ t := 0, va := h.kr 2, acc := acc }] && !sharedCounter.accBad acc && decide (0x77 ∉ acc.hostAddrs) &&
  decide (∀ w ∈ sharedCounter.pubPending, w.ctx = h.ctx → w.addr ≠ 0x77) &&
  decide (readCell (sharedCounter.publish (fun w => w.ctx == h.ctx) acc).hostMem 0x77 ≠ readCell sharedCounter.hostMem 0x77)

theorem sharedCounter_publish :
    holdsAt sharedCounter (fun h => accessVa sharedCounter h (h.kr 2) 8 .both) sharedCounterCheck = true := by decide +kernel

/-- Refutes O31: the update of a counter in a host page makes the earlier writes of another context's queue to that counter visible, and
with them that queue's writes elsewhere, so a byte changes that the publishing context never wrote. -/
theorem not_fenceAndPublish : ¬Obligations.FenceAndPublish := by
  unfold Obligations.FenceAndPublish
  intro hall
  obtain ⟨h, acc, ht, hacc, hcheck⟩ := exists_of_holdsAt sharedCounter_publish
  simp only [sharedCounterCheck, Bool.and_eq_true, Bool.not_eq_true', decide_eq_true_eq] at hcheck
  obtain ⟨⟨⟨⟨⟨⟨⟨hwin, hmem⟩, hdone⟩, hwait⟩, hbad⟩, hk⟩, hmine⟩, hchanged⟩ := hcheck
  have hserved : Served sharedCounter h true [{ t := 0, va := h.kr 2, acc := acc }] := ⟨hwait, by simpa using hbad⟩
  obtain ⟨_, _, _, hpub⟩ := hall sharedCounter h ht.1 0 2 acc
  obtain ⟨_, _, _, hkept, _⟩ := hpub hwin hacc hmem hdone hserved
  exact hchanged (hkept 0x77 hk hmine)

end Sys2Proof.Machine
end

section
/-!
SUPPORT. Frame instructions (16 R372 to R376).
-/

namespace Sys2Proof.Machine

open Sys2Proof

/-! ### fnew -/

theorem needFrames_ok {h : Site} (hf : h.l.isFrames = true) : needFrames h = .ok () := if_pos hf

theorem needFrames_bound {h : Site} (hf : h.l.isFrames = false) : needFrames h = .error (.cause .frameBound 0 h.mask) :=
  if_neg (by simp [hf])

theorem allotted_one {h : Site} {n : Nat} (hn : n < 8 * h.g.vgran) : h.allotted [n] = .ok () := allotted_ok (by simpa using hn)

/-- Settles O32: the checks pass in order, the frames are created, and their handles are late results. -/
theorem frameCreation : Obligations.FrameCreation := by
  unfold Obligations.FrameCreation
  intro s h ht hf hroom d kd a s1 hs
  have hr := ht.1
  have hfnew : exec (.fnew d a) s = execFnew d a s := rfl
  have hfnewU : exec (.fnewU kd a) s = execFnewU kd a s := rfl
  split
  case isTrue ha =>
    refine ⟨fun heven hn => hfnew.trans (issue_wait hr ?_), hfnewU.trans (issue_wait hr ?_)⟩
    · simp only [evenAll_single heven, allotted_one hn, needFrames_ok hf, room_ok hroom, rootDone_wait ha, ok_bind]; rfl
    · simp only [needFrames_ok hf, room_ok hroom, rootDone_wait ha, ok_bind]; rfl
  case isFalse ha =>
    intro f rs s2
    refine ⟨fun heven hn hc => hfnew.trans (issue_ok hr ?_), fun x hc => hfnewU.trans (issue_ok hr ?_)⟩
    · have hview : s2 = if (decide (2 ≤ f.depth) && h.team.formed && (readCell h.g.d f.depth : Word64) == 0) = true then
          s1.modTeam h.tid fun t => hs.foldl (Team.setView f.depth) t else s1 := by
        simp only [s2, Bool.and_eq_true, decide_eq_true_eq, beq_iff_eq, and_assoc]
      simp only [evenAll_single heven, allotted_one hn, needFrames_ok hf, room_ok hroom, rootDone_ok ha, ok_bind, hview]
      rw [show createAll s h (FrameSpec.of (h.kr a.toNat)) h.active = .ok (s1, hs) from hc]
      rfl
    · simp only [needFrames_ok hf, room_ok hroom, rootDone_ok ha, ok_bind]
      rw [show createAll s h (FrameSpec.of (h.kr a.toNat)) [lowestThread h.mask] = .ok (s1, [(lowestThread h.mask, x)]) from hc]
      rfl

/-! ### The bytes of a record -/

theorem natBytes_append (m n x : Nat) : natBytes (m + n) x = natBytes m x ++ natBytes n (x / 256 ^ m) := by
  induction m generalizing x with
  | zero => simp [natBytes]
  | succ m ih => rw [Nat.add_right_comm, natBytes, natBytes, ih, Nat.div_div_eq_div_mul, Nat.pow_succ', List.cons_append]

theorem natBytes_mod (n x : Nat) : natBytes n (x % 256 ^ n) = natBytes n x := by
  induction n generalizing x with
  | zero => rfl
  | succ n ih =>
    have hlow : BitVec.ofNat 8 (x % 256 ^ (n + 1)) = BitVec.ofNat 8 x := by
      apply BitVec.eq_of_toNat_eq
      rw [BitVec.toNat_ofNat, BitVec.toNat_ofNat, Nat.pow_succ]
      exact Nat.mod_mod_of_dvd _ (Dvd.intro_left _ rfl)
    have hhigh : x % 256 ^ (n + 1) / 256 = x / 256 % 256 ^ n := by rw [Nat.pow_succ', Nat.mod_mul_right_div_self]
    rw [natBytes, natBytes, hlow, hhigh, ih]

/-- The bytes of 16 words. -/
def recBytes (w : Nat → Word32) : List Byte := (List.range 16).flatMap fun i => natBytes 4 (w i).toNat

/-- A k register holds two of the words. -/
theorem natBytes_kr (x : Word64) :
    natBytes 8 x.toNat = natBytes 4 (x.extractLsb' 0 32).toNat ++ natBytes 4 (x.extractLsb' 32 32).toNat := by
  have hlow : (x.extractLsb' 0 32).toNat = x.toNat % 256 ^ 4 := by simp
  have hhigh : (x.extractLsb' 32 32).toNat = x.toNat / 256 ^ 4 % 256 ^ 4 := by simp [Nat.shiftRight_eq_div_pow]
  rw [hlow, hhigh, natBytes_mod, natBytes_mod]
  exact natBytes_append 4 4 x.toNat

/-- A record from eight k registers. -/
theorem recBytes_kWord (h : Site) (a : Nat) :
    ((List.range 8).flatMap fun i => natBytes 8 (h.kr (a + i)).toNat) = recBytes (h.kWord a) := by
  simp only [natBytes_kr]
  rfl

/-- A handle of a record: of the thread's view where the record says all ones. -/
def fixedHandle (h : Site) (t : Nat) (w : Nat → Word32) (k : Nat) : Nat :=
  if field (recBytes w) (8 * k) 8 = 2 ^ 64 - 1 then (View h t k).toNat else field (recBytes w) (8 * k) 8

theorem field_fixRecord_index (h : Site) (t : Nat) (w : Nat → Word32) : field (fixRecord h t (recBytes w)) 0 4 = leNat (natBytes 4 (w 0).toNat) :=
  rfl

theorem field_fixRecord_charge (h : Site) (t : Nat) (w : Nat → Word32) :
    field (fixRecord h t (recBytes w)) 4 4 = leNat (natBytes 4 (leNat (natBytes 4 (w 1).toNat) % 4)) := rfl

theorem field_fixRecord_handle (h : Site) (t : Nat) (w : Nat → Word32) {k : Nat} (hk : k = 1 ∨ k = 2 ∨ k = 3) :
    field (fixRecord h t (recBytes w)) (8 * k) 8 = leNat (natBytes 8 (fixedHandle h t w k)) := by
  rcases hk with rfl | rfl | rfl <;> rfl

theorem field_recBytes (w : Nat → Word32) {k : Nat} (hk : k = 1 ∨ k = 2 ∨ k = 3) :
    field (recBytes w) (8 * k) 8 = leNat (natBytes 4 (w (2 * k)).toNat ++ natBytes 4 (w (2 * k + 1)).toNat) := by
  rcases hk with rfl | rfl | rfl <;> rfl

/-! ### What is known of a record -/

theorem knownWord_of_lost {lost : Nat → Bool} {w : Nat → Word32} {i : Nat} (hl : lost i = true) : knownWord lost w i = 0 := by
  rw [knownWord, hl]; rfl

theorem knownWord_low {lost : Nat → Bool} {w : Nat → Word32} {i : Nat} (hi : i ≤ 1) (hl : lost i = false) : knownWord lost w i = w i := by
  rw [knownWord, hl, decide_eq_false (by omega)]; rfl

/-- The two words of a handle are known together. -/
theorem knownWord_handle (lost : Nat → Bool) (w : Nat → Word32) {k : Nat} (hk : 1 ≤ k) :
    (lost (2 * k) = false ∧ lost (2 * k + 1) = false ∧ knownWord lost w (2 * k) = w (2 * k) ∧ knownWord lost w (2 * k + 1) = w (2 * k + 1)) ∨
    ((lost (2 * k) || lost (2 * k + 1)) = true ∧ knownWord lost w (2 * k) = 0 ∧ knownWord lost w (2 * k + 1) = 0) := by
  have h1 : 2 * k / 2 * 2 + (2 * k + 1) % 2 = 2 * k + 1 := by omega
  have h2 : (2 * k + 1) / 2 * 2 + (2 * k + 1 + 1) % 2 = 2 * k := by omega
  have h3 : 1 < 2 * k := by omega
  have h4 : 1 < 2 * k + 1 := by omega
  simp only [knownWord, h1, h2, h3, h4, decide_true, Bool.true_and]
  cases lost (2 * k) <;> cases lost (2 * k + 1) <;> simp

/-- What is known of a record meets the checks that the record meets. -/
structure Weaker (h : Site) (x : List Byte × Bool) (rec : List Byte) : Prop where
  index : field x.1 0 4 ≤ field rec 0 4
  handles : ∀ k, k = 1 ∨ k = 2 ∨ k = 3 → field x.1 (8 * k) 8 = 0 ∨ field x.1 (8 * k) 8 = field rec (8 * k) 8
  charge : x.2 = true → chargedTo h.l x.1 = chargedTo h.l rec

/-- A handle of what is known is the record's, or 0 where a word of it is lost. -/
theorem fixedHandle_known (h : Site) (t : Nat) (lost : Nat → Bool) (w : Nat → Word32) {k : Nat} (hk : k = 1 ∨ k = 2 ∨ k = 3) :
    ((lost (2 * k) || lost (2 * k + 1)) = true ∧ fixedHandle h t (knownWord lost w) k = 0) ∨
    fixedHandle h t (knownWord lost w) k = fixedHandle h t w k := by
  simp only [fixedHandle, field_recBytes _ hk]
  rcases knownWord_handle lost w (k := k) (by omega) with ⟨_, _, e1, e2⟩ | ⟨hl, e1, e2⟩
  · exact .inr (by rw [e1, e2])
  · refine .inl ⟨hl, ?_⟩
    rw [e1, e2]; rfl

theorem weaker_known (h : Site) (t : Nat) (lost : Nat → Bool) (w : Nat → Word32) :
    Weaker h (knownRecord h t lost w) (recordOf h t w) := by
  have hrec : ∀ w : Nat → Word32, recordOf h t w = fixRecord h t (recBytes w) := fun _ => rfl
  have hknown : (knownRecord h t lost w).1 = fixRecord h t (recBytes (knownWord lost w)) := rfl
  refine ⟨?_, fun k hk => ?_, fun hc => ?_⟩
  · rw [hknown, hrec, field_fixRecord_index, field_fixRecord_index]
    cases hl : lost 0 with
    | true => rw [knownWord_of_lost hl]; exact Nat.zero_le _
    | false => rw [knownWord_low (by omega) hl]
  · rw [hknown, hrec, field_fixRecord_handle h t _ hk, field_fixRecord_handle h t _ hk]
    rcases fixedHandle_known h t lost w hk with ⟨_, e⟩ | e
    · exact .inl (by rw [e]; rfl)
    · exact .inr (by rw [e])
  · have hck : chargeKnown lost w = true := hc
    simp only [chargeKnown, Bool.and_eq_true, Bool.not_eq_true', Bool.or_eq_true, beq_iff_eq] at hck
    obtain ⟨h1, hcharge⟩ := hck
    have hw1 : knownWord lost w 1 = w 1 := knownWord_low (by omega) h1
    have hfield : leNat (natBytes 4 (w 1).toNat) % 4 = (w 1).toNat % 4 := by
      rw [leNat_natBytes]; exact Nat.mod_mod_of_dvd _ (by decide)
    have hflags : ∀ w' : Nat → Word32, w' 1 = w 1 → field (fixRecord h t (recBytes w')) 4 4 % 4 = (w 1).toNat % 4 := fun w' hw' => by
      rw [field_fixRecord_charge, hw', hfield, leNat_natBytes]; omega
    simp only [chargedTo, hknown, hrec, hflags _ hw1, hflags _ rfl]
    by_cases h0 : (w 1).toNat % 4 = 0
    · rw [if_pos h0, if_pos h0]
    · have hk : (w 1).toNat % 4 = 1 ∨ (w 1).toNat % 4 = 2 ∨ (w 1).toNat % 4 = 3 := by omega
      rw [if_neg h0, if_neg h0, field_fixRecord_handle h t _ hk, field_fixRecord_handle h t _ hk]
      have hnot := hcharge.resolve_left h0
      rcases fixedHandle_known h t lost w hk with ⟨hl, _⟩ | e
      · rw [hl] at hnot; cases hnot
      · rw [e]

/-! ### The checks -/

theorem checkAll_ok_iff {α : Type} {f : α → Except Stop Unit} {l : List α} : checkAll f l = .ok () ↔ ∀ x ∈ l, f x = .ok () := by
  induction l with
  | nil => simp [checkAll]
  | cons x r ih =>
    rw [checkAll, List.forall_mem_cons]
    cases hx : f x with
    | ok u => simp [ih]
    | error e => simp

/-- What is known of the records passes when the records do. -/
theorem checkRecords_known {s : State} {h : Site} {α : Type} {ts : List α} {x : α → List Byte × Bool} {rec : α → List Byte}
    (hw : ∀ t, Weaker h (x t) (rec t)) (hok : checkRecords s h ((ts.map rec).map (·, true)) = .ok ()) :
    checkRecords s h (ts.map x) = .ok () := by
  have hcount : ∀ c, ((ts.map x).filter fun r => r.2 && chargedTo h.l r.1 == c).length ≤
      (((ts.map rec).map (·, true)).filter fun r => r.2 && chargedTo h.l r.1 == c).length := fun c => by
    rw [← List.countP_eq_length_filter, ← List.countP_eq_length_filter, List.countP_map, List.map_map, List.countP_map]
    refine List.countP_mono_left fun t _ ht => ?_
    simp only [Function.comp_apply, Bool.and_eq_true, beq_iff_eq, Bool.true_and] at ht ⊢
    rw [← (hw t).charge ht.1]; exact ht.2
  rw [checkRecords, checkAll_ok_iff] at hok ⊢
  intro r hr
  obtain ⟨t, ht, rfl⟩ := List.mem_map.1 hr
  have hrec := hok (rec t, true) (List.mem_map.2 ⟨rec t, List.mem_map_of_mem ht, rfl⟩)
  obtain ⟨hindex, hhandles, hcharge⟩ := hw t
  unfold checkRecord at hrec ⊢
  simp only at hrec ⊢
  split at hrec
  next => cases hrec
  next hn =>
    rw [if_neg (by omega)]
    split at hrec
    next => cases hrec
    next hfine =>
      have hfine' : ((List.range 3).all fun k => field (x t).1 (8 * (k + 1)) 8 == 0 ||
          (s.frame? h.ctx (BitVec.ofNat 64 (field (x t).1 (8 * (k + 1)) 8))).isSome) = true := by
        simp only [Bool.not_eq_true', Bool.not_eq_false, List.all_eq_true, List.mem_range] at hfine ⊢
        intro k hk
        rcases hhandles (k + 1) (by omega) with e | e
        · simp [e]
        · rw [e]; exact hfine k hk
      rw [if_neg (by rw [hfine']; decide)]
      split
      next => rfl
      next hknown =>
        have hk : (x t).2 = true := by simpa using hknown
        rw [hcharge hk]
        simp only [Bool.not_true, Bool.false_eq_true, if_false] at hrec
        split at hrec
        next => cases hrec
        next f hframe =>
          refine if_neg fun hlt => ?_
          split at hrec
          next => cases hrec
          next hle =>
            have := hcount (chargedTo h.l (rec t))
            omega

/-! ### fret, disp and cont -/

theorem retFrames_next {s : State} {h : Site} {ts : Site → List Nat} {k : BitVec 2} {fs : List Frame} (hr : Ready s h)
    (hf : h.l.isFrames = true) (ha : atomsDone s h = .ok ()) (hv : viewed s h k.toNat (ts h) = .ok fs) :
    retFrames s ts k = .next (((s.finishBodies (fs.filter fun f => !f.isLaunch)).advance h).endTurnFrames h) := by
  refine issue_ok hr ?_
  simp only [needFrames_ok hf, hv, ha, ok_bind]

/-- Records whose checks pass: the pool takes all of them, or none. -/
theorem emitAll_room {s : State} {h : Site} {recs : List (List Byte)} (hc : checkRecords s h (recs.map (·, true)) = .ok ())
    (ha : atomsDone s h = .ok ()) (hroom : ¬65536 < (s.die h.die).poolCount + recs.length) :
    emitAll s h recs = .ok (((forAll (fun s x => s.emit h x) s recs).advance h).endTurnFrames h) := by
  have hroom' : ¬poolSize < (s.die h.die).poolCount + recs.length := hroom
  simp only [emitAll, hc, if_neg hroom', ha]

theorem emitAll_full {s : State} {h : Site} {recs : List (List Byte)} (hc : checkRecords s h (recs.map (·, true)) = .ok ())
    (hroom : 65536 < (s.die h.die).poolCount + recs.length) : emitAll s h recs = .error (.cause .contFull 0 h.mask) := by
  have hroom' : poolSize < (s.die h.die).poolCount + recs.length := hroom
  simp only [emitAll, hc, if_pos hroom']

/-- What cont and cont.u do once the known values of their records pass. -/
theorem emits {s : State} {h : Site} {i : Instr} {recsOf : Site → List (List Byte)} {body : Site → Except Stop State} (hr : Ready s h)
    (hi : exec i s = issueWhole s body) (hb : body h = h.perform s fun h => emitAll s h (recsOf h))
    (hc : checkRecords s h ((recsOf h).map (·, true)) = .ok ()) :
    if 65536 < (s.die h.die).poolCount + (recsOf h).length then Raises s h i .contFull 0 h.mask
    else atomsDone s h = .ok () →
      exec i s = .next (((forAll (fun s x => s.emit h x) s (recsOf h)).advance h).endTurnFrames h) := by
  split
  next hfull =>
    intro _
    exact hi.trans (issueWhole_cause hr (hb.trans (perform_cause (.inr rfl) (emitAll_full hc hfull))))
  next hroom => exact fun ha => hi.trans (issueWhole_ok hr (hb.trans (perform_ok (emitAll_room hc ha hroom))))

/-- Settles O33: the checks pass in order. The check of what is known of the records passes where the records do
(`checkRecords_known`, `weaker_known`). -/
theorem frameInstructions : Obligations.FrameInstructions := by
  unfold Obligations.FrameInstructions
  refine ⟨fun s h hr hf d a b k v => ?bound, fun s h hr hf ha k fs => ?fret, fun s h hr hf k a hk => ?disp,
    fun s h hr hf a b => ?cont⟩
  case bound =>
    have hbound := needFrames_bound hf
    refine ⟨fun heven hn => raises_of_cause hr rfl ?_, raises_of_cause hr rfl ?_, raises_of_cause hr rfl ?_,
      raises_of_cause hr rfl ?_, fun hk => raises_of_cause hr rfl ?_, fun hv hn _ => ?_, fun ha _ => ?_⟩
    · simp only [evenAll_single heven, allotted_one hn, hbound, ok_bind]; rfl
    · simp only [hbound]; rfl
    · simp only [hbound]; rfl
    · simp only [hbound]; rfl
    · simp only [need, bne_iff_ne.2 hk, if_true, hbound, ok_bind]; rfl
    · have hi : exec (.cont v) s = execCont v s := rfl
      refine hi.trans (issueWhole_cause hr ?_)
      simp only [need, beq_iff_eq.2 hv, if_true, allotted_one hn, hbound, ok_bind]; rfl
    · have hi : exec (.contU a) s = execContU a s := rfl
      refine hi.trans (issueWhole_cause hr ?_)
      simp only [need, beq_iff_eq.2 ha, if_true, hbound, ok_bind]; rfl
  case fret => exact ⟨retFrames_next hr hf ha, retFrames_next (ts := fun h => [lowestThread h.mask]) hr hf ha⟩
  case disp =>
    intro x
    have hi : exec (.disp k a) s = execDisp k a s := rfl
    split
    next hx =>
      refine ⟨writeCell h.g.d k.toNat x, ?_, by simp, fun n hn => by simp [hn]⟩
      have hok : (x == 0 || (s.frame? h.ctx x).isSome) = true := by simpa using hx
      refine (hi.trans (issue_ok hr ?_)).trans (congrArg Host.Outcome.next
        (advance_modGroup (fun g => { g with d := writeCell g.d k.toNat x }) hr.1 rfl))
      simp only [need, bne_iff_ne.2 hk, needFrames_ok hf, if_true, ok_bind]
      rw [if_pos hok]
      rfl
    next hx =>
      have hno : ¬(x == 0 || (s.frame? h.ctx x).isSome) = true := by simpa using hx
      refine raises_of_cause hr hi ?_
      simp only [need, bne_iff_ne.2 hk, needFrames_ok hf, if_true, ok_bind]
      rw [if_neg hno]
      rfl
  case cont =>
    intro v u r
    refine ⟨fun ha hn hc => ?_, fun hb hc => ?_⟩
    · refine emits (recsOf := fun h => h.active.map fun t => recordOf h t (h.vWord a.toNat t)) hr rfl ?_ hc
      have hknown := checkRecords_known (s := s) (ts := h.active)
        (fun t => weaker_known h t (fun i => h.lostV (a.toNat + i) t) (h.vWord a.toNat t)) hc
      simp only [need, beq_iff_eq.2 ha, if_true, allotted_one hn, needFrames_ok hf, hknown, ok_bind]
    · have hu : u = [recordOf h (lowestThread h.mask) (h.kWord b.toNat)] := by
        simp only [u, recBytes_kWord]; rfl
      rw [hu] at hc ⊢
      refine emits (recsOf := fun h' => [recordOf h' (lowestThread h.mask) (h'.kWord b.toNat)]) hr rfl ?_ hc
      have hknown := checkRecords_known (s := s) (ts := [lowestThread h.mask])
        (fun t => weaker_known h t (fun i => h.undefK (b.toNat + i / 2)) (h.kWord b.toNat)) hc
      simp only [List.map_cons, List.map_nil] at hknown
      simp only [need, beq_iff_eq.2 hb, if_true, needFrames_ok hf, hknown, ok_bind]

end Sys2Proof.Machine
end

section
/-!
SUPPORT. tget while a root read of the group is on its way (16 R344; 10 R226).
-/

namespace Sys2Proof.Machine

open Sys2Proof

/-- A group about to issue, one of whose root reads is on its way. -/
def rootReadAhead : State :=
  let step (h : Site) : CaStep :=
    { ctx := h.ctx, store := 0, team := h.tid, core := h.core, entry := h.entry, back := none, op := .rootRead 0 0 0, pc := 0 }
  let s := State.reset.withFetchWord 32 0x12000000
  { s with caSteps := (s.site?.map step).toList }

theorem rootReadAhead_ahead :
    holdsAt rootReadAhead (fun h => .ok (rootReadAhead.acquireAhead h)) (fun _ ahead => ahead) = true := by decide +kernel

/-- Nothing that goes on leaves the state as it was. -/
theorem not_leaves_of_wait {s : State} {h : Site} {i : Instr} {drained : Bool} {g : Group} (hi : exec i s = .next s) :
    ¬Leaves s h i drained g := fun hl => by
  have hs : s = s.withGroup h (h.moved (nextPc h.sp.pc) drained g) := Host.Outcome.next.inj (hi.symm.trans hl)
  have : s.freeCtr = s.freeCtr + 1 := congrArg State.freeCtr hs
  omega

/-- Refutes O34: tget waits while a root read of the group is on its way. -/
theorem not_tensorIdentifiers : ¬Obligations.TensorIdentifiers := by
  unfold Obligations.TensorIdentifiers
  intro hall
  obtain ⟨h, ahead, ht, hahead, rfl⟩ := exists_of_holdsAt rootReadAhead_ahead
  have hwait : rootDone rootReadAhead h = .error .wait := rootDone_wait (Except.ok.inj hahead)
  have hi : exec (.tget 0 0 0) rootReadAhead = execTget 0 0 0 rootReadAhead := rfl
  obtain ⟨⟨_, hl, _⟩, _⟩ := hall rootReadAhead h ht 0 0 0 0 { ctx := 0, die := 0, locs := [], leaf := none }
  refine not_leaves_of_wait (hi.trans (issue_wait ht.1 ?_)) hl
  simp only [hwait, err_bind]

end Sys2Proof.Machine
end

section
/-!
SUPPORT. Copies at issue (16 R346 to R354, R371).
-/

namespace Sys2Proof.Machine

open Sys2Proof

/-! ### A copy starts -/

theorem startsCopy {s : State} {h : Site} {i : Instr} {body : Site → Except Stop State} {c : Copy} (hr : Ready s h)
    (hi : exec i s = issue s body) (hb : body h = startCopy s h c) : StartsCopy s h i c := by
  unfold StartsCopy
  split
  next he =>
    obtain ⟨hrows, hsig, hkind⟩ := he
    have hempty : (decide (c.rows = 0) && decide (c.sig = 0) && c.kind != .tree) = true := by simp [hrows, hsig, hkind]
    refine (hi.trans (issue_ok hr (hb.trans ?_))).trans (congrArg Host.Outcome.next (advance_eq hr.1))
    rw [startCopy, if_pos hempty]
  next he =>
    have hsome : ¬(decide (c.rows = 0) && decide (c.sig = 0) && c.kind != .tree) = true := by
      simpa only [Bool.and_eq_true, decide_eq_true_eq, bne_iff_ne, and_assoc] using he
    split
    next hfull =>
      refine hi.trans (issue_wait hr (hb.trans ?_))
      rw [startCopy, if_neg hsome, if_pos (by simpa using hfull)]
    next hroom =>
      refine hi.trans (issue_ok hr (hb.trans ?_))
      rw [startCopy, if_neg hsome, if_neg (by simpa using hroom)]

/-! ### The checks of what is known of the operands -/

theorem known_eq (h : Site) (n : Nat) : h.known n = 0 ∨ h.known n = h.kr n := by
  unfold Site.known; split
  · exact .inl rfl
  · exact .inr rfl

theorem known_of_defined {h : Site} {n : Nat} (hn : h.undefK n = false) : h.known n = h.kr n := by
  rw [Site.known, hn]; rfl

/-- `c'` is the copy `c` with 0 in place of operands that are lost; the box is as in `c` where none of its starts is lost. -/
structure KnownCopy (boxLost : Bool) (c' c : Copy) : Prop where
  src : c'.src = c.src
  dst : c'.dst = c.dst
  bw : c'.bw = c.bw
  bar : c'.bar = c.bar
  start : coordOf c'.d 0 = 0 ∨ coordOf c'.d 0 = coordOf c.d 0
  col : c'.col = 0 ∨ c'.col = c.col
  sig : c'.sig = 0 ∨ c'.sig = c.sig
  box : boxLost = false → c' = { c with sig := c'.sig }

variable {s : State} {h : Site} {c c' : Copy} {lost : Bool}

theorem formsOk_known (hk : KnownCopy lost c' c) (hf : formsOk true c = true) : formsOk false c' = true := by
  unfold formsOk at hf ⊢
  rw [hk.src, hk.dst]
  simp only [Bool.and_eq_true, Bool.or_eq_true, Bool.not_true, Bool.not_false, Bool.false_eq_true, false_or, true_or, and_true,
    bne_iff_ne, beq_iff_eq] at hf ⊢
  refine ⟨hf.1, hf.2.imp id fun ⟨⟨hstart, _⟩, hcol⟩ => ⟨?_, hcol.imp id fun hcol => ?_⟩⟩
  · rcases hk.start with e | e <;> rw [e]
    · exact Nat.zero_mod _
    · exact hstart
  · rcases hk.col with e | e <;> rw [e]
    · exact Nat.zero_mod _
    · exact hcol

theorem checkBar_known (hk : KnownCopy lost c' c) : checkBar s h c' = checkBar s h c := by
  unfold checkBar; rw [hk.bw, hk.bar, hk.dst]

theorem checkCopy_known (hk : KnownCopy lost c' c) (hc : checkCopy s h c = .ok ()) : checkCopy s h c' false = .ok () := by
  unfold checkCopy at hc ⊢
  simp only [if_true, Bool.false_eq_true, if_false, checkAll] at hc ⊢
  split at hc
  next => cases hc
  next hforms =>
    rw [Bool.not_eq_true, Bool.not_eq_false', Bool.and_eq_true] at hforms
    have hforms' : ¬(!((Ident.of c'.src).valid && (Ident.of c'.dst).valid && formsOk false c')) = true := by
      rw [hk.src, hk.dst, hforms.1, formsOk_known hk hforms.2]; decide
    rw [if_neg hforms', checkBar_known hk]
    split at hc
    · cases hc
    · exact hc

theorem checkSig_zero (hsig : c.sig = 0) : checkSig s h c = .ok () := by
  simp only [checkSig, Copy.sigSpans, hsig, if_true, checkAll]

theorem checkSig_known (hk : KnownCopy lost c' c) (hc : checkSig s h c = .ok ()) : checkSig s h c' = .ok () := by
  rcases hk.sig with e | e
  · exact checkSig_zero e
  · simpa only [checkSig, Copy.sigSpans, e] using hc

/-- The window checks of the rows of a copy. -/
def windowRows (s : State) (h : Site) (c : Copy) : Except Stop Unit :=
  checkAll (fun r =>
    match checkAll (s.windowCheck h.ctx .read) (if (Ident.of c.src).spad || c.kind == .gather then [] else c.srcSpans r) with
    | .error e => .error e
    | .ok _ => checkAll (s.windowCheck h.ctx .write) (if (Ident.of c.dst).spad then [] else c.dstSpans r)) (List.range c.rows)

theorem checkWindow_eq (s : State) (h : Site) (c : Copy) :
    checkWindow s h c = match windowRows s h c with | .error e => .error e | .ok _ => checkSig s h c := rfl

theorem checkWindow_ok_iff : checkWindow s h c = .ok () ↔ windowRows s h c = .ok () ∧ checkSig s h c = .ok () := by
  rw [checkWindow_eq]
  cases windowRows s h c <;> simp

/-- What is known of a copy passes the checks that the copy passes. -/
theorem copyChecks_known {ctl : Bool} {own : Copy → Except Stop Unit} (hk : KnownCopy lost c' c) (hc : checkCopy s h c = .ok ())
    (hown : own c' = .ok ()) (hw : checkWindow s h c = .ok ()) : copyChecks s h ctl (!lost) own c' = .ok () := by
  have hsig := checkSig_known hk (checkWindow_ok_iff.1 hw).2
  unfold copyChecks
  cases ctl with
  | false => simp only [Bool.false_eq_true, if_false, hown, ok_bind, Bool.false_and]; exact hsig
  | true =>
    cases hl : lost with
    | true => simp only [if_true, Bool.not_true, checkCopy_known hk hc, hown, ok_bind, Bool.and_false, Bool.false_eq_true, if_false]; exact hsig
    | false =>
      have he := hk.box hl
      have hc' : checkCopy s h c' = .ok () := he ▸ hc
      have hw' : checkWindow s h c' = .ok () := by
        refine checkWindow_ok_iff.2 ⟨?_, hsig⟩
        rw [he]; exact (checkWindow_ok_iff.1 hw).1
      simp only [if_true, Bool.not_false, hc', hown, ok_bind, Bool.and_self, hw']

/-! ### Copies between identifiers -/

/-- What the forms of a copy between identifiers share, its operands read by `rd`. -/
def copyBase (s : State) (h : Site) (kind : CopyKind) (pair : Bool) (e : Nat) (d a b : BitVec 6) (rd : Nat → Word64) : Copy :=
  { Copy.blank h kind e with
    src := s.ident h.ctx (ctlSrc (h.kr d.toNat)), dst := s.ident h.ctx (ctlDst (h.kr d.toNat)), s := rd a.toNat, d := rd b.toNat,
    bw := (h.kr d.toNat).getLsbD 47, bar := ctlBar (h.kr d.toNat), mask := (h.kr d.toNat).extractLsb' 48 16,
    undef := h.lostK ([d.toNat, a.toNat, b.toNat] ++ if pair then [b.toNat + 1] else []) }

theorem coordOf_zero (k : Nat) : coordOf 0 k = 0 := by simp [coordOf]

theorem coordOf_known (h : Site) (n k : Nat) : coordOf (h.known n) k = 0 ∨ coordOf (h.known n) k = coordOf (h.kr n) k :=
  (known_eq h n).imp (fun e => by rw [e, coordOf_zero]) fun e => by rw [e]

theorem defined_of_lostK_pair {h : Site} {m n : Nat} (hl : h.lostK [m, n] = false) : h.known m = h.kr m ∧ h.known n = h.kr n := by
  simp only [Site.lostK, List.any_cons, List.any_nil, Bool.or_false, Bool.or_eq_false_iff] at hl
  exact ⟨known_of_defined hl.1, known_of_defined hl.2⟩

/-- The known operands of a form that adds none to the box. -/
theorem knownCopy_base {kind : CopyKind} {pair : Bool} {e : Nat} {d a b : BitVec 6} (hkind : kind ≠ .gather) :
    KnownCopy (h.lostK [a.toNat, b.toNat]) (copyBase s h kind pair e d a b h.known) (copyBase s h kind pair e d a b h.kr) := by
  have hcol : ∀ rd, (copyBase s h kind pair e d a b rd).col = coordOf (rd a.toNat) 0 := fun rd => if_neg hkind
  refine ⟨rfl, rfl, rfl, rfl, coordOf_known h _ 0, ?_, .inl rfl, fun hl => ?_⟩
  · rw [hcol, hcol]; exact coordOf_known h _ 0
  · obtain ⟨ha, hb⟩ := defined_of_lostK_pair hl
    simp only [copyBase, ha, hb]

/-- An operation whose checks pass, with what it adds to the operands and to the checks, starts its copy. -/
theorem copyOp_starts {kind : CopyKind} {pair : Bool} {d a b : BitVec 6} {form : (Nat → Word64) → Copy → Copy}
    {own : Site → Copy → Except Stop Unit} {e : Nat} {i : Instr} (hr : Ready s h) (ha : atomsDone s h = .ok ())
    (he : s.pickEngine h.ctx h.die = some e) (hi : exec i s = copyOp s kind pair d a b form own)
    (heven : pair = true → b.toNat % 2 = 0)
    (hk : KnownCopy (h.lostK [a.toNat, b.toNat]) (form h.known (copyBase s h kind pair e d a b h.known)) c)
    (hc : c = form h.kr (copyBase s h kind pair e d a b h.kr))
    (hown' : own h (form h.known (copyBase s h kind pair e d a b h.known)) = .ok ()) (hown : own h c = .ok ())
    (hok : checkCopy s h c = .ok () ∧ checkWindow s h c = .ok ()) : StartsCopy s h i (c.aimed s) := by
  obtain ⟨hcopy, hwindow⟩ := hok
  refine startsCopy hr hi ?_
  have hpair : evenAll (if pair = true then [b.toNat] else []) = .ok () := by
    cases pair with
    | false => rfl
    | true => exact evenAll_single (heven rfl)
  have hknown := copyChecks_known (ctl := !h.undefK d.toNat) (own := own h) hk hcopy hown' hwindow
  have hfull : copyChecks s h true true (own h) (form h.kr (copyBase s h kind pair e d a b h.kr)) = .ok () := by
    rw [← hc]
    simp only [copyChecks, if_true, hcopy, hown, ok_bind, Bool.and_self, hwindow]
  have hengine : h.engine s = .ok e := by simp only [Site.engine, he]
  simp only [copyBase] at hknown hfull hc
  simp only [hpair, hengine, hknown, ha, hfull, ok_bind, unlessLost, hc]

/-! ### cpyr -/

theorem inWindow_zero_add {n j : Nat} (hn : n < 2 ^ 40) (hj : j < n) : inWindow ((0 + j) % 2 ^ 64) = false := by
  have : (0 + j) % 2 ^ 64 / 2 ^ 48 = 0 := by omega
  simp only [inWindow, this]; rfl

theorem need_ok_iff {p : Bool} {k : Cause} {x t : Word64} : need p k x t = .ok () ↔ p = true := by
  unfold need; split <;> simp_all

theorem seq_ok_iff {x y : Except Stop Unit} : (x >>= fun _ => y) = .ok () ↔ x = .ok () ∧ y = .ok () := by
  cases x with
  | ok u => simp [ok_bind]
  | error e => simp [err_bind]

theorem regsChecks_ok_iff {n : Nat} {dir : Access} : regsChecks s h n dir c = .ok () ↔
    (c.list.toNat % 4 = 0 ∧ c.stride.toNat % 4 = 0) ∧ ∀ i, i < n → s.windowCheck h.ctx dir (c.regSpan h i) = .ok () := by
  rw [regsChecks, seq_ok_iff, need_ok_iff, checkAll_ok_iff, Bool.and_eq_true, beq_iff_eq, beq_iff_eq]
  simp only [List.mem_range]

theorem regsCopy_stride (h : Site) (toMem : Bool) (e : Nat) (k : Word64) (rd : Nat → Word64) (a b : BitVec 6) :
    (regsCopy h toMem e k rd a b).stride = if rd b.toNat = 0 then BitVec.ofNat 64 (4 * h.g.width) else rd b.toNat := rfl

/-- What is known of a register copy passes where the copy does. -/
theorem regsChecks_known {toMem : Bool} {e : Nat} {k : Word64} {a b : BitVec 6} {dir : Access} (ctl : Bool)
    (hc : regsChecks s h (regsCopy h toMem e k h.kr a b).count dir (regsCopy h toMem e k h.kr a b) = .ok ()) :
    regsChecks s h (if !ctl || h.undefK a.toNat then 0 else if h.undefK b.toNat then min (regsCopy h toMem e k h.kr a b).count 1
      else (regsCopy h toMem e k h.kr a b).count) dir (regsCopy h toMem e k h.known a b) = .ok () := by
  rw [regsChecks_ok_iff] at hc ⊢
  obtain ⟨⟨hlist, hstride⟩, hwin⟩ := hc
  refine ⟨⟨?_, ?_⟩, fun i hi => ?_⟩
  · change (h.known a.toNat).toNat % 4 = 0
    rcases known_eq h a.toNat with e | e <;> rw [e]
    · rfl
    · exact hlist
  · rw [regsCopy_stride] at hstride ⊢
    rcases known_eq h b.toNat with e | e <;> rw [e]
    · rw [if_pos rfl, BitVec.toNat_ofNat]; omega
    · exact hstride
  · split at hi
    next => omega
    next hab =>
      simp only [Bool.or_eq_true, not_or, Bool.not_eq_true] at hab
      have ha := known_of_defined hab.2
      split at hi
      next =>
        obtain rfl : i = 0 := by omega
        have hspan : (regsCopy h toMem e k h.known a b).regSpan h 0 = (regsCopy h toMem e k h.kr a b).regSpan h 0 := by
          simp [Copy.regSpan, regsCopy, ha]
        rw [hspan]; exact hwin 0 (by omega)
      next hb =>
        have hb := known_of_defined (Bool.not_eq_true _ ▸ hb)
        have hcopy : regsCopy h toMem e k h.known a b = regsCopy h toMem e k h.kr a b := by simp only [regsCopy, ha, hb]
        rw [hcopy]; exact hwin i hi

/-! ### caout -/

/-- What is known of the operands of caout passes where they do. -/
theorem treeChecks_known {d : Nat} (hc : treeChecks s h (h.kr d) (h.kr (d + 1)) = .ok ()) :
    treeChecks s h (h.known d) (h.known (d + 1)) = .ok () := by
  unfold treeChecks at hc ⊢
  simp only [seq_ok_iff, need_ok_iff, Bool.and_eq_true, beq_iff_eq, decide_eq_true_eq] at hc ⊢
  obtain ⟨halign, ⟨hht, hn⟩, hwin⟩ := hc
  have hzero : treeHeight 0 = 0 ∧ (treeSpan (h.known d) 0).n = 0 := by simp [treeHeight, treeSpan]
  have hlow : ∀ k, s.windowCheck h.ctx .write (treeSpan 0 k) = .ok () := fun k => by
    refine checkAll_ok_iff.2 fun j hj => ?_
    have hn : (treeSpan 0 k).n < 2 ^ 40 := BitVec.isLt _
    have hw : inWindow (((treeSpan 0 k).addr.toNat + j) % 2 ^ 64) = false := inWindow_zero_add hn (List.mem_range.1 hj)
    simp only [hw, Bool.not_false, if_true]
  refine ⟨?_, ?_, ?_⟩
  · rcases known_eq h d with e | e <;> rw [e]
    · rfl
    · exact halign
  · rcases known_eq h (d + 1) with e | e <;> rw [e]
    · rw [hzero.1, hzero.2]; exact ⟨Nat.zero_le _, Nat.zero_le _⟩
    · exact ⟨hht, hn⟩
  · rcases known_eq h d with e | e <;> rw [e]
    · exact hlow _
    · rcases known_eq h (d + 1) with e' | e' <;> rw [e']
      · exact checkAll_ok_iff.2 fun j hj => absurd (List.mem_range.1 hj) (by simp [treeSpan])
      · exact hwin

/-- Copy of a tree's expansion by caout. -/
def copyTree (s : State) (h : Site) (e id : Nat) (d a : BitVec 6) : Copy :=
  { Copy.blank h .tree e with
    list := h.kr d.toNat, count := (treeSpan (h.kr d.toNat) (h.kr (d.toNat + 1))).n, root := (h.caName a).toNat, store := id,
    height := treeHeight (h.kr (d.toNat + 1)), undef := h.lostK [d.toNat + 1, a.toNat, a.toNat + 1] || h.undefK d.toNat,
    into := s.reached h.ctx .write [treeSpan (h.kr d.toNat) (h.kr (d.toNat + 1))] }

theorem startCopy_tree (htree : c.kind = .tree) (hq : s.queued c.engine < 256) (hg : s.groupCopies h.key < 64) (hv : h.l.isInvar = false) :
    startCopy s h c = .ok ((State.modGroup { s with copies := tset s.copies s.nextId c, nextId := s.nextId + 1 } h fun g =>
      { g with unclosed := g.unclosed ++ [s.nextId] }).advance h) := by
  rw [startCopy, if_neg (by simp [htree]), if_neg (by simp [hq, hg])]
  simp only [hv, Bool.false_eq_true, if_false]

/-! ### The forms -/

section
variable {d a b : BitVec 6} {e : Nat} (hr : Ready s h) (ha : atomsDone s h = .ok ()) (he : s.pickEngine h.ctx h.die = some e)
include hr ha he

theorem cpy_starts (hok : checkCopy s h (copyBase s h .box false e d a b h.kr) = .ok () ∧
    checkWindow s h (copyBase s h .box false e d a b h.kr) = .ok ()) :
    StartsCopy s h (.cpy d a b) ((copyBase s h .box false e d a b h.kr).aimed s) := by
  have hi : exec (.cpy d a b) s = execCpy d a b s := rfl
  exact copyOp_starts hr ha he (hi.trans (execCpy.eq_def ..)) (fun h => by cases h) (knownCopy_base (by decide)) rfl rfl rfl hok

theorem cpym_starts (hok : checkCopy s h (copyBase s h .multicast false e d a b h.kr) = .ok () ∧
    checkWindow s h (copyBase s h .multicast false e d a b h.kr) = .ok ())
    (hspad : (Ident.of (copyBase s h .multicast false e d a b h.kr).dst).spad = true) :
    StartsCopy s h (.cpym d a b) ((copyBase s h .multicast false e d a b h.kr).aimed s) := by
  have hi : exec (.cpym d a b) s = execCpym d a b s := rfl
  have hown := need_ok_iff (k := .tableBound) (x := 0) (t := h.mask).2 (Bool.or_eq_true_iff (x := h.undefK d.toNat).2 (.inr hspad))
  exact copyOp_starts hr ha he (hi.trans (execCpym.eq_def ..)) (fun h => by cases h) (knownCopy_base (by decide)) rfl hown hown hok

/-- A copy with a signal word, its operands read by `rd`. -/
def copySignal (s : State) (h : Site) (e : Nat) (d a b : BitVec 6) (rd : Nat → Word64) : Copy :=
  { copyBase s h .signal true e d a b rd with sig := rd (b.toNat + 1) }

theorem cpyo_starts (heven : b.toNat % 2 = 0) (hok : checkCopy s h (copySignal s h e d a b h.kr) = .ok () ∧
    checkWindow s h (copySignal s h e d a b h.kr) = .ok ()) (hsig : (h.kr (b.toNat + 1)).toNat % 8 = 0) :
    StartsCopy s h (.cpyo d a b) ((copySignal s h e d a b h.kr).aimed s) := by
  have hi : exec (.cpyo d a b) s = execCpyo d a b s := rfl
  have hbase := knownCopy_base (s := s) (h := h) (kind := .signal) (pair := true) (e := e) (d := d) (a := a) (b := b) (by decide)
  have hsig' : (h.known (b.toNat + 1)).toNat % 8 = 0 := by
    rcases known_eq h (b.toNat + 1) with e | e <;> rw [e]
    · rfl
    · exact hsig
  refine copyOp_starts hr ha he (hi.trans (execCpyo.eq_def ..)) (fun _ => heven) (c := copySignal s h e d a b h.kr) ?_ rfl
    (need_ok_iff.2 (beq_iff_eq.2 hsig')) (need_ok_iff.2 (beq_iff_eq.2 hsig)) hok
  refine ⟨rfl, rfl, rfl, rfl, hbase.start, hbase.col, known_eq h _, fun hl => ?_⟩
  rw [hbase.box hl]; rfl

/-- A gather, its operands read by `rd`. -/
def copyGather (s : State) (h : Site) (e : Nat) (d a b : BitVec 6) (rd : Nat → Word64) : Copy :=
  { copyBase s h .gather false e d a b rd with
    list := ((rd a.toNat).extractLsb' 0 32).setWidth 64, count := ((rd a.toNat).extractLsb' 32 16).toNat,
    first := ((rd a.toNat).extractLsb' 48 16).toNat }

theorem cpyg_starts (hok : checkCopy s h (copyGather s h e d a b h.kr) = .ok () ∧ checkWindow s h (copyGather s h e d a b h.kr) = .ok ())
    (hlist : (copyGather s h e d a b h.kr).list.toNat % 4 = 0) (hroom : (copyGather s h e d a b h.kr).count = 0 ∨
      (copyGather s h e d a b h.kr).list.toNat + 4 * (copyGather s h e d a b h.kr).count ≤ s.teamScratch h.team) :
    StartsCopy s h (.cpyg d a b) ((copyGather s h e d a b h.kr).aimed s) := by
  have hi : exec (.cpyg d a b) s = execCpyg d a b s := rfl
  have hcol : ∀ rd, (copyGather s h e d a b rd).col = ((rd a.toNat).extractLsb' 48 16).toNat := fun _ => rfl
  have hzero : h.known a.toNat = 0 → (copyGather s h e d a b h.known).list = 0 ∧ (copyGather s h e d a b h.known).count = 0 :=
    fun e => by simp [copyGather, e]
  have hsame : h.known a.toNat = h.kr a.toNat → (copyGather s h e d a b h.known).list = (copyGather s h e d a b h.kr).list ∧
      (copyGather s h e d a b h.known).count = (copyGather s h e d a b h.kr).count := fun e => by simp [copyGather, e]
  have hlist' : (copyGather s h e d a b h.known).list.toNat % 4 = 0 := by
    rcases known_eq h a.toNat with e | e
    · rw [(hzero e).1]; rfl
    · rw [(hsame e).1]; exact hlist
  have hroom' : (copyGather s h e d a b h.known).count = 0 ∨
      (copyGather s h e d a b h.known).list.toNat + 4 * (copyGather s h e d a b h.known).count ≤ s.teamScratch h.team := by
    rcases known_eq h a.toNat with e | e
    · exact .inl (hzero e).2
    · rw [(hsame e).1, (hsame e).2]; exact hroom
  have hown : ∀ c : Copy, c.list.toNat % 4 = 0 → (c.count = 0 ∨ c.list.toNat + 4 * c.count ≤ s.teamScratch h.team) →
      (if c.list.toNat % 4 ≠ 0 then .error (.cause .addrAlign c.list 0)
        else need (c.count == 0 || decide (c.list.toNat + 4 * c.count ≤ s.teamScratch h.team)) .scratchBound c.list 0 : Except Stop Unit) =
        .ok () := fun c hl hn => by
    rw [if_neg (not_not_intro hl), need_ok_iff, Bool.or_eq_true, beq_iff_eq, decide_eq_true_eq]; exact hn
  refine copyOp_starts hr ha he (hi.trans (execCpyg.eq_def ..)) (fun h => by cases h) (c := copyGather s h e d a b h.kr) ?_ rfl
    (hown _ hlist' hroom') (hown _ hlist hroom) hok
  refine ⟨rfl, rfl, rfl, rfl, coordOf_known h _ 0, ?_, .inl rfl, fun hl => ?_⟩
  · refine (known_eq h a.toNat).imp (fun e => ?_) fun e => ?_
    · exact (hcol h.known).trans (by rw [e]; rfl)
    · exact (hcol h.known).trans (by rw [e]; rfl)
  · obtain ⟨ha, hb⟩ := defined_of_lostK_pair hl
    simp only [copyBase, ha, hb]
    rfl

theorem cpyr_starts {dir : Access} (hdir : dir = if (h.kr d.toNat).getLsbD 16 then .write else .read)
    (hallot : ((h.kr d.toNat).extractLsb' 0 8).toNat + ((h.kr d.toNat).extractLsb' 8 8).toNat ≤ 8 * h.g.vgran)
    (hok : regsChecks s h ((h.kr d.toNat).extractLsb' 8 8).toNat dir
      (regsCopy h ((h.kr d.toNat).getLsbD 16) e (h.kr d.toNat) h.kr a b) = .ok ()) :
    StartsCopy s h (.cpyr d a b) { regsCopy h ((h.kr d.toNat).getLsbD 16) e (h.kr d.toNat) h.kr a b with
      undef := h.lostK [d.toNat, a.toNat, b.toNat],
      into := s.reached h.ctx dir ((List.range ((h.kr d.toNat).extractLsb' 8 8).toNat).map
        ((regsCopy h ((h.kr d.toNat).getLsbD 16) e (h.kr d.toNat) h.kr a b).regSpan h)) } := by
  have hi : exec (.cpyr d a b) s = execCpyr d a b s := rfl
  refine startsCopy hr (hi.trans (execCpyr.eq_def ..)) ?_
  have hknown := regsChecks_known (e := e) (!h.undefK d.toNat) hok
  have hcount : (regsCopy h ((h.kr d.toNat).getLsbD 16) e (h.kr d.toNat) h.kr a b).count = ((h.kr d.toNat).extractLsb' 8 8).toNat := rfl
  have hneed := need_ok_iff (k := .regAllot) (x := 0) (t := h.mask).2 (decide_eq_true hallot)
  have hengine : h.engine s = .ok e := by simp only [Site.engine, he]
  rw [hcount] at hknown
  subst hdir
  simp only [hneed, hengine, hcount, ok_bind]
  rw [hknown]
  simp only [ha, hok, ok_bind, unlessLost]
  exact ite_self _

theorem caout_starts {b' : BitVec 4} {id : Nat} {x : Store} {l : Line} (hd : d.toNat % 2 = 0) (hae : a.toNat % 2 = 0)
    (hb : bound s h b' 0 = .ok (id, x)) (hsteps : ∀ y ∈ s.caSteps, ¬(y.core = h.core ∧ y.entry = h.entry))
    (hok : treeChecks s h (h.kr d.toNat) (h.kr (d.toNat + 1)) = .ok ()) (hlive : x.live? (h.caName a) = some l)
    (hkind : l.interior = decide (0 < treeHeight (h.kr (d.toNat + 1)))) {t : State}
    (hgo : startCopy { s with stores := tset s.stores id (x.addRef (h.caName a)) } h (copyTree s h e id d a) = .ok t) :
    exec (.caout d a b') s = .next t := by
  have hi : exec (.caout d a b') s = execCaout d a b' s := rfl
  refine hi.trans (issue_ok hr ?_)
  have heven : evenAll [d.toNat, a.toNat] = .ok () := evenAll_append (xs := [d.toNat]) (ys := [a.toNat]) (by simpa using hd) (by simpa using hae)
  have hengine : h.engine s = .ok e := by simp only [Site.engine, he]
  have hknown := treeChecks_known hok
  have hsteps' : ¬(s.caSteps.any fun c => c.core == h.core && c.entry == h.entry) = true := by
    simpa only [List.any_eq_true, Bool.and_eq_true, beq_iff_eq, not_exists, not_and] using hsteps
  have hnamed : ((x.live? (h.caName a)).map fun l => l.interior == decide (0 < treeHeight (h.kr (d.toNat + 1)))).getD false = true := by
    simp [hlive, hkind]
  have hneed : ∀ p, need (true || p) .caStale 0 h.mask = .ok () := fun p => rfl
  have hneed' : need true .caStale 0 h.mask = .ok () := rfl
  simp only [heven, hb, hengine, hknown, if_neg hsteps', ha, hnamed, hneed, hok, hneed', ok_bind, unlessLost]
  exact hgo

end

/-- Settles O35: what is known of the operands passes the checks where they do, and so the copy is handed to its engine. -/
theorem copyIssue : Obligations.CopyIssue := by
  unfold Obligations.CopyIssue
  refine ⟨fun s h hr ha d a b e he => ?_, fun s h hr ha d a b id e x l hd hae hb he => ?_⟩
  · intro k base ok
    refine ⟨fun hok => ?cpy, fun hok hspad => ?cpym, fun heven => ?cpyo, ?cpyg, ?cpyr⟩
    case cpy => exact cpy_starts hr ha he hok
    case cpym => exact cpym_starts hr ha he hok hspad
    case cpyo => exact cpyo_starts hr ha he heven
    case cpyg => exact cpyg_starts hr ha he
    case cpyr =>
      intro n st dir span c hlist hst hfirst hwin
      refine cpyr_starts hr ha he rfl hfirst (regsChecks_ok_iff.2 ⟨⟨hlist, ?_⟩, hwin⟩)
      rw [regsCopy_stride]; exact hst
  · intro k n ht root c s' hdest hht hn hwin hsteps hlive hkind hq hg hinvar
    have hlost : (h.lostK [d.toNat + 1, a.toNat, a.toNat + 1] || h.undefK d.toNat) =
        h.lostK [d.toNat, d.toNat + 1, a.toNat, a.toNat + 1] := Bool.or_comm ..
    have hc : c = copyTree s h e id d a := by simp only [copyTree, hlost]; rfl
    rw [hc]
    refine caout_starts hr ha he hd hae hb hsteps ?_ hlive hkind (startCopy_tree rfl hq hg hinvar)
    simp only [treeChecks, seq_ok_iff, need_ok_iff, Bool.and_eq_true, beq_iff_eq, decide_eq_true_eq]
    exact ⟨hdest, ⟨hht, hn⟩, hwin⟩

end Sys2Proof.Machine
end

section
/-!
SUPPORT. Batches (16 R355), and the delivery and completion of copies (07 R169, R170; 10 R224).
-/

namespace Sys2Proof.Machine

open Sys2Proof

/-! ### Batches of a group -/

theorem settle_eq (g : Group) : g.settle = { g with
    batches := (settleBatches g.batches g.batchDone).1, batchDone := (settleBatches g.batches g.batchDone).2,
    splits := g.splits.map (wakeBatch { g with
      batches := (settleBatches g.batches g.batchDone).1, batchDone := (settleBatches g.batches g.batchDone).2 }) } := rfl

/-- A split that is not parked is not woken. -/
theorem wakeBatch_of_not_parked {g : Group} {x : Split} (hx : x.park = none) : wakeBatch g x = x := by
  simp only [wakeBatch, hx]

theorem settle_split {g : Group} {i : Nat} (hi : i < g.splits.length) (hx : (g.split i).park = none) : g.settle.split i = g.split i := by
  have hat : g.splits[i].park = none := by simpa [Group.split, atD, hi] using hx
  simp [settle_eq, Group.split, atD, hi, wakeBatch_of_not_parked hat]

/-- What is left of the batches of a group is some of them. -/
theorem mem_settleBatches {l : List (Word32 × List Nat)} {d : Word32} {x : Word32 × List Nat} (hx : x ∈ (settleBatches l d).1) : x ∈ l := by
  induction l generalizing d with
  | nil => exact hx
  | cons y r ih =>
    obtain ⟨n, ids⟩ := y
    cases ids with
    | nil => exact List.mem_cons_of_mem _ (ih hx)
    | cons i ids => exact hx

theorem copyDone_removed (id : Nat) (g : Group) : id ∉ (g.copyDone id).unclosed ∧ ∀ x ∈ (g.copyDone id).batches, id ∉ x.2 := by
  refine ⟨fun hid => ?_, fun x hx hid => ?_⟩
  · have : id ∈ g.unclosed.filter (· != id) := hid
    simp at this
  · obtain ⟨y, hy, rfl⟩ := List.mem_map.1 (mem_settleBatches (l := g.batches.map fun (n, l) => (n, l.filter (· != id))) hx)
    simp at hid

/-! ### Delivering rows -/

section
variable {s s1 : State} {c : Copy}

theorem excuse_ok (other : Except Stop State) : c.excuse other (.ok s1) = .ok s1 := rfl

theorem excuse_wait (other : Except Stop State) : c.excuse other (.error .wait) = .error .wait := rfl

theorem excuse_cause (other : Except Stop State) (e : Cause) (a t : Word64) :
    c.excuse other (.error (.cause e a t)) = if c.undef then other else .error (.cause e a t) := rfl

theorem deliverRows_succ_ok {n : Nat} (hd : s.deliverRow c = .ok s1) :
    deliverRows c (n + 1) s = deliverRows { c with next := c.next + 1 } n { s1 with freeCtr := s1.freeCtr + 1 } := by
  simp only [deliverRows, hd, excuse_ok]

theorem deliverRows_succ_cause {n : Nat} {e : Cause} {a t : Word64} (hd : s.deliverRow c = .error (.cause e a t)) :
    deliverRows c (n + 1) s =
      if c.undef = true then deliverRows { c with next := c.next + 1 } n { s with freeCtr := s.freeCtr + 1 } else .error (.cause e a t) := by
  cases hu : c.undef <;> simp [deliverRows, hd, excuse_cause, hu]

/-! ### One step and the end of a copy -/

theorem exec_copyDeliver {id : Nat} (hc : tget s.copies id = some c) (hn : c.next < c.rows) :
    exec (.copyDeliver id) s = .next (s.copyStep id c) := by
  have hi : exec (.copyDeliver id) s = execCopyDeliver id s := rfl
  rw [hi, execCopyDeliver, hc]
  exact if_pos hn

theorem exec_copyComplete {id : Nat} (hc : tget s.copies id = some c) (hn : ¬c.next < c.rows) :
    exec (.copyComplete id) s = .next (s.copyEnd id c) := by
  have hi : exec (.copyComplete id) s = execCopyComplete id s := rfl
  rw [hi, execCopyComplete, hc]
  exact if_neg hn

theorem copyStep_rows {id : Nat} (hk : c.kind ≠ .tree) :
    s.copyStep id c = s.engineStep c ((deliverRows c c.stepRows s).map fun s =>
      { s with copies := tset s.copies id { c with next := c.next + c.stepRows } }) := by
  rw [State.copyStep, if_neg hk]

/-- The state once the copy `id` has ended: it is gone, and out of its group's batches. -/
def State.withoutCopy (s : State) (id group : Nat) : State :=
  { s with copies := terase s.copies id, groups := match tget s.groups group with
    | some g => tset s.groups group (g.copyDone id)
    | none => s.groups }

theorem finishCopy_ok {id : Nat} (hsig : s.signalWord c = .ok s1) : s.finishCopy id c = .ok (s1.withoutCopy id c.group) := by
  unfold State.finishCopy State.withoutCopy
  cases hg : tget s1.groups c.group <;> simp [hsig, hg]

/-- A state has ended the copy `id` that `s` holds. -/
def EndsCopy (id group : Nat) (s t : State) : Prop := t.copies = terase s.copies id ∧
  ∀ g, tget s.groups group = some g → ∃ g', tget t.groups group = some g' ∧ id ∉ g'.unclosed ∧ ∀ x ∈ g'.batches, id ∉ x.2

theorem withoutCopy_ends (s : State) (id group : Nat) : EndsCopy id group s (s.withoutCopy id group) := by
  refine ⟨rfl, fun g hg => ⟨g.copyDone id, ?_, copyDone_removed id g⟩⟩
  simp [State.withoutCopy, hg]

/-! ### Copies of a tree -/

theorem copyStep_tree {id : Nat} (hk : c.kind = .tree) (ht : s.deliverTree c = .ok s1) :
    s.copyStep id c = { s1 with copies := tset s1.copies id { c with next := c.next + 1 }, freeCtr := s1.freeCtr + 1 } := by
  rw [State.copyStep, if_pos hk, ht]
  rfl

theorem copyStep_stale {id : Nat} (hk : c.kind = .tree) (hu : c.undef = false) (ht : s.deliverTree c = .error (.cause .caStale 0 0)) :
    s.copyStep id c = (s.dropTree c).engineStop c.ctx c.team c.pc .caStale 0 := by
  rw [State.copyStep, if_pos hk, ht, excuse_cause, hu]
  rfl

theorem deliverTree_chunk {x : Store} {bs : List Byte} (hx : tget s.stores c.store = some x)
    (hb : x.treeChunk c.height (BitVec.ofNat 128 c.root) (64 * c.next) = some bs)
    (hw : s.engineWrite c.agent (c.list + BitVec.ofNat 64 (64 * c.next)) (bs.take (min 64 (c.count - 64 * c.next))) = .ok s1) :
    s.deliverTree c = .ok ((s1.countCopy c.ctx (min 64 (c.count - 64 * c.next))).chargeHbm c.ctx 64 0) := by
  unfold State.deliverTree
  simp only [hx, Option.bind_some, hb, hw]
  rfl

theorem deliverTree_none {x : Store} (hx : tget s.stores c.store = some x)
    (hb : x.treeChunk c.height (BitVec.ofNat 128 c.root) (64 * c.next) = none) : s.deliverTree c = .error (.cause .caStale 0 0) := by
  unfold State.deliverTree
  simp only [hx, Option.bind_some, hb]

theorem dropTree_eq {x : Store} (hx : tget s.stores c.store = some x) :
    s.dropTree c = { s with stores := tset s.stores c.store (x.dropRef c.team (BitVec.ofNat 128 c.root)) } := by
  simp only [State.dropTree, hx]

end

/-- What a copy that has delivered its rows leaves, if its signal word takes the value. -/
theorem copyEnd_rows {s s1 : State} {c : Copy} {id : Nat} (hk : c.kind ≠ .tree) (hsig : s.signalWord c = .ok s1) :
    s.copyEnd id c = { s1.withoutCopy id c.group with freeCtr := s1.freeCtr + 1 } := by
  rw [State.copyEnd, finishCopy_ok hsig, excuse_ok]
  simp only [Except.map, if_neg hk]
  rfl

theorem copyEnd_tree {s : State} {c : Copy} {id : Nat} {x : Store} (hk : c.kind = .tree) (hsig : c.sig = 0)
    (hx : tget s.stores c.store = some x) :
    s.copyEnd id c = { s.withoutCopy id c.group with
      stores := tset s.stores c.store (x.dropRef c.team (BitVec.ofNat 128 c.root)), freeCtr := s.freeCtr + 1 } := by
  have hok : s.signalWord c = .ok s := if_pos hsig
  have hx' : tget (s.withoutCopy id c.group).stores c.store = some x := hx
  rw [State.copyEnd, finishCopy_ok hok, excuse_ok]
  simp only [Except.map, if_pos hk, dropTree_eq hx']
  rfl

/-! ### bclose and bwait -/

theorem bclose_leaves {s : State} {h : Site} (hr : Ready s h) (hp : h.sp.park = none) :
    exec .bclose s = .next (s.withGroup h (h.moved (nextPc h.sp.pc) false h.g.closeBatch)) := by
  have hi : exec .bclose s = execBclose s := rfl
  have hix := site_lt hr.1
  have hself : h.g.closeBatch.split h.ix = h.sp := by
    rw [← site_split hr.1] at hp ⊢
    exact settle_split (g := { h.g with batches := h.g.batches ++ [(h.g.batchOpen, h.g.unclosed)], unclosed := [], batchOpen := _ }) hix hp
  exact hi.trans ((issue_ok hr rfl).trans (congrArg Host.Outcome.next (goto_modGroup_split Group.closeBatch _ (site_group hr.1) hself)))

theorem moved_pc {h : Site} {g : Group} (pc : Word64) (hi : h.ix < g.splits.length) : ((h.moved pc false g).split h.ix).pc = pc := by
  simp [Group.split, atD, Site.moved, hi, Site.onward]

theorem closeBatch_length (g : Group) : g.closeBatch.splits.length = g.splits.length := by
  simp [Group.closeBatch, settle_eq]

theorem bwait_body {s : State} {h : Site} (hr : Ready s h) (a : BitVec 6) {n : Word32} (hn : n = (h.kr a.toNat).setWidth 32) :
    exec (.bwait a) s = .next (if (!batchFuture h.g n && batchReached h.g n) = true then s.advance h
      else s.parkSplit h (.batch n (!batchFuture h.g n))) := by
  have hi : exec (.bwait a) s = execBwait a s := rfl
  subst hn
  refine hi.trans (issue_ok hr ?_)
  simp only
  split <;> rfl

/-- Settles O36: each step of a copy is one of `copyStep`, and its end `copyEnd`; the batches are those of `Group.settle`. -/
theorem batches : Obligations.Batches := by
  unfold Obligations.Batches
  refine ⟨fun s h hr hp a => ?batch, fun s s1 c n e a t => ?rows, fun s id c hc => ?copy⟩
  case batch =>
    intro n closed done
    have hclosed : (!batchFuture h.g n) = decide closed := by rw [batchFuture, decide_not]
    have hdone : batchReached h.g n = decide done := rfl
    have hwait := bwait_body hr a (n := n) rfl
    refine ⟨⟨_, h.moved (nextPc h.sp.pc) false h.g.closeBatch, bclose_leaves hr hp, tget_tset_same .., rfl, rfl, rfl, ?_⟩,
      fun h1 h2 => ?_, fun hn => ?_⟩
    · exact moved_pc _ (by rw [closeBatch_length]; exact site_lt hr.1)
    · rw [hclosed, hdone, decide_eq_true h1, decide_eq_true h2, if_pos (by decide)] at hwait
      exact hwait.trans (congrArg Host.Outcome.next (advance_eq hr.1))
    · rw [hclosed, hdone, if_neg (by simpa using hn)] at hwait
      exact hwait
  case rows => exact ⟨rfl, deliverRows_succ_ok, deliverRows_succ_cause⟩
  case copy =>
    refine ⟨fun hk => ?_, fun hk hsig x hx => ?_⟩
    · intro rows
      refine ⟨fun hn s1 hd => ?_, fun hn e a t hd => ?_, fun hn s1 hsig => ?_⟩
      · rw [exec_copyDeliver hc hn, copyStep_rows hk]
        rw [show deliverRows c c.stepRows s = .ok s1 from hd]; rfl
      · rw [exec_copyDeliver hc hn, copyStep_rows hk]
        rw [show deliverRows c c.stepRows s = .error (.cause e a t) from hd]; rfl
      · refine ⟨_, exec_copyComplete hc hn, ?_⟩
        rw [copyEnd_rows hk hsig]
        exact withoutCopy_ends s1 id c.group
    · intro root dropped
      refine ⟨fun hn bs s1 hb => ?_, fun hn hb hu => ?_, fun hn => ⟨_, exec_copyComplete hc hn, ?_⟩⟩
      · intro n hw v
        rw [exec_copyDeliver hc hn, copyStep_tree hk (deliverTree_chunk hx hb hw)]
      · rw [exec_copyDeliver hc hn, copyStep_stale hk hu (deliverTree_none hx hb), dropTree_eq hx]
      · rw [copyEnd_tree hk hsig hx]
        exact ⟨withoutCopy_ends s id c.group, rfl⟩

end Sys2Proof.Machine
end

section
/-!
SUPPORT. The matrix unit accepts its operations (16 R356 to R365).
-/

namespace Sys2Proof.Machine

open Sys2Proof

section
variable {s : State} {h : Site}

/-- A body that ends in the acceptance of an operation. -/
theorem accepts {i : Instr} {body : Site → Except Stop State} {kind : MatKind} {id : Mem} {into : List (Nat × Nat)} (hr : Ready s h)
    (hv : h.l.isInvar = false) (hi : exec i s = issue s body) (hb : body h = accept s h kind id false into) :
    Accepts s h i kind id into := by
  unfold Accepts
  intro m
  have hown : ((m.cores h.team).all fun c => (s.core c).owner == some h.tid) = true ↔
      ∀ c ∈ m.cores h.team, (s.core c).owner = some h.tid := by simp only [List.all_eq_true, beq_iff_eq]
  have haccept : accept s h kind id false into = if ((m.cores h.team).all fun c => (s.core c).owner == some h.tid) = true
      then .ok (State.advance { s with mats := s.mats ++ [m] } h) else .error .wait := by
    unfold accept ownUnits
    simp only [hv, Bool.false_eq_true, if_false]
    split <;> split <;> simp_all [m]
  rw [haccept] at hb
  split
  next ho =>
    rw [if_pos (hown.2 ho)] at hb
    refine (hi.trans (issue_ok hr hb)).trans (congrArg Host.Outcome.next ?_)
    exact goto_eq (s := { s with mats := s.mats ++ [m] }) _ (site_group hr.1) (site_split hr.1)
  next ho =>
    rw [if_neg (mt hown.1 ho)] at hb
    exact hi.trans (issue_wait hr hb)

theorem checkScratch_ok_iff {size : Nat} {ps : List Span} : checkScratch size ps = .ok () ↔ ∀ p ∈ ps, p.addr.toNat + p.n ≤ size := by
  rw [checkScratch, checkAll_ok_iff]
  simp only [need_ok_iff, inScratch, decide_eq_true_eq]

theorem waited_mats (s : State) (key : Nat) : ∀ m ∈ (s.waited key).mats, m.group ≠ key := fun m hm => by
  simpa using (List.mem_filter.1 hm).2

/-- Nothing touched the registers of the group's operations. -/
theorem waited_of_untouched {key : Nat} (hu : ∀ m ∈ s.mats, m.group = key → m.spoiled = false) :
    s.waited key = { s with mats := s.mats.filter fun m => m.group != key } := by
  have hnone : (s.mats.filter fun m => m.group == key && m.spoiled) = [] := by
    simp only [List.filter_eq_nil_iff, Bool.and_eq_true, beq_iff_eq, not_and, Bool.not_eq_true]
    exact hu
  rw [State.waited, hnone]
  rfl

end

/-- Settles O37: each body checks its operands and then accepts (`accepts`). -/
theorem matrixIssue : Obligations.MatrixIssue := by
  unfold Obligations.MatrixIssue
  intro s h hr hv r d t a i id b k
  refine ⟨accepts hr hv rfl rfl, accepts hr hv rfl rfl, fun ha => ⟨?fenop, fun hc => ?tld, fun hc => ?mma, fun hc => ?mmap,
    fun hvalid h2 h3 h0 h1 hfmt hbl => ?accrd⟩, ?mwait⟩
  case fenop =>
    have hi : exec .fenop s = execFenop s := rfl
    refine (hi.trans (issue_ok hr ?_)).trans (congrArg Host.Outcome.next (advance_eq hr.1))
    simp only [ha, ok_bind]
  case tld =>
    have hi : exec (.tld t i) s = execTld t i s := rfl
    refine accepts hr hv hi ?_
    simp only [b, id] at hc
    simp only [hc, ha, ok_bind]
    rfl
  case mma =>
    have hi : exec (.mma r d t i) s = execMma r d t i s := rfl
    refine accepts hr hv hi ?_
    simp only [b, id] at hc
    simp only [hc, ha, ok_bind]
    rfl
  case mmap =>
    have hi : exec (.mmap r d t i) s = execMmap r d t i s := rfl
    refine accepts hr hv hi ?_
    simp only [b, id] at hc
    simp only [hc, ha, ok_bind]
    rfl
  case accrd =>
    intro ps hps
    have hi : exec (.accrd d i) s = execAccrd d i s := rfl
    have hform : (b.valid && b.dim 2 == 1 && b.dim 3 == 1 && decide (b.dim 0 ≤ 128) && decide (b.dim 1 ≤ 128) && decide (b.fmt ≤ 5) &&
        (b.fmt != 5 || b.dim 0 % b.bl == 0)) = true := by
      simp only [hvalid, h2, h3, h0, h1, hfmt, beq_self_eq_true, decide_true, Bool.and_self, Bool.true_and, Bool.or_eq_true, bne_iff_ne,
        beq_iff_eq]
      exact or_iff_not_imp_left.2 fun h5 => hbl (not_not.1 h5)
    have hneed := need_ok_iff (k := .tableBound) (x := 0) (t := h.mask).2 hform
    refine accepts hr hv hi ?_
    simp only [b, id] at hneed
    simp only [hneed, ok_bind, ha]
    split at hps
    next hs =>
      have hbound := checkScratch_ok_iff.2 hps
      simp only [ps, b, id] at hs hbound ⊢
      simp only [if_pos hs, hbound, ok_bind]
    next hs =>
      have hbound := checkAll_ok_iff.2 hps
      simp only [ps, b, id] at hs hbound ⊢
      simp only [if_neg hs, hbound, ok_bind]
  case mwait =>
    have hi : exec .mwait s = execMwait s := rfl
    have hany : (s.mats.any fun m => m.group == h.key && !m.retired) = true ↔ ∃ m ∈ s.mats, m.group = h.key ∧ m.retired = false := by
      simp only [List.any_eq_true, Bool.and_eq_true, beq_iff_eq, Bool.not_eq_true']
    split
    next hw => exact hi.trans (issue_wait hr (if_pos (hany.2 hw)))
    next hw => exact ⟨hi.trans (issue_ok hr (if_neg (mt hany.1 hw))), waited_mats s h.key, waited_of_untouched⟩

end Sys2Proof.Machine
end

section
/-!
SUPPORT. Matrix operations retire (16 R359 to R364; 07 R154, R155).
-/

namespace Sys2Proof.Machine

open Sys2Proof

/-! ### The turn of an operation -/

section
variable {s s1 : State} {core i : Nat} {m : MatOp} {t : Team} (hhead : headOf s core = some i) (hm : s.mats[i]? = some m)
include hhead hm

theorem exec_matrixRetire : exec (.matrixRetire core) s =
    .next (s.matDone m ((matTry s m).map fun s1 => { s1 with mats := retireMat s1.mats i m })) := by
  have hi : exec (.matrixRetire core) s = execMatrixRetire core s := rfl
  rw [hi, execMatrixRetire, hhead]
  simp only [hm]

theorem retires (hrun : matRun s m = .ok s1) :
    exec (.matrixRetire core) s = .next { s1 with mats := retireMat s1.mats i m, freeCtr := s1.freeCtr + 1 } := by
  rw [exec_matrixRetire hhead hm, matTry, hrun]
  rfl

theorem retire_fails {e : Cause} {a x : Word64} (hrun : matRun s m = .error (.cause e a x)) (hu : m.undef = false)
    (hbad : s.badTile m = false) : exec (.matrixRetire core) s = .next (s.engineStop m.ctx m.team m.pc e a.toNat) := by
  rw [exec_matrixRetire hhead hm, matTry, hrun]
  simp only [hu, hbad, Bool.false_eq_true, if_false]
  rfl

end

/-! ### What an operation that nothing has spoiled writes -/

theorem mapIdx_spoiled {m : MatOp} (hm : m.spoiled = false) (s : State) (f : Nat → Nat) (bs : List Byte) :
    (bs.mapIdx fun i b => spoiled s m (f i) b) = bs := by
  have hid : (fun i b => spoiled s m (f i) b) = fun (_ : Nat) (b : Byte) => b := by
    funext i b; simp [spoiled, hm]
  rw [hid]
  exact List.ext_getElem (by simp) (by simp)

theorem matRun_accz {s : State} {m : MatOp} {t : Team} {a : Nat} (ht : tget s.teams m.team = some t) (hm : m.spoiled = false)
    (hk : m.kind = .accz a) :
    matRun s m = .ok (s.setTeam m.team { t with accs := writeBytes t.accs (accOff t m.core a) (natBytes 0x10000 0) }) := by
  unfold matRun
  simp only [ht, hk]
  rw [mapIdx_spoiled hm s fun j => j]

theorem matRun_tld {s : State} {m : MatOp} {t : Team} {n : Nat} (ht : tget s.teams m.team = some t) (hm : m.spoiled = false)
    (hk : m.kind = .tld n) :
    ∃ bad, matRun s m = .ok (s.setTeam m.team { t with
      badTiles := bad, tiles := writeBytes (writeBytes t.tiles (tileOff t m.core n) (loadTile t (Ident.of m.id)))
        (tileOff t m.core n + 16320) (tileDesc (Ident.of m.id)) }) := by
  have hfresh : ∃ bad, s.freshTile m n t = { t with badTiles := bad } := by
    unfold State.freshTile
    split
    · exact ⟨t.badTiles, rfl⟩
    · exact ⟨_, rfl⟩
  obtain ⟨bad, hbad⟩ := hfresh
  refine ⟨bad, ?_⟩
  unfold matRun
  simp only [ht, hk, putTile, hbad]
  rw [mapIdx_spoiled hm s fun j => j]

theorem matRun_accrd {s : State} {m : MatOp} {t : Team} {a : Nat} (ht : tget s.teams m.team = some t) (hk : m.kind = .accrd a) :
    matRun s m = accDeliver s m t a (List.range ((Ident.of m.id).dim 1)) s := by
  unfold matRun
  simp only [ht, hk]

theorem spoiledField_of_not {m : MatOp} (hm : m.spoiled = false) (s : State) (i unit top x : Nat) : spoiledField s m i unit top x = x := by
  simp [spoiledField, hm]

/-- The shape that a tile's descriptor allows (16 R360). -/
def shapeOk (a : Tile) (r k : Nat) : Prop := a.tvalid = true ∧ 0 < r ∧ r ≤ a.mx ∧ 0 < k ∧ k % a.bl = 0 ∧ k ≤ a.kx

theorem shapeOk_iff (a : Tile) (r k : Nat) :
    (a.tvalid && r != 0 && decide (r ≤ a.mx) && k != 0 && k % a.bl == 0 && decide (k ≤ a.kx)) = true ↔ shapeOk a r k := by
  simp only [shapeOk, Bool.and_eq_true, decide_eq_true_eq, beq_iff_eq, bne_iff_ne, Nat.pos_iff_ne_zero, and_assoc]

/-- The tile register of an operation, as a descriptor. -/
def tileAt (t : Team) (core n : Nat) : Tile := Tile.of (memOf (readBytes t.tiles (tileOff t core n) 0x4000))

theorem matRun_shape {s : State} {m : MatOp} {t : Team} {n r k : Nat} (ht : tget s.teams m.team = some t) (hm : m.spoiled = false)
    (hk : m.kind = .shape n r k) (hok : shapeOk (tileAt t m.core n) r k) :
    matRun s m = .ok (s.setTeam m.team { t with
      tiles := writeBytes t.tiles (tileOff t m.core n + 16324) (natBytes 2 r ++ natBytes 2 k) }) := by
  unfold matRun
  have hok' := (shapeOk_iff _ _ _).2 hok
  simp only [ht, hk]
  rw [tileAt] at hok'
  rw [hok']
  simp only [if_true, Bool.not_true, Bool.false_and, Bool.false_eq_true, if_false, spoiledField_of_not hm]

theorem matRun_shape_bound {s : State} {m : MatOp} {t : Team} {n r k : Nat} (ht : tget s.teams m.team = some t) (hu : m.undef = false)
    (hk : m.kind = .shape n r k) (hok : ¬shapeOk (tileAt t m.core n) r k) : matRun s m = .error (.cause .tableBound 0 0) := by
  unfold matRun
  have hok' := Bool.not_eq_true _ ▸ mt (shapeOk_iff _ _ _).1 hok
  simp only [ht, hk]
  rw [tileAt] at hok'
  rw [hok']
  simp only [Bool.not_false, Bool.true_and, Bool.false_eq_true, if_false, hu, Bool.false_and, if_true]

/-! ### Products -/

/-- The accumulator bytes that `accElem` reads, and where the column `j` of a result lies. -/
def cellAddr (off x c : Nat) : Nat := off + 4 * (128 * x + c)
def columnAt (half o1 o2 j : Nat) : Nat × Nat := if j < half then (o1, j) else (o2, j - half)

/-- A column's address, of an element. -/
def elemAddr (half o1 o2 : Nat) (p : Nat × Nat) : Nat := cellAddr (columnAt half o1 o2 p.2).1 p.1 (columnAt half o1 o2 p.2).2

/-- Words written one after another. -/
def putWords {α : Type} (addr : α → Nat) (x : α → Word32) (l : List α) (m : Mem) : Mem :=
  l.foldl (fun m p => writeLe m (addr p) 4 (x p).toNat) m

theorem readCell_writeLe_ne {m : Mem} {a n v k : Nat} (hk : k < a ∨ a + n ≤ k) : readCell (writeLe m a n v) k = readCell m k := by
  rw [writeLe, readCell_writeBytes_ne (by rwa [length_natBytes])]

theorem readLe_congr {m m' : Mem} {a n : Nat} (hm : ∀ k, a ≤ k → k < a + n → readCell m' k = readCell m k) : readLe m' a n = readLe m a n := by
  rw [readLe, readLe]
  congr 1
  refine List.ext_getElem (by simp) fun j h1 h2 => ?_
  rw [getElem_readBytes, getElem_readBytes]
  rw [length_readBytes] at h1
  exact hm _ (by omega) (by omega)

section
variable {α : Type} {addr : α → Nat} {x : α → Word32}

theorem readCell_putWords_ne {l : List α} {k : Nat} (hk : ∀ p ∈ l, k < addr p ∨ addr p + 4 ≤ k) (m : Mem) :
    readCell (putWords addr x l m) k = readCell m k := by
  induction l generalizing m with
  | nil => rfl
  | cons q r ih =>
    rw [putWords, List.foldl_cons]
    exact (ih (fun p hp => hk p (List.mem_cons_of_mem _ hp)) _).trans (readCell_writeLe_ne (hk q List.mem_cons_self))

/-- Words that do not meet keep their values. -/
theorem readLe_putWords {l : List α} {p : α} (hp : p ∈ l) (hd : ∀ q ∈ l, q = p ∨ addr q + 4 ≤ addr p ∨ addr p + 4 ≤ addr q) (m : Mem) :
    readLe (putWords addr x l m) (addr p) 4 = (x p).toNat := by
  induction l generalizing m with
  | nil => cases hp
  | cons q r ih =>
    rw [putWords, List.foldl_cons]
    have hd' : ∀ q ∈ r, q = p ∨ addr q + 4 ≤ addr p ∨ addr p + 4 ≤ addr q := fun q hq => hd q (List.mem_cons_of_mem _ hq)
    by_cases hr : p ∈ r
    · exact ih hr hd' _
    · obtain rfl : p = q := (List.mem_cons.1 hp).resolve_right hr
      have hlast : ∀ k, addr p ≤ k → k < addr p + 4 →
          readCell (putWords addr x r (writeLe m (addr p) 4 (x p).toNat)) k = readCell (writeLe m (addr p) 4 (x p).toNat) k :=
        fun k h1 h2 => readCell_putWords_ne (fun q hq => by
          rcases hd' q hq with rfl | h | h
          · exact absurd hq hr
          · omega
          · omega) _
      refine (readLe_congr hlast).trans ?_
      rw [readLe_writeLe]
      exact Nat.mod_eq_of_lt (x p).isLt

end

/-- The elements of a result lie apart from each other. -/
theorem elemAddr_disjoint {half o1 o2 n r : Nat} {p q : Nat × Nat} (ho : o1 = o2 ∧ half = n ∨ o1 + 0x10000 ≤ o2 ∨ o2 + 0x10000 ≤ o1)
    (hhalf : half ≤ 128) (hn : n ≤ 2 * half) (hr : r ≤ 128) (hp : p.1 < r ∧ p.2 < n) (hq : q.1 < r ∧ q.2 < n) :
    q = p ∨ elemAddr half o1 o2 q + 4 ≤ elemAddr half o1 o2 p ∨ elemAddr half o1 o2 p + 4 ≤ elemAddr half o1 o2 q := by
  obtain ⟨x, j⟩ := p
  obtain ⟨y, l⟩ := q
  simp only [elemAddr, cellAddr, columnAt, Prod.mk.injEq] at *
  split <;> split <;> simp only <;> omega

theorem foldl_putAcc {s : State} {m : MatOp} (hm : m.spoiled = false) {half o1 o2 : Nat} (val : Nat × Nat → Word32) (l : List (Nat × Nat)) (t : Team) :
    l.foldl (fun t p => putAcc s m (columnAt half o1 o2 p.2).1 p.1 (columnAt half o1 o2 p.2).2 (val p) t) t =
      { t with accs := putWords (elemAddr half o1 o2) val l t.accs } := by
  induction l generalizing t with
  | nil => rfl
  | cons p r ih =>
    have hput : putAcc s m (columnAt half o1 o2 p.2).1 p.1 (columnAt half o1 o2 p.2).2 (val p) t =
        { t with accs := writeLe t.accs (elemAddr half o1 o2 p) 4 (val p).toNat } := by
      rw [putAcc, mapIdx_spoiled hm s fun n => 0x20000 + 4 * (128 * p.1 + (columnAt half o1 o2 p.2).2) + n]
      rfl
    rw [List.foldl_cons, hput, ih]
    rfl

/-- The value of an element of a product. -/
def productElem (t : Team) (b : Ident) (a : Tile) (half o1 o2 : Nat) (p : Nat × Nat) : Word32 :=
  macElem { m := a.mbits, bl := a.bl } { m := b.m, bl := b.bl } (a.row p.1) (operandRow t b p.2) a.k
    (accElem t (columnAt half o1 o2 p.2).1 p.1 (columnAt half o1 o2 p.2).2)

/-- The elements of a result, in the order in which they are formed. -/
def productCells (rows columns : Nat) : List (Nat × Nat) := (List.range rows).flatMap fun i => (List.range columns).map fun j => (i, j)

theorem mem_productCells {rows columns : Nat} {p : Nat × Nat} : p ∈ productCells rows columns ↔ p.1 < rows ∧ p.2 < columns := by
  obtain ⟨x, j⟩ := p
  simp [productCells]

/-- The team after a product. -/
def Team.multiplied (t : Team) (b : Ident) (a : Tile) (half o1 o2 : Nat) : Team :=
  { t with accs := putWords (elemAddr half o1 o2) (productElem t b a half o1 o2) (productCells (min a.m 128) (b.dim 1)) t.accs }

/-- A product's operands fit. -/
def productOk (a : Tile) (b : Ident) : Prop := a.tvalid = true ∧ a.k = b.dim 0 ∧ a.k % max a.bl b.bl = 0

theorem not_productOk_iff (a : Tile) (b : Ident) : (!a.tvalid || a.k != b.dim 0 || a.k % max a.bl b.bl != 0) = true ↔ ¬productOk a b := by
  simp only [productOk, Bool.or_eq_true, Bool.not_eq_true', bne_iff_ne, not_and_or, Bool.not_eq_true, or_assoc]

/-- What a product charges to MATRIX_CYC (03 R72). -/
def productCycles (m : MatOp) (a : Tile) : Nat := (a.k * a.mbits + 7) / 8 * if m.kind.paired then 2 else 1

theorem matProduct_bound {s : State} {m : MatOp} {t : Team} {reuse : Bool} {acc tile half follower : Nat}
    (hok : ¬productOk (Tile.of (latchRead s m t reuse tile).1) (Ident.of m.id)) :
    matProduct s m t reuse acc tile half follower = .error .tableBound := by
  unfold matProduct
  exact if_pos ((not_productOk_iff _ _).2 hok)

theorem matProduct_ok {s : State} {m : MatOp} {t : Team} {reuse : Bool} {acc tile half follower : Nat} (hm : m.spoiled = false)
    (hok : productOk (Tile.of (latchRead s m t reuse tile).1) (Ident.of m.id)) :
    matProduct s m t reuse acc tile half follower =
      .ok (((s.setCore m.core { s.core m.core with latch := (latchRead s m t reuse tile).2 }).setTeam m.team
        (t.multiplied (Ident.of m.id) (Tile.of (latchRead s m t reuse tile).1) half (accOff t m.core acc) (accOff t follower acc))).modCtx m.ctx
          fun c => { c with sterling := { c.sterling with
            matrixCyc := satAdd c.sterling.matrixCyc (productCycles m (Tile.of (latchRead s m t reuse tile).1)) } }) := by
  unfold matProduct
  refine (if_neg (mt (not_productOk_iff _ _).1 (not_not_intro hok))).trans ?_
  have hfold := foldl_putAcc (s := s) (half := half) (o1 := accOff t m.core acc) (o2 := accOff t follower acc) hm
    (productElem t (Ident.of m.id) (Tile.of (latchRead s m t reuse tile).1) half (accOff t m.core acc) (accOff t follower acc))
    (productCells (min (Tile.of (latchRead s m t reuse tile).1).m 128) ((Ident.of m.id).dim 1)) t
  rw [Team.multiplied, ← hfold]
  rfl

theorem matRun_product {s : State} {m : MatOp} {t : Team} {reuse : Bool} {acc tile half other : Nat} (ht : tget s.teams m.team = some t)
    (hk : (m.kind = .mma reuse acc tile ∧ half = (Ident.of m.id).dim 1 ∧ other = m.core) ∨
      (m.kind = .mmap reuse acc tile ∧ half = ((Ident.of m.id).dim 1 + 1) / 2 ∧ other = t.core + (t.core + 1 - m.core))) :
    matRun s m = lift 0 (matProduct s m t reuse acc tile half other) := by
  unfold matRun
  rcases hk with ⟨hk, rfl, rfl⟩ | ⟨hk, rfl, rfl⟩ <;> simp only [ht, hk]

section
variable {s : State} {m : MatOp} {t : Team} {b : Ident} {a : Tile} {half o1 o2 : Nat}

/-- The elements of a product take their values. -/
theorem accElem_multiplied (ho : o1 = o2 ∧ half = b.dim 1 ∨ o1 + 0x10000 ≤ o2 ∨ o2 + 0x10000 ≤ o1) (hhalf : half ≤ 128)
    (hn : b.dim 1 ≤ 2 * half) {x j : Nat} (hx : x < min a.m 128) (hj : j < b.dim 1) :
    accElem (t.multiplied b a half o1 o2) (columnAt half o1 o2 j).1 x (columnAt half o1 o2 j).2 = productElem t b a half o1 o2 (x, j) := by
  have hmem : (x, j) ∈ productCells (min a.m 128) (b.dim 1) := mem_productCells.2 ⟨hx, hj⟩
  have hread := readLe_putWords (addr := elemAddr half o1 o2) (x := productElem t b a half o1 o2) hmem
    (fun q hq => elemAddr_disjoint ho hhalf hn (Nat.min_le_right ..) ⟨hx, hj⟩ (mem_productCells.1 hq)) t.accs
  exact (congrArg (BitVec.ofNat 32) hread).trans (BitVec.ofNat_toNat ..)

/-- A product writes nothing outside its accumulators. -/
theorem readCell_multiplied (hhalf : half ≤ 128) (hn : b.dim 1 ≤ 2 * half) {k : Nat} (h1 : k < o1 ∨ o1 + 0x10000 ≤ k)
    (h2 : k < o2 ∨ o2 + 0x10000 ≤ k) : readCell (t.multiplied b a half o1 o2).accs k = readCell t.accs k := by
  refine readCell_putWords_ne (fun p hp => ?_) _
  obtain ⟨hx, hj⟩ := mem_productCells.1 hp
  simp only [elemAddr, cellAddr, columnAt]
  split <;> simp only <;> omega

end

theorem modCtx_only (s : State) (c : Nat) (f : Context → Context) : s.modCtx c f = { s with ctxs := (s.modCtx c f).ctxs } := by
  unfold State.modCtx; split <;> rfl

theorem modCtx_mats (s : State) (c : Nat) (f : Context → Context) : (s.modCtx c f).mats = s.mats := by rw [modCtx_only]

theorem modCtx_teams (s : State) (c : Nat) (f : Context → Context) : (s.modCtx c f).teams = s.teams := by rw [modCtx_only]

theorem modCtx_core (s : State) (c k : Nat) (f : Context → Context) : (s.modCtx c f).core k = s.core k := by rw [modCtx_only]; rfl

theorem tget_modCtx {s : State} {c : Nat} {x : Context} (f : Context → Context) (hx : tget s.ctxs c = some x) :
    tget (s.modCtx c f).ctxs c = some (f x) := by
  simp only [State.modCtx, hx, State.setCtx, tget_tset_same]

/-- Zeros that are written are read. -/
theorem readCell_writeBytes_zeros {n j : Nat} (m : Mem) (a : Nat) (hj : j < n) : readCell (writeBytes m a (natBytes n 0)) (a + j) = 0 := by
  rw [readCell_writeBytes (by rwa [length_natBytes]), ← Option.some_inj, ← List.getElem?_eq_getElem, natBytes_getElem? 0 hj]
  simp

/-- What an operation leaves that has run. -/
theorem leaves_of_run {s s1 : State} {core i : Nat} {m : MatOp} {t' : Team} {P : State → Team → Prop} (hhead : headOf s core = some i)
    (hm : s.mats[i]? = some m) (hrun : matRun s m = .ok s1) (hmats : s1.mats = s.mats) (ht : tget s1.teams m.team = some t')
    (hP : P { s1 with mats := retireMat s1.mats i m, freeCtr := s1.freeCtr + 1 } t') :
    ∃ u t', exec (.matrixRetire core) s = .next u ∧ tget u.teams m.team = some t' ∧ u.mats = retireMat s.mats i m ∧ P u t' :=
  ⟨_, t', retires hhead hm hrun, ht, congrArg (retireMat · i m) hmats, hP⟩

theorem accDeliver_cons {s v : State} {m : MatOp} {t : Team} {a row : Nat} {rest : List Nat} (hm : m.spoiled = false) :
    accDeliver s m t a (row :: rest) v =
      (writeSpans { ctx := m.ctx, die := dieOf m.core, q := m.q, into := m.into } m.team (Ident.of m.id)
        ((Ident.of m.id).spans row 0 ((Ident.of m.id).dim 0))
        (accRow (Ident.of m.id) ((List.range ((Ident.of m.id).dim 0)).map (accElem t (accOff t m.core a) row))) v).bind
        (accDeliver s m t a rest) := by
  have hrows : ∀ bss : List (List Byte), bss.mapIdx (fun n bs => bs.mapIdx fun k x => spoiled s m (1024 * row + 512 * n + k) x) = bss :=
    fun bss => List.ext_getElem (by simp) fun n h1 h2 => by
      rw [List.getElem_mapIdx, mapIdx_spoiled hm s fun k => 1024 * row + 512 * n + k]
  rw [accDeliver]
  simp only [hrows]
  cases writeSpans { ctx := m.ctx, die := dieOf m.core, q := m.q, into := m.into } m.team (Ident.of m.id)
    ((Ident.of m.id).spans row 0 ((Ident.of m.id).dim 0))
    (accRow (Ident.of m.id) ((List.range ((Ident.of m.id).dim 0)).map (accElem t (accOff t m.core a) row))) v <;> rfl

theorem getElem?_eq_some_readCell {m : Mem} {a j : Nat} {bs : List Byte} {x : Byte} (hx : bs[j]? = some x) :
    readCell (writeBytes m a bs) (a + j) = x := by
  obtain ⟨hj, rfl⟩ := List.getElem?_eq_some_iff.1 hx
  exact readCell_writeBytes hj

theorem length_tileDesc (b : Ident) : (tileDesc b).length = 11 := by simp [tileDesc]

/-- Settles O38: each kind runs to the team that its lemma names (`matRun_accz`, `matRun_tld`, `matRun_shape`, `matRun_product`), and the
bytes are those of the writes. -/
theorem matrixRetire : Obligations.MatrixRetire := by
  unfold Obligations.MatrixRetire
  intro s core i m t hhead hm ht
  refine ⟨fun s1 hrun => retires hhead hm hrun, ?_⟩
  intro b leaves fails hsp
  refine ⟨fun a hk => ?accz, fun n hk hlen => ?tld, fun n r k hk => ?shape, fun reuse acc tile half other hk hhalf => ?product,
    fun a hk => ?accrd⟩
  case accz =>
    have hrun := matRun_accz ht hsp hk
    have hin : ∀ j, j < 0x10000 → readCell (writeBytes t.accs (accOff t m.core a) (natBytes 0x10000 0)) (accOff t m.core a + j) = 0 :=
      fun j hj => readCell_writeBytes_zeros _ _ hj
    have hout : ∀ k, (k < accOff t m.core a ∨ accOff t m.core a + 0x10000 ≤ k) →
        readCell (writeBytes t.accs (accOff t m.core a) (natBytes 0x10000 0)) k = readCell t.accs k :=
      fun k hk => readCell_writeBytes_ne (by rwa [length_natBytes])
    revert hrun hin hout
    generalize writeBytes t.accs (accOff t m.core a) (natBytes 0x10000 0) = accs
    exact fun hrun hin hout => leaves_of_run hhead hm hrun rfl (tget_tset_same ..) ⟨rfl, hin, hout⟩
  case tld =>
    obtain ⟨bad, hrun⟩ := matRun_tld ht hsp hk
    have hdesc : (tileDesc (Ident.of m.id)).length = 11 := length_tileDesc _
    have hrows : ∀ k, ¬(tileOff t m.core n ≤ k ∧ k < tileOff t m.core n + (loadTile t (Ident.of m.id)).length) →
        k < tileOff t m.core n ∨ tileOff t m.core n + (loadTile t (Ident.of m.id)).length ≤ k := fun k hk => by omega
    refine leaves_of_run hhead hm hrun rfl (tget_tset_same ..) ⟨rfl, fun j x hx => ?_, fun j x hx => getElem?_eq_some_readCell hx,
      fun k h1 h2 => ?_⟩
    · have hj : j < (loadTile t b).length := (List.getElem?_eq_some_iff.1 hx).1
      exact (readCell_writeBytes_ne (by omega)).trans (getElem?_eq_some_readCell hx)
    · exact (readCell_writeBytes_ne (by rw [hdesc]; omega)).trans (readCell_writeBytes_ne (hrows k h1))
  case shape =>
    intro off a
    split
    next hok =>
      refine leaves_of_run hhead hm (matRun_shape ht hsp hk hok) rfl (tget_tset_same ..) ⟨rfl, fun j x hx => getElem?_eq_some_readCell hx,
        fun y hy => readCell_writeBytes_ne ?_⟩
      simp only [List.length_append, length_natBytes]; omega
    next hok => exact fun hu hbad => retire_fails hhead hm (matRun_shape_bound ht hu hk hok) hu hbad
  case product =>
    intro a place
    have hrun := matRun_product ht hk
    split
    next hok =>
      rw [matProduct_ok hsp hok] at hrun
      have hn : b.dim 1 ≤ 2 * half := by rcases hk with ⟨_, rfl, _⟩ | ⟨_, rfl, _⟩ <;> omega
      have hapart : accOff t m.core acc = accOff t other acc ∧ half = b.dim 1 ∨
          accOff t m.core acc + 0x10000 ≤ accOff t other acc ∨ accOff t other acc + 0x10000 ≤ accOff t m.core acc := by
        simp only [accOff]
        rcases hk with ⟨_, rfl, rfl⟩ | ⟨_, _, rfl⟩
        · exact .inl ⟨rfl, rfl⟩
        · omega
      refine leaves_of_run hhead hm hrun (modCtx_mats ..) (t' := t.multiplied b a half (accOff t m.core acc) (accOff t other acc)) ?_
        ⟨rfl, ?_, fun x j hx hj => accElem_multiplied hapart hhalf hn hx hj, fun k hout => ?_, fun c hc => ?_⟩
      · rw [modCtx_teams]; exact tget_tset_same ..
      · change ((State.modCtx _ _ _).core m.core).latch = _
        rw [modCtx_core]
        exact congrArg Core.latch ((core_setCore ..).trans (if_pos rfl))
      · exact readCell_multiplied hhalf hn (hout _ (by simp)) (hout _ (by simp))
      · exact ⟨_, tget_modCtx _ hc, rfl⟩
    next hok =>
      rw [matProduct_bound hok] at hrun
      exact fun hu hbad => retire_fails hhead hm hrun hu hbad
  case accrd =>
    have hrun := matRun_accrd ht hk
    refine ⟨fun s1 hd => retires hhead hm (hrun.trans hd), fun e x y hd hu => retire_fails hhead hm (hrun.trans hd) hu ?_,
      fun v row rest => accDeliver_cons hsp⟩
    simp [State.badTile, hk, MatKind.tile]

end Sys2Proof.Machine
end

section
/-!
SUPPORT. Electrum instructions at issue (16 R366 to R370).
-/

namespace Sys2Proof.Machine

open Sys2Proof

/-! ### Bindings -/

section
variable {s : State} {h : Site} {b : BitVec 4}

/-- What a handle binds in the context of `h`. -/
def State.binding? (s : State) (h : Site) (b : BitVec 4) : Option Binding := (tget s.ctxs h.ctx).bind fun c => tget c.binds b.toNat

theorem bound_ok {right id : Nat} {x : Store} (hb : ∃ y, s.binding? h b = some y ∧ y.store = id ∧ tget s.stores id = some x ∧
    y.rights.getLsbD right = true) : bound s h b right = .ok (id, x) := by
  obtain ⟨y, hbind, rfl, hx, hright⟩ := hb
  unfold State.binding? at hbind
  simp only [bound, hbind, hx, hright, if_true]

theorem bound_tableBound {right : Nat} (hb : ∀ y, s.binding? h b = some y → tget s.stores y.store = none) :
    bound s h b right = .error (.cause .tableBound 0 h.mask) := by
  unfold State.binding? at hb
  unfold bound
  split
  next => rfl
  next y hbind => rw [hb y hbind]

theorem bound_addrPerm {right : Nat} (hb : ∃ y, s.binding? h b = some y ∧ (tget s.stores y.store).isSome = true ∧
    y.rights.getLsbD right = false) : bound s h b right = .error (.cause .addrPerm 0 h.mask) := by
  obtain ⟨y, hbind, hsome, hright⟩ := hb
  obtain ⟨x, hx⟩ := Option.isSome_iff_exists.1 hsome
  unfold State.binding? at hbind
  simp only [bound, hbind, hx, hright, Bool.false_eq_true, if_false]

end

/-! ### Unbound handles and missing rights -/

section
variable {s : State} {h : Site} {d a : BitVec 6} {b : BitVec 4} {c : Cause} (hr : Ready s h) (hd : d.toNat % 2 = 0)

include hr hd in
theorem calook_stops {i : Instr} {interior : Bool} (hi : exec i s = calook s interior d a b)
    (hb : bound s h b 1 = .error (.cause c 0 h.mask)) : Raises s h i c 0 h.mask := fun _ => by
  refine hi.trans (issueWhole_cause hr ?_)
  simp only [evenAll_single hd, hb, ok_bind, err_bind]

theorem evenAll_pair {m n : Nat} (hm : m % 2 = 0) (hn : n % 2 = 0) : evenAll [m, n] = .ok () :=
  evenAll_append (xs := [m]) (ys := [n]) (by simpa using hm) (by simpa using hn)

variable (ha : a.toNat % 2 = 0)
include hr hd ha

theorem caTake_stops {i : Instr} {op : CaName → Nat → Nat → CaOp} (hi : exec i s = caTake s d a b op)
    (hb : bound s h b 0 = .error (.cause c 0 h.mask)) : Raises s h i c 0 h.mask :=
  raises_of_cause hr hi (by simp only [evenAll_pair hd ha, hb, ok_bind, err_bind])

theorem carswap_stops (hk : h.undefK d.toNat = false)
    (hb : bound s h b (if (h.kr d.toNat).getLsbD 62 then 0 else 2) = .error (.cause c 0 h.mask)) :
    Raises s h (.carswap d a b) c 0 h.mask := by
  have hi : exec (.carswap d a b) s = execCarswap d a b s := rfl
  have hroot : boundRoot s h b ((h.kr d.toNat).getLsbD 62) false = .error (.cause c 0 h.mask) := by
    rw [boundRoot, hb]; rfl
  exact raises_of_cause hr hi (by simp only [evenAll_pair hd ha, hk, hroot, ok_bind, err_bind])

theorem caout_stops (hb : bound s h b 0 = .error (.cause c 0 h.mask)) : Raises s h (.caout d a b) c 0 h.mask := by
  have hi : exec (.caout d a b) s = execCaout d a b s := rfl
  exact raises_of_cause hr hi (by simp only [evenAll_pair hd ha, hb, ok_bind, err_bind])

omit hd in
theorem caCount_stops {i : Instr} {op : CaName → CaOp} (hi : exec i s = caCount s a b op)
    (hb : bound s h b 1 = .error (.cause c 0 h.mask)) : Raises s h i c 0 h.mask :=
  raises_of_cause hr hi (by simp only [evenAll_single ha, hb, ok_bind, err_bind])

end

/-! ### Posting -/

section
variable {s : State} {h : Site} {i : Instr} {store : Nat} {op : CaOp} {lost loose : Bool} {into : List (Nat × Nat)}
  (ht : Timely s h) (hinvar : h.l.isInvar = false)

/-- The step that `h` posts. -/
def postedStep (h : Site) (store : Nat) (op : CaOp) (lost loose : Bool) (into : List (Nat × Nat)) : CaStep :=
  { ctx := h.ctx, store := store, team := h.tid, core := h.core, entry := h.entry,
    back := if op.dests = [] then none else some h.g.nextPending, op := op, pc := h.sp.pc, into := into, undef := lost, loose := loose }

include ht hinvar

/-- A step is posted, and the split goes on. -/
theorem postCa_ok : ∃ g', postCa s h store op lost loose into =
      .ok { s.withGroup h g' with caSteps := s.caSteps ++ [postedStep h store op lost loose into] } ∧
    (g'.split h.ix).pc = nextPc h.sp.pc ∧ g'.v = h.g.v ∧ g'.k = h.g.k ∧
    if op.dests = [] then g'.pending = h.g.pending
    else (g'.split h.ix).loadCnt = h.sp.loadCnt + 1 ∧ ∃ q, g'.pending.getLast? = some q ∧ q.split = h.ix ∧ q.waits = 1 ∧
      q.dests = op.dests := by
  have hs := ht.1.1
  have hback : (if op.dests.isEmpty = true then none else some h.g.nextPending) = if op.dests = [] then none else some h.g.nextPending := by
    simp only [List.isEmpty_iff]
  have hspoil : op.dests.filter h.spoils = [] := by
    refine List.filter_eq_nil_iff.2 fun x _ => ?_
    have he := early_of_timely ht
    cases x <;> simp [Site.spoils, he, earlyFor_eq he]
  unfold postCa
  simp only [hinvar, Bool.false_eq_true, if_false, hback, hspoil, List.foldl_nil]
  by_cases hdests : op.dests = []
  · refine ⟨h.moved (nextPc h.sp.pc) false h.g, congrArg Except.ok ((goto_eq (g := h.g) (nextPc h.sp.pc) ?_ (site_split hs)).trans ?_),
      moved_pc _ (site_lt hs), rfl, rfl, ?_⟩
    · simp [modGroup_site _ hs, hdests]
    · simp [modGroup_site _ hs, hdests, State.withGroup, postedStep]
    · rw [if_pos hdests]; rfl
  · obtain ⟨g', q, e, hp⟩ := pends_of_addPending (u := { s with caSteps := s.caSteps ++ [postedStep h store op lost loose into] }) hs
      (site_group hs) 8 1 op.dests []
    refine ⟨g', ?_, hp.pc, by rw [hp.frame], by rw [hp.frame], ?_⟩
    · refine congrArg Except.ok (Eq.trans ?_ e)
      simp only [State.modGroup, site_group hs, List.isEmpty_eq_false_iff.2 hdests, Bool.false_eq_true, if_false]
      rfl
    · rw [if_neg hdests]
      exact ⟨hp.loadCnt, q, hp.last, hp.record.1, hp.record.2.1, hp.record.2.2.2⟩

theorem posts {body : Site → Except Stop State} {dests : List Dest} (hi : exec i s = issueWhole s body)
    (hb : body h = postCa s h store op lost loose into) (hd : op.dests = dests) : Posts s h i store op dests lost loose into := by
  obtain ⟨g', hpost, hpc, hv, hk, hlate⟩ := postCa_ok (store := store) (op := op) (lost := lost) (loose := loose) (into := into) ht hinvar
  subst hd
  exact ⟨g', hi.trans (issueWhole_ok ht.1 (hb.trans hpost)), hpc, hv, hk, hlate⟩

theorem issue_posts {body : Site → Except Stop State} (hi : exec i s = issue s body) (hb : body h = postCa s h store op lost loose) : Posts s h i store op op.dests lost loose := by
  obtain ⟨g', hpost, _⟩ := postCa_ok (store := store) (op := op) (lost := lost) (loose := loose) (into := []) ht hinvar
  exact posts ht hinvar hi ((perform_ok (hb.trans hpost)).trans hpost.symm) rfl

end

theorem look_dests (interior : Bool) (va : Word64) (d a : Nat) :
    (CaOp.look interior va d a).dests = [.k d, .k (d + 1)] ++ if a = d ∨ a = d + 1 then [] else [.k a] := by
  simp only [CaOp.dests, Bool.or_eq_true, decide_eq_true_eq]

section
variable {s : State} {h : Site} {d a : BitVec 6} {b : BitVec 4} {id : Nat} {x : Store} (ht : Timely s h) (hinvar : h.l.isInvar = false)
  (hd : d.toNat % 2 = 0) (hroom : h.sp.loadCnt < 63)
include ht hinvar hd hroom

theorem calook_posts {i : Instr} {interior : Bool} {acc : Acc} (hi : exec i s = calook s interior d a b) (hb : bound s h b 1 = .ok (id, x))
    (hatoms : atomsDone s h = .ok ()) (hacc : accessVa s h (h.kr a.toNat) 256 .read = .ok acc) :
    Posts s h i id (.look interior (h.kr a.toNat) d.toNat a.toNat)
      ([.k d.toNat, .k (d.toNat + 1)] ++ if a.toNat = d.toNat ∨ a.toNat = d.toNat + 1 then [] else [.k a.toNat]) (h.undefK a.toNat) false
      (acc.locs.filterMap s.locHolder).eraseDups := by
  have hbody := postCa_ok (store := id) (op := .look interior (h.kr a.toNat) d.toNat a.toNat) (lost := h.undefK a.toNat) (loose := false)
    (into := (acc.locs.filterMap s.locHolder).eraseDups) ht hinvar
  obtain ⟨g', hpost, _⟩ := hbody
  refine posts ht hinvar hi ?_ (look_dests ..)
  simp only [evenAll_single hd, hb, ok_bind]
  refine (perform_ok ?_).trans hpost.symm
  simp only [hacc, room_ok hroom, hatoms, ok_bind]
  exact hpost

variable (ha : a.toNat % 2 = 0)
include ha

theorem caTake_posts {i : Instr} {op : CaName → Nat → Nat → CaOp} (hi : exec i s = caTake s d a b op) (hb : bound s h b 0 = .ok (id, x)) :
    Posts s h i id (op (h.caName a) ((h.kr d.toNat).toNat % 16) d.toNat) (op (h.caName a) ((h.kr d.toNat).toNat % 16) d.toNat).dests
      (h.lostK [a.toNat, a.toNat + 1]) (h.undefK d.toNat) :=
  issue_posts ht hinvar hi (by simp only [evenAll_pair hd ha, hb, room_ok hroom, ok_bind])

omit hd hroom in
theorem caCount_posts {i : Instr} {op : CaName → CaOp} (hi : exec i s = caCount s a b op) (hb : bound s h b 1 = .ok (id, x)) :
    Posts s h i id (op (h.caName a)) (op (h.caName a)).dests (h.lostK [a.toNat, a.toNat + 1]) :=
  issue_posts ht hinvar hi (by simp only [evenAll_single ha, hb, ok_bind])

theorem carswap_posts {op : CaOp} (hb : bound s h b (if (h.kr d.toNat).getLsbD 62 then 0 else 2) = .ok (id, x))
    (hslot : (h.kr d.toNat).toNat % 2 ^ 32 < 2 ^ x.rootsLog) (hatoms : atomsDone s h = .ok ())
    (hop : (if (h.kr d.toNat).getLsbD 62 then CaOp.rootRead (h.kr d.toNat) d.toNat a.toNat
      else .rootSwap (h.kr d.toNat) (h.kr (d.toNat + 1)) (h.caName a) d.toNat a.toNat) = op) :
    Posts s h (.carswap d a b) id op op.dests (h.lostK [d.toNat, a.toNat, a.toNat + 1]) := by
  have hi : exec (.carswap d a b) s = execCarswap d a b s := rfl
  have hroot : boundRoot s h b ((h.kr d.toNat).getLsbD 62) (h.undefK d.toNat) = .ok (id, x) := by rw [boundRoot, hb]
  have hneed : ∀ p, need (true || p) .tableBound 0 h.mask = .ok () := fun _ => rfl
  refine issue_posts ht hinvar hi ?_
  simp only [evenAll_pair hd ha, hroot, hslot, decide_true, hneed, room_ok hroom, hatoms, hb, hop, ok_bind, if_true]
  rfl

end

/-- Settles O39: a binding decides whether the form stops or posts its step (`postCa_ok`). -/
theorem electrumIssue : Obligations.ElectrumIssue := by
  unfold Obligations.ElectrumIssue
  intro s h ht hroom d a b hd bind stops
  have hr := ht.1
  have hstops : ∀ (c : Cause) (lacks : Nat → Prop), (∀ right, lacks right → bound s h b right = .error (.cause c 0 h.mask)) → stops c lacks :=
    fun c lacks hl => ⟨fun hx => calook_stops hr hd rfl (hl _ hx), fun hx => calook_stops hr hd rfl (hl _ hx), fun ha =>
      ⟨fun hx => caTake_stops hr hd ha rfl (hl _ hx), fun hx => caTake_stops hr hd ha rfl (hl _ hx),
        fun hk hx => carswap_stops hr hd ha hk (hl _ hx), fun hx => caCount_stops hr ha rfl (hl _ hx),
        fun hx => caCount_stops hr ha rfl (hl _ hx), fun hx => caout_stops hr hd ha (hl _ hx)⟩⟩
  refine ⟨hstops _ _ fun _ hl => bound_tableBound hl, hstops _ _ fun _ hl => bound_addrPerm hl, ?_⟩
  intro id x hinvar has D A K name flag
  have hbound : ∀ right, has right → bound s h b right = .ok (id, x) := fun _ hb => bound_ok hb
  refine ⟨fun hb hatoms acc hacc => ?_, fun ha => ?_⟩
  · exact ⟨calook_posts ht hinvar hd hroom rfl (hbound _ hb) hatoms hacc, calook_posts ht hinvar hd hroom rfl (hbound _ hb) hatoms hacc⟩
  · intro lost
    refine ⟨fun hb => ⟨?_, ?_, fun h62 hslot hatoms => ?_⟩, fun hb h62 hslot hatoms => ?_, fun hb => ⟨?_, ?_⟩⟩
    · exact caTake_posts ht hinvar hd hroom ha rfl (hbound _ hb)
    · exact caTake_posts ht hinvar hd hroom ha rfl (hbound _ hb)
    · exact carswap_posts ht hinvar hd hroom ha (by rw [h62]; exact hbound _ hb) hslot hatoms (if_pos h62)
    · exact carswap_posts ht hinvar hd hroom ha (by rw [h62]; exact hbound _ hb) hslot hatoms (by rw [h62]; rfl)
    · exact caCount_posts ht hinvar ha rfl (hbound _ hb)
    · exact caCount_posts ht hinvar ha rfl (hbound _ hb)

/-! ### Steps -/

/-- A root read of an empty slot, at a store of partition 0. -/
def rootReadStep : State :=
  { State.reset with
    stores := [(0, { part := 0, linesLog := 0, rootsLog := 0, share := 0, lines := [], used := [], roots := [], drops := [] })],
    caSteps := [{ ctx := 0, store := 0, team := 0, core := 0, entry := 0, back := none, op := .rootRead 0 0 0, pc := 0 }] }

/-- The counts of the partitions, in what an event leaves. -/
def partsAfter : Host.Outcome State Fault Refusal → Table Part
  | .next s => s.parts
  | _ => []

theorem rootReadStep_charges : partsAfter (exec (.electrumStep 0) rootReadStep) ≠ rootReadStep.parts := by decide +kernel

/-- Refutes O40: a step's sector is charged to the partition of its context, which the statement leaves as it was. -/
theorem not_electrumSteps : ¬Obligations.ElectrumSteps := by
  unfold Obligations.ElectrumSteps
  intro hall
  obtain ⟨hsteps, _⟩ := hall
  obtain ⟨_, _, _, _, _, hread, _⟩ := hsteps rootReadStep 0 _ _ rfl rfl rfl
  obtain ⟨rs, _, hruns⟩ := hread 0 0 0 rfl
  exact rootReadStep_charges (congrArg partsAfter hruns)

end Sys2Proof.Machine
end

section
/-!
SUPPORT. Decrements of LIVE and join records (11 R237, R238).
-/

namespace Sys2Proof.Machine

open Sys2Proof

/-! ### The row of a frame -/

section
variable {s : State} {f : Frame}

theorem settleFrame_live (h : f.bodyDone = false ∨ f.liveN ≠ 0) :
    s.settleFrame f = s.setFrame { f with fstate := if f.bodyDone && f.fstate == 1 then 2 else f.fstate } :=
  if_neg (by rcases h with h | h <;> simp [h])

theorem settleFrame_free (hb : f.bodyDone = true) (hl : f.liveN = 0) (h : f.retire = 0xFFFFFFFF ∨ f.fstate = 3) :
    s.settleFrame f = s.freeFrame f := by
  have hdone : (f.bodyDone && f.liveN == 0) = true := by simp [hb, hl]
  have hfree : (f.fstate == 3 || f.retire == noRetire) = true := by
    simp only [Bool.or_eq_true, beq_iff_eq, noRetire]; exact h.symm
  exact (if_pos hdone).trans (if_pos hfree)

theorem settleFrame_join (hb : f.bodyDone = true) (hl : f.liveN = 0) (h1 : f.retire ≠ 0xFFFFFFFF) (h2 : f.fstate ≠ 3) :
    s.settleFrame f = (s.setFrame { f with fstate := 3, liveN := 1 }).setDie f.die
      { (s.setFrame { f with fstate := 3, liveN := 1 }).die f.die with
        joins := ((s.setFrame { f with fstate := 3, liveN := 1 }).die f.die).joins ++
          [(f.launch, (s.setFrame { f with fstate := 3, liveN := 1 }).joinRecord { f with fstate := 3, liveN := 1 })] } := by
  have hdone : (f.bodyDone && f.liveN == 0) = true := by simp [hb, hl]
  have hkept : ¬(f.fstate == 3 || f.retire == noRetire) = true := by
    simp only [Bool.or_eq_true, beq_iff_eq, noRetire, not_or]; exact ⟨h2, h1⟩
  exact (if_pos hdone).trans (if_neg hkept)

end

/-! ### The events -/

theorem exec_liveDecrement {s : State} {i : Nat} {d : FrameDec} {f : Frame} (hd : s.decs[i]? = some d) (hf : s.frame? d.ctx d.handle = some f) :
    exec (.frameLiveDecrement i) s = .next (if f.liveN = 0 then { s with decs := s.decs.eraseIdx i }
      else State.settleFrame { s with decs := s.decs.eraseIdx i } { f with liveN := f.liveN - 1 }) := by
  have hi : exec (.frameLiveDecrement i) s = .next (s.takeDec i) := rfl
  have hf' : State.frame? { s with decs := s.decs.eraseIdx i } d.ctx d.handle = some f := hf
  rw [hi, State.takeDec, hd]
  simp only [State.decLive, hf']

theorem exec_joinEnqueue {s : State} {die lid : Nat} {rec : List Byte} {js : List (Nat × List Byte)} (hj : (s.die die).joins = (lid, rec) :: js)
    (hroom : (s.die die).poolCount < 65536) :
    exec (.joinRecordEnqueue die) s = .next ((s.setDie die { s.die die with joins := js }).pool die lid rec none) := by
  have hi : exec (.joinRecordEnqueue die) s = .next (s.takeJoin die) := rfl
  have hroom' : (s.die die).poolCount < poolSize := hroom
  rw [hi, State.takeJoin]
  simp only [hj, if_pos hroom']

/-- Settles O41: a decrement leaves the row of `settleFrame` that the frame's body and LIVE select. -/
theorem frameEvents : Obligations.FrameEvents := by
  unfold Obligations.FrameEvents
  refine fun s i die d f lid rec js => ⟨fun hd hf => ?_, exec_joinEnqueue⟩
  intro u
  have hexec := exec_liveDecrement hd hf
  refine ⟨fun hl => ?more, fun hl => ?none, fun hl hb => ?body, fun hl hb hfree => ?free, fun hl hb h1 h2 => ?join⟩
  case more => rw [hexec, if_neg (by omega), settleFrame_live (.inr (by simp only; omega))]
  case none => rw [hexec, if_pos hl]
  all_goals
    rw [if_neg (by omega), hl] at hexec
    refine hexec.trans (congrArg Host.Outcome.next ?_)
  case body =>
    refine (settleFrame_live (f := { f with liveN := 0 }) (.inl hb)).trans ?_
    simp only [hb, Bool.false_and, Bool.false_eq_true, if_false]
    rfl
  case free => exact settleFrame_free (f := { f with liveN := 0 }) hb rfl hfree
  case join => exact settleFrame_join (f := { f with liveN := 0 }) hb rfl h1 h2

end Sys2Proof.Machine
end

section
/-!
SUPPORT. Registers of the host interface (02 R31 to R38, R55, R400).
-/

namespace Sys2Proof.Machine

open Sys2Proof

/-! ### Values written whole -/

theorem leNat_byteOf (v : Word64) : leNat ((List.range 8).map (byteOf v)) = v.toNat := by
  have hv := v.isLt
  simp only [List.range, List.range.loop, List.map_cons, List.map_nil, leNat, byteOf, BitVec.extractLsb'_toNat, Nat.shiftRight_eq_div_pow]
  omega

/-- A write that covers a register of 8 bytes replaces it. -/
theorem merged_whole (old reg : Nat) (v : Word64) : merged old reg 8 reg 8 v = v.toNat := by
  rw [merged, ← leNat_byteOf v]
  congr 1
  refine List.map_congr_left fun i hi => ?_
  have hi : i < 8 := List.mem_range.1 hi
  simp [Nat.add_lt_add_left hi reg]

theorem covers_eq_false {reg n off size : Nat} (h : reg + n ≤ off ∨ off + size ≤ reg) : covers reg n off size = false := by
  simp only [covers, Bool.and_eq_false_iff, decide_eq_false_iff_not]; omega

theorem covers_eq_true {reg n off size : Nat} (h : off < reg + n ∧ reg < off + size) : covers reg n off size = true := by
  simpa [covers] using h

/-! ### Doorbells -/

theorem queue_setQueue_ne (s : State) {f q f' q' : Nat} (x : Queue) (h : f' * 1024 + q' ≠ f * 1024 + q) :
    (s.setQueue f q x).queue f' q' = s.queue f' q' := by
  simp [State.queue, State.setQueue, tget_tset, h]

section
variable {s : State} {link fn off q : Nat} {v : Word64} (hfn : fn < 17) (hoff : off < 0xF00) (h8 : off % 8 = 0)
  (hq : (v.extractLsb' 32 16).toNat = q) (hq' : q < 1024) (hreach : s.plant.reaches link fn = true) (hrec : s.plant.recovery = false)

include hfn hoff h8 hreach hrec in
theorem exec_doorbell : exec (.doorbell ⟨link, fn⟩ off 8 v) s = .next (s.ring fn true v) := by
  have hi : exec (.doorbell ⟨link, fn⟩ off 8 v) s = execDoorbell ⟨link, fn⟩ off 8 v s := rfl
  have hopen : (decide (17 ≤ fn) || decide (0xF00 ≤ off) || !s.plant.reaches link fn || s.plant.recovery) = false := by
    simp [hreach, hrec]; omega
  rw [hi, execDoorbell]
  simp only [hopen, Bool.false_eq_true, if_false, h8, decide_true, Bool.and_self, if_true]

variable (hthief : (s.queue fn q).thief = none)
include hq hq' hthief

theorem ring_discarded (hstate : (s.queue fn q).state ≠ .active) :
    s.ring fn true v = s.setFunc fn { s.func fn with discards := (s.func fn).discards + 1 } := by
  have hn : ¬1024 ≤ q := by omega
  have hstop : ((s.queue fn q).state != .active) = true := bne_iff_ne.2 hstate
  unfold State.ring State.discard
  simp only [hq, if_neg hn, hthief, Option.isSome_none, Bool.false_eq_true, if_false, hstop, Bool.true_or, if_true]

theorem ring_applied (hstate : (s.queue fn q).state = .active) (h0 : 0 < (v.extractLsb' 48 16 - (s.queue fn q).lseq).toNat)
    (h1 : (v.extractLsb' 48 16 - (s.queue fn q).lseq).toNat ≤ 32767) (htail : (v.extractLsb' 0 32 - (s.queue fn q).tail).toNat < 2 ^ 31)
    (hring : (v.extractLsb' 0 32 - (s.queue fn q).head).toNat ≤ 2 ^ (s.queue fn q).ringLog) :
    ∃ qs, s.ring fn true v = { s with queues := qs } ∧
      State.queue { s with queues := qs } fn q = { s.queue fn q with lseq := v.extractLsb' 48 16, tail := v.extractLsb' 0 32 } ∧
      ∀ f p, p < 1024 → ¬(f = fn ∧ p = q) → State.queue { s with queues := qs } f p = s.queue f p := by
  have hn : ¬1024 ≤ q := by omega
  have hgo : ((s.queue fn q).state != .active || decide ((v.extractLsb' 48 16 - (s.queue fn q).lseq).toNat = 0) ||
      decide (32767 < (v.extractLsb' 48 16 - (s.queue fn q).lseq).toNat)) = false := by
    simp only [hstate, bne_self_eq_false, Bool.false_or, Bool.or_eq_false_iff, decide_eq_false_iff_not]; omega
  have hother : ∀ f p, p < 1024 → ¬(f = fn ∧ p = q) → f * 1024 + p ≠ fn * 1024 + q := fun f p hp hne => by omega
  unfold State.ring
  simp only [hq, if_neg hn, hthief, Option.isSome_none, Bool.false_eq_true, if_false, hgo]
  split
  next ht =>
    refine ⟨_, rfl, ?_, fun f p hp hne => queue_setQueue_ne s _ (hother f p hp hne)⟩
    refine (queue_setQueue s fn q _).trans ?_
    rw [ht]
  next =>
    rw [if_neg (by omega), if_neg (by omega), queue_setQueue]
    refine ⟨_, rfl, queue_setQueue _ fn q _, fun f p hp hne => ?_⟩
    exact (queue_setQueue_ne _ _ (hother f p hp hne)).trans (queue_setQueue_ne s _ (hother f p hp hne))

end

/-! ### The management window -/

section
variable {s : State} {link : Nat} {v : Word64} (hw : s.windowReaches link = true)
include hw

theorem exec_windowWrite {off n : Nat} (h0 : 0 < n) (h8 : n ≤ 8) :
    exec (.registerWrite 4 ⟨link, 0⟩ off n v) s = .next (s.windowWrite off n v) := by
  have hi : exec (.registerWrite 4 ⟨link, 0⟩ off n v) s = execRegisterWrite 4 ⟨link, 0⟩ off n v s := rfl
  have hsize : ¬(decide (n = 0) || decide (8 < n)) = true := by simp; omega
  rw [hi, execRegisterWrite]
  simp only [if_neg hsize, hw, if_true]
  rfl

end

theorem windowWrite_area (s : State) {fn o n : Nat} (v : Word64) (hfn : fn < 17) (ho : o < 0x4000) :
    s.windowWrite (0x100000 + 0x4000 * fn + o) n v = s.areaWrite fn o n v := by
  have h1 : (0x100000 + 0x4000 * fn + o - 0x100000) / 0x4000 = fn := by omega
  have h2 : (0x100000 + 0x4000 * fn + o - 0x100000) % 0x4000 = o := by omega
  have hin : (decide (0x100000 ≤ 0x100000 + 0x4000 * fn + o) && decide (0x100000 + 0x4000 * fn + o < 0x100000 + 17 * 0x4000)) = true := by
    simp; omega
  unfold State.windowWrite
  rw [if_neg (by simp; omega), if_neg (by simp; omega), if_neg (by simp; omega), if_pos hin, h1, h2]

theorem windowWrite_mailbox (s : State) {o n : Nat} (v : Word64) (ho : o < 0x2000) :
    s.windowWrite (0x10000 + o) n v = { s with mgmt := s.mgmt.write o n v } := by
  have hin : (decide (0x10000 ≤ 0x10000 + o) && decide (0x10000 + o < 0x12000)) = true := by simp; omega
  unfold State.windowWrite
  rw [if_neg (by simp; omega), if_pos hin, Nat.add_sub_cancel_left]

/-! ### The area of a function -/

/-- A write beyond the QREGs, and not to QPCMD. -/
theorem areaWrite_policy (s : State) {f o n : Nat} (v : Word64) (ho : 0x2000 < o) :
    s.areaWrite f o n v = (s.setFunc f ((s.func f).write o n v)).gcntStart f (s.func f) := by
  unfold State.areaWrite
  have h1 : ¬(decide (o < 0x2000) && (s.queue f (o / 8)).state == .disabled) = true := by simp; omega
  have h2 : ¬(decide (o = 0x2000) && decide (n = 8)) = true := by simp; omega
  simp only [if_neg h1, if_neg h2]

theorem gcntStart_same {s : State} {f : Nat} {old : Func} (h : (s.func f).gcntEnable = old.gcntEnable) : s.gcntStart f old = s := by
  have hsame : (old.gcntEnable || !(s.func f).gcntEnable) = true := by rw [h]; cases old.gcntEnable <;> rfl
  unfold State.gcntStart
  simp only [hsame, if_true]

theorem func_setFunc_same (s : State) (f : Nat) (x : Func) : (s.setFunc f x).func f = x := (func_setFunc ..).trans (if_pos rfl)

/-- A policy register other than GCNT_POLICY. -/
theorem areaWrite_quiet (s : State) {f o n : Nat} (v : Word64) (ho : 0x2000 < o) (hg : ((s.func f).write o n v).gcntEnable = (s.func f).gcntEnable) :
    s.areaWrite f o n v = s.setFunc f ((s.func f).write o n v) := by
  rw [areaWrite_policy s v ho, gcntStart_same (by rw [func_setFunc_same, hg])]

theorem write_trapPolicy (x : Func) (v : Word64) : x.write 0x3F08 8 v = { x with trapPolicy := v.setWidth 10 } := by
  have h1 : covers 0x3F00 8 0x3F08 8 = false := rfl
  have h2 : covers 0x3F08 8 0x3F08 8 = true := rfl
  have h3 : covers 0x3F10 8 0x3F08 8 = false := rfl
  have h4 : covers 0x3F18 8 0x3F08 8 = false := rfl
  simp only [Func.write, h1, h2, h3, h4, Bool.false_eq_true, if_false, if_true, merged_whole]
  rfl

theorem write_sampleBase (x : Func) (v : Word64) : x.write 0x3F18 8 v = { x with sampleBase := v } := by
  have h1 : covers 0x3F00 8 0x3F18 8 = false := rfl
  have h2 : covers 0x3F08 8 0x3F18 8 = false := rfl
  have h3 : covers 0x3F10 8 0x3F18 8 = false := rfl
  have h4 : covers 0x3F18 8 0x3F18 8 = true := rfl
  simp only [Func.write, h1, h2, h3, h4, Bool.false_eq_true, if_false, if_true, merged_whole, BitVec.ofNat_toNat, BitVec.setWidth_eq]

/-- A field of a value. -/
theorem ofNat_div (v : Word64) (n k : Nat) : BitVec.ofNat n (v.toNat / 2 ^ k) = v.extractLsb' k n := by
  apply BitVec.eq_of_toNat_eq
  simp [Nat.shiftRight_eq_div_pow]

theorem bit_div (v : Word64) (k : Nat) : (v.toNat / 2 ^ k % 2 == 1) = v.getLsbD k := by
  rw [BitVec.getLsbD, Nat.testBit_eq_decide_div_mod_eq]; rfl

theorem bit_zero (v : Word64) : (v.toNat % 2 == 1) = v.getLsbD 0 := by simpa using bit_div v 0

theorem write_sampleCtl (x : Func) (v : Word64) : x.write 0x3F10 8 v =
    { x with sampleLog := v.extractLsb' 16 5, samplePeriod := v.extractLsb' 8 5, sampleOn := v.getLsbD 0 } := by
  have h1 : covers 0x3F00 8 0x3F10 8 = false := rfl
  have h2 : covers 0x3F08 8 0x3F10 8 = false := rfl
  have h3 : covers 0x3F10 8 0x3F10 8 = true := rfl
  have h4 : covers 0x3F18 8 0x3F10 8 = false := rfl
  simp only [Func.write, h1, h2, h3, h4, Bool.false_eq_true, if_false, if_true, merged_whole, ofNat_div, bit_zero]

theorem write_gcntPolicy (x : Func) (v : Word64) : x.write 0x3F00 8 v =
    { x with gcntDelay := v.extractLsb' 24 8, gcntQuant := v.extractLsb' 12 4, gcntEnable := v.getLsbD 0 } := by
  have h1 : covers 0x3F00 8 0x3F00 8 = true := rfl
  have h2 : covers 0x3F08 8 0x3F00 8 = false := rfl
  have h3 : covers 0x3F10 8 0x3F00 8 = false := rfl
  have h4 : covers 0x3F18 8 0x3F00 8 = false := rfl
  simp only [Func.write, h1, h2, h3, h4, Bool.false_eq_true, if_false, if_true, merged_whole, ofNat_div, bit_zero]

/-- A write below or between the policy registers changes none. -/
theorem write_elsewhere (x : Func) {o : Nat} (v : Word64) (ho : o + 8 ≤ 0x3F00) : x.write o 8 v = x := by
  have h1 := covers_eq_false (reg := 0x3F00) (n := 8) (off := o) (size := 8) (by omega)
  have h2 := covers_eq_false (reg := 0x3F08) (n := 8) (off := o) (size := 8) (by omega)
  have h3 := covers_eq_false (reg := 0x3F10) (n := 8) (off := o) (size := 8) (by omega)
  have h4 := covers_eq_false (reg := 0x3F18) (n := 8) (off := o) (size := 8) (by omega)
  simp only [Func.write, h1, h2, h3, h4, Bool.false_eq_true, if_false]

theorem areaWrite_gcnt (s : State) (f : Nat) (v : Word64) :
    let f' := { s.func f with gcntDelay := v.extractLsb' 24 8, gcntQuant := v.extractLsb' 12 4, gcntEnable := v.getLsbD 0 }
    s.areaWrite f 0x3F00 8 v = if (s.func f).gcntEnable = false ∧ v.getLsbD 0 = true then
      { (s.setFunc f f').setFunc f { f' with
          gcnt := [0, 0, 0, 0], gcntNext := (s.setFunc f f').guestSample f, gcntAt := s.refTime + 1000000 * max 1 (v.extractLsb' 24 8).toNat } with
        freeCtr := s.freeCtr + 1 }
      else s.setFunc f f' := by
  intro f'
  rw [areaWrite_policy s v (by decide), write_gcntPolicy]
  unfold State.gcntStart
  simp only [func_setFunc_same]
  by_cases h : (s.func f).gcntEnable = false ∧ v.getLsbD 0 = true
  · have hgo : ¬((s.func f).gcntEnable || !v.getLsbD 0) = true := by rw [h.1, h.2]; decide
    rw [if_neg hgo, if_pos h]
    rfl
  · have hstop : ((s.func f).gcntEnable || !v.getLsbD 0) = true := by
      revert h; cases (s.func f).gcntEnable <;> cases v.getLsbD 0 <;> decide
    rw [if_pos hstop, if_neg h]

/-- The QREG of a DISABLED queue. -/
theorem areaWrite_qreg {s : State} {f q : Nat} (v : Word64) (hq : q < 1024) (hd : (s.queue f q).state = .disabled) :
    s.areaWrite f (8 * q) 8 v = (s.setFunc f { s.func f with qreg := writeCell (s.func f).qreg q (v &&& qregMask) }).setFunc f
      { s.func f with qreg := writeCell (s.func f).qreg q (v &&& qregMask) } := by
  have hq8 : 8 * q / 8 = q := by omega
  have h1 : (decide (8 * q < 0x2000) && (s.queue f q).state == .disabled) = true := by simp [hd]; omega
  have h2 : decide (8 * q = 0x2000) = false := decide_eq_false (by omega)
  unfold State.areaWrite
  simp only [hq8, h1, if_true, h2, Bool.false_and, Bool.false_eq_true, if_false, merged_whole, BitVec.ofNat_toNat, BitVec.setWidth_eq,
    func_setFunc_same]
  rw [write_elsewhere _ v (by omega)]
  exact gcntStart_same (by rw [func_setFunc_same])

/-! ### Other registers -/

theorem windowWrite_droop (s : State) {d : Nat} (v : Word64) (hd : d < 4) : s.windowWrite (0x1000 + 0x100 * d) 8 v =
    if v.getLsbD 1 = true then s.setDie d { s.die d with droopOverflow := false } else s := by
  have h1 : (0x1000 + 0x100 * d - 0x1000) / 0x100 = d := by omega
  have h2 : (0x1000 + 0x100 * d) % 0x100 = 0 := by omega
  have hin : (decide (0x1000 ≤ 0x1000 + 0x100 * d) && decide (0x1000 + 0x100 * d < 0x1400)) = true := by simp; omega
  have hc : covers 0 8 0 8 = true := rfl
  have hbit : (v.toNat / 2 % 2 == 1) = v.getLsbD 1 := bit_div v 1
  unfold State.windowWrite
  rw [if_pos hin, h1, h2, State.droopWrite, hc, merged_whole, hbit, Bool.true_and]

theorem bit_clear (v : Word64) (k : Nat) : (v.toNat / 2 ^ k % 2 == 0) = !v.getLsbD k := by
  rw [← bit_div]
  rcases Nat.mod_two_eq_zero_or_one (v.toNat / 2 ^ k) with h | h <;> rw [h] <;> rfl

theorem write_mbStat (m : Mgmt) (v : Word64) : m.write 0x48 8 v =
    { m with evtLost := m.evtLost && !v.getLsbD 2, rspReady := m.rspReady && !v.getLsbD 1 } := by
  have h1 : covers 0 64 0x48 8 = false := rfl
  have h2 : covers 0x40 8 0x48 8 = false := rfl
  have h3 : covers 0x48 8 0x48 8 = true := rfl
  have h4 : covers 0x54 4 0x48 8 = false := rfl
  have h5 : covers 0x58 8 0x48 8 = false := rfl
  have hlost : (v.toNat / 4 % 2 == 0) = !v.getLsbD 2 := bit_clear v 2
  have hready : (v.toNat / 2 % 2 == 0) = !v.getLsbD 1 := bit_clear v 1
  simp only [Mgmt.write, h1, h2, h3, h4, h5, Bool.false_eq_true, if_false, if_true, Bool.false_and, merged_whole, hlost, hready]

theorem write_mbCtl (m : Mgmt) (v : Word64) : m.write 0x40 8 v = if v.getLsbD 0 = true ∧ m.active = none then
    { m with active := some (readBytes m.req 0 64), answer := none, rspReady := false } else m := by
  have h1 : covers 0 64 0x40 8 = false := rfl
  have h2 : covers 0x40 8 0x40 8 = true := rfl
  have h3 : covers 0x48 8 0x40 8 = false := rfl
  have h4 : covers 0x54 4 0x40 8 = false := rfl
  have h5 : covers 0x58 8 0x40 8 = false := rfl
  simp only [Mgmt.write, h1, h2, h3, h4, h5, Bool.false_eq_true, if_false, Bool.true_and, merged_whole, bit_zero, Mgmt.submit]
  cases hv : v.getLsbD 0 <;> cases ha : m.active <;> simp

theorem rbrkWrite_whole (s : State) {c : Nat} (v : Word64) (hc : c < 160) :
    s.rbrkWrite c 0x10 8 v = s.setCore c { s.core c with rbrk := v.setWidth 17 } := by
  have hin : (decide (c < 160) && covers 0x10 8 0x10 8) = true := by simp [hc, covers]
  unfold State.rbrkWrite
  simp only [hin, if_true, merged_whole]
  rfl

/-- A mailbox write that covers no register that can be written. -/
theorem write_readOnly (m : Mgmt) {o n : Nat} (v : Word64) (h : o = 0x50 ∧ n = 4 ∨ 0x80 ≤ o) : m.write o n v = m := by
  have h1 : covers 0 64 o n = false := covers_eq_false (by omega)
  have h2 : covers 0x40 8 o n = false := covers_eq_false (by omega)
  have h3 : covers 0x48 8 o n = false := covers_eq_false (by omega)
  have h4 : covers 0x54 4 o n = false := covers_eq_false (by omega)
  have h5 : covers 0x58 8 o n = false := covers_eq_false (by omega)
  simp only [Mgmt.write, h1, h2, h3, h4, h5, Bool.false_eq_true, if_false, Bool.false_and]

theorem pfeqWrite_wr (s : State) (v : Word64) : s.pfeqWrite 0x10 4 v = s := by
  have h1 : covers 0 8 0x10 4 = false := rfl
  have h2 : covers 8 4 0x10 4 = false := rfl
  have h3 : covers 0x14 4 0x10 4 = false := rfl
  have h4 : covers 0x0C 4 0x10 4 = false := rfl
  simp only [State.pfeqWrite, h1, h2, h3, h4, Bool.false_eq_true, if_false, Bool.false_and]

theorem windowWrite_readOnly (s : State) {off n : Nat} (v : Word64) (h0 : 0 < n)
    (h : off + n ≤ 0x1000 ∨ (off = 0x10050 ∧ n = 4) ∨ (0x10080 ≤ off ∧ off + n ≤ 0x12000) ∨ (off = 0x20010 ∧ n = 4)) :
    s.windowWrite off n v = s := by
  have hmailbox : ∀ o, off = 0x10000 + o → o < 0x2000 → (o = 0x50 ∧ n = 4 ∨ 0x80 ≤ o) → s.windowWrite off n v = s := fun o ho h1 h2 => by
    subst ho
    rw [windowWrite_mailbox s v h1, write_readOnly s.mgmt v h2]
  rcases h with h | ⟨rfl, rfl⟩ | ⟨h1, h2⟩ | ⟨rfl, rfl⟩
  · unfold State.windowWrite
    rw [if_neg (by simp; omega), if_neg (by simp; omega), if_neg (by simp; omega), if_neg (by simp; omega)]
  · exact hmailbox 0x50 rfl (by decide) (.inl ⟨rfl, rfl⟩)
  · exact hmailbox (off - 0x10000) (by omega) (by omega) (.inr (by omega))
  · exact pfeqWrite_wr s v

/-- Settles O42: each register's write is the branch of `windowWrite`, `areaWrite`, `Func.write` or `Mgmt.write` that covers it. -/
theorem hostRegisters : Obligations.HostRegisters := by
  unfold Obligations.HostRegisters
  refine ⟨?bell, ?qreg, ?window, fun s v => ?pfeq, fun s r hr ha hl => ?unknown, fun s r hr => ?answer, fun s e r he => ?ring⟩
  case bell =>
    intro s link fn off q v hfn hoff h8 hq hq' hreach hrec hthief x t d
    have hexec := exec_doorbell (v := v) hfn hoff h8 hreach hrec
    refine ⟨fun hstate h0 h1 htail hring => ?_, fun hstate => ?_⟩
    · obtain ⟨qs, hs, hself, hothers⟩ := ring_applied hq hq' hthief hstate h0 h1 htail hring
      exact ⟨_, hexec.trans (congrArg _ hs), rfl, hself, hothers⟩
    · exact hexec.trans (congrArg _ (ring_discarded hq hq' hthief hstate))
  case qreg =>
    intro s link fn q v hfn hq hreach hd
    have hw : s.windowReaches link = true := by rw [State.windowReaches, hreach]; rfl
    refine ⟨_, writeCell (s.func fn).qreg q (v &&& qregMask), (exec_windowWrite hw (by decide) (by decide)).trans (congrArg _
      ((windowWrite_area s v hfn (by omega)).trans (areaWrite_qreg v hq hd))), rfl, func_setFunc_same .., fun f hf => ?_, by simp,
      fun n hn => by simp [hn]⟩
    simp only [func_setFunc, if_neg hf]
  case window =>
    intro s link v hw W m
    have hW : ∀ off, W off = .next (s.windowWrite off 8 v) := fun off => exec_windowWrite hw (by decide) (by decide)
    refine ⟨fun fn hfn => ?area, fun d hd => ?droop, ?stat, ?ctl, fun c hc => ?rbrk, fun off n h0 h8 h => ?readOnly⟩
    case area =>
      intro base f
      have harea : ∀ o, o < 0x4000 → W (base + o) = .next (s.areaWrite fn o 8 v) := fun o ho =>
        (hW _).trans (congrArg _ (windowWrite_area s v hfn ho))
      refine ⟨?_, ?_, ?_, ?_, fun off hoff => ?_⟩
      · rw [harea _ (by decide), areaWrite_quiet s v (by decide) (by rw [write_trapPolicy]), write_trapPolicy]
      · rw [harea _ (by decide), areaWrite_quiet s v (by decide) (by rw [write_sampleCtl]), write_sampleCtl]
      · rw [harea _ (by decide), areaWrite_quiet s v (by decide) (by rw [write_sampleBase]), write_sampleBase]
      · intro f' u
        rw [harea _ (by decide), areaWrite_gcnt]
      · have hkept : ∀ o, 0x2000 < o → o + 8 ≤ 0x3F00 → ∃ u, W (base + o) = .next u ∧ u = { s with funcs := u.funcs } ∧ ∀ g, u.func g = s.func g :=
          fun o h1 h2 => by
            refine ⟨_, (harea o (by omega)).trans (congrArg _ (areaWrite_quiet s v h1 (by rw [write_elsewhere _ v h2]))), rfl, fun g => ?_⟩
            rw [write_elsewhere _ v h2, func_setFunc]
            split
            next hg => rw [hg]
            next => rfl
        rcases List.mem_pair.1 hoff with rfl | rfl
        · exact hkept 0x2008 (by decide) (by decide)
        · exact hkept 0x2010 (by decide) (by decide)
    case droop => rw [hW, windowWrite_droop s v hd]
    case stat =>
      rw [hW]
      refine congrArg _ ((windowWrite_mailbox s v (o := 0x48) (by decide)).trans ?_)
      rw [write_mbStat]
    case ctl =>
      rw [hW]
      refine congrArg _ ((windowWrite_mailbox s v (o := 0x40) (by decide)).trans ?_)
      rw [write_mbCtl]
    case rbrk =>
      have hi : exec (.registerWrite 6 ⟨link, c⟩ 0x10 8 v) s = .next (s.rbrkWrite c 0x10 8 v) := rfl
      rw [hi, rbrkWrite_whole s v hc]
    case readOnly => rw [exec_windowWrite hw h0 h8, windowWrite_readOnly s v h0 h]
  case pfeq =>
    intro m m'
    have hi : exec (.pfeqCtlWrite v) s = .next (s.pfeqCtl v) := rfl
    have hm : (if v.getLsbD 0 && !s.mgmt.pfEnable then { m with pfWr := 0, pfRd := 0, pfOverflow := false } else m) = m' := by
      simp only [m', Bool.and_eq_true, Bool.not_eq_true']
    rw [hi, ← hm]
    rfl
  case unknown =>
    have hi : exec .mbSubmitUnknown s = execMbSubmitUnknown s := rfl
    rw [hi, execMbSubmitUnknown, hr, ha]
    simp only [hl, Bool.false_eq_true, if_false]
  case answer =>
    intro u
    have hi : exec .mbResponse s = execMbResponse s := rfl
    rw [hi, execMbResponse, hr]
  case ring =>
    have hi : exec .eventRingWrite s = execEventRingWrite s := rfl
    rw [hi, execEventRingWrite, he]
    simp only [Mgmt.ringFull, beq_iff_eq]
    split <;> rfl

end Sys2Proof.Machine
end

section
/-!
SUPPORT. What the services that every part of the model uses leave as it was: accesses to memory, records and events, the control block.
-/

namespace Sys2Proof.Machine

open Sys2Proof

/-! ### The outline of a state without its memories and counts -/

/-- Records without what accesses, records and counts change in them. -/
def Context.bare (c : Context) : Context := { c with sterling := { c.sterling with memBytes := 0 }, evOverflow := false, evWr := 0 }
def Part.bare (p : Part) : Part := { p with counts := [], windowBytes := 0 }
def Die.bare (d : Die) : Die := { d with hotCounts := [] }
def Stack.bare (k : Stack) : Stack := { k with corrected := 0, uncorr := 0 }
def Team.bare (t : Team) : Team := { t with scratch := [], barrier := [], tiles := [], accs := [], badTiles := [] }
def Split.bare (x : Split) : Split := { x with park := none, pc := 0, parkedNs := 0 }
def Group.bare (g : Group) : Group := { g with splits := g.splits.map Split.bare, v := [], pending := [], done := [] }
def MatOp.bare (m : MatOp) : MatOp := { m with spoiled := false }
def Plant.bare (p : Plant) : Plant := { p with msix := [] }
def Mgmt.bare (m : Mgmt) : Mgmt :=
  { m with pfWr := 0, pfOverflow := false, ring := [], evtWr := 0, log := [], waiting := [], evtLost := false }

/-- A state without its memories, and without what counts and records change. -/
structure Outline where
  sched : List Move
  refTime : Nat
  clock : List Nat
  freeCtr : Nat
  cur : Cur
  mgmt : Mgmt
  plant : Plant
  stack : Nat → Stack
  die : Nat → Die
  funcs : Table Func
  part : Nat → Option Part
  queues : Table Queue
  ctx : Nat → Option Context
  closed : List Sterling
  launches : Table Launch
  cores : Table Core
  team : Nat → Option Team
  teamRecords : Nat × Team → Prop
  group : Nat → Option Group
  groupRecords : Nat × Group → Prop
  copies : Table Copy
  mats : List MatOp
  atoms : List AtomReq
  caSteps : List CaStep
  stores : Table Store
  frames : List Frame
  decs : List FrameDec
  nextId : Nat

/-- The records of a table, as they look. -/
def records {α β : Type} (f : α → β) (t : Table α) (p : Nat × β) : Prop := ∃ x, (p.1, x) ∈ t ∧ f x = p.2

def State.outline (s : State) : Outline :=
  { sched := s.sched, refTime := s.refTime, clock := s.clock, freeCtr := s.freeCtr, cur := s.cur, mgmt := s.mgmt.bare, plant := s.plant.bare,
    stack := fun i => (s.stack i).bare, die := fun d => (s.die d).bare, funcs := s.funcs, part := fun i => (tget s.parts i).map Part.bare,
    queues := s.queues, ctx := fun c => (tget s.ctxs c).map Context.bare, closed := s.closed, launches := s.launches, cores := s.cores,
    team := fun i => (tget s.teams i).map Team.bare, teamRecords := records Team.bare s.teams,
    group := fun k => (tget s.groups k).map Group.bare, groupRecords := records Group.bare s.groups, copies := s.copies,
    mats := s.mats.map MatOp.bare, atoms := s.atoms, caSteps := s.caSteps, stores := s.stores, frames := s.frames, decs := s.decs,
    nextId := s.nextId }

/-- A record of a table is replaced by one that looks the same. -/
theorem map_tget_tset {α β : Type} {t : Table α} {k : Nat} {x y : α} {f : α → β} (hx : tget t k = some x) (hy : f y = f x) :
    (fun i => (tget (tset t k y) i).map f) = fun i => (tget t i).map f := by
  funext i
  rw [tget_tset]
  split
  next h => rw [h, hx]; exact congrArg some hy
  next => rfl

theorem mem_tset_of_mem {α : Type} {t : Table α} {k : Nat} {x : α} {y : Nat × α} (h : y ∈ t) :
    y ∈ tset t k x ∨ y.1 = k ∧ tget t k = some y.2 := by
  induction t with
  | nil => cases h
  | cons z r ih =>
    obtain ⟨a, b⟩ := z
    unfold tset tget
    split
    · exact .inl (List.mem_cons_of_mem _ h)
    · split
      next hk =>
        rcases List.mem_cons.mp h with rfl | h
        · exact .inr ⟨hk.symm, by rw [if_pos hk.symm]⟩
        · exact .inl (List.mem_cons_of_mem _ h)
      next hk =>
        rw [if_neg (Ne.symm hk)]
        rcases List.mem_cons.mp h with rfl | h
        · exact .inl List.mem_cons_self
        · exact (ih h).imp (List.mem_cons_of_mem _) id

theorem records_tset {α β : Type} {t : Table α} {k : Nat} {x y : α} {f : α → β} (hx : tget t k = some x) (hy : f y = f x) :
    records f (tset t k y) = records f t := by
  funext p
  refine propext ⟨fun ⟨z, hz, hp⟩ => ?_, fun ⟨z, hz, hp⟩ => ?_⟩
  · rcases mem_tset hz with h | h
    · exact ⟨z, h, hp⟩
    · obtain ⟨rfl, rfl⟩ := Prod.mk.inj h
      exact ⟨x, tget_mem hx, hy.symm.trans hp⟩
  · rcases mem_tset_of_mem (x := y) hz with h | ⟨hk, h⟩
    · exact ⟨z, h, hp⟩
    · cases Option.some.inj (hx.symm.trans h)
      exact ⟨y, hk ▸ tget_mem (tget_tset_same ..), hy.trans hp⟩

theorem map_tget_tmap {α β : Type} (t : Table α) {f : α → β} {g : Nat → α → α} (hg : ∀ k x, f (g k x) = f x) :
    (fun i => (tget (tmap t g) i).map f) = fun i => (tget t i).map f := by
  funext i
  rw [tget_tmap, Option.map_map]
  exact congrArg (Option.map · (tget t i)) (funext (hg i))

theorem records_tmap {α β : Type} (t : Table α) {f : α → β} {g : Nat → α → α} (hg : ∀ k x, f (g k x) = f x) :
    records f (tmap t g) = records f t := by
  funext p
  refine propext ⟨fun ⟨z, hz, hp⟩ => ?_, fun ⟨z, hz, hp⟩ => ⟨g p.1 z, List.mem_map.mpr ⟨_, hz, rfl⟩, (hg ..).trans hp⟩⟩
  obtain ⟨⟨k, y⟩, hy, he⟩ := List.mem_map.mp hz
  obtain ⟨hk, hv⟩ := Prod.mk.inj he
  exact ⟨y, hk ▸ hy, (hg k y).symm.trans ((congrArg f hv).trans hp)⟩

section
variable (s : State)

/-! ### Changes of one record -/

theorem outline_memories (m h : Mem) (l : List PubWrite) (ps : Table Peer) (w : Bool) :
    State.outline { s with mem := m, hostMem := h, pubPending := l, peers := ps, repairWait := w } = s.outline := rfl

theorem outline_setGroups {gs : Table Group} (h : (fun k => (tget gs k).map Group.bare) = fun k => (tget s.groups k).map Group.bare)
    (hr : records Group.bare gs = records Group.bare s.groups) : State.outline { s with groups := gs } = s.outline :=
  (congrArg (fun g => { s.outline with group := g, groupRecords := records Group.bare gs }) h).trans
    (congrArg (fun r => { s.outline with groupRecords := r }) hr)

theorem outline_modCtx (c : Nat) {f : Context → Context} (hf : ∀ x, (f x).bare = x.bare) : (s.modCtx c f).outline = s.outline := by
  unfold State.modCtx
  split
  next x hx => exact congrArg (fun g => { s.outline with ctx := g }) (map_tget_tset hx (hf x))
  next => rfl

theorem outline_setTeam {id : Nat} {t u : Team} (ht : tget s.teams id = some t) (hu : u.bare = t.bare) : (s.setTeam id u).outline = s.outline := by
  have h1 := map_tget_tset (f := Team.bare) ht hu
  have h2 := records_tset (f := Team.bare) ht hu
  exact (congrArg (fun f => { s.outline with team := f, teamRecords := records Team.bare (tset s.teams id u) }) h1).trans
    (congrArg (fun r => { s.outline with teamRecords := r }) h2)

theorem outline_modTeam (id : Nat) {f : Team → Team} (hf : ∀ t, (f t).bare = t.bare) : (s.modTeam id f).outline = s.outline := by
  unfold State.modTeam
  split
  next x hx => exact outline_setTeam s hx (hf x)
  next => rfl

theorem outline_addCount (p i n : Nat) : (s.addCount p i n).outline = s.outline := by
  unfold State.addCount
  split
  next x hx =>
    refine congrArg (fun g => { s.outline with part := g }) (map_tget_tset hx (f := Part.bare) (y := ?_) ?_)
    rfl
  next => rfl

theorem outline_setDie {d : Nat} {x : Die} (hx : x.bare = (s.die d).bare) : (s.setDie d x).outline = s.outline := by
  refine congrArg (fun g => { s.outline with die := g }) (funext fun d' => ?_)
  rw [die_setDie]
  split
  next h => rw [h]; exact hx
  next => rfl

theorem outline_setStack {i : Nat} {x : Stack} (hx : x.bare = (s.stack i).bare) : (s.setStack i x).outline = s.outline := by
  refine congrArg (fun g => { s.outline with stack := g }) (funext fun i' => ?_)
  rw [stack_setStack]
  split
  next h => rw [h]; exact hx
  next => rfl

theorem outline_msix (fn vec : Nat) : (s.msix fn vec).outline = s.outline := rfl

/-! ### What an access counts -/

theorem outline_charge (a : Acc) : (s.charge a).outline = s.outline := by
  unfold State.charge
  split
  · rfl
  · simp only
    rw [apply_ite State.outline, outline_addCount, ite_self]
    have hs : (if a.isMem then s.modCtx a.ctx fun c =>
        { c with sterling := { c.sterling with memBytes := satAdd c.sterling.memBytes a.bytes } } else s).outline = s.outline := by
      split
      · exact outline_modCtx s _ fun _ => rfl
      · rfl
    split <;> first | exact (outline_addCount ..).trans hs | exact hs

theorem outline_chargeHbm (ctx n far : Nat) : (s.chargeHbm ctx n far).outline = s.outline := by
  unfold State.chargeHbm
  simp only
  have hs := outline_modCtx s ctx (f := fun c => { c with sterling := { c.sterling with memBytes := satAdd c.sterling.memBytes n } })
    fun _ => rfl
  split
  · exact (outline_addCount ..).trans hs
  · exact (outline_addCount ..).trans ((outline_addCount ..).trans hs)

theorem outline_hotCount (a : Acc) : (s.hotCount a).outline = s.outline := by
  unfold State.hotCount
  split
  · split
    · exact outline_setDie s rfl
    · rfl
  · rfl

theorem outline_touchLeaf (a : Acc) (w : Bool) : (s.touchLeaf a w).outline = s.outline := by
  rw [touchLeaf_frame]; rfl

theorem outline_countCorrected (l : List Nat) : (s.countCorrected l).outline = s.outline := by
  unfold State.countCorrected
  refine forAll_keeps State.outline (fun s x => ?_) s l
  simp only
  split
  · exact outline_setStack s rfl
  · rfl

theorem outline_flushWhere (p : PubWrite → Bool) : (s.flushWhere p).outline = s.outline := rfl

theorem outline_settleOthers (a : Acc) : (s.settleOthers a).outline = s.outline := rfl

theorem outline_noteAccess (a : Acc) (w : Bool) : (s.noteAccess a w).outline = s.outline := by
  simp only [State.noteAccess, State.countWalk, outline_countCorrected, outline_hotCount, outline_charge, outline_touchLeaf, outline_settleOthers]

theorem outline_afterRead (a : Acc) : (s.afterRead a).outline = s.outline := by
  simp only [State.afterRead, State.countWeak, outline_countCorrected, outline_noteAccess]

theorem outline_meetsCopy (w : Bool) : (s.meetsCopy w).outline = s.outline := rfl

theorem outline_countBad (a : Nat) : (s.countBad a).outline = s.outline := outline_setStack s rfl

theorem outline_countFailed (ctx va n : Nat) (c : Cause) : (s.countFailed ctx va n c).outline = s.outline := by
  unfold State.countFailed State.countUncorrAt
  cases c <;> simp only [outline_countCorrected]
  split <;> simp only [outline_countBad, outline_countCorrected]

/-! ### Bytes that are written -/

theorem outline_spoil (t : Nat) (acc : Bool) (i : Nat) : (s.spoil t acc i).outline = s.outline := by
  unfold State.spoil
  split
  · refine congrArg (fun l => { s.outline with mats := l }) ?_
    rw [List.map_map]
    refine List.map_congr_left fun m _ => ?_
    simp only [Function.comp_apply]
    split <;> rfl
  · rfl

theorem clobber_bare (g : Group) (d : Dest) (v : Sparse 32) : Group.bare { g.clobber d with v := v } = g.bare := by
  unfold Group.clobber
  split <;> rfl

theorem outline_putByte (ctx q : Nat) (l : Loc) (b : Byte) : (s.putByte ctx q l b).outline = s.outline := by
  unfold State.putByte
  split
  · split <;> rfl
  · split <;> rfl
  · split <;> rfl
  · rfl
  · rfl
  · exact outline_modTeam s _ fun _ => rfl
  · exact outline_modTeam s _ fun _ => rfl
  · split
    next g hg => exact outline_setGroups s (map_tget_tset hg (clobber_bare g _ _)) (records_tset hg (clobber_bare g _ _))
    next => rfl
  · simp only
    refine Eq.trans (outline_modTeam _ _ ?_) (outline_spoil ..)
    exact fun _ => rfl
  · simp only
    refine Eq.trans (outline_modTeam _ _ ?_) (outline_spoil ..)
    exact fun _ => rfl

theorem outline_putBytes (ctx q : Nat) (ls : List Loc) (bs : List Byte) : (putBytes ctx q s ls bs).outline = s.outline := by
  induction ls generalizing s bs with
  | nil => rfl
  | cons l r ih =>
    cases bs with
    | nil => rfl
    | cons b bs => rw [putBytes, ih, outline_putByte]

theorem setWord_bare (t : Team) (off : Nat) (w : Word64) : (t.setWord off w).bare = t.bare := by
  unfold Team.setWord; split <;> rfl

theorem wakeSplit_bare (x : Split) (off : Nat) (old : Bool) : (wakeSplit off old x).bare = x.bare := by
  unfold wakeSplit
  split
  · split <;> rfl
  · rfl

theorem outline_wakeTeam (team off : Nat) (old : Bool) : (s.wakeTeam team off old).outline = s.outline := by
  have h (k : Nat) (g : Group) :
      Group.bare (if g.team = team then { g with splits := g.splits.map (wakeSplit off old) } else g) = g.bare := by
    split
    · simp only [Group.bare, List.map_map]
      congr 1
      exact List.map_congr_left fun x _ => wakeSplit_bare ..
    · rfl
  exact outline_setGroups s (map_tget_tmap s.groups h) (records_tmap s.groups h)

theorem outline_updateWord (team off : Nat) (f : Word64 → Word64) : (s.updateWord team off f).outline = s.outline := by
  unfold State.updateWord
  split
  · rfl
  next t ht =>
    simp only
    split
    · rw [outline_wakeTeam, outline_setTeam s ht (setWord_bare ..)]
    · exact outline_setTeam s ht (setWord_bare ..)

theorem outline_poke (a : Acc) (bs : List Byte) : (s.poke a bs).outline = s.outline := by
  unfold State.poke
  simp only
  rw [forAll_keeps State.outline fun s x => outline_updateWord s _ _ _, outline_putBytes, outline_noteAccess]

variable {s} {t : State}

theorem outline_loadVa {ctx die va n : Nat} {lane : Bool} {bs : List Byte} (h : s.loadVa ctx die lane va n = .ok (bs, t)) :
    t.outline = s.outline := by
  obtain ⟨a, _, rfl⟩ := loadVa_state h
  split
  · rfl
  · exact outline_afterRead s a

theorem outline_storeVa {ctx die va : Nat} {bs : List Byte} (h : s.storeVa ctx die va bs = .ok t) : t.outline = s.outline := by
  unfold State.storeVa at h
  split at h
  · cases h
  · split at h
    · cases h
    · cases h
      split
      · rfl
      · exact outline_poke s _ _

end

/-! ### Records and the control block -/

section
variable (s : State)

theorem outline_evqDrop (c : Nat) (x : Context) : (s.evqDrop c x).outline = s.outline := by
  have hs := outline_modCtx s c (f := fun x => { x with evOverflow := true }) fun _ => rfl
  unfold State.evqDrop
  simp only
  generalize s.modCtx c _ = u at hs ⊢
  cases hl : u.loadVa c 0 false (x.evqBase.toNat + 64 * 2 ^ x.evqLog) 4 with
  | error e =>
    simp only
    split
    · rw [outline_countFailed, outline_countFailed, hs]
    next h => rw [outline_storeVa h, outline_countFailed, hs]
  | ok y =>
    simp only
    split
    · rw [outline_countFailed, outline_loadVa hl, hs]
    next h => rw [outline_storeVa h, outline_loadVa hl, hs]

theorem outline_evqPost (c : Nat) (r : Record) : (s.evqPost c r).outline = s.outline := by
  unfold State.evqPost
  split
  · rfl
  next x _ =>
  generalize 2 ^ 31 = top
  generalize (if x.evOverflow = true then top else 0) = flag
  simp only
  split
  · rw [outline_evqDrop, outline_countFailed]
  next hl =>
  split
  · rw [outline_evqDrop, outline_loadVa hl]
  split
  · rw [outline_evqDrop, outline_countFailed, outline_loadVa hl]
  next h2 =>
  split
  · rw [outline_evqDrop, outline_countFailed, outline_loadVa hl]
  next h3 =>
  rw [outline_msix]
  refine (outline_modCtx _ _ ?_).trans (by rw [outline_storeVa h3, outline_storeVa h2, outline_loadVa hl])
  exact fun _ => rfl

theorem outline_writeHost (fn a : Nat) (bs : List Byte) : (writeHost s fn a bs).outline = s.outline := by
  unfold writeHost; split <;> rfl

theorem outline_setPf (w : BitVec 31) (o : Bool) : State.outline { s with mgmt := { s.mgmt with pfWr := w, pfOverflow := o } } = s.outline := rfl

theorem outline_pfeqPost (r : Record) : (s.pfeqPost r).outline = s.outline := by
  unfold State.pfeqPost
  simp only
  split
  · exact outline_setPf s _ _
  split
  · exact (outline_writeHost ..).trans (outline_setPf s _ _)
  · rw [outline_msix]
    exact (outline_setPf _ _ _).trans (by rw [outline_writeHost, outline_writeHost])

theorem outline_ringWrite (msg : List Byte) : (s.ringWrite msg).outline = s.outline := by
  unfold State.ringWrite; simp only; split <;> rfl

theorem outline_event (code : Nat) (body : List Byte) : (s.event code body).outline = s.outline := by
  unfold State.event
  simp only
  split
  · rw [outline_ringWrite]; rfl
  · split <;> rfl

theorem outline_qcbCount (f q off n : Nat) : (s.qcbCount f q off n).outline = s.outline := by
  unfold State.qcbCount
  simp only
  split <;> split <;> try rfl
  all_goals split <;> simp only [outline_countBad, outline_countCorrected, outline_meetsCopy]

theorem outline_qcbWrite (f q off : Nat) (bs : List Byte) : (s.qcbWrite f q off bs).outline = s.outline := by
  unfold State.qcbWrite
  simp only
  split
  · exact outline_writeHost ..
  · split <;> rfl

end

end Sys2Proof.Machine
end

section
/-!
SUPPORT. Settles O43 (QueueCommands).
-/

namespace Sys2Proof.Machine

open Sys2Proof

/-! ### A context that ends leaves the queues and functions alone -/

/-- The queues and functions of a state. -/
def State.host (s : State) : Table Queue × Table Func := (s.queues, s.funcs)

theorem host_of_outline {s t : State} (h : t.outline = s.outline) : t.host = s.host :=
  Prod.ext_iff.mpr ⟨congrArg Outline.queues h, congrArg Outline.funcs h⟩

section
variable (s : State)

theorem host_showAs (grant : Option (Word32 × Byte)) (id : Nat) (f : Team → Nat → Group → Resid) : (s.showAs grant id f).host = s.host := by
  unfold State.showAs; split <;> rfl

theorem host_giveMatrix (c id : Nat) (grant : Option (Word32 × Byte)) : (s.giveMatrix c id grant).host = s.host := by
  unfold State.giveMatrix
  simp only
  split
  · rfl
  · split
    · exact host_showAs ..
    · rfl

theorem host_passOwner (c : Nat) (grant : Option (Word32 × Byte)) : (s.passOwner c grant).host = s.host := by
  unfold State.passOwner
  split
  · exact host_giveMatrix ..
  · rfl

theorem host_dropTeams (p : Nat → Team → Bool) : (s.dropTeams p).host = s.host := by
  unfold State.dropTeams
  refine (forAll_keeps State.host (fun s c => host_passOwner (s.endHolds c _) c none) _ _).trans ?_
  refine forAll_keeps State.host (fun s x => ?_) s _
  refine forAll_keeps State.host (fun s c => ?_) s _
  rfl

theorem host_modCtx (c : Nat) (f : Context → Context) : (s.modCtx c f).host = s.host := by rw [modCtx_frame]; rfl

theorem host_noteFree (f : Frame) : (s.noteFree f).host = s.host := host_modCtx ..

theorem host_dropFrames (ids : List Nat) : (s.dropFrames ids).host = s.host := forAll_keeps State.host host_noteFree s _

theorem host_dropLaunches (p : Launch → Bool) : (s.dropLaunches p).host = s.host := (host_dropFrames ..).trans (host_dropTeams ..)

theorem host_writePackets (l : List Acc) (bs : List Byte) : (writePackets l bs s).host = s.host := by
  induction l generalizing bs s with
  | nil => rfl
  | cons a r ih => exact (ih ..).trans (host_of_outline (outline_poke s a _))

theorem host_endFinalise (c : Nat) : (s.endFinalise c).host = s.host := by
  unfold State.endFinalise
  split
  · rfl
  · split
    · exact host_writePackets ..
    · rfl

theorem host_writeSampleCount (c : Nat) : (s.writeSampleCount c).host = s.host := by
  unfold State.writeSampleCount
  simp only
  split
  · rfl
  · split
    next h => exact host_of_outline (outline_storeVa h)
    · exact host_of_outline (outline_countFailed ..)

theorem host_closeSterling (r : Sterling) : (s.closeSterling r).host = s.host := by unfold State.closeSterling; split <;> rfl

theorem host_setCtx (c : Nat) (x : Context) : (s.setCtx c x).host = s.host := rfl

theorem host_setWork (cs : Table Copy) (ms : List MatOp) (as : List AtomReq) (es : List CaStep) (fs : List Frame) (ds : List FrameDec)
    (ps : List PubWrite) (ks : Table Core) : State.host
    { s with
      copies := cs, mats := ms, atoms := as, caSteps := es, frames := fs, decs := ds, pubPending := ps, cores := ks } = s.host := rfl

theorem host_endContext (c : Nat) : (s.endContext c).host = s.host := by
  unfold State.endContext
  split
  · rfl
  · simp only [host_setCtx, host_closeSterling, host_setWork, host_dropLaunches, host_writeSampleCount, host_endFinalise]

theorem host_maybeEnd (c : Nat) : (s.maybeEnd c).host = s.host := by
  unfold State.maybeEnd
  split
  · exact host_endContext ..
  · rfl

theorem queue_of_host {s t : State} (h : t.host = s.host) (f q : Nat) : t.queue f q = s.queue f q :=
  congrArg (fun l => (tget l (f * 1024 + q)).getD Queue.reset) (congrArg Prod.fst h)

theorem func_of_host {s t : State} (h : t.host = s.host) (f : Nat) : t.func f = s.func f :=
  congrArg (fun l => (tget l f).getD Func.reset) (congrArg Prod.snd h)

end

/-! ### A command that no other one precedes -/

section
variable {s : State} {f q : Nat} {v : Word64}

theorem command_first (hc : (s.func f).cmds = []) (hd : s.draining f = false) (via : Bool) :
    s.command f via v = (s.setFunc f (s.func f)).serve f via v := by
  have hx : { s.func f with cmds := [] } = s.func f := by rw [← hc]
  have hset (x y : Func) : (s.setFunc f x).setFunc f y = s.setFunc f y :=
    congrArg (fun t => { s with funcs := t }) (tset_tset s.funcs f x y)
  have hdr (x : Func) : (s.setFunc f x).draining f = false := hd
  simp only [State.command, hc, List.nil_append, List.length_nil, State.serveAll, func_setFunc_same, hdr, Bool.false_eq_true, if_false, hset, hx]

theorem qpcmd_eq (hq : q < 1024) (hv : (v.extractLsb' 32 16).toNat = q) (hr : v.extractLsb' 48 8 = 0)
    (hop : (v.extractLsb' 56 8).toNat ∈ [1, 2, 3]) : s.qpcmd f v = s.command f true v := by
  unfold State.qpcmd
  rw [if_neg]
  simp only [hr, hv, bne_self_eq_false, Bool.or_false, Bool.or_eq_true, decide_eq_true_eq, not_or]
  simp only [List.mem_cons, List.not_mem_nil, or_false] at hop
  omega

/-! ### An enable -/

theorem serve_enable (hv : (v.extractLsb' 32 16).toNat = q) (hop : v.extractLsb' 56 8 = 2) (hx : (s.queue f q).state = .disabled) (via : Bool) :
    s.serve f via v = s.enable f q := by
  simp only [State.serve, hop, hv, hx, if_true, beq_self_eq_true]

theorem queue_of_outline {s t : State} (h : t.outline = s.outline) (f q : Nat) : t.queue f q = s.queue f q :=
  queue_of_host (host_of_outline h) f q

theorem queue_setQState (s : State) (f q : Nat) (st : QState) (code : Byte) : (s.setQState f q st code).queue f q =
    { s.queue f q with state := st, code := code, mirrorStatus := BitVec.ofNat 32 (st.code + 256 * code.toNat) } :=
  (queue_of_outline (outline_qcbWrite ..) f q).trans (queue_setQueue ..)

theorem queue_result (s : State) (f : Nat) (op : Byte) (qi : Nat) (code res : Byte) (f' q : Nat) :
    (s.result f op qi code res).queue f' q = s.queue f' q := rfl

theorem func_result (s : State) (f : Nat) (op : Byte) (qi : Nat) (code res : Byte) : ((s.result f op qi code res).func f).qpresult =
    op ++ 0#8 ++ BitVec.ofNat 16 qi ++ 0#16 ++ code ++ res := congrArg Func.qpresult (func_setFunc_same ..)

theorem host_joinContext (s : State) (x : Queue) : (s.joinContext x).host = s.host := by
  unfold State.joinContext
  split <;> rfl

theorem enable_accepted {bs : List Byte} (hc : s.enableCheck f q = (0, bs)) :
    let u := s.enable f q
    (u.func f).qpresult = 2#8 ++ 0#8 ++ BitVec.ofNat 16 q ++ 0#16 ++ 0#8 ++ 0#8 ∧ (u.queue f q).state = .active ∧
      (u.queue f q).head = BitVec.ofNat 32 (field bs 0x90 4) ∧ (u.queue f q).tail = BitVec.ofNat 32 (field bs 0x90 4) := by
  simp only [State.enable, hc, if_true, func_result, queue_result, queue_setQState, queue_of_host (host_joinContext ..), queue_setQueue, and_true]
  rfl

theorem enable_refused (hx : (s.queue f q).state = .disabled) (hc : (s.enableCheck f q).1 ≠ 0) :
    let u := s.enable f q
    (u.func f).qpresult = 2#8 ++ 0#8 ++ BitVec.ofNat 16 q ++ 0#16 ++ (s.enableCheck f q).1 ++ 2#8 ∧ (u.queue f q).state = .disabled ∧
      (u.queue f q).code = (s.enableCheck f q).1 := by
  have hcount (b : Bool) : (if b = true then s.qcbCount f q 0 0x98 else s).queue f q = s.queue f q := by
    split
    · exact queue_of_outline (outline_qcbCount ..) f q
    · rfl
  simp only [State.enable, if_neg hc, func_result, queue_result, queue_of_outline (outline_pfeqPost ..)]
  refine ⟨rfl, ?_⟩
  rw [hcount]
  split
  · rw [queue_of_outline (outline_qcbWrite ..), queue_setQueue]
    exact ⟨hx, rfl⟩
  · rw [queue_setQueue]
    exact ⟨hx, rfl⟩

/-! ### A reset or a disable -/

theorem queue_stopQueue (s : State) (f q : Nat) : ((s.stopQueue f q).queue f q).pkts = [] := by
  simp only [State.stopQueue]
  rw [queue_of_host (forAll_keeps State.host (fun s c => host_maybeEnd s c) _ _), queue_setQueue]

theorem startDrain_starts (s : State) (f q : Nat) (d : Drain) : let u := s.startDrain f q d
    (u.queue f q).state = .resetting ∧ (u.queue f q).pkts = [] ∧ (u.queue f q).drain = some d := by
  simp only [State.startDrain, queue_setQState, queue_setQueue, queue_stopQueue, and_self]

theorem serve_drain (hv : (v.extractLsb' 32 16).toNat = q) (hop : v.extractLsb' 56 8 ≠ 2) (hx : (s.queue f q).state ≠ .disabled) (via : Bool) :
    let u := s.serve f via v
    (u.queue f q).state = .resetting ∧ (u.queue f q).pkts = [] ∧ (u.queue f q).drain =
      some { head := v.extractLsb' 0 32, disable := v.extractLsb' 56 8 == 3, viaQp := via, tamper := false } := by
  simp only [State.serve, hv, hop, hx, if_false, beq_iff_eq]
  split <;> exact startDrain_starts ..

/-! ### The reconcile pass -/

theorem reconcileOne_same {bs cs : List Byte} (hx : (s.queue f q).state ≠ .disabled) (hb : s.qcbRead f q 0 128 = some bs)
    (hp : bs = (s.queue f q).priv) (hc : (s.qcbCount f q 0 128).qcbRead f q 0x88 8 = some cs) :
    s.reconcileOne (f, q) = ((s.qcbCount f q 0 128).qcbCount f q 0x88 8).ring f false (BitVec.ofNat 64 (leNat cs)) := by
  have hq := queue_of_outline (outline_qcbCount s f q 0 128) f q
  simp only [State.reconcileOne, State.checkTamper, State.offerShadow, hb, hp, beq_iff_eq, if_true, hx, if_false, hq, hc]

theorem reconcileOne_changed {bs : List Byte} (hx : (s.queue f q).state ≠ .disabled) (hb : s.qcbRead f q 0 128 = some bs)
    (hp : bs ≠ (s.queue f q).priv) (hd : (s.queue f q).drain = none) :
    s.reconcileOne (f, q) = let v := (s.qcbCount f q 0 128).tamperQueue f q
      if (v.queue f q).state = .disabled then v else v.offerShadow f q := by
  simp only [State.reconcileOne, State.checkTamper, hb, hp, beq_iff_eq, hx, if_false, hd]

end

/-- Settles O43: a command that no other one precedes is served at once; the drain keeps the emptied queue because a context that
ends leaves the queues alone, and the pass reads each control block through what it counts. -/
theorem queueCommands : Obligations.QueueCommands := by
  unfold Obligations.QueueCommands
  refine ⟨?_, ?_, ?_, ?_⟩
  · intro s f q v hf hq hv hr hc hd x op started
    have hqp (hop : (v.extractLsb' 56 8).toNat ∈ [1, 2, 3]) : s.qpcmd f v = (s.setFunc f (s.func f)).serve f true v :=
      (qpcmd_eq hq hv hr hop).trans (command_first hc hd true)
    have hexec : decide (f < 17) = true := decide_eq_true hf
    refine ⟨fun hop hs => ?_, fun hs => ⟨fun hop => ?_, fun hop => ?_, fun hop hrec => ?_⟩⟩
    · have hop' : v.extractLsb' 56 8 = 2 := hop
      refine ⟨(s.setFunc f (s.func f)).enable f q, ?_, ?_⟩
      · change execQpcmdEnable f v s = _
        rw [execQpcmdEnable, if_pos (by simp only [hexec, hop', Bool.true_and]; rfl), hqp (by rw [hop']; decide),
          serve_enable (s := s.setFunc f (s.func f)) hv hop' hs]
      · by_cases h0 : ((s.setFunc f (s.func f)).enableCheck f q).1 = 0
        · simp only [h0, if_true]
          exact enable_accepted (Prod.ext h0 rfl)
        · simp only [if_neg h0]
          exact enable_refused hs h0
    · have hop' : v.extractLsb' 56 8 = 1 := hop
      refine ⟨(s.setFunc f (s.func f)).serve f true v, ?_, ?_⟩
      · change execQpcmdReset f v s = _
        rw [execQpcmdReset, if_pos (by simp only [hexec, hop', Bool.true_and]; rfl), hqp (by rw [hop']; decide)]
      · have h := serve_drain (s := s.setFunc f (s.func f)) hv (by rw [hop']; decide) hs true
        rwa [hop'] at h
    · have hop' : v.extractLsb' 56 8 = 3 := hop
      refine ⟨(s.setFunc f (s.func f)).serve f true v, ?_, ?_⟩
      · change execQpcmdDisable f v s = _
        rw [execQpcmdDisable, if_pos (by simp only [hexec, hop', Bool.true_and]; rfl), hqp (by rw [hop']; decide)]
      · have h := serve_drain (s := s.setFunc f (s.func f)) hv (by rw [hop']; decide) hs true
        rwa [hop'] at h
    · have hop' : v.extractLsb' 56 8 = 1 := hop
      refine ⟨(s.setFunc f (s.func f)).serve f false v, ?_, ?_⟩
      · change execQcmdReset f v s = _
        rw [execQcmdReset, if_pos (by simp only [hexec, hrec, Bool.true_and]; rfl), State.qcmd, if_neg, command_first hc hd]
        simp only [hop', hv, Bool.or_eq_true, decide_eq_true_eq]
        exact fun h => h.elim (by decide) (by omega)
      · have h := serve_drain (s := s.setFunc f (s.func f)) hv (by rw [hop']; decide) hs false
        rwa [hop'] at h
  · intro s f q x d hf hq hx hd ht done y record
    subst hf hq hx
    refine ⟨fun h => ?_, fun h => ?_⟩
    · change execResetDone s = _
      simp only [execResetDone, hd, h, ht, Bool.false_eq_true, if_false]
      rfl
    · change execDisableDone s = _
      simp only [execDisableDone, hd, h, ht, Bool.not_true, Bool.false_eq_true, if_false]
      rfl
  · intro s h
    change execReconcilePass s = _
    rw [execReconcilePass, State.reconcile, if_neg (Nat.not_lt.mpr h)]
  · intro s f q bs hx hb u
    exact ⟨fun hp cs hc => reconcileOne_same hx hb hp hc, fun hp hd => reconcileOne_changed hx hb hp hd⟩

end Sys2Proof.Machine
end

section
/-!
SUPPORT. Settles O44 (PacketStart) and O45 (PacketEnd).
-/

namespace Sys2Proof.Machine

open Sys2Proof

theorem need_true {ok : Bool} (h : ok = true) (s : State) : packetNeed ok s = .ok () := if_pos h

theorem need_bind {α : Type} {ok : Bool} (h : ok = true) (s : State) (f : Unit → Except State α) : (packetNeed ok s >>= f) = f () := by
  rw [need_true h, ok_bind]

theorem row_ok {s s1 u : State} {ty : Nat} {bs : List Byte} {body : List Byte → State → PacketStep} (hr : s.readPacket ty = .ok (bs, s1))
    (hb : body bs s1 = .ok u) : packetRow s ty body = .next u := by
  simp only [packetRow, hr, hb]

/-- The word that a SIGNAL writes, where the operation is done on numbers. -/
theorem natBytes_signalValue (op x v : Nat) : natBytes 8 (signalValue op (BitVec.ofNat 64 x) (BitVec.ofNat 64 v)).toNat =
    natBytes 8 (if op = 0 then v else if op = 1 then (x + v) % 2 ^ 64 else x ||| v) := by
  refine .trans (congrArg _ ?_) (natBytes_mod 8 _)
  unfold signalValue
  split
  · exact BitVec.toNat_ofNat ..
  · simp only [BitVec.toNat_add, BitVec.toNat_ofNat, if_true, one_ne_zero, if_false]
    omega
  next h0 h1 =>
    rw [if_neg h0, if_neg h1, BitVec.toNat_or, BitVec.toNat_ofNat, BitVec.toNat_ofNat, ← Nat.or_mod_two_pow]
    rfl

/-- Settles O44: each row reads its packet, passes its checks one by one, and takes its effect. -/
theorem packetStart : Obligations.PacketStart := by
  unfold Obligations.PacketStart
  intro s s1 bs a q va read
  refine ⟨fun hr hz => ?_, fun hr hz hz2 hop ha hb => ?_, fun hr hz ha => ?_, fun hr hz ha hh hb => ?_, fun hr hz hz2 hc ha => ?_,
    fun hr h36 h50 h56 hbody ha hw hb => ?_⟩
  · refine row_ok hr ?_
    simp only [need_true hz, ok_bind]
  · intro u old v new
    refine row_ok hr ?_
    have hc : (zeroFrom bs 25 7 && zeroFrom bs 40 24 && decide (field bs 24 1 ≤ 2)) = true := by
      rw [hz, hz2, decide_eq_true hop]; rfl
    simp only [need_true hc, ok_bind, show s1.packetWord bs (field bs 16 8) .both = .ok a from ha, need_true (Bool.not_eq_true' _ ▸ hb)]
    refine congrArg (fun w => Except.ok ((u.poke a.atHost w).startPacket bs true)) ?_
    exact natBytes_signalValue ..
  · refine row_ok hr ?_
    simp only [need_true hz, ok_bind, show s1.packetWord bs (field bs 16 8) .write = .ok a from ha]
  · refine row_ok hr ?_
    simp only [need_true hz, ok_bind, show s1.packetWord bs (field bs 16 8) .both = .ok a from ha, need_true hh,
      need_true (Bool.not_eq_true' _ ▸ hb)]
    rfl
  · intro us w s2 s3 met s4 hm
    refine row_ok hr ?_
    have hok : (zeroFrom bs 25 3 && zeroFrom bs 40 24 && decide (field bs 24 1 ≤ 3)) = true := by
      rw [hz, hz2, decide_eq_true hc]; rfl
    simp only [need_true hok, ok_bind, show s1.packetWord bs (field bs 16 8) .read = .ok a from ha]
    exact congrArg (· >>= _) hm
  · intro s2 l m hk hd had
    refine row_ok hr ?_
    have hz : (zeroFrom bs 36 4 && zeroFrom bs 50 2 && zeroFrom bs 56 8) = true := by rw [h36, h50, h56]; rfl
    have hl : (l.kd.ok (s1.peek a) l.scratchDyn (q s1).qflags && decide (l.minDies ≤ l.maxDies)) = true := by
      rw [hk, decide_eq_true hd]; rfl
    have hm : (admission l m == 0) = true := beq_iff_eq.mpr had
    have hres : s1.resolve (s1.queue s1.cur.fn s1.cur.q).context (s1.queue s1.cur.fn s1.cur.q).home false (field bs 16 8) 128 .read = .ok a := ha
    simp only [need_true hz, need_true hbody, ok_bind, hres, need_true (Bool.not_eq_true' _ ▸ hw), need_true (Bool.not_eq_true' _ ▸ hb)]
    exact (need_bind hl _ _).trans (need_bind hm _ _)

/-- Settles O45: each event reads the queue's fields that its guard names; a packet is marked by its number and launch. -/
theorem packetEnd : Obligations.PacketEnd := by
  unfold Obligations.PacketEnd
  intro s f q x
  refine ⟨fun w met s1 hw hd hm => ?_, fun w d hw hd hlt => ?_, fun w p d hw hp hd hle => ?_, fun p s1 hp hs => ?_⟩
  · change Host.Outcome.next s.rereadWait = _
    have hw' : (s.queue s.cur.fn s.cur.q).wait = some w := hw
    have hd' : (w.deadline.any fun d => decide (d < s.refTime)) = false := by
      rw [Option.any_eq_false]
      exact fun d h => decide_eq_false (Nat.not_lt.mpr (hd d h))
    simp only [State.rereadWait, hw', hd', Bool.false_eq_true, if_false, hm]
  · change Host.Outcome.next s.rereadWait = _
    have hw' : (s.queue s.cur.fn s.cur.q).wait = some w := hw
    simp only [State.rereadWait, hw', hd, Option.any_some, decide_eq_true hlt, if_true]
  · change Host.Outcome.next s.timeoutWait = _
    have hw' : (s.queue s.cur.fn s.cur.q).wait = some w := hw
    have hp' : (s.queue s.cur.fn s.cur.q).pkts.head? = some p := hp
    simp only [State.timeoutWait, hw', hp', hd, Option.any_some, decide_eq_true hle, if_true]
    rfl
  · intro s2 s3 s4
    change execPacketComplete s = _
    have hp' : ((s.queue s.cur.fn s.cur.q).orphans ++ (s.queue s.cur.fn s.cur.q).pkts).find? s.packetDone = some p := hp
    simp only [execPacketComplete, hp', show s.decSignal s.cur.fn s.cur.q (s.queue s.cur.fn s.cur.q) p = .ok s1 from hs,
      Bool.and_eq_true, decide_eq_true_eq]
    rfl

end Sys2Proof.Machine
end

section
/-!
SUPPORT. Settles O46 (ManagementReads) and O47 (ManagementWrites).
-/

namespace Sys2Proof.Machine

open Sys2Proof

theorem request_ok {s : State} {code : Nat} {r : List Byte} (hr : s.request code = some r) (body : List Byte → State) :
    requestRow s code body = .next (body r) := by
  simp only [requestRow, hr]

theorem within_iff {a x b : Nat} : within a x b = true ↔ a ≤ x ∧ x ≤ b := by
  simp only [within, Bool.and_eq_true, decide_eq_true_eq]

/-- The reserved bits of a CONTEXT value are apart from its function. -/
theorem ctxFn_ctxBits (c : Nat) : ctxFn (ctxBits c) = ctxFn c := by
  simp only [ctxFn, ctxBits]
  omega

/-- Settles O46: each row passes the checks of its fields and answers. -/
theorem managementReads : Obligations.ManagementReads := by
  unfold Obligations.ManagementReads
  intro s r
  refine ⟨fun hr hh h8 ht => ?_, fun hr hh => ⟨fun hop ht => ?_, fun hop h9 ht hlo hhi h25 => ?_⟩, fun hr h4 => ?_, fun hf => ⟨fun hr => ?_, fun hr => ?_⟩,
    fun ctx x hx => ?_, fun hr hf hlo hhi hz => ?_, fun x hx hr hh h11 => ⟨fun hop h12 ht => ?_, fun hop ht hslot => ?_⟩⟩
  · exact (request_ok hr _).trans (by simp only [hh, ht, Nat.not_le.mpr h8, decide_false, Bool.not_true, Bool.or_false, Bool.false_eq_true, if_false])
  · refine (request_ok hr _).trans ?_
    simp only [hh, ht, hop, ne_eq, not_true_eq_false, decide_false, Bool.not_true, Bool.or_false, Bool.false_eq_true, if_false]
    rfl
  · refine (request_ok hr _).trans ?_
    simp only [hh, ht, hop, h9, h25, Nat.not_lt.mpr hlo, Nat.not_lt.mpr hhi, ne_eq, not_true_eq_false, decide_false, Bool.not_true, Bool.or_false,
      Bool.false_eq_true, if_false]
    rfl
  · exact (request_ok hr _).trans (by simp only [Nat.not_le.mpr h4, if_false])
  · exact (request_ok hr _).trans (by simp only [contextOnly, hf, if_true] <;> rfl)
  · exact (request_ok hr _).trans (by simp only [contextOnly, hf, if_true] <;> rfl)
  · change execMctpSterlingRead ctx s = _
    simp only [execMctpSterlingRead, hx]
  · intro ctx
    refine (request_ok hr _).trans ?_
    have hg : (decide (16 < ctxFn (ctxBits (field r 8 4))) || !within 16 (field r 12 1) 57 ||
        decide (field r 16 8 % 2 ^ field r 12 1 ≠ 0)) = false := by
      rw [ctxFn_ctxBits, decide_eq_false (Nat.not_lt.mpr hf), within_iff.mpr ⟨hlo, hhi⟩, decide_eq_false (not_not.mpr hz)]
      rfl
    simp only [hg, Bool.false_eq_true, if_false, Bool.and_eq_true, List.any_eq_true, AtomReq.inRange, beq_iff_eq, decide_eq_true_eq, and_assoc]
    rfl
  · intro y
    refine (request_ok hr _).trans ?_
    simp only [hh, ht, hop, h11, h12, hx, ne_eq, not_true_eq_false, decide_false, Bool.not_true, Bool.or_false, Bool.false_eq_true, if_false]
    rfl
  · intro y
    refine (request_ok hr _).trans ?_
    simp only [hh, ht, hop, h11, hx, Nat.not_le.mpr hslot, ne_eq, not_true_eq_false, decide_false, Bool.not_true, Bool.or_false, Bool.false_eq_true,
      if_false]
    rfl

/-! ### Requests that write -/

/-- Functions that move leave the partitions as they are. -/
theorem tget_putPart (s : State) (id : Nat) (x : Part) (named : List Nat) : ∃ y, tget (s.putPart id x named).parts id = some y ∧
    y.cores = x.cores ∧ y.engines = x.engines ∧ y.slices = x.slices ∧ y.parent = x.parent := by
  unfold State.putPart
  simp only
  rw [forAll_keeps State.parts fun s f => ?_, tget_tset_same]
  · refine ⟨_, rfl, ?_⟩
    split <;> exact ⟨rfl, rfl, rfl, rfl⟩
  · split
    · rfl
    · split <;> rfl

theorem partSet_ok {s : State} {r : List Byte} (hr : s.request 0x10 = some r) (h0 : s.partStatus r = 0) :
    let put := fun (u : State) => u.putPart (field r 8 2) (Part.of r) (partFuncs r)
    let u := s.vacate put
    exec .partSet s = .next (if u.displaced (put u) ≠ [] ∨ u.strayCopies (put u) = true then u
      else (put u).endVacate.moveAllShares.reply r 0 []) := by
  intro put u
  refine (request_ok hr _).trans ?_
  simp only [h0, ne_eq, not_true_eq_false, if_false, Bool.or_eq_true, Bool.not_eq_true', List.isEmpty_eq_false_iff]
  rfl

theorem partDel_ok {s : State} {r : List Byte} {x : Part} (hr : s.request 0x11 = some r) (hid : within 1 (field r 8 2) 255 = true)
    (hx : tget s.parts (field r 8 2) = some x) :
    let id := field r 8 2
    let mine := (List.range 17).filter fun f => (s.func f).part == some id
    let u := forAll (fun s f => s.setFunc f { s.func f with part := some x.parent }) s mine
    exec .partDel s = .next (if s.children id ≠ [] ∨ ∃ f ∈ mine, s.queueEnabled f = true then s.reply r 4 []
      else State.reply
        { u with
          parts := terase u.parts id, stores := tmap u.stores fun _ y => if y.part = id then { y with part := x.parent } else y } r 0 []) := by
  intro id mine u
  refine (request_ok hr _).trans ?_
  simp only [hid, hx, Bool.not_true, Bool.false_eq_true, if_false, Bool.or_eq_true, Bool.not_eq_true', List.isEmpty_eq_false_iff, List.any_eq_true]
  rfl

/-- Settles O47: each row passes the checks of its fields and stores what the request says. -/
theorem managementWrites : Obligations.ManagementWrites := by
  unfold Obligations.ManagementWrites
  intro s r
  refine ⟨fun hr => ?_, ⟨fun x hr h1 h255 hx => ?_, fun hr => ⟨fun hop h1 h255 h12 h28 h16 hp hnone => ?_, fun hop hsome => ?_⟩⟩, ?_, ?_⟩
  · intro put u
    refine ⟨fun hn => ?_, partSet_ok hr, tget_putPart s _ _ _⟩
    exact (request_ok hr _).trans (by simp only [hn, ne_eq, not_false_eq_true, if_true])
  · exact partDel_ok hr (within_iff.mpr ⟨h1, h255⟩) hx
  · intro x
    refine (request_ok hr _).trans ?_
    have hg : (!within 1 (field r 8 2) 255 || decide (field r 12 1 ≠ 1) || !within 12 (field r 13 1) 28 || decide (16 < field r 14 1)) = false := by
      rw [within_iff.mpr ⟨h1, h255⟩, within_iff.mpr ⟨h12, h28⟩, decide_eq_false (Nat.not_lt.mpr h16), decide_eq_false (not_not.mpr hop)]
      rfl
    have hp' : (tget s.parts (field r 10 2)).isNone = false := by rw [← Option.not_isSome, hp]; rfl
    simp only [hg, show field r 12 1 ≠ 2 by omega, hp', hnone, Option.isSome_none, Bool.false_eq_true, if_false]
    rfl
  · refine (request_ok hr _).trans ?_
    have hs' : (tget s.stores (field r 8 2)).isNone = false := by rw [← Option.not_isSome, hsome]; rfl
    simp only [hop, hs', ne_eq, not_true_eq_false, Bool.false_eq_true, if_false, List.any_eq_true, Bool.and_eq_true, beq_iff_eq]
  · intro ctx hr hf h16 c hc
    have hok : bindOk r = true := by
      unfold bindOk
      rw [decide_eq_true hf, decide_eq_true h16]
      rfl
    refine ⟨fun h0 x hx => ?_, fun h1 => ?_⟩
    · intro p b
      refine (request_ok hr _).trans ?_
      simp only [h0, hok, show s.ctx? (ctxBits (field r 8 4)) = some c from hc, hx, zero_ne_one, Bool.not_true, Bool.false_eq_true, if_false,
        Bool.and_eq_true, bne_iff_ne, Bool.not_eq_true']
      rfl
    · refine (request_ok hr _).trans ?_
      simp only [h1, hok, show s.ctx? (ctxBits (field r 8 4)) = some c from hc, one_ne_zero, Bool.not_true, Bool.false_eq_true, if_false]
      rfl
  · intro ctx hr
    refine ⟨fun hf => ?_, fun hf hc src dst hsrc hdst hpeer hwait hbad => ?_⟩
    · change execFinalise s = _
      simp only [execFinalise, hr, hf, Bool.not_false, if_true]
    · change execFinalise s = _
      have hc' : (s.ctx? (ctxBits (field r 8 4))).isNone = false := by rw [← Option.not_isSome]; exact congrArg _ hc
      have hpeer' : (dst.any fun a => (s.peerRefuses a true).isSome) = false := by
        rw [List.any_eq_false]
        exact fun a ha => by simp only [hpeer a ha, Option.isSome_none, Bool.false_eq_true, not_false_eq_true]
      have hbad' : src.findIdx? s.accBad = none := List.findIdx?_eq_none_iff.mpr hbad
      have hsrc' : packetAccs s (ctxBits (field r 8 4)) .read (field r 16 8) (field r 12 4) = .ok src := hsrc
      have hdst' : packetAccs s (ctxBits (field r 8 4)) .write (field r 24 8) (field r 12 4) = .ok dst := hdst
      simp only [execFinalise, hr, hf, hc', hsrc', hdst', hpeer', hwait, hbad', Bool.not_true, Bool.false_eq_true, if_false]
      rfl

end Sys2Proof.Machine
end

section
/-!
SUPPORT. Settles O48 (Squeezes).
-/

namespace Sys2Proof.Machine

open Sys2Proof

/-! ### The victims of a request and what a squeeze notes -/

theorem reqVictims_all (s : State) (c : Nat) {r : SqReq} (h : r.origin ≠ 1) : s.reqVictims c r = s.victimTeams c r.ctx := by
  unfold State.reqVictims
  rw [List.filter_eq_self]
  intro id _
  rw [bne_iff_ne.mpr h, Bool.true_or]

theorem mayTake_iff {s : State} {f q : Nat} {t : Team} : s.mayTake f q t = true ↔ ∃ l, s.launchOf t = some l ∧ ¬(l.fn = f ∧ l.q = q) ∧
    ((s.queue f q).priority < (s.queue l.fn l.q).priority ∨ s.isOver l.fn l.q = true) := by
  unfold State.mayTake
  split
  next l hl =>
    simp only [hl, Option.some.injEq, exists_eq_left', Bool.and_eq_true, Bool.not_eq_true', Bool.and_eq_false_iff, beq_eq_false_iff_ne,
      not_and_or, Bool.or_eq_true, decide_eq_true_eq, ne_eq]
  next hl => simp only [hl, Bool.false_eq_true, reduceCtorEq, false_and, exists_false]

theorem reqVictims_takeable {s : State} {c : Nat} {r : SqReq} (h : r.origin = 1) {id : Nat} (hid : id ∈ s.reqVictims c r) :
    ∃ t l, tget s.teams id = some t ∧ s.launchOf t = some l ∧ ¬(l.fn = r.fn ∧ l.q = r.q) ∧
      ((s.queue r.fn r.q).priority < (s.queue l.fn l.q).priority ∨ s.isOver l.fn l.q = true) := by
  obtain ⟨_, hm⟩ := List.mem_filter.mp hid
  rw [h, bne_self_eq_false, Bool.false_or] at hm
  cases ht : tget s.teams id with
  | none => rw [ht] at hm; cases hm
  | some t =>
    rw [ht] at hm
    obtain ⟨l, hl⟩ := mayTake_iff.mp hm
    exact ⟨t, l, rfl, hl⟩

theorem core_setCore_same (s : State) (c : Nat) (k : Core) : (s.setCore c k).core c = k := (core_setCore ..).trans (if_pos rfl)

theorem serveSqueeze_runs (s : State) (c : Nat) (r : SqReq) (vs : List Nat) :
    ∃ x, ((s.serveSqueeze c r vs).core c).sqRun = some x ∧ x.req = r ∧ x.victims = vs ∧ x.seq = (s.core c).seq := by
  unfold State.serveSqueeze
  simp only
  split
  · exact ⟨_, congrArg Core.sqRun (core_setCore_same ..), rfl, rfl, rfl⟩
  · exact ⟨_, congrArg Core.sqRun (core_setCore_same ..), rfl, rfl, rfl⟩

/-! ### The handover -/

theorem reclaim_req (s : State) (c : Nat) (r : SqRun) : (s.reclaim c r).2.req = r.req ∧ (s.reclaim c r).2.victims = r.victims := by
  unfold State.reclaim
  split
  · exact ⟨rfl, rfl⟩
  · split <;> exact ⟨rfl, rfl⟩

theorem modTeam_mgmt (s : State) (id : Nat) (f : Team → Team) : (s.modTeam id f).mgmt = s.mgmt := by unfold State.modTeam; split <;> rfl

theorem reclaim_mgmt (s : State) (c : Nat) (r : SqRun) : (s.reclaim c r).1.mgmt = s.mgmt := by
  unfold State.reclaim State.spillMatrix
  split
  · rfl
  · split
    · split
      · rfl
      · exact modTeam_mgmt ..
    · rfl

theorem showAs_mgmt (s : State) (grant : Option (Word32 × Byte)) (id : Nat) (f : Team → Nat → Group → Resid) : (s.showAs grant id f).mgmt = s.mgmt := by
  unfold State.showAs; split <;> rfl

theorem request_of_mgmt {s t : State} (h : t.mgmt = s.mgmt) (code : Nat) : t.request code = s.request code := by
  unfold State.request; rw [h]

/-- What the matrix step of a request does where it does something. -/
theorem reclaim_cases (s : State) (c : Nat) (r : SqRun) :
    if r.req.matrix = false ∨ r.gflags.getLsbD 4 = true then s.reclaim c r = (s, r)
    else (s.reclaim c r).2.gflags = r.gflags ||| 2 ∧ ∀ id t, (s.core c).owner = some id → id ∈ r.victims → tget s.teams id = some t →
      (s.reclaim c r).2.matrixGot = true ∧ ((s.reclaim c r).1.core c).owner = none ∧
      tget (s.reclaim c r).1.teams id = some { t with mspill := true } := by
  unfold State.reclaim
  split
  next h => exact if_pos (by simpa only [Bool.or_eq_true, Bool.not_eq_true'] using h)
  next h =>
    rw [if_neg (by simpa only [Bool.or_eq_true, Bool.not_eq_true'] using h)]
    refine ⟨by split <;> rfl, fun id t hid hv ht => ?_⟩
    have hown : s.ownerVictim c r.victims = some id := by
      unfold State.ownerVictim
      rw [hid, Option.filter_some, if_pos (List.contains_iff_mem.mpr hv)]
    simp only [hown, State.spillMatrix, core_setCore_same, true_and]
    change tget (s.modTeam id _).teams id = _
    rw [State.modTeam, ht]
    exact tget_tset_same ..

section
variable {s : State} {c : Nat}

theorem serveNext_squeeze {r : SqReq} (hn : s.nextReq c = some (.squeeze r)) (hb : (s.core c).busy = false) (hv : s.reqVictims c r ≠ [])
    (hf : s.foldsElse c (s.reqVictims c r) = false) :
    s.serveNext c = State.serveSqueeze (s.setCore c { s.core c with
      sqQueue := (s.core c).sqQueue.erase (.squeeze r), cut := !((s.core c).sqQueue.erase (.squeeze r)).isEmpty }) c r (s.reqVictims c r) := by
  simp only [State.serveNext, hn, hb, hf, List.isEmpty_eq_false_iff.mpr hv, Bool.false_eq_true, if_false]

theorem queueSqueeze_queues {r : List Byte} {q : SqReq} (hr : s.request 0x12 = some r) (hq : SqReq.of r = some q) (hc : field r 12 1 = c)
    (hm : (s.core c).sqQueue.any CoreReq.ofMailbox = false) (hrun : (s.core c).sqRun = none) (hx : (s.ctx? q.ctx).isSome = true)
    (hv : s.victimTeams c q.ctx ≠ []) : s.queueSqueeze c = some (s.setCore c { s.core c with
      sqQueue := (s.core c).sqQueue ++ [.squeeze q], cut := (s.core c).cut || (s.core c).busy }) := by
  have hx' : (s.ctx? q.ctx).isNone = false := by rw [← Option.not_isSome, hx]; rfl
  have hmine : ((s.core c).sqQueue.any CoreReq.ofMailbox || ((s.core c).sqRun.map fun x => x.req.origin == 0).getD false) = false := by
    rw [hm, hrun]; rfl
  simp only [State.queueSqueeze, hr, hq, hc, hmine, hx', List.isEmpty_eq_false_iff.mpr hv, ne_eq, not_true_eq_false, decide_false,
    Bool.or_false, Bool.false_eq_true, if_false]
  rfl

variable {r g : SqRun} {u : State}

/-- What a handover shows of its victims. -/
def State.showVictims (v : State) (r : SqRun) : State := forAll (fun v id => v.showTeam (some (r.seq, 1)) id) v r.victims

theorem showVictims_mgmt (v : State) (r : SqRun) : (v.showVictims r).mgmt = v.mgmt :=
  forAll_keeps State.mgmt (f := fun v id => State.showTeam v (some (r.seq, 1)) id) (fun v id => showAs_mgmt v _ id _) v _

section
variable (hr : (s.core c).sqRun = some r) (hw : s.reclaimWaits c r = false) (hg : s.reclaim c r = (u, g)) (hreq : g.req = r.req)
  (hvic : g.victims = r.victims)
include hr hw hg hreq hvic

theorem handover_mailbox (h0 : r.req.origin = 0) {m : List Byte} (hm : u.request 0x12 = some m) :
    let v := (((u.setCore c (Core.hold { u.core c with sqRun := none } g)).showVictims r).endHolds c []).produce c g 1
    exec (.squeezeHandover c) s = .next (v.reply m 0 (grantRecord g c 1 v.refTime)) := by
  intro v
  change execSqueezeHandover c s = _
  have hv : v.request 0x12 = some m := (request_of_mgmt (showVictims_mgmt (u.setCore c _) r) _).trans hm
  simp only [execSqueezeHandover, hr, hw, hg, hreq, hvic, h0, zero_ne_one, if_true, if_false, decide_false, Bool.false_and, Bool.false_eq_true]
  split
  next m' hm' =>
    cases Option.some.inj (hm'.symm.trans hv)
    rfl
  next hno => exact absurd hv (hno m rfl)

theorem handover_scheduler (h1 : r.req.origin = 1) :
    let v := (u.setCore c { u.core c with sqRun := none, reserves := (u.core c).reserves ++
      [{ fn := r.req.fn, q := r.req.q, lanes := g.lanesGot }] }).showVictims r
    exec (.squeezeHandover c) s = .next ((if g.matrixGot = true then v.grantMatrix c g (some (r.seq, 1)) else v).produce c g 1) := by
  intro v
  change execSqueezeHandover c s = _
  simp only [execSqueezeHandover, hr, hw, hg, hreq, hvic, h1, one_ne_zero, if_true, if_false, decide_true, Bool.true_and, Bool.false_eq_true]
  split <;> rfl

theorem handover_other (h1 : 1 < r.req.origin) :
    exec (.squeezeHandover c) s = .next (((u.setCore c { u.core c with sqRun := none }).showVictims r).produce c g 1) := by
  change execSqueezeHandover c s = _
  have h0 : r.req.origin ≠ 0 := by omega
  have h2 : r.req.origin ≠ 1 := by omega
  simp only [execSqueezeHandover, hr, hw, hg, hreq, hvic, h0, h2, if_false, decide_false, Bool.false_and, Bool.false_eq_true]
  split
  next h _ => exact absurd h h0
  next => rfl

end

theorem unsqueeze_ok {r : List Byte} (hr : s.request 0x17 = some r) (hh : headerOk r = true) (hc : field r 12 1 < 160) (hz : zeroFrom r 13 51 = true) :
    let ctx := ctxBits (field r 8 4)
    let k := s.core (field r 12 1)
    exec .unsqueeze s = .next (if s.ctx? ctx = none ∨ tget k.holds ctx = none then s.reply r 5 []
      else (s.setCore (field r 12 1) { k with holds := terase k.holds ctx }).reply r 0 []) := by
  intro ctx k
  change execUnsqueeze s = _
  simp only [execUnsqueeze, hr, hh, hz, Nat.not_le.mpr hc, Bool.not_true, decide_false, Bool.or_false, Bool.false_eq_true, if_false, Bool.or_eq_true,
    Option.isNone_iff_eq_none, ← apply_ite Host.Outcome.next]
  rfl

end

/-- Settles O48: the core's queue, the matrix step and the handover one by one; the mailbox's request is there until it is answered
because what is shown of groups does not touch it. -/
theorem squeezes : Obligations.Squeezes := by
  unfold Obligations.Squeezes
  refine ⟨fun s c r => ?_, fun s c r => ⟨reqVictims_all s c, fun h id => reqVictims_takeable h⟩, fun s c r q hr hq hc hm hrun hx hv => ?_,
    serveSqueeze_runs, fun s c r hr => ?_, reclaim_cases, fun s r hr hh hc hz => ?_, fun s c ho => ⟨fun hn => ?_, fun hn => ?_⟩⟩
  · intro k vs hq hn hb hv hf
    change Host.Outcome.next ((s.queueSqueeze c).getD (s.serveNext c)) = _
    rw [hq, Option.getD_none]
    exact congrArg _ (serveNext_squeeze hn hb hv hf)
  · change Host.Outcome.next ((s.queueSqueeze c).getD (s.serveNext c)) = _
    rw [queueSqueeze_queues hr hq hc hm hrun hx hv, Option.getD_some]
  · intro u g k show'
    obtain ⟨hreq, hvic⟩ := reclaim_req s c r
    split
    next hw =>
      change execSqueezeHandover c s = _
      simp only [execSqueezeHandover, hr, hw, if_true]
    next hw =>
      have hw := Bool.not_eq_true _ ▸ hw
      exact ⟨fun h0 m hm => handover_mailbox hr hw rfl hreq hvic h0 ((request_of_mgmt (reclaim_mgmt s c r) _).trans hm),
        handover_scheduler hr hw rfl hreq hvic, handover_other hr hw rfl hreq hvic⟩
  · exact unsqueeze_ok hr hh hc hz
  · change execExpansion c s = _
    simp only [execExpansion, ho, hn, Option.isNone_none, Bool.not_true, Bool.false_eq_true, if_false, if_true]
  · change execExpansion c s = _
    have hn' : (s.nextReq c).isNone = false := Option.isNone_eq_false_iff.mpr (Option.isSome_iff_ne_none.mpr hn)
    simp only [execExpansion, ho, hn', Bool.not_true, Bool.false_eq_true, if_false]
    split <;> rfl

end Sys2Proof.Machine
end

section
/-!
SUPPORT. Settles O49 (Switches).
-/

namespace Sys2Proof.Machine

open Sys2Proof

/-! ### Teams that are saved off their cores -/

/-- Once a core has been stripped of an owner, the others that are stripped after it leave it so. -/
theorem strip_owner {f : State → Nat → State} {id : Nat} (hsame : ∀ s c, ((f s c).core c).owner ≠ some id)
    (hother : ∀ s c c', (s.core c').owner ≠ some id → ((f s c).core c').owner ≠ some id) {s : State} {l : List Nat} {c : Nat} (hc : c ∈ l) :
    ((forAll f s l).core c).owner ≠ some id := by
  have hkeep (u : State) (l : List Nat) (h : (u.core c).owner ≠ some id) : ((forAll f u l).core c).owner ≠ some id :=
    forAll_invariant (P := fun u : State => (u.core c).owner ≠ some id) (fun u x h => hother u x c h) h l
  induction l generalizing s with
  | nil => cases hc
  | cons x r ih =>
    change ((forAll f (f s x) r).core c).owner ≠ some id
    rcases List.mem_cons.mp hc with rfl | hr
    · exact hkeep _ r (hsame s c)
    · exact ih hr

theorem saveTeam_saved {s : State} {id : Nat} {t : Team} (held : Bool) (ht : tget s.teams id = some t) : ∃ x,
    tget (s.saveTeam held id).teams id = some x ∧ x = { t with
      resident := false, heldOut := held, saveValid := true, smap := [], savedGroups := x.savedGroups,
      savedOwner := x.savedOwner, savedMatrix := x.savedMatrix } ∧
    ∀ c ∈ t.cores, ((s.saveTeam held id).core c).owner ≠ some id := by
  unfold State.saveTeam
  rw [ht]
  simp only
  refine ⟨_, tget_tset_same .., rfl, fun c hc => ?_⟩
  refine strip_owner (f := fun (s : State) c => s.setCore c _) (fun s c => ?_) (fun s c c' h => ?_) (List.mem_eraseDups.mpr (List.mem_append_right _ hc))
  · rw [core_setCore_same]
    exact fun h => absurd (Option.filter_eq_some_iff.mp h).2 (by simp)
  · rw [core_setCore]
    split
    next e => exact fun h => absurd (Option.filter_eq_some_iff.mp h).2 (by simp)
    next => exact h

/-! ### SWITCH -/

theorem switchCheck_ok {s : State} {r : List Byte} {ctx c : Nat} (hk : s.switchCheck r = .ok (ctx, c)) :
    s.plant.openSwitch.contains (ctx, c) = false ∧ ctx = ctxBits (field r 8 4) ∧ c = field r 12 1 := by
  unfold State.switchCheck at hk
  simp only at hk
  split at hk
  · cases hk
  · split at hk
    · cases hk
    next ho =>
      split at hk
      · cases hk
      · cases hk
        exact ⟨Bool.not_eq_true _ ▸ ho, rfl, rfl⟩

section
variable {s : State} {r : List Byte} {ctx c : Nat} (hr : s.request 0x19 = some r) (hk : s.switchCheck r = .ok (ctx, c))
include hr hk

section
variable (hop : field r 13 1 = 1) (hids : s.victimTeams c ctx ≠ [])
include hop hids

theorem switchOut_waits (hs : (s.core c).savedFor ctx .mailbox = false)
    (hw : s.hasCores (s.switchCores c ctx) (.switchOut ctx) = false ∨ s.takeSpill ctx (s.victimTeams c ctx) = none) :
    exec .switchOut s = .next (s.putReq (s.switchCores c ctx) (.switchOut ctx)) := by
  change execSwitchOut s = _
  have hnone : (if s.hasCores (s.switchCores c ctx) (.switchOut ctx) = true then s.takeSpill ctx (s.victimTeams c ctx) else none) = none := by
    rcases hw with h | h
    · rw [h]; rfl
    · rw [h, ite_self]
  simp only [execSwitchOut, hr, hop, hk, hs, List.isEmpty_eq_false_iff.mpr hids, hnone, show ¬(1 = 2) by decide, ne_eq, not_true_eq_false,
    Bool.not_false, Bool.false_eq_true, if_true, if_false]

theorem switchOut_starts (hs : (s.core c).savedFor ctx .mailbox = false) (hh : s.hasCores (s.switchCores c ctx) (.switchOut ctx) = true) {u : State}
    (hu : s.takeSpill ctx (s.victimTeams c ctx) = some u) :
    let v := ((u.dropReq (.switchOut ctx)).foldOut (s.switchCores c ctx) (s.victimTeams c ctx)).setSaving (s.switchCores c ctx) (some ctx)
    exec .switchOut s = .next (v.setCore c { v.core c with savedRun := some (u.released c ctx (s.victimTeams c ctx) 0) }) := by
  intro v
  change execSwitchOut s = _
  simp only [execSwitchOut, hr, hop, hk, hs, hh, hu, List.isEmpty_eq_false_iff.mpr hids, show ¬(1 = 2) by decide, ne_eq, not_true_eq_false,
    Bool.not_false, Bool.false_eq_true, if_true, if_false]
  rfl

theorem switchOut_unquiet (hs : (s.core c).savedFor ctx .mailbox = true) (hq : s.quiet (s.victimTeams c ctx) = false) :
    exec .switchOut s = .next s := by
  change execSwitchOut s = _
  simp only [execSwitchOut, hr, hop, hk, hs, hq, List.isEmpty_eq_false_iff.mpr hids, show ¬(1 = 2) by decide, ne_eq, not_true_eq_false,
    Bool.not_false, Bool.not_true, Bool.false_eq_true, if_true, if_false]

theorem switchOut_saves (hs : (s.core c).savedFor ctx .mailbox = true) (hq : s.quiet (s.victimTeams c ctx) = true) {had : SqRun}
    (hrun : (s.core c).savedRun = some had) :
    let run := { had with seq := (s.takeSeq c).1 }
    let w := ((forAll (fun s id => s.saveTeam true id) (s.takeSeq c).2 (s.victimTeams c ctx)).afterSave (s.victimTeams c ctx)
      (s.switchingOff ctx)).setSaving (s.switchingOff ctx) none
    exec .switchOut s = .next ((w.produce c run 3).reply r 0 (grantRecord run c 3 w.refTime)) := by
  intro run w
  change execSwitchOut s = _
  simp only [execSwitchOut, hr, hop, hk, hs, hq, List.isEmpty_eq_false_iff.mpr hids, show ¬(1 = 2) by decide, ne_eq, not_true_eq_false,
    Bool.not_true, Bool.false_eq_true, if_false, State.switchOut, hrun, Option.getD_some]
  rfl

end

theorem switchIn_ok (hop : field r 13 1 = 2) (hh : s.heldOut c ctx ≠ []) :
    exec .switchIn s = .next
      { s.putReq (s.inCores c ctx) (.switchIn c ctx) with
        plant := { s.plant with openSwitch := s.plant.openSwitch ++ [(ctx, c)] } } := by
  change execSwitchIn s = _
  obtain ⟨ho, rfl, rfl⟩ := switchCheck_ok hk
  simp only [execSwitchIn, hr, hop, hk, ho, List.isEmpty_eq_false_iff.mpr hh, ne_eq, not_true_eq_false, decide_false, Bool.false_and, Bool.or_false,
    Bool.false_eq_true, if_false]

end

theorem switchInRestore_ok {s s1 : State} {c ctx : Nat} {r : List Byte} (hx : s.switchInCtx c = some ctx) (hh : s.heldOut c ctx ≠ [])
    (ho : ∀ y ∈ s.inCores c ctx, s.coreOpen y = true) (hc : s.hasCores (s.inCores c ctx) (.switchIn c ctx) = true)
    (h1 : State.restoreAll 0 false (s.heldOut c ctx) s = some s1) :
    let ids := (s.heldOut c ctx).map (·.1)
    let s3 := forAll (fun s id => s.showTeam (some ((s1.takeSeq c).1, 3)) id) (s1.takeSeq c).2 ids
    let run := s3.heldOn c ctx ids (s1.takeSeq c).1
    let s5 := (s3.produce c run 3).switchInDone c ctx
    s5.request 0x19 = some r → exec (.switchInRestore c) s = .next (s5.reply r 0 (grantRecord run c 3 s3.refTime)) := by
  intro ids s3 run s5 hr
  change execSwitchInRestore c s = _
  simp only [execSwitchInRestore, hx, hc, h1, List.isEmpty_eq_false_iff.mpr hh, List.all_eq_true.mpr ho, Bool.not_true, Bool.or_false,
    Bool.false_eq_true, if_false]
  change Host.Outcome.next (match s5.request 0x19 with | some r => _ | none => _) = _
  rw [hr]
  rfl

theorem saveDrainDone_ok {s : State} {c ctx : Nat} (hx : (s.core c).saving = some ctx) :
    let cs := (c :: s.switchCores c ctx).eraseDups
    let ids := s.leaving cs ctx
    exec (.saveDrainDone c) s = .next (
      if (s.core c).savingBy = .slice ∧ s.quiet ids = true then
        let w := ((forAll (fun s id => s.saveTeam false id) s ids).afterSave ids cs).setSaving cs none
        forAll (fun s c => if s.nextReq c = none then s.expand c else s) w cs
      else s) := by
  intro cs ids
  change execSaveDrainDone c s = _
  have hg : (decide ((s.core c).savingBy ≠ .slice) || !s.quiet ids) = true ↔ ¬((s.core c).savingBy = .slice ∧ s.quiet ids = true) := by
    rw [Bool.or_eq_true, decide_eq_true_eq, Bool.not_eq_true', ← Bool.not_eq_true, not_and_or]
  simp only [execSaveDrainDone, hx, Option.isNone_iff_eq_none]
  by_cases hd : (s.core c).savingBy = .slice ∧ s.quiet ids = true
  · rw [if_pos hd]
    exact if_neg (mt hg.mp (not_not.mpr hd))
  · rw [if_neg hd]
    exact if_pos (hg.mpr hd)

theorem schedPeriod_ok {s : State} (h : s.plant.nextPeriod ≤ s.refTime) : ∃ t, exec .schedPeriod s = .next t ∧
    t.plant.nextPeriod = s.plant.nextPeriod + 1000000 ∧ (∀ x ∈ t.queues, x.2.charge = 0) ∧ ∀ x ∈ t.parts, x.2.timeUsed = 0 := by
  obtain ⟨u, hu⟩ : ∃ u : State, s.periodEnd =
      { u with
        plant := { u.plant with nextPeriod := s.plant.nextPeriod + 1000000 },
        queues := tmap u.queues fun _ q => { q with charge := 0 }, parts := tmap u.parts fun _ x => { x with timeUsed := 0 } } := ⟨_, rfl⟩
  refine ⟨s.periodEnd, ?_, by rw [hu], fun x hx => ?_, fun x hx => ?_⟩
  · change execSchedPeriod s = _
    rw [execSchedPeriod, if_neg (Nat.not_lt.mpr h)]
  · rw [hu] at hx
    obtain ⟨y, _, rfl⟩ := List.mem_map.mp hx
    rfl
  · rw [hu] at hx
    obtain ⟨y, _, rfl⟩ := List.mem_map.mp hx
    rfl

/-- Settles O49: each event passes its guards; a team that is saved is stripped of its cores, and no later core gives one back. -/
theorem switches : Obligations.Switches := by
  unfold Obligations.Switches
  refine ⟨fun s r ctx c hr hk => ⟨fun hop hids => ⟨switchOut_waits hr hk hop hids, fun hs hh u => switchOut_starts hr hk hop hids hs hh,
    switchOut_unquiet hr hk hop hids, fun hs hq had => switchOut_saves hr hk hop hids hs hq⟩, switchIn_ok hr hk⟩, fun s s1 c ctx r => switchInRestore_ok,
    fun s c ctx => saveDrainDone_ok, fun s id t held => saveTeam_saved held, fun s g hg => ?_, fun s => schedPeriod_ok⟩
  change execIncomingStateRestored s = _
  simp only [execIncomingStateRestored, hg]

end Sys2Proof.Machine
end

section
/-!
SUPPORT. Settles O50 (Scheduling).
-/

namespace Sys2Proof.Machine

open Sys2Proof

/-! ### Charging -/

theorem dvd_foldl_lcm (l : List Nat) (a : Nat) : a ∣ l.foldl (fun n i => Nat.lcm n (i + 1)) a ∧
    ∀ i ∈ l, i + 1 ∣ l.foldl (fun n i => Nat.lcm n (i + 1)) a := by
  induction l generalizing a with
  | nil => exact ⟨Nat.dvd_refl a, nofun⟩
  | cons x r ih =>
    obtain ⟨ha, hr⟩ := ih (Nat.lcm a (x + 1))
    refine ⟨(Nat.dvd_lcm_left ..).trans ha, fun i hi => ?_⟩
    rcases List.mem_cons.mp hi with rfl | hi
    · exact (Nat.dvd_lcm_right ..).trans ha
    · exact hr i hi

/-- Every count of cores divides the unit of a charge. -/
theorem dvd_chargeUnit {n : Nat} (h0 : 0 < n) (h : n ≤ 160) : n ∣ chargeUnit := by
  obtain ⟨_, hr⟩ := dvd_foldl_lcm (List.range 160) 1
  have hn := hr (n - 1) (List.mem_range.mpr (by omega))
  rw [Nat.sub_add_cancel h0] at hn
  exact hn.mul_left _

theorem bitCount_le {w : Nat} (m : BitVec w) : bitCount m ≤ w :=
  (List.length_filter_le ..).trans (Nat.le_of_eq List.length_range)

theorem chargeQueue_exact (s : State) (dt key : Nat) (y : Queue) :
    let n := (s.coresOf (key / 1024) (key % 1024)).length
    let all := bitCount (s.ownCores ((s.func (key / 1024)).part.getD 0))
    0 < all → (s.chargeQueue dt key y).charge * all = y.charge * all + dt * chargeUnit * n := by
  intro n all h
  unfold State.chargeQueue
  simp only
  split
  next h0 => rw [show n = 0 from h0, Nat.mul_zero, Nat.add_zero]
  next h0 =>
    have hd : all ∣ dt * chargeUnit * n := ((dvd_chargeUnit h (bitCount_le _)).mul_left dt).mul_right n
    change (y.charge + dt * chargeUnit * n / max all 1) * all = _
    rw [max_eq_left h, Nat.add_mul, Nat.div_mul_cancel hd]

theorem isOver_of_charge {s : State} {f q : Nat} (h : (s.queue f q).timeBudget * chargeUnit ≤ (s.queue f q).charge) : s.isOver f q = true := by
  unfold State.isOver Queue.isOver
  generalize chargeUnit = unit at h ⊢
  rw [decide_eq_true h, Bool.true_or]

/-! ### Dispatch -/

section
variable {s : State} {d : Nat} (hf : (s.die d).frontFailed = false)
include hf

/-- The launches that cannot place a team, and the one after them that can. -/
theorem teamDispatch_split {late r : List (Nat × Launch)} {y : Nat × Launch} (hc : s.candidates d = late ++ y :: r)
    (hl : ∀ w ∈ late, s.placeNext d w = none) (hy : (s.placeNext d y).isSome = true) :
    exec (.teamDispatch d) s = .next (let s1 := match late with
      | [] => s
      | x :: _ => (forAll (State.starve d) s late).askSqueeze d x
      (s1.placeNext d y).getD s1) := by
  have ht : (late ++ y :: r).takeWhile (fun x => (s.placeNext d x).isNone) = late := by
    rw [List.takeWhile_append_of_pos fun w hw => by rw [hl w hw]; rfl, List.takeWhile_cons_of_neg, List.append_nil]
    rw [← Option.not_isSome, hy]
    exact Bool.false_ne_true
  change execTeamDispatch d s = _
  simp only [execTeamDispatch, hf, Bool.false_eq_true, if_false, hc, ht, List.drop_left] <;> rfl

theorem teamDispatch_first {r : List (Nat × Launch)} {y : Nat × Launch} {u : State} (hc : s.candidates d = y :: r) (hu : s.placeNext d y = some u) :
    exec (.teamDispatch d) s = .next u := by
  have h := teamDispatch_split hf (late := []) hc (fun _ h => nomatch h) (by rw [hu]; rfl)
  simp only [hu, Option.getD_some] at h
  exact h

theorem teamDispatch_late {z y : Nat × Launch} {late r : List (Nat × Launch)} (hc : s.candidates d = (z :: late) ++ y :: r)
    (hl : ∀ w ∈ z :: late, s.placeNext d w = none) (hy : (s.placeNext d y).isSome = true) :
    let s1 := (forAll (State.starve d) s (z :: late)).askSqueeze d z
    exec (.teamDispatch d) s = .next ((s1.placeNext d y).getD s1) :=
  teamDispatch_split hf (late := z :: late) hc hl hy

theorem teamDispatch_none (hc : s.candidates d = []) : exec (.teamDispatch d) s = .next s := by
  change execTeamDispatch d s = _
  simp only [execTeamDispatch, hf, Bool.false_eq_true, if_false, hc, List.takeWhile_nil, List.length_nil, List.drop_nil]

end

/-! ### Steps -/

theorem mem_filter_held {m : BitVec 160} {d : Nat} {xs : List Nat} (h : d ∈ xs.filter fun d => !(coresOn m d).isEmpty) : coresOn m d ≠ [] :=
  List.isEmpty_eq_false_iff.mp (Bool.not_eq_true' _ ▸ (List.mem_filter.mp h).2)

theorem fixedNow_held (s : State) (l : Launch) (ds : List Nat) {d : Nat} (hd : d ∈ s.fixedNow l ds) : coresOn (s.launchCores l) d ≠ [] := by
  rcases List.mem_append.mp hd with h | h
  · exact mem_filter_held h
  · have h := (List.mem_filter.mp (List.mem_of_mem_take h)).2
    exact List.isEmpty_eq_false_iff.mp (Bool.not_eq_true' _ ▸ (Bool.and_eq_true _ _ ▸ h).1)

/-- Every die of a step holds a core of the launch's partition, by whichever rule the step takes its dies. -/
theorem stepDies_held (s : State) (l : Launch) {d : Nat} (hd : d ∈ s.stepDies l) : coresOn (s.launchCores l) d ≠ [] := by
  unfold State.stepDies at hd
  split at hd
  · exact mem_filter_held hd
  · split at hd
    · exact fixedNow_held s l _ hd
    · refine mem_filter_held (xs := ringFrom (s.queue l.fn l.q).home) ?_
      rcases List.mem_append.mp hd with h | h
      · exact List.mem_of_mem_take h
      · rcases List.mem_append.mp (List.mem_of_mem_take h) with h | h <;> exact List.mem_of_mem_drop (List.mem_filter.mp h).1

theorem stepAgree_ok {s s1 : State} {i : Nat} {l l1 : Launch} (hl : tget s.launches i = some l) (hi : l.isInvar = false)
    (hn : l.nextStep < l.total) (hd : s.stepDies l ≠ []) (h1 : s.frameLaunch i l (s.stepDies l) = .ok s1) (hl1 : tget s1.launches i = some l1) :
    exec (.stepAgree i) s = .next (s1.setLaunch i { l1 with
      shares := l1.shares ++ stepShares (s.stepDies l) l1.nextStep l1.nextStep l1.stepLen l1.kd.clusterTeams,
      pressedDies := [], fixedDies := l1.fixedDies.map fun _ => s.stepDies l,
      nextStep := l1.nextStep + l1.stepLen }) := by
  change execStepAgree i s = _
  simp only [execStepAgree, hl, hi, State.agree, Nat.not_le.mpr hn, List.isEmpty_eq_false_iff.mpr hd, h1, hl1, decide_false, Bool.or_false,
    Bool.false_eq_true, if_false]

/-! ### Completion -/

theorem le_go (done : List Nat) (n f : Nat) : f ≤ Launch.complete.go done n f := by
  induction n generalizing f with
  | zero => exact le_refl f
  | succ n ih =>
    unfold Launch.complete.go
    split
    · exact (Nat.le_succ f).trans (ih (f + 1))
    · exact le_refl f

theorem frontier_complete (l : Launch) (i : Nat) : (i = l.frontier → l.frontier < (l.complete i).frontier) ∧ l.frontier ≤ (l.complete i).frontier := by
  refine ⟨fun h => ?_, le_go _ _ _⟩
  change l.frontier < Launch.complete.go (i :: l.doneAbove) (l.doneAbove.length + 1) l.frontier
  unfold Launch.complete.go
  rw [h, if_pos (List.contains_iff_mem.mpr List.mem_cons_self)]
  exact le_go _ _ _

theorem teamComplete_ok {s : State} {i : Nat} {t : Team} {l : Launch} (ht : tget s.teams i = some t) (hb : s.teamBusy i t = false)
    (hf : t.formed = false) (hl : tget s.launches t.launch = some l) : exec (.teamComplete i) s = .next
      { s with
        teams := terase s.teams i, launches := tset s.launches t.launch (l.complete t.index) } := by
  change execTeamComplete i s = _
  simp only [execTeamComplete, ht, hb, hf, hl, Bool.false_eq_true, if_false]
  rfl

/-! ### Stealing -/

theorem dieIdle_ok {s : State} {d : Nat} (hd : d < 4) (ha : s.accepts d = true) (h0 : (s.die d).stealAsk = 0) (hb : (s.die d).backoffUntil ≤ s.refTime)
    (hi : ∃ t, (s.die d).idleDie = some t ∧ t + 5000 ≤ s.refTime) (hp : ∃ y ∈ s.parts, s.idleCores d (s.openCores y.1) ≠ []) :
    exec (.dieIdle d) s = .next (s.sendSteal d (ringNext d) 1) := by
  obtain ⟨t, ht, hle⟩ := hi
  obtain ⟨y, hy, hc⟩ := hp
  have hparts : (s.idleParts d).isEmpty = false := by
    refine List.isEmpty_eq_false_iff.mpr (List.ne_nil_of_mem (List.mem_map_of_mem (f := (·.1)) (List.mem_filter.mpr ⟨hy, ?_⟩)))
    rw [List.isEmpty_eq_false_iff.mpr hc]; rfl
  change execDieIdle d s = _
  simp only [execDieIdle, Nat.not_le.mpr hd, ha, h0, Nat.not_lt.mpr hb, hparts, ht, Option.any_some, decide_eq_true hle, ne_eq, not_true_eq_false,
    decide_false, Bool.not_true, Bool.or_false, Bool.false_eq_true, if_false]

theorem leastBy_nil {α : Type} (f : α → Nat) {l : List α} (h : l = []) : leastBy f l = none := by rw [h]; rfl

section
variable {s : State} {d thief : Nat} {parts : List Nat} {r : List (Nat × List Nat)} (hi : (s.die d).stealInbox = (thief, parts) :: r)
  (ha : s.agreeDue d = false)
include hi ha

theorem stealReq_gives {y : Nat × Queue} : let u := s.setDie d { s.die d with stealInbox := r }
    leastBy (fun y : Nat × Queue => (y.2.priority * 2 ^ 80 + y.2.lastAny) * 2 ^ 20 + y.1)
      (u.queues.filter fun y => u.accepts thief && u.givable d parts y.1 y.2) = some y →
    let v := u.setQueue (y.1 / 1024) (y.1 % 1024) { y.2 with thief := some thief }
    exec (.stealReq d) s = .next (v.setDie thief { v.die thief with stealGiven := some (y.1 / 1024, y.1 % 1024) }) := by
  intro u hy v
  change execStealReq d s = _
  simp only [execStealReq, hi, ha, Bool.false_eq_true, if_false]
  change (match leastBy (fun y : Nat × Queue => (y.2.priority * 2 ^ 80 + y.2.lastAny) * 2 ^ 20 + y.1)
      (u.queues.filter fun y => u.accepts thief && u.givable d parts y.1 y.2) with | some (key, q) => _ | none => _) = _
  rw [hy]

theorem stealReq_refuses : let u := s.setDie d { s.die d with stealInbox := r }
    (∀ y ∈ u.queues, (u.accepts thief && u.givable d parts y.1 y.2) = false) → (u.die thief).stealAsk = 1 ∨ (u.die thief).stealAsk = 2 →
    exec (.stealReq d) s = .next (u.setDie thief { u.die thief with stealAsk := (u.die thief).stealAsk + 2 }) := by
  intro u hy hk
  change execStealReq d s = _
  simp only [execStealReq, hi, ha, Bool.false_eq_true, if_false]
  have hnil : (u.queues.filter fun y => u.accepts thief && u.givable d parts y.1 y.2) = [] :=
    List.filter_eq_nil_iff.mpr fun y h => Bool.not_eq_true _ ▸ hy y h
  change (match leastBy _ (u.queues.filter fun y => u.accepts thief && u.givable d parts y.1 y.2) with | some (key, q) => _ | none => _) = _
  rw [leastBy_nil _ hnil]
  have hask : (if (u.die thief).stealAsk = 0 then 0 else if (u.die thief).stealAsk ≤ 2 then (u.die thief).stealAsk + 2 else (u.die thief).stealAsk) =
      (u.die thief).stealAsk + 2 := by
    rw [if_neg (by omega), if_pos (by omega)]
  exact congrArg (fun n => Host.Outcome.next (u.setDie thief { u.die thief with stealAsk := n })) hask

end

theorem stealDone_ok {s : State} {d key : Nat} {y : Queue} (h : (s.queues.find? fun z => z.2.home == d && z.2.thief.any fun t =>
    (s.die t).stealGiven != some (z.1 / 1024, z.1 % 1024)) = some (key, y)) :
    exec (.stealDone d) s = .next (s.finishHandover (key / 1024) (key % 1024)) := by
  have hfind {p : Nat × Queue → Bool} (hp : ∀ z, p z = (z.2.home == d && z.2.thief.any fun t =>
      (s.die t).stealGiven != some (z.1 / 1024, z.1 % 1024))) : s.queues.find? p = some (key, y) := (funext hp : p = _) ▸ h
  have htaken (z : Nat × Queue) (f : Nat → Bool) : (z.2.home == d && match z.2.thief with | some t => f t | none => false) =
      (z.2.home == d && z.2.thief.any f) := by cases z.2.thief <;> rfl
  change execStealDone d s = _
  unfold execStealDone
  simp only
  split
  next hf => cases Option.some.inj (hf.symm.trans (hfind fun z => htaken z _)); rfl
  next hf => cases hf.symm.trans (hfind fun z => htaken z _)

/-! ### Engine faults -/

theorem causeOf_code {c : Cause} : causeOf c.code = some c := by cases c <;> rfl

theorem engineFault_ok {s : State} {ctx : Nat} {c : Cause} {addr : Word64} {y : Nat × Copy} (hy : y ∈ s.copies) (hx : y.2.ctx = ctx)
    (hc : c.fatal = true) (hall : ∀ z ∈ s.copies, z.2.ctx = ctx → z.2.team = y.2.team ∧ z.2.pc = y.2.pc) :
    exec (.engineFault ctx c.code addr) s = .next (s.engineStop ctx y.2.team y.2.pc c addr.toNat) := by
  obtain ⟨r, hr⟩ : ∃ r, s.engineWork ctx = (y.2.team, y.2.pc) :: r := by
    have hmem : y ∈ s.copies.filter (·.2.ctx == ctx) := List.mem_filter.mpr ⟨hy, beq_iff_eq.mpr hx⟩
    obtain ⟨z, r, hz⟩ := List.exists_cons_of_ne_nil (List.ne_nil_of_mem hmem)
    obtain ⟨hzm, hzc⟩ := List.mem_filter.mp (hz ▸ List.mem_cons_self : z ∈ s.copies.filter (·.2.ctx == ctx))
    obtain ⟨ht, hp⟩ := hall z hzm (beq_iff_eq.mp hzc)
    exact ⟨_, by rw [State.engineWork, hz, List.map_cons, ht, hp]; rfl⟩
  change execEngineFault ctx c.code addr s = _
  simp only [execEngineFault, causeOf_code, hr, hc, if_true]

/-- Settles O50: each event passes its guards; a charge is exact because every count of cores divides its unit, and a frontier
moves only upwards. -/
theorem scheduling : Obligations.Scheduling := by
  unfold Obligations.Scheduling
  intro s f q x
  refine ⟨⟨isOver_of_charge, rfl⟩, chargeQueue_exact s, fun d hf => ⟨fun y r u => teamDispatch_first hf, fun z late y r => teamDispatch_late hf, teamDispatch_none hf⟩,
    fun i l s1 l1 => stepAgree_ok, fun l d => stepDies_held s l, fun i t l ht hb hf hl => ⟨teamComplete_ok ht hb hf hl, frontier_complete l t.index⟩,
    fun d => dieIdle_ok, fun d thief parts r hi ha => ⟨fun y => stealReq_gives hi ha, stealReq_refuses hi ha⟩, fun d h => ?_, fun d => ⟨fun h => ?_, fun h => ?_⟩,
    fun d key y => stealDone_ok, fun d i b l hb hl hi hw => ?_, fun ctx c addr y => engineFault_ok⟩
  · change execStealGive d s = _
    simp only [execStealGive, h, if_true]
  · change execStealNone d s = _
    simp only [execStealNone, h, if_true]
  · change execStealNone d s = _
    simp only [execStealNone, h, if_true, show ¬(4 = 3) by decide, if_false]
  · change execGatherTimeout d i s = _
    simp only [execGatherTimeout, hb, hl, hi, hw, Bool.not_false, if_true]

end Sys2Proof.Machine
end

section
/-!
SUPPORT. Settles O51 (TrapCore).
-/

namespace Sys2Proof.Machine

open Sys2Proof

/-! ### Every event of the trap core completes -/

theorem trapTake_completes (core : Nat) (s : State) : ∃ t, exec (.trapTake core) s = .next t := by
  change ∃ t, execTrapTake core s = .next t
  unfold execTrapTake
  simp only
  split
  · exact ⟨_, rfl⟩
  split
  · exact ⟨_, rfl⟩
  split
  · exact ⟨_, rfl⟩
  split <;> exact ⟨_, rfl⟩

theorem notice_completes (s : State) : ∃ t, exec .notice s = .next t := by
  change ∃ t, execNotice s = .next t
  unfold execNotice
  split
  · exact ⟨_, rfl⟩
  · split <;> exact ⟨_, rfl⟩

theorem groupStateWrite_completes (c e off : Nat) (v : Word64) (s : State) : ∃ t, exec (.groupStateWrite c e off v) s = .next t := by
  change ∃ t, execGroupStateWrite c e off v s = .next t
  unfold execGroupStateWrite
  split
  · exact ⟨_, rfl⟩
  · split <;> exact ⟨_, rfl⟩

/-! ### Taking a trap -/

section
variable {s : State} {core c e i : Nat} {rest : List (Nat × Nat × Nat)} {h : Site} {r : TrapRec}
  (hq : (s.core (pairOf core)).trapQ = (c, e, i) :: rest) (hs : s.siteAt c e i = some h) (hr : h.sp.trap = some r)
include hq hs hr

theorem trapTake_eq : exec (.trapTake core) s =
    let u := s.setCore (pairOf core) { s.core (pairOf core) with trapQ := rest }
    match trapAction (s.func (ctxFn h.ctx)).trapPolicy r.cause with
    | 1 => .next (((u.modSplit h fun x => { x with trap := x.trap.map fun t => { t with untaken := false } }).modSplits c e
        (Split.halt s.refTime)).trapEvent h r)
    | 2 => .next ((u.modSplit h (Split.resume s.refTime)).trapEvent h r)
    | _ => .next (u.contextFault h.ctx (u.siteRecord h r.cause r.addr r.pc)) := by
  change execTrapTake core s = _
  simp only [execTrapTake, hq, hs, hr] <;> rfl

theorem trapTake_other (h1 : trapAction (s.func (ctxFn h.ctx)).trapPolicy r.cause ≠ 1)
    (h2 : trapAction (s.func (ctxFn h.ctx)).trapPolicy r.cause ≠ 2) :
    let u := s.setCore (pairOf core) { s.core (pairOf core) with trapQ := rest }
    exec (.trapTake core) s = .next (u.contextFault h.ctx (u.siteRecord h r.cause r.addr r.pc)) := by
  intro u
  rw [trapTake_eq hq hs hr]
  revert h1 h2
  generalize trapAction (s.func (ctxFn h.ctx)).trapPolicy r.cause = action
  intro h1 h2
  match action with
  | 0 => rfl
  | 1 => exact absurd rfl h1
  | 2 => exact absurd rfl h2
  | _ + 3 => rfl

end

/-! ### Writes of group state -/

theorem writeBlock_k (g : Group) (cycle now : Nat) {n : Nat} (hn : n < 64) (v : Word64) :
    g.writeBlock cycle now (0x80 + 8 * n) v = { g.clobber (.k n) with k := writeCell g.k n v } := by
  have hx : (0x80 + 8 * n - 0x80) / 8 = n := by omega
  unfold Group.writeBlock
  rw [if_neg (by omega), if_pos (by omega), hx]

theorem groupStateWrite_k {s : State} {c e n : Nat} {g : Group} (v : Word64) (hg : s.group? c e = some g) (hn : n < 64)
    (hstop : ∀ x ∈ g.splits, x.live = true → x.halted = true ∨ x.trap.isSome = true) :
    exec (.groupStateWrite c e (0x80 + 8 * n) v) s = .next (s.setGroup c e { g.clobber (.k n) with k := writeCell g.k n v }) := by
  have hall : (g.splits.all fun x => !x.live || x.halted || x.trap.isSome) = true := by
    simp only [List.all_eq_true, Bool.or_eq_true, Bool.not_eq_true', or_assoc]
    intro x hx
    cases hl : x.live
    · exact .inl rfl
    · exact .inr (hstop x hx hl)
  change execGroupStateWrite c e _ v s = _
  simp only [execGroupStateWrite, hg, hall, show (0x80 + 8 * n) % 8 = 0 by omega, ne_eq, not_true_eq_false, decide_false, Bool.not_true, Bool.or_false,
    Bool.false_eq_true, if_false, writeBlock_k g _ _ hn]

theorem groupStateWrite_running {s : State} {c e off : Nat} {g : Group} (v : Word64) (hg : s.group? c e = some g)
    (hrun : ∃ x ∈ g.splits, x.live = true ∧ x.halted = false ∧ x.trap = none) : exec (.groupStateWrite c e off v) s = .next s := by
  obtain ⟨x, hx, hl, hh, ht⟩ := hrun
  have hall : (g.splits.all fun x => !x.live || x.halted || x.trap.isSome) = false :=
    List.all_eq_false.mpr ⟨x, hx, by rw [hl, hh, ht]; decide⟩
  change execGroupStateWrite c e off v s = _
  simp only [execGroupStateWrite, hg, hall, Bool.not_false, Bool.or_true, if_true]

/-! ### A notice -/

section
variable {s : State} {h : Site} (hs : s.site? = some h) (hn : h.noticed = true)
include hs hn

/-- Where a notice goes: to K[63] as it is, or, of one that is not written yet, to some valid target. -/
def Site.noticePc (h : Site) : Word64 := if h.g.awaits (.k 63) = true then anyTarget (h.free 64 0x403F) else readCell h.g.k 63

theorem notice_eq : exec .notice s = .next (s.takeNotice h) := by
  change execNotice s = _
  simp only [execNotice, hs, hn, if_true]

theorem notice_badTarget (h0 : h.noticePc ≠ 0) (ht : targetOk h.noticePc = false) :
    exec .notice s = .next (s.raise h .brAlign 0 h.mask h.sp.pc) := by
  rw [notice_eq hs hn]
  change Host.Outcome.next (if (h.noticePc != 0 && !targetOk h.noticePc) = true then _ else _) = _
  rw [ht, bne_iff_ne.mpr h0]
  rfl

/-- What a notice leaves the group to be. -/
def Site.noticedGroup (h : Site) : Group :=
  let g : Group :=
    { h.g.clobber (.k 62) with
      k := writeCell h.g.k 62 h.sp.pc, nen := false, npend := false }
  g.setSplit h.ix { h.sp.settle with pc := if h.noticePc = 0 then h.sp.pc else h.noticePc, draining := true }

theorem notice_goes (ht : h.noticePc = 0 ∨ targetOk h.noticePc = true) :
    exec .notice s = .next { s with groups := tset s.groups h.key h.noticedGroup } := by
  rw [notice_eq hs hn]
  change Host.Outcome.next (if (h.noticePc != 0 && !targetOk h.noticePc) = true then _ else _) = _
  rw [if_neg (by rcases ht with e | e <;> simp [e])]
  have hsp : Group.split { h.g.clobber (.k 62) with k := writeCell h.g.k 62 h.sp.pc, nen := false, npend := false } h.ix = h.sp := by
    rw [← site_split hs]
    exact congrArg (fun l => atD l h.ix Split.empty) (clobber_splits ..)
  rw [State.modSplit, modGroup_site _ hs]
  refine congrArg Host.Outcome.next ((modGroup_eq _ (tget_tset_same ..)).trans ?_)
  simp only [tset_tset, hsp]
  rfl

end

theorem notice_group {s : State} {h : Site} (hs : s.site? = some h) (hn : h.noticed = true) (ht : h.noticePc = 0 ∨ targetOk h.noticePc = true) :
    ∃ t g, exec .notice s = .next t ∧ t = { s with groups := t.groups } ∧ tget t.groups h.key = some g ∧
      (g.split h.ix).pc = (if h.noticePc = 0 then h.sp.pc else h.noticePc) ∧ g.nen = false ∧ g.npend = false ∧ readCell g.k 62 = h.sp.pc ∧
      ∀ n, n ≠ 62 → readCell g.k n = readCell h.g.k n := by
  have hi : h.ix < (h.g.clobber (.k 62)).splits.length := by rw [clobber_splits]; exact site_lt hs
  refine ⟨_, h.noticedGroup, notice_goes hs hn ht, rfl, tget_tset_same .., ?_, rfl, rfl, ?_, fun n h62 => ?_⟩
  · exact congrArg Split.pc (split_setSplit _ hi)
  · exact (readCell_writeCell ..).trans (if_pos rfl)
  · exact (readCell_writeCell ..).trans (if_neg h62)

/-! ### TRAP_CTL -/

section
variable {s : State} {g : Group} (hg : s.group? s.cur.core s.cur.entry = some g)
include hg

theorem trapCtlClearResume_ok (ht : g.tableOk = true) : exec .trapCtlClearResume s = .next ((s.dropTraps s.cur.core s.cur.entry none).modSplits
    s.cur.core s.cur.entry fun x => (x.unhalt s.refTime).resume s.refTime) := by
  change Host.Outcome.next (s.trapResume s.cur.core s.cur.entry true) = _
  simp only [State.trapResume, hg, ht, Bool.not_true, Bool.false_eq_true, if_false, if_true]

theorem trapCtlResume_ok (ht : g.tableOk = true) {i : Nat} (hi : ((List.range 4).find? fun j => (g.split j).trap.isSome) = some i) :
    exec .trapCtlResume s = .next ((s.dropTraps s.cur.core s.cur.entry (some i)).setGroup s.cur.core s.cur.entry
      (g.setSplit i (((g.split i).unhalt s.refTime).resume s.refTime))) := by
  change Host.Outcome.next (s.trapResume s.cur.core s.cur.entry false) = _
  simp only [State.trapResume, hg, ht, hi, Bool.not_true, Bool.false_eq_true, if_false]

theorem trapResume_badTable (ht : g.tableOk = false) (all : Bool) :
    s.trapResume s.cur.core s.cur.entry all = s.tableFault s.cur.core s.cur.entry := by
  simp only [State.trapResume, hg, ht, Bool.not_false, if_true]

end

theorem trapEnd_first {s : State} {c e : Nat} {h : Site} {r : TrapRec} (hs : s.siteAt c e 0 = some h) (hr : h.sp.trap = some r) :
    s.trapEnd c e = s.contextFault h.ctx (s.siteRecord h r.cause r.addr r.pc) := by
  have hfirst {f : Nat → Option (Site × TrapRec)} (h0 : f 0 = some (h, r)) : (List.range 4).findSome? f = some (h, r) := by
    rw [show List.range 4 = 0 :: [1, 2, 3] from rfl, List.findSome?_cons_of_isSome (by rw [h0]; rfl), h0]
  unfold State.trapEnd
  simp only
  rw [hfirst]
  rw [hs, Option.bind_some, hr]
  rfl

/-- Settles O51: each event of the trap core reads what its guard names; a notice changes its group alone. -/
theorem trapCore : Obligations.TrapCore := by
  unfold Obligations.TrapCore
  refine ⟨fun s core entry off v i hi => ?_, fun s core c e i rest h r hq hs hr => ?_, fun s r hr => ⟨fun hc => ?_, fun hc => ?_⟩, fun s => rfl,
    fun now x hl hh => ?_, fun s g hg ht => ⟨trapCtlClearResume_ok hg ht, fun i => trapCtlResume_ok hg ht⟩,
    fun s g hg ht => ⟨congrArg _ (trapResume_badTable hg ht false), congrArg _ (trapResume_badTable hg ht true)⟩,
    fun s h r hs hr => congrArg _ (trapEnd_first hs hr),
    fun s c e n g v hg hn => ⟨groupStateWrite_k v hg hn, groupStateWrite_running v hg⟩, fun s h hs hn => ?_⟩
  · simp only [List.mem_cons, List.not_mem_nil, or_false] at hi
    rcases hi with rfl | rfl | rfl | rfl | rfl | rfl | rfl
    · exact trapTake_completes core s
    · exact ⟨_, rfl⟩
    · exact ⟨_, rfl⟩
    · exact ⟨_, rfl⟩
    · exact ⟨_, rfl⟩
    · exact notice_completes s
    · exact groupStateWrite_completes core entry off v s
  · intro u action mark
    refine ⟨fun h1 => ?_, fun h2 => ?_, trapTake_other hq hs hr⟩
    · refine (trapTake_eq hq hs hr).trans ?_
      rw [show trapAction (s.func (ctxFn h.ctx)).trapPolicy r.cause = 1 from h1]
      rfl
    · refine (trapTake_eq hq hs hr).trans ?_
      rw [show trapAction (s.func (ctxFn h.ctx)).trapPolicy r.cause = 2 from h2]
      rfl
  · exact (request_ok hr _).trans (by simp only [Nat.not_le.mpr hc, if_false])
  · exact (request_ok hr _).trans (by simp only [hc, if_true])
  · simp only [Split.halt, hl, hh, Bool.not_false, Bool.and_self, if_true]
  · intro dest
    exact ⟨notice_badTarget hs hn, notice_group hs hn⟩

end Sys2Proof.Machine
end

section
/-!
SUPPORT. Settles O52 (Watchdogs).
-/

namespace Sys2Proof.Machine

open Sys2Proof

section
variable {s : State} {h : Site} (hs : s.site? = some h)
include hs

theorem watchdogSplit_due (hstop : h.sp.stopped = false) (hi : 2 ^ 24 ≤ h.sp.issues) (ho : h.g.othersWait h.ix = true)
    (hc : atD (s.core h.core).issuedAt (quarterOf h.entry) 0 ≤ s.cycleOf h.core) :
    exec .watchdogSplit s = .next (s.raise h .watchdogSplit 0 h.mask h.sp.pc) := by
  change execWatchdogSplit s = _
  simp only [execWatchdogSplit, hs, Nat.not_lt.mpr hc, if_false, State.splitWatch, Site.watchDue, hstop, ho, decide_eq_true hi, Bool.not_false,
    Bool.and_self, if_true]
  rfl

theorem watchdogSplit_early (hi : h.sp.issues < 2 ^ 24) : exec .watchdogSplit s = .next s := by
  change execWatchdogSplit s = _
  simp only [execWatchdogSplit, hs, State.splitWatch, Site.watchDue, decide_eq_false (Nat.not_le.mpr hi), Bool.and_false, Bool.false_and,
    Bool.false_eq_true, if_false, ite_self]

theorem watchdogTeam_eq (hp : h.sp.park.isSome = true) (hh : h.sp.halted = false) (ht : h.sp.trap = none) (he : h.team.exempt h.sp = false) :
    exec .watchdogTeam s = .next (if s.plant.watchdogNs < h.sp.parkedNs + (s.refTime - h.sp.parkStart) then
      s.raise h .watchdogTeam 0 h.mask h.sp.pc else s) := by
  change execWatchdogTeam s = _
  simp only [execWatchdogTeam, hs, State.teamWatch, Site.watched, Split.parkedFor, hp, hh, ht, he, Option.isNone_none, Bool.not_false, Bool.and_self,
    Bool.true_and, decide_eq_true_eq, Bool.false_eq_true, if_false]
  rfl

end

theorem watchdogTeam_completes (s : State) : ∃ t, exec .watchdogTeam s = .next t := by
  change ∃ t, execWatchdogTeam s = .next t
  unfold execWatchdogTeam
  split <;> exact ⟨_, rfl⟩

theorem watchdogSplit_completes (s : State) : ∃ t, exec .watchdogSplit s = .next t := by
  change ∃ t, execWatchdogSplit s = .next t
  unfold execWatchdogSplit
  split
  · exact ⟨_, rfl⟩
  · split <;> exact ⟨_, rfl⟩

theorem pcSample_none {s : State} {c q : Nat} (h : s.issueOver c q = false ∨ atD (s.core c).sampledAt q 0 = s.cycleOf c + 1) :
    exec (.pcSample c q) s = .next s := by
  change execPcSample c q s = _
  unfold execPcSample
  split
  next ho =>
    have hd := h.resolve_left (by rw [ho]; exact Bool.noConfusion)
    simp only [State.sample, hd, if_true]
  next => rfl

theorem pcSample_ok {s : State} {c q : Nat} {h : Site} (ho : s.issueOver c q = true) (hd : atD (s.core c).sampledAt q 0 ≠ s.cycleOf c + 1) :
    let last := atD (s.core c).lastSample q 15
    let f := s.func (ctxFn h.ctx)
    let s1 := s.setCore c { s.core c with
      lastSample := setAt (s.core c).lastSample q (h.entry % 16), sampledAt := setAt (s.core c).sampledAt q (s.cycleOf c + 1) }
    ((List.range 16).map fun i => 16 * q + (last + 1 + i) % 16).findSome? (s.eligible c) = some h → (f.samples + 1) % 64 ≠ 0 →
    ∀ s2, s1.storeVa h.ctx h.die (f.sampleBase.toNat + 64 + 32 * (f.samples % 2 ^ f.sampleRing)) (s.sampleBytes h) = .ok s2 →
      exec (.pcSample c q) s = .next
        { s2.setFunc (ctxFn h.ctx) { s2.func (ctxFn h.ctx) with samples := f.samples + 1 } with repairWait := s.repairWait } := by
  intro last f s1 hf h64 s2 h2
  change execPcSample c q s = _
  rw [execPcSample, if_pos ho]
  have hf' : ((List.range 16).map fun i => 16 * q + (atD (s.core c).lastSample q 15 + 1 + i) % 16).findSome? (s.eligible c) = some h := hf
  unfold State.sample
  simp only [hd, if_false, hf']
  change Host.Outcome.next
    { if (f.samples + 1) % 64 = 0 then _ else State.setFunc (match s1.storeVa h.ctx h.die _ (s.sampleBytes h) with | .ok x => x | .error e => _) _ _
      with repairWait := s.repairWait } = _
  rw [h2, if_neg h64]

/-- Settles O52: a watchdog's guard decides between the cause and nothing; a sample writes its record and counts it. -/
theorem watchdogs : Obligations.Watchdogs := by
  unfold Obligations.Watchdogs
  refine ⟨fun s c q i hi => ?_, fun s h hs => ⟨watchdogSplit_due hs, watchdogSplit_early hs, fun hp hh ht he => ⟨fun hlt => ?_, fun hle => ?_⟩⟩,
    fun s c q => pcSample_none, fun s c q h => pcSample_ok⟩
  · simp only [List.mem_cons, List.not_mem_nil, or_false] at hi
    rcases hi with rfl | rfl | rfl
    · exact watchdogSplit_completes s
    · exact watchdogTeam_completes s
    · exact ⟨_, rfl⟩
  · rw [watchdogTeam_eq hs hp hh ht he, if_pos hlt]
  · rw [watchdogTeam_eq hs hp hh ht he, if_neg (Nat.not_lt.mpr hle)]

end Sys2Proof.Machine
end

section
/-!
SUPPORT. Refutes O55 (Timers): the end of a hot-page window reads the leaves of its candidates (01 R12, R30; 03 R69).
-/

namespace Sys2Proof.Machine

open Sys2Proof

/-- Die 1 has made as many accesses to a page of die 0 as make it a candidate, the window is over, and the leaf's sector is weak. -/
def weakLeaf : State :=
  let s := State.reset.setDie 0 { State.reset.die 0 with
    hotEnd := 0, hotCounts := [{ ctx := 0, leaf := 0, size := 65536, die := 1, count := 4096 }] }
  s.setStack 0 { s.stack 0 with weak := [0] }

/-- Stack 0 after the windows of all dies have ended. -/
theorem weakLeaf_corrected : ((forAll State.hotWindow weakLeaf [0, 1, 2, 3]).stack 0).corrected ≠ (weakLeaf.stack 0).corrected := by
  decide +kernel

/-- Refutes O55: at the end of a hot-page window the device reads the leaf entries of its candidates, and a correction of such a read
counts in the stack, so that more than the dies changes. -/
theorem not_timers : ¬Obligations.Timers := by
  unfold Obligations.Timers
  rintro ⟨_, _, _, hwindow, _⟩
  obtain ⟨t, ht, hkept, _⟩ := hwindow weakLeaf
  cases (show Host.Outcome.next (forAll State.hotWindow weakLeaf [0, 1, 2, 3]) = .next t from ht)
  refine weakLeaf_corrected ?_
  rw [hkept]
  rfl

end Sys2Proof.Machine
end

section
/-!
SUPPORT. Settles O54 (StacksAndPower).
-/

namespace Sys2Proof.Machine

open Sys2Proof

/-! ### Stacks -/

section
variable {s : State} {i : Nat}

theorem patrolScrub_ok (hi : i < 8) (hu : (s.stack i).outOfUse = false) : exec (.patrolScrub i) s = .next (s.setStack i { s.stack i with
    corrected := (s.stack i).corrected + (s.stack i).weak.length, weak := [], lastScrub := s.refTime }) := by
  change execPatrolScrub i s = _
  simp only [execPatrolScrub, hu, Nat.not_le.mpr hi, decide_false, Bool.or_false, Bool.false_eq_true, if_false]

theorem rowRepair_ok (hi : i < 8) (hu : (s.stack i).outOfUse = false) {bank row gr : Nat} (hc : (s.stack i).copying = none) (hg : gr < hbmEnd)
    (hd : granuleOf gr / 0x2800000000 = i / 2) (hr : s.granuleRetired (granuleOf gr) = false) :
    let k := s.stack i
    let g := granuleOf gr
    let o := s.stack (otherStack i)
    let (rows, maps, grans) := (tget k.bankUse bank).getD (0, 0, 0)
    let moved := fun (u : State) used => Host.Outcome.next (u.repairEvent i used bank row g)
    exec (.rowRepair i bank row gr) s =
      if rows < Config.spareRows then moved (s.setStack i { k with
        copying := some (.row bank row), spareUsed := k.spareUsed + 1, bankUse := tset k.bankUse bank (rows + 1, maps, grans) }) 1
      else if maps < Config.remapEntries then moved (s.setStack i { k with
        copying := some (.row bank row), remapUsed := k.remapUsed + 1, bankUse := tset k.bankUse bank (rows, maps + 1, grans) }) 2
      else if grans < Config.spareGranules then
        if o.copying.isSome = true then .next s
        else moved ((s.setStack i { k with
          copying := some (.granule g), granUsed := k.granUsed + 1, bankUse := tset k.bankUse bank (rows, maps, grans + 1) }).setStack
            (otherStack i) { o with copying := some (.granule g) }) 3
      else .next (s.retireGranule i bank g) := by
  intro k g o
  have hok : (decide (8 ≤ i) || (s.stack i).outOfUse || (s.stack i).copying.isSome || decide (hbmEnd ≤ gr) ||
      decide (granuleOf gr / 0x2800000000 ≠ i / 2) || s.granuleRetired (granuleOf gr)) = false := by
    rw [decide_eq_false (Nat.not_le.mpr hi), hu, hc, decide_eq_false (Nat.not_le.mpr hg), decide_eq_false (not_not.mpr hd), hr]
    rfl
  split
  next rows maps grans huse =>
  intro moved
  change execRowRepair i bank row gr s = _
  unfold execRowRepair
  simp only [show (tget (s.stack i).bankUse bank).getD (0, 0, 0) = (rows, maps, grans) from huse, hok, Bool.false_eq_true, if_false]
  rfl

theorem plant_event (s : State) (code : Nat) (body : List Byte) : (s.event code body).plant.bare = s.plant.bare :=
  congrArg Outline.plant (outline_event s code body)

theorem granuleRetired_retireGranule (s : State) (i bank gr : Nat) : (s.retireGranule i bank (granuleOf gr)).granuleRetired gr = true := by
  unfold State.granuleRetired
  have h : (s.retireGranule i bank (granuleOf gr)).plant.retireList = s.plant.retireList ++ [(granuleOf gr, i, bank)] :=
    congrArg Plant.retireList (plant_event ..)
  rw [h, List.any_append]
  simp only [List.any_cons, beq_self_eq_true, Bool.true_or, Bool.or_true]

theorem rowHammer_ok {fn bank n : Nat} {p : Part} (hno : (fn, bank) ∉ (s.stack i).throttled) (hp : tget s.parts ((s.func fn).part.getD 0) = some p) :
    exec (.rowHammer fn i bank n) s = .next (State.event
      { s.setStack i { s.stack i with throttled := (s.stack i).throttled ++ [(fn, bank)] } with
        parts := tset s.parts ((s.func fn).part.getD 0) { p with windowBytes := p.windowBytes + 2048 * n } } 0x40
      (natBytes 1 fn ++ natBytes 1 i ++ natBytes 2 bank ++ natBytes 4 n)) := by
  have hc : (s.stack i).throttled.contains (fn, bank) = false := Bool.not_eq_true _ ▸ mt List.contains_iff_mem.mp hno
  change execRowHammer fn i bank n s = _
  simp only [execRowHammer, hc, Bool.false_eq_true, if_false, setStack_parts, hp]

end

/-! ### Heat, droops and front ends -/

theorem die_event (s : State) (code : Nat) (body : List Byte) (d : Nat) : ((s.event code body).die d).bare = (s.die d).bare :=
  congrFun (congrArg Outline.die (outline_event s code body)) d

/-- A state whose compute dies have no power. -/
def State.unpowered (s : State) : State := forAll (fun s d => s.setDie d { s.die d with powered := false }) s [0, 1, 2, 3]

theorem powered_unpowered (s : State) {x : Nat} (hx : x < 4) : (s.unpowered.die x).powered = false := by
  have h : x = 0 ∨ x = 1 ∨ x = 2 ∨ x = 3 := by omega
  simp only [State.unpowered, forAll, List.foldl_cons, List.foldl_nil, die_setDie]
  rcases h with rfl | rfl | rfl | rfl <;> rfl

theorem thermalLimit_off (s : State) {d temp : Nat} (hd : d < 4) (h : 115 ≤ temp) :
    ∃ t, exec (.thermalLimit d temp) s = .next t ∧ ∀ x, x < 4 → (t.die x).powered = false := by
  have hexec : exec (.thermalLimit d temp) s = .next ((State.unpowered
      { s with plant := { s.plant with hottest := max s.plant.hottest temp, lowTemp := true } }).event 0x48
      (natBytes 1 d ++ natBytes 1 1 ++ natBytes 2 temp)) := by
    change execThermalLimit d temp s = _
    simp only [execThermalLimit, Nat.not_le.mpr hd, Nat.not_lt.mpr h, show ¬temp < 105 by omega, decide_false, Bool.or_false, Bool.false_eq_true,
      if_false]
    rfl
  exact ⟨_, hexec, fun x hx => (congrArg Die.powered (die_event _ _ _ x)).trans (powered_unpowered _ hx)⟩

theorem thermalLimit_warm (s : State) {d temp : Nat} (hd : d < 4) (h105 : 105 ≤ temp) (h : temp < 115) :
    exec (.thermalLimit d temp) s = .next (State.event { s with plant := { s.plant with hottest := max s.plant.hottest temp, lowTemp := true } } 0x48
      (natBytes 1 d ++ natBytes 1 0 ++ natBytes 2 temp)) := by
  change execThermalLimit d temp s = _
  simp only [execThermalLimit, Nat.not_le.mpr hd, Nat.not_lt.mpr h105, h, decide_false, Bool.false_or, Bool.false_eq_true, if_false, if_true]

/-- Settles O54: each event passes its guards; what an event record changes is not what the clauses speak of. -/
theorem stacksAndPower : Obligations.StacksAndPower := by
  unfold Obligations.StacksAndPower
  refine ⟨fun s i hi hu => ?_, fun s fn i bank n p hno hp => rowHammer_ok hno hp, fun s i => rfl,
    fun s d temp hd h => ⟨thermalLimit_warm s hd h, thermalLimit_off s hd⟩, fun s w => rfl, fun s d hd => ?_⟩
  · intro k
    refine ⟨patrolScrub_ok hi hu, fun bank row gr hc hg hd hr => rowRepair_ok hi hu hc hg hd hr, granuleRetired_retireGranule s i, fun c hc => ?_⟩
    intro done
    have hc' : (s.stack i).copying = some c := hc
    refine ⟨fun b r hcopy => ?_, fun g hcopy ho => ?_⟩
    · subst hcopy
      change Host.Outcome.next (s.repairDone i) = _
      simp only [State.repairDone, hc']
      rfl
    · subst hcopy
      change Host.Outcome.next (s.repairDone i) = _
      simp only [State.repairDone, hc', ho, if_true]
      rfl
  · intro x
    have hd' : ¬4 ≤ d := Nat.not_le.mpr hd
    refine ⟨if_neg hd', if_neg hd', if_neg hd', fun hf => ?_⟩
    intro recent u
    change execLockstepMismatch d s = _
    have hf' : (s.die d).frontFailed = false := hf
    have hg : (decide (4 ≤ d) || (s.die d).frontFailed) = false := by rw [decide_eq_false hd', hf']; rfl
    simp only [execLockstepMismatch, hg, Bool.false_eq_true, if_false]
    rfl

end Sys2Proof.Machine
end

section
/-!
SUPPORT. What the end of a context keeps: other contexts, and the launch of each team and the team of each group that stays.
-/

namespace Sys2Proof.Machine

open Sys2Proof

/-! ### What belongs to whom -/

/-- What the end of a context keeps of a context. -/
def Context.identity (c : Context) : Bool × Nat := (c.live, c.sterling.ctx)

/-- Whose the records of a state are, and how its host links are used. -/
structure Kinship where
  dualHost : Bool
  ctx : Nat → Option (Bool × Nat)
  launches : Table Launch
  teams : Nat × Nat → Prop
  groups : Nat × Nat → Prop

def State.kinship (s : State) : Kinship :=
  { dualHost := s.plant.dualHost, ctx := fun c => (tget s.ctxs c).map Context.identity, launches := s.launches,
    teams := records Team.launch s.teams, groups := records Group.team s.groups }

theorem records_comp {α β γ : Type} (f : α → β) (g : β → γ) (t : Table α) :
    records (fun x => g (f x)) t = fun p => ∃ y, records f t (p.1, y) ∧ g y = p.2 :=
  funext fun _ => propext ⟨fun ⟨x, hx, he⟩ => ⟨f x, ⟨x, hx, rfl⟩, he⟩, fun ⟨_, ⟨x, hx, hy⟩, he⟩ => ⟨x, hx, (congrArg g hy).trans he⟩⟩

theorem kinship_of_outline {s t : State} (h : t.outline = s.outline) : t.kinship = s.kinship := by
  have hc (u : State) : (fun c => (tget u.ctxs c).map Context.identity) = fun c => (u.outline.ctx c).map Context.identity :=
    funext fun c => (Option.map_map Context.identity Context.bare (tget u.ctxs c)).symm
  have ht (u : State) : records Team.launch u.teams = fun p => ∃ y, u.outline.teamRecords (p.1, y) ∧ y.launch = p.2 :=
    records_comp Team.bare Team.launch u.teams
  have hg (u : State) : records Group.team u.groups = fun p => ∃ y, u.outline.groupRecords (p.1, y) ∧ y.team = p.2 :=
    records_comp Group.bare Group.team u.groups
  have hd (u : State) : u.plant.dualHost = u.outline.plant.dualHost := rfl
  have hl (u : State) : u.launches = u.outline.launches := rfl
  unfold State.kinship
  rw [hc, ht, hg, hd, hl, h, ← hc, ← ht, ← hg, ← hd, ← hl]

/-- The teams of the launches `hit` gone, with the groups of such teams. -/
def Kinship.without (hit : Nat → Prop) (k : Kinship) : Kinship :=
  { k with
    teams := fun p => k.teams p ∧ ¬∃ l, k.teams (p.1, l) ∧ hit l,
    groups := fun p => k.groups p ∧ ¬∃ l, k.teams (p.2, l) ∧ hit l }

theorem records_tfilter {α β : Type} {f : α → β} {q : Nat → α → Bool} {r : Nat × β → Prop} (t : Table α) (h : ∀ k x, q k x = true ↔ r (k, f x)) :
    records f (tfilter t q) = fun p => records f t p ∧ r p := by
  funext p
  obtain ⟨k, v⟩ := p
  refine propext ⟨?_, ?_⟩
  · rintro ⟨x, hx, rfl⟩
    obtain ⟨hm, hq⟩ := List.mem_filter.mp hx
    exact ⟨⟨x, hm, rfl⟩, (h ..).mp hq⟩
  · rintro ⟨⟨x, hm, rfl⟩, hr⟩
    exact ⟨x, List.mem_filter.mpr ⟨hm, (h ..).mpr hr⟩, rfl⟩

/-- The teams that launches `hit` own, by number. -/
theorem mem_teamsOf {t : Table Team} {hit : Nat → Bool} {i : Nat} :
    ((tfilter t fun _ x => hit x.launch).map (·.1)).contains i = true ↔ ∃ l, records Team.launch t (i, l) ∧ hit l = true := by
  simp only [List.contains_iff_mem, List.mem_map, tfilter, List.mem_filter, records]
  constructor
  · rintro ⟨⟨k, x⟩, ⟨hm, hx⟩, rfl⟩
    exact ⟨_, ⟨x, hm, rfl⟩, hx⟩
  · rintro ⟨_, ⟨x, hm, rfl⟩, hx⟩
    exact ⟨(i, x), ⟨hm, hx⟩, rfl⟩

section
variable (s : State)

theorem kinship_setTeam {id : Nat} {t u : Team} (ht : tget s.teams id = some t) (hu : u.launch = t.launch) :
    (s.setTeam id u).kinship = s.kinship :=
  congrArg (fun r => { s.kinship with teams := r }) (records_tset ht hu)

theorem kinship_tmapGroups {f : Nat → Group → Group} (hf : ∀ k g, (f k g).team = g.team) :
    State.kinship { s with groups := tmap s.groups f } = s.kinship :=
  congrArg (fun r => { s.kinship with groups := r }) (records_tmap s.groups hf)

theorem kinship_modCtx (c : Nat) {f : Context → Context} (hf : ∀ x, (f x).identity = x.identity) : (s.modCtx c f).kinship = s.kinship := by
  unfold State.modCtx
  split
  next x hx => exact congrArg (fun g => { s.kinship with ctx := g }) (map_tget_tset hx (hf x))
  next => rfl

/-! ### Teams that leave, and the ownership that passes on -/

theorem showGroup_team (invar : Bool) (grant : Option (Word32 × Byte)) (r : Resid) (g : Group) : (showGroup invar grant r g).team = g.team := by
  unfold showGroup
  split
  · rfl
  · split <;> rfl

theorem kinship_showAs (grant : Option (Word32 × Byte)) (id : Nat) (f : Team → Nat → Group → Resid) : (s.showAs grant id f).kinship = s.kinship := by
  unfold State.showAs
  split
  · rfl
  · refine kinship_tmapGroups s fun k g => ?_
    split
    · exact showGroup_team ..
    · rfl

theorem kinship_giveMatrix (c id : Nat) (grant : Option (Word32 × Byte)) : (s.giveMatrix c id grant).kinship = s.kinship := by
  unfold State.giveMatrix
  simp only
  split
  · rfl
  next t ht =>
    split
    · exact (kinship_showAs ..).trans (kinship_setTeam (s.setCore c _) ht rfl)
    · rfl

theorem kinship_passOwner (c : Nat) (grant : Option (Word32 × Byte)) : (s.passOwner c grant).kinship = s.kinship := by
  unfold State.passOwner
  split
  · exact kinship_giveMatrix ..
  · rfl

theorem kinship_afterLeave (gone : List (Nat × Nat)) (c : Nat) : (s.afterLeave gone c).kinship = s.kinship := kinship_passOwner ..

/-- The tables from which teams leave, with whose their records are. -/
def State.tables (s : State) : Kinship × Table Team × Table Group := (s.kinship, s.teams, s.groups)

theorem tables_absorbAll (hit : Nat → Bool) (l : List (Nat × Team)) :
    (forAll (fun s (x : Nat × Team) => forAll (fun s c => s.absorb hit x.1 x.2 c) s x.2.cores) s l).tables = s.tables :=
  forAll_keeps State.tables (fun s x => forAll_keeps State.tables (f := fun s c => s.absorb hit x.1 x.2 c) (fun _ _ => rfl) s _) s l

theorem kinship_setTables (ts : Table Team) (gs : Table Group) (ms : List MatOp) (cs : Table Copy) (as : List AtomReq) (es : List CaStep)
    (ks : Table Core) : State.kinship { s with teams := ts, groups := gs, mats := ms, copies := cs, atoms := as, caSteps := es, cores := ks } =
      { s.kinship with teams := records Team.launch ts, groups := records Group.team gs } := rfl

/-- The teams that leave, and the groups of such teams, are off the device. -/
theorem kinship_dropTeams (hit : Nat → Bool) : (s.dropTeams fun _ t => hit t.launch).kinship = s.kinship.without fun l => hit l = true := by
  have hn (i : Nat) : (!((tfilter s.teams fun _ t => hit t.launch).map (·.1)).contains i) = true ↔
      ¬∃ l, records Team.launch s.teams (i, l) ∧ hit l = true := by rw [Bool.not_eq_true', ← Bool.not_eq_true, mem_teamsOf]
  have ht := records_tfilter (f := Team.launch) (r := fun p => ¬∃ l, records Team.launch s.teams (p.1, l) ∧ hit l = true) s.teams fun k _ => hn k
  have hg := records_tfilter (f := Group.team) (r := fun p => ¬∃ l, records Team.launch s.teams (p.2, l) ∧ hit l = true) s.groups fun _ x => hn x.team
  unfold State.dropTeams
  refine (forAll_keeps State.kinship (fun s c => kinship_afterLeave s _ c) _ _).trans ?_
  obtain ⟨hk, htab⟩ := Prod.mk.inj (tables_absorbAll s (fun x => ((tfilter s.teams fun _ t => hit t.launch).map (·.1)).contains x)
    ((tfilter s.teams fun _ t => hit t.launch).filter (·.2.resident)))
  obtain ⟨hts, hgs⟩ := Prod.mk.inj htab
  rw [kinship_setTables, hk, hts, hgs, ht, hg]
  rfl

theorem kinship_noteFree (f : Frame) : (s.noteFree f).kinship = s.kinship := kinship_modCtx _ _ fun _ => rfl

theorem kinship_dropFrames (ids : List Nat) : (s.dropFrames ids).kinship = s.kinship := forAll_keeps State.kinship kinship_noteFree s _

/-! ### The end of a context -/

theorem kinship_writePackets (l : List Acc) (bs : List Byte) : (writePackets l bs s).kinship = s.kinship := by
  induction l generalizing bs s with
  | nil => rfl
  | cons a r ih => exact (ih ..).trans (kinship_of_outline (outline_poke s a _))

theorem kinship_endFinalise (c : Nat) : (s.endFinalise c).kinship = s.kinship := by
  unfold State.endFinalise
  split
  · rfl
  · split
    · exact kinship_writePackets ..
    · rfl

theorem kinship_writeSampleCount (c : Nat) : (s.writeSampleCount c).kinship = s.kinship := by
  unfold State.writeSampleCount
  simp only
  split
  · rfl
  · split
    next h => exact kinship_of_outline (outline_storeVa h)
    · exact kinship_of_outline (outline_countFailed ..)

/-- The launches that satisfy `p`, by number. -/
def Kinship.launchesOf (k : Kinship) (p : Launch → Bool) (l : Nat) : Prop := ((tfilter k.launches fun _ x => p x).map (·.1)).contains l = true

theorem kinship_setLaunches (ls : Table Launch) (ds : Table Die) :
    State.kinship { s with launches := ls, dies := ds } = { s.kinship with launches := ls } := rfl

theorem launches_of_kinship {s : State} {k : Kinship} (h : s.kinship = k) : s.launches = k.launches := congrArg Kinship.launches h

theorem kinship_dropLaunches (p : Launch → Bool) : (s.dropLaunches p).kinship =
    { s.kinship.without (s.kinship.launchesOf p) with launches := tfilter s.launches fun i _ => !((tfilter s.launches fun _ x => p x).map (·.1)).contains i } := by
  have hk := kinship_dropTeams s fun i => ((tfilter s.launches fun _ x => p x).map (·.1)).contains i
  unfold State.dropLaunches
  rw [kinship_setLaunches, kinship_dropFrames, launches_of_kinship hk, hk]
  rfl

/-- A context whose record is open ends by leaving, and by one write of its record. -/
theorem endContext_open {s : State} {c : Nat} (hc : (s.ctx? c).isSome = true) :
    ∃ (u : State) (x : Context), u = ((s.endFinalise c).writeSampleCount c).dropLaunches (fun l => l.ctx == c) ∧ tget u.ctxs c = some x ∧
      s.endContext c = (State.closeSterling { u with
        copies := tfilter u.copies fun _ y => y.ctx != c, mats := u.mats.filter (·.ctx != c), atoms := u.atoms.filter (·.ctx != c),
        caSteps := u.caSteps.filter (·.ctx != c), frames := u.frames.filter (·.ctx != c), decs := u.decs.filter (·.ctx != c),
        pubPending := u.pubPending.filter (·.ctx != c), cores := tmap u.cores fun _ k => k.forget c }
          { x.sterling with closed := true, time := u.refTime }).setCtx c
            { x with live := false, ids := [], binds := [], units := 0, heapLog := [], heapUnits := [] } := by
  obtain ⟨y, hy⟩ := Option.isSome_iff_exists.mp hc
  have hg : (tget s.ctxs c).map Context.identity = some y.identity := by
    rw [(Option.filter_eq_some_iff.mp hy).1]; rfl
  have hk := kinship_dropLaunches ((s.endFinalise c).writeSampleCount c) fun l => l.ctx == c
  rw [kinship_writeSampleCount, kinship_endFinalise] at hk
  have hu := (congrFun (congrArg Kinship.ctx hk) c).trans hg
  obtain ⟨x, hx, -⟩ := Option.map_eq_some_iff.mp hu
  refine ⟨_, x, rfl, hx, ?_⟩
  unfold State.endContext
  simp only [hy]
  rw [hx]
  rfl

theorem kinship_leave (c : Nat) : (((s.endFinalise c).writeSampleCount c).dropLaunches fun l => l.ctx == c).kinship =
    { s.kinship.without (s.kinship.launchesOf fun l => l.ctx == c) with
      launches := tfilter s.launches fun i _ => !((tfilter s.launches fun _ l => l.ctx == c).map (·.1)).contains i } := by
  have h : ((s.endFinalise c).writeSampleCount c).kinship = s.kinship := (kinship_writeSampleCount ..).trans (kinship_endFinalise ..)
  rw [kinship_dropLaunches, h, launches_of_kinship h]
  rfl

theorem kinship_closeSterling (r : Sterling) : (s.closeSterling r).kinship = s.kinship := by unfold State.closeSterling; split <;> rfl

theorem ctx?_eq_none {s : State} {c : Nat} : s.ctx? c = none ↔ ∀ i, s.kinship.ctx c = some i → i.1 = false := by
  change (tget s.ctxs c).filter _ = none ↔ ∀ i, (tget s.ctxs c).map Context.identity = some i → _
  cases tget s.ctxs c with
  | none => simp
  | some x => cases h : x.live <;> simp [Option.filter, h, Context.identity]

theorem kinship_setWork (cs : Table Copy) (ms : List MatOp) (as : List AtomReq) (es : List CaStep) (fs : List Frame) (ds : List FrameDec)
    (ps : List PubWrite) (ks : Table Core) : State.kinship
    { s with
      copies := cs, mats := ms, atoms := as, caSteps := es, frames := fs, decs := ds, pubPending := ps, cores := ks } = s.kinship := rfl

theorem kinship_setCtx (c : Nat) (x : Context) : (s.setCtx c x).kinship =
    { s.kinship with ctx := fun k => if k = c then some x.identity else s.kinship.ctx k } :=
  congrArg (fun f => { s.kinship with ctx := f }) (funext fun k => by unfold State.setCtx; rw [tget_tset]; split <;> rfl)

theorem kinship_endContext {s : State} {c : Nat} (hc : (s.ctx? c).isSome = true) : ∃ n, (s.endContext c).kinship =
    { s.kinship.without (s.kinship.launchesOf fun l => l.ctx == c) with
      launches := tfilter s.launches fun i _ => !((tfilter s.launches fun _ l => l.ctx == c).map (·.1)).contains i,
      ctx := fun k => if k = c then some (false, n) else s.kinship.ctx k } := by
  obtain ⟨u, x, hu, -, he⟩ := endContext_open hc
  refine ⟨x.sterling.ctx, ?_⟩
  rw [he, kinship_setCtx, kinship_closeSterling, kinship_setWork, hu, kinship_leave]
  rfl

theorem endContext_gone {s : State} {c : Nat} (hc : s.ctx? c = none) : s.endContext c = s := by unfold State.endContext; rw [hc]

theorem dualHost_endContext (c : Nat) : (s.endContext c).kinship.dualHost = s.kinship.dualHost := by
  cases hc : s.ctx? c with
  | none => rw [endContext_gone hc]
  | some y =>
    obtain ⟨n, hn⟩ := kinship_endContext (Option.isSome_of_eq_some hc)
    rw [hn]
    rfl

theorem ctx?_endContext (c k : Nat) : (s.endContext c).ctx? k = none ↔ k = c ∨ s.ctx? k = none := by
  cases hc : s.ctx? c with
  | none =>
    rw [endContext_gone hc]
    exact ⟨.inr, fun h => h.elim (fun h => h ▸ hc) id⟩
  | some y =>
    obtain ⟨n, hn⟩ := kinship_endContext (Option.isSome_of_eq_some hc)
    rw [ctx?_eq_none, ctx?_eq_none, hn]
    by_cases hk : k = c
    · simp [hk]
    · simp [hk]

end

end Sys2Proof.Machine
end

section
/-!
SUPPORT. Settles O53 (Package).
-/

namespace Sys2Proof.Machine

open Sys2Proof

/-! ### Cold reset and recovery -/

/-- Image `i` of a start-up whose images verify as `w`, `c` and `r` say is accepted. -/
def State.boots (s : State) (w c : Bool) (r : BitVec 4) (i : Nat) : Bool :=
  (if i = 0 then w else if i = 1 then c else r.getLsbD (i - 2)) && decide ((tget s.plant.fuseMin i).getD 0 ≤ (tget s.plant.versions i).getD 0)

section
variable (s : State) (w c : Bool) (r : BitVec 4)

theorem verified_bit (i : Nat) : (r ++ BitVec.ofBool c ++ BitVec.ofBool w : BitVec 6).getLsbD i =
    if i = 0 then w else if i = 1 then c else r.getLsbD (i - 2) := by
  refine (BitVec.getLsbD_append (x := r ++ BitVec.ofBool c) (y := BitVec.ofBool w) (i := i)).trans ?_
  rw [BitVec.getLsbD_append]
  match i with
  | 0 => simp
  | 1 => simp
  | i + 2 => simp

theorem imageOk_eq_boots : s.imageOk (r ++ BitVec.ofBool c ++ BitVec.ofBool w) = s.boots w c r :=
  funext fun i => congrArg (· && _) (verified_bit w c r i)

theorem coldReset_eq : exec (.coldReset w c r) s = .next
    (if (s.failedImages (r ++ BitVec.ofBool c ++ BitVec.ofBool w)).isEmpty then s.cold
     else s.cold.recover (s.failedImages (r ++ BitVec.ofBool c ++ BitVec.ofBool w))) := rfl

/-- The images that fail in the first step in which one does. -/
theorem failedImages_eq : s.failedImages (r ++ BitVec.ofBool c ++ BitVec.ofBool w) =
    if s.boots w c r 0 = false then [0] else if s.boots w c r 1 = false then [1] else [2, 3, 4, 5].filter fun i => !s.boots w c r i := by
  have h : s.failedImages (r ++ BitVec.ofBool c ++ BitVec.ofBool w) =
      (([[0], [1], [2, 3, 4, 5]].map fun l => l.filter fun i => !s.boots w c r i).find? fun l => !l.isEmpty).getD [] := by
    rw [← imageOk_eq_boots]; rfl
  rw [h]
  simp only [List.map_cons, List.map_nil]
  generalize [2, 3, 4, 5].filter (fun i => !s.boots w c r i) = l
  simp only [List.filter_cons, List.filter_nil]
  cases s.boots w c r 0 <;> cases s.boots w c r 1 <;> cases l <;> rfl

theorem coldReset_accepted (h : ∀ i, i < 6 → s.boots w c r i = true) : exec (.coldReset w c r) s = .next s.cold := by
  simp only [coldReset_eq, failedImages_eq, h 0 (by omega), h 1 (by omega), Bool.true_eq_false, if_false]
  have hn : ([2, 3, 4, 5].filter fun i => !s.boots w c r i) = [] := by
    rw [List.filter_cons_of_neg, List.filter_cons_of_neg, List.filter_cons_of_neg, List.filter_cons_of_neg, List.filter_nil] <;>
      simp [h]
  rw [hn]
  rfl

theorem coldReset_controller (h : s.boots w c r 0 = false) : exec (.coldReset w c r) s = .next (s.cold.recover [0]) := by
  rw [coldReset_eq, failedImages_eq, if_pos h]; rfl

theorem coldReset_configuration (h : s.boots w c r 0 = true) (h1 : s.boots w c r 1 = false) :
    exec (.coldReset w c r) s = .next (s.cold.recover [1]) := by
  simp only [coldReset_eq, failedImages_eq, h, h1, Bool.true_eq_false, if_false, if_true]; rfl

theorem coldReset_firmware (h : s.boots w c r 0 = true) (h1 : s.boots w c r 1 = true) (hx : ∃ i, 2 ≤ i ∧ i < 6 ∧ s.boots w c r i = false) :
    exec (.coldReset w c r) s = .next (s.cold.recover ([2, 3, 4, 5].filter fun i => !s.boots w c r i)) := by
  simp only [coldReset_eq, failedImages_eq, h, h1, Bool.true_eq_false, if_false]
  obtain ⟨i, hi, hi6, hb⟩ := hx
  have hm : i ∈ [2, 3, 4, 5].filter fun i => !s.boots w c r i := by
    refine List.mem_filter.mpr ⟨?_, by rw [hb]; rfl⟩
    simp only [List.mem_cons, List.not_mem_nil, or_false]
    omega
  rw [if_neg]
  exact fun he => List.ne_nil_of_mem hm (List.isEmpty_iff.mp he)

theorem tget_range {α : Type} {n : Nat} {f : Nat → α} {i : Nat} (hi : i < n) : tget ((List.range n).map fun k => (k, f k)) i = some (f i) := by
  have h (l : List Nat) (hm : i ∈ l) : tget (l.map fun k => (k, f k)) i = some (f i) := by
    induction l with
    | nil => cases hm
    | cons k l ih =>
      rw [List.map_cons, tget]
      split
      next hk => rw [hk]
      next hk => exact ih ((List.mem_cons.mp hm).resolve_left (Ne.symm hk))
  exact h _ (List.mem_range.mpr hi)

theorem recover_facts (l : List Nat) : (s.recover l).plant.recovery = true ∧ (s.recover l).plant.recoveryStatus = l ∧
    (∀ i, i < 8 → ((s.recover l).stack i).training = true) ∧ ∀ f, f < 17 → ((s.recover l).func f).part = none := by
  refine ⟨rfl, rfl, fun i hi => ?_, fun f hf => ?_⟩
  · exact congrArg (fun x : Option Stack => (x.getD Stack.reset).training) (tget_range (f := fun i => { s.stack i with training := true }) hi)
  · exact congrArg (fun x : Option Func => (x.getD Func.reset).part) (tget_range (f := fun _ => { Func.reset with part := none }) hf)

theorem recoveryImage_ok {image version : Nat} (hr : s.plant.recovery = true) (hv : (tget s.plant.fuseMin image).getD 0 ≤ version) :
    exec (.recoveryImage image version true) s = .next { s with plant := { s.plant with
      versions := tset s.plant.versions image version, recoveryStatus := s.plant.recoveryStatus.filter (· != image) } } := by
  change execRecoveryImage image version true s = _
  simp only [execRecoveryImage, hr, decide_eq_false (Nat.not_lt.mpr hv), Bool.not_true, Bool.or_false, Bool.false_eq_true, if_false]

end

/-! ### The reset of a function -/

section
variable (s : State)

theorem kinship_discard (f : Nat) (counted : Bool) : (s.discard f counted).kinship = s.kinship := by unfold State.discard; split <;> rfl

theorem kinship_setQState (f q : Nat) (st : QState) (code : Byte) : (s.setQState f q st code).kinship = s.kinship :=
  (kinship_of_outline (outline_qcbWrite ..)).trans rfl

theorem kinship_cancelHandover (f q : Nat) : (s.cancelHandover f q).kinship = s.kinship := by
  unfold State.cancelHandover
  simp only
  split
  · rfl
  · exact forAll_keeps State.kinship (fun s (b : Bool × Word64) => kinship_discard s f b.1) _ _

theorem kinship_clearQueue (f q : Nat) : (s.clearQueue f q).kinship = s.kinship := by
  unfold State.clearQueue
  simp only
  split
  · exact kinship_cancelHandover ..
  · exact (kinship_setQState ..).trans (kinship_cancelHandover ..)

theorem kinship_wipeFunction (f : Nat) : (s.wipeFunction f).kinship = (s.discardContexts f).kinship :=
  forAll_keeps State.kinship (fun s key => kinship_clearQueue s f (key % 1024)) _ _

theorem dualHost_wipeFunction (f : Nat) : (s.wipeFunction f).plant.dualHost = s.plant.dualHost :=
  (congrArg Kinship.dualHost (kinship_wipeFunction ..)).trans (forAll_keeps (fun s : State => s.kinship.dualHost) dualHost_endContext s _)

/-- A context that is among those that end, or is gone, is gone. -/
theorem ctx?_endAll {c : Nat} (l : List Nat) (h : c ∈ l ∨ s.ctx? c = none) : (forAll State.endContext s l).ctx? c = none := by
  induction l generalizing s with
  | nil => exact h.resolve_left List.not_mem_nil
  | cons k l ih =>
    refine ih (s.endContext k) ?_
    rw [ctx?_endContext]
    rcases h with h | h
    · exact (List.mem_cons.mp h).elim (.inr ∘ .inl) .inl
    · exact .inr (.inr h)

theorem ctx?_wipeFunction {c f : Nat} (hf : ctxFn c = f) : (s.wipeFunction f).ctx? c = none := by
  rw [ctx?_eq_none, kinship_wipeFunction, ← ctx?_eq_none]
  refine ctx?_endAll s _ ?_
  cases hc : s.ctx? c with
  | none => exact .inr rfl
  | some x =>
    obtain ⟨hx, hl⟩ := Option.filter_eq_some_iff.mp hc
    refine .inl (List.mem_map.mpr ⟨(c, x), List.mem_filter.mpr ⟨tget_mem hx, ?_⟩, rfl⟩)
    rw [hl, hf, beq_self_eq_true]
    rfl

theorem functionLevelReset_ok {fn : Nat} (hf : fn < 17) :
    exec (.functionLevelReset fn) s = .next ((s.wipeFunction fn).pfeqPost { kind := 4, cause := 0, fn := fn }) :=
  if_neg (Nat.not_le.mpr hf)

/-! ### Links, boundaries and ports -/

theorem lostWith_eq (p : Plant) (link : Nat) : p.lostWith link =
    if p.dualHost = false then (if link = 0 then List.range 17 else [])
    else ((List.range 17).drop 1).filter fun f => p.vf0.contains f == (link == 0) := by
  unfold Plant.lostWith Plant.functionsOn
  cases p.dualHost with
  | false => rfl
  | true =>
    have hz (q : Nat → Bool) : (((List.range 17).drop 1).filter q).filter (· != 0) = ((List.range 17).drop 1).filter q :=
      List.filter_eq_self.mpr fun x hx => (by decide : ∀ x ∈ (List.range 17).drop 1, (x != 0) = true) x (List.mem_filter.mp hx).1
    simp only [Bool.not_true, Bool.false_eq_true, Bool.true_eq_false, if_false]
    split
    · exact hz _
    · exact hz _

theorem loseLink_ok {link : Nat} (hu : s.plant.linkUp[link]? = some true) :
    let lost := if s.plant.dualHost = false then (if link = 0 then List.range 17 else [])
      else ((List.range 17).drop 1).filter fun f => s.plant.vf0.contains f == (link == 0)
    let had := lost.filter fun f => s.ctxs.any fun x => x.2.live && ctxFn x.1 == f
    s.loseLink link = (forAll State.wipeFunction { s with plant := { s.plant with linkUp := s.plant.linkUp.set link false } } lost).event 0x44
      (natBytes 1 link ++ natBytes 1 (if s.plant.dualHost = true then 1 else 0) ++ natBytes 2 0 ++
        natBytes 4 (had.foldl (fun n f => n + 2 ^ f) 0)) := by
  rw [← lostWith_eq]
  intro lost had
  have hd : (forAll State.wipeFunction { s with plant := { s.plant with linkUp := s.plant.linkUp.set link false } } lost).plant.dualHost =
      s.plant.dualHost := forAll_keeps (fun s : State => s.plant.dualHost) dualHost_wipeFunction _ _
  rw [← hd]
  unfold State.loseLink
  rw [if_neg]
  · rfl
  · rw [atD, hu]; exact Bool.noConfusion

theorem crcRetry_ok {b n : Nat} (hb : b < 4) (hu : s.plant.boundUp[b]? = some true) (hn : s.plant.retries[b]? = some n) (ok : Bool) :
    let retries := fun k => s.plant.retries.set b k
    let down := { s with plant := { s.plant with retries := retries 0, boundUp := s.plant.boundUp.set b false } }
    let u := down.event 0x42 (natBytes 1 (boundDies b).1 ++ natBytes 1 (boundDies b).2 ++ natBytes 6 0 ++ natBytes 8 s.refTime)
    exec (.solderCrcRetry b ok) s = .next
      (if ok then { s with plant := { s.plant with retries := retries 0 } }
       else if n + 1 < 64 then { s with plant := { s.plant with retries := retries (n + 1) } }
       else forAll State.isolate u ((List.range 4).filter fun d => !u.keptDies.contains d && !(u.die d).isolated)) := by
  have hg : (decide (4 ≤ b) || !atD s.plant.boundUp b false) = false := by
    rw [decide_eq_false (Nat.not_le.mpr hb), atD, hu]; rfl
  have ha : atD s.plant.retries b 0 = n := by rw [atD, hn]; rfl
  intro retries down u
  change execSolderCrcRetry b ok s = _
  unfold execSolderCrcRetry
  simp only [hg, ha, Bool.false_eq_true, if_false]
  cases ok
  · by_cases h : n + 1 < 64
    · simp only [if_pos h]; rfl
    · simp only [if_neg h]; rfl
  · rfl

theorem portDown_ok {port i : Nat} {p : Peer} (hu : s.plant.portUp[port]? = some true)
    (hp : (s.peers.find? fun x => x.2.ports.contains port) = some (i, p)) :
    let up := s.plant.portUp.set port false
    let n := (p.ports.filter fun x => up[x]? == some true).length
    exec (.portDown port) s = .next (State.event { s with plant := { s.plant with portUp := up } } 0x45
      (natBytes 1 port ++ natBytes 1 n ++ natBytes 6 0 ++ natBytes 8 s.refTime)) := by
  intro up n
  have hn : n = (p.ports.filter fun x => atD up x false).length := by
    refine congrArg (fun f => (p.ports.filter f).length) (funext fun x => ?_)
    unfold atD
    rcases up[x]? with _ | _ | _ <;> rfl
  change execPortDown port s = _
  unfold execPortDown
  rw [if_neg (by rw [atD, hu]; exact Bool.noConfusion), hn]
  simp only [hp]
  rfl

/-! ### Peer writes -/

/-- The memories that a write reaches. -/
def State.memories (s : State) : Mem × Mem × List PubWrite := (s.mem, s.hostMem, s.pubPending)

theorem memories_countCorrected (l : List Nat) : (s.countCorrected l).memories = s.memories :=
  (congrArg State.memories (countCorrected_frame s l)).trans rfl

theorem memories_countFailed (ctx va n : Nat) (c : Cause) : (s.countFailed ctx va n c).memories = s.memories := by
  have hu (t : State) : (t.countUncorrAt ctx va n).memories = t.memories := by
    unfold State.countUncorrAt
    split <;> rfl
  unfold State.countFailed
  simp only
  split
  · exact (hu _).trans (memories_countCorrected ..)
  · exact memories_countCorrected ..
  · exact memories_countCorrected ..
  · rfl

theorem memories_countPeerBad (ctx : Nat) (parts : List (Nat × Nat)) : (s.countPeerBad ctx parts).memories = s.memories := by
  refine forAll_keeps State.memories (fun s x => ?_) s _
  unfold State.countPeerPart
  split
  · exact memories_countCorrected ..
  · exact memories_countFailed ..

theorem allSome_map {α β : Type} {f : α → Option β} {l : List α} {r : List β} (h : l.map f = r.map some) : allSome (l.map f) = some r := by
  rw [h]
  clear h
  induction r with
  | nil => rfl
  | cons x r ih => rw [List.map_cons, allSome, ih]; rfl

theorem allSome_none {α β : Type} {f : α → Option β} {l : List α} (h : ∃ x ∈ l, f x = none) : allSome (l.map f) = none := by
  induction l with
  | nil => obtain ⟨x, hx, -⟩ := h; cases hx
  | cons y l ih =>
    obtain ⟨x, hx, hn⟩ := h
    rw [List.map_cons]
    cases hy : f y with
    | none => rfl
    | some z =>
      rcases List.mem_cons.mp hx with rfl | hx
      · rw [hn] at hy; cases hy
      · rw [allSome, ih ⟨x, hx, hn⟩]; rfl

theorem meetsCopy_false : s.meetsCopy false = s := by
  unfold State.meetsCopy
  rw [Bool.or_false]

section
variable {s} {ctx : Nat} {va sig : Word64} {data : List Byte}

/-- The parts to which a peer write walks. -/
def peerParts (va sig : Word64) (data : List Byte) : List (Nat × Nat) :=
  flits (data.length + 1) va.toNat data.length ++ if sig = 0 then [] else [(sig.toNat, 8)]

theorem peerWrite_stalled (h : ((peerParts va sig data).any fun x => (s.walkStall ctx x.1).isSome) = true) :
    exec (.peerWriteIn ctx va data sig) s = .next (s.meetsCopy true) := if_pos h

theorem peerWrite_refused (h : ((peerParts va sig data).any fun x => (s.walkStall ctx x.1).isSome) = false)
    (hn : (∃ x ∈ flits (data.length + 1) va.toNat data.length, s.pinnedAcc ctx x.1 x.2 = none) ∨ sig ≠ 0 ∧ s.pinnedAcc ctx sig.toNat 8 = none) :
    exec (.peerWriteIn ctx va data sig) s = .next (s.countPeerBad ctx (peerParts va sig data)) := by
  refine (if_neg (Bool.not_eq_true _ ▸ h)).trans ?_
  rcases hn with hn | ⟨hs, hn⟩
  · simp only [allSome_none (f := fun x : Nat × Nat => s.pinnedAcc ctx x.1 x.2) hn]
    rfl
  · simp only [if_neg hs, hn, Option.map_none]
    rw [peerParts, if_neg hs]
    cases allSome _ <;> rfl

/-- Bytes of a peer write go to their accesses in order, and count in the partition's traffic with peers. -/
def putFlits (ctx : Nat) (s : State) (data : List Byte) (accs : List Acc) : State :=
  (accs.foldl (fun (x : State × List Byte) (a : Acc) =>
    ((x.1.addCount (x.1.partOf ctx) 3 a.locs.length).poke a (x.2.take a.locs.length), x.2.drop a.locs.length)) (s, data)).1

section
variable {accs : List Acc} (hp : (flits (data.length + 1) va.toNat data.length).map (fun x => s.pinnedAcc ctx x.1 x.2) = accs.map some)
  (hw : ∀ a ∈ accs, s.accWaits a = false) (hk : ∀ x ∈ flits (data.length + 1) va.toNat data.length, s.walkStall ctx x.1 = none)
include hp hw hk

theorem peerWrite_data : exec (.peerWriteIn ctx va data 0) s = .next (putFlits ctx s data accs) := by
  have hn : ((peerParts va 0 data).any fun x => (s.walkStall ctx x.1).isSome) = false := by
    rw [peerParts, if_pos rfl, List.append_nil]
    exact List.any_eq_false.mpr fun x hx => by rw [hk x hx]; exact Bool.noConfusion
  have ha : (accs ++ []).any s.accWaits = false := by
    rw [List.append_nil]
    exact List.any_eq_false.mpr fun x hx => by rw [hw x hx]; exact Bool.noConfusion
  refine (if_neg (Bool.not_eq_true _ ▸ hn)).trans ?_
  simp only [allSome_map hp, if_true, Option.toList_none, ha, meetsCopy_false]
  rfl

theorem peerWrite_signal (hz : sig ≠ 0) (h8 : sig.toNat % 8 = 0) {w : Acc} (hs : s.walkStall ctx sig.toNat = none)
    (hpw : s.pinnedAcc ctx sig.toNat 8 = some w) (hww : s.accWaits w = false) :
    exec (.peerWriteIn ctx va data sig) s = .next ((putFlits ctx s data accs).peerSignal w) := by
  have hn : ((peerParts va sig data).any fun x => (s.walkStall ctx x.1).isSome) = false := by
    rw [peerParts, if_neg hz, List.any_append, List.any_cons, hs]
    rw [List.any_eq_false.mpr fun x hx => by rw [hk x hx]; exact Bool.noConfusion]
    rfl
  have ha : (accs ++ [w]).any s.accWaits = false := by
    rw [List.any_append, List.any_cons, hww, List.any_eq_false.mpr fun x hx => by rw [hw x hx]; exact Bool.noConfusion]
    rfl
  refine (if_neg (Bool.not_eq_true _ ▸ hn)).trans ?_
  simp only [allSome_map hp, if_neg hz, hpw, Option.map_some, Option.toList_some, ha, meetsCopy_false, if_pos h8]
  rfl

end

theorem peerSignal_ok (u : State) (w : Acc) (hl : ∀ l ∈ w.locs, ((u.addCount (u.partOf w.ctx) 3 8).countWeak w).locBad l = false) :
    u.peerSignal w = ((u.addCount (u.partOf w.ctx) 3 8).countWeak w).poke w
      (natBytes 8 (((u.addCount (u.partOf w.ctx) 3 8).countWeak w).loadNum w + 1).toNat) := by
  have hf : w.locs.find? ((u.addCount (u.partOf w.ctx) 3 8).countWeak w).locBad = none :=
    List.find?_eq_none.mpr fun l h => by rw [hl l h]; exact Bool.noConfusion
  unfold State.peerSignal
  simp only [hf]

end

theorem spdm_ok {version : Nat} (request : Nat) (hv : version = 0x12 ∨ version = 0x13) : exec (.spdmRequest version request) s = .next { s with
    plant := { s.plant with mctpOut := s.plant.mctpOut ++
      [natBytes 1 version ++ natBytes 1 request ++ (List.range 62).map (Config.spdmByte version request)] } } := by
  change execSpdmRequest version request s = _
  rcases hv with rfl | rfl <;> rfl

end

/-- Settles O53: a reset, a lost link or a refused write each goes one way through its checks, and the end of a context ends no other. -/
theorem package : Obligations.Package := by
  unfold Obligations.Package
  refine ⟨fun s w c r => ?_, fun s _ _ hr hv => recoveryImage_ok s hr hv, fun s fn hf => ?_, fun s link => rfl, fun s link => ?_, fun s b n hb hu hn => ?_,
    fun s port i p hu hp => portDown_ok s hu hp, fun s ctx va sig data => ?_, fun s v rq hv => spdm_ok s rq hv⟩
  · exact ⟨rfl, rfl, rfl, rfl, rfl, rfl, coldReset_accepted s w c r, coldReset_controller s w c r, coldReset_configuration s w c r,
      coldReset_firmware s w c r, recover_facts s.cold⟩
  · exact ⟨functionLevelReset_ok s hf, fun c hc => ctx?_wipeFunction s hc⟩
  · exact ⟨rfl, loseLink_ok s⟩
  · refine ⟨crcRetry_ok s hb hu hn true, fun h => ?_, fun h => ?_⟩
    · exact (crcRetry_ok s hb hu hn false).trans (congrArg Host.Outcome.next (if_pos (by omega : n + 1 < 64)))
    · exact (crcRetry_ok s hb hu hn false).trans (congrArg Host.Outcome.next (if_neg (by omega : ¬n + 1 < 64)))
  · refine ⟨fun hn => ?_, fun ⟨x, hx, hs⟩ => ?_, fun accs a hp hw hk hks => ⟨?_, fun hz h8 hpw hww hl => ?_⟩⟩
    · cases h : (peerParts va sig data).any fun x => (s.walkStall ctx x.1).isSome with
      | true => exact ⟨_, peerWrite_stalled h, rfl, rfl, rfl⟩
      | false =>
        obtain ⟨hm, hr⟩ := Prod.mk.inj (memories_countPeerBad s ctx (peerParts va sig data))
        obtain ⟨hh, hp⟩ := Prod.mk.inj hr
        exact ⟨_, peerWrite_refused h hn, hm, hh, hp⟩
    · exact peerWrite_stalled (List.any_eq_true.mpr ⟨x, List.mem_append_left _ hx, hs⟩)
    · rintro rfl
      exact peerWrite_data hp hw hk
    · exact (peerWrite_signal hp hw hk hz h8 (hks hz) hpw hww).trans (congrArg Host.Outcome.next (peerSignal_ok _ a hl))

end Sys2Proof.Machine
end

section
/-!
SUPPORT. Settles O20 (FatalEndsTheContext).
-/

namespace Sys2Proof.Machine

open Sys2Proof

/-! ### Queues on the way to FAULTED -/

/-- A queue state is as before, or one that ran has stopped in ERROR or FAULTED. -/
def QState.declines (a b : QState) : Prop := b = a ∨ (a = .active ∨ a = .error) ∧ (b = .error ∨ b = .faulted)

theorem QState.declines_refl (a : QState) : a.declines a := .inl rfl

theorem QState.declines_trans {a b c : QState} (h : a.declines b) (h' : b.declines c) : a.declines c := by
  rcases h with rfl | ⟨ha, hb⟩
  · exact h'
  · rcases h' with rfl | ⟨-, hc⟩
    · exact .inr ⟨ha, hb⟩
    · exact .inr ⟨ha, hc⟩

/-- The state of each queue is as before, or has declined. -/
def State.declines (s t : State) : Prop := ∀ f q, (s.queue f q).state.declines (t.queue f q).state

section
variable {s t u : State}

theorem declines_trans (h : s.declines t) (h' : t.declines u) : s.declines u := fun f q => QState.declines_trans (h f q) (h' f q)

theorem declines_of_host (h : t.host = s.host) : s.declines t := fun f q => .inl (by rw [queue_of_host h])

theorem declines_of_queues (h : t.queues = s.queues) : s.declines t :=
  fun f q => .inl (congrArg (fun l => ((tget l (f * 1024 + q)).getD Queue.reset).state) h)

theorem declines_setQueue (f q : Nat) {x : Queue} (h : (s.queue f q).state.declines x.state) : s.declines (s.setQueue f q x) := by
  intro f' q'
  by_cases hk : f' * 1024 + q' = f * 1024 + q
  · have e (u : State) : u.queue f' q' = u.queue f q := congrArg (fun k => (tget u.queues k).getD Queue.reset) hk
    rw [e, e, queue_setQueue]
    exact h
  · rw [queue_setQueue_ne s x hk]
    exact .inl rfl

theorem declines_setQState (f q : Nat) {st : QState} (code : Byte) (h : (s.queue f q).state.declines st) : s.declines (s.setQState f q st code) :=
  declines_trans (declines_setQueue f q (x := { s.queue f q with state := st, code := code, mirrorStatus := _ }) h)
    (declines_of_host (host_of_outline (outline_qcbWrite ..)))

theorem declines_discard (f : Nat) (counted : Bool) : s.declines (s.discard f counted) := by
  unfold State.discard
  split
  · exact declines_of_queues rfl
  · exact declines_of_queues rfl

theorem declines_queueError (f q : Nat) (code : Byte) (tag packet : Word32) (addr : Word64) (h : (s.queue f q).state = .active) :
    s.declines (s.queueError f q code tag packet addr) :=
  declines_trans (declines_setQState f q code (.inr ⟨.inl h, .inl rfl⟩)) (declines_of_host (host_of_outline (outline_evqPost ..)))

theorem kinship_queueError (f q : Nat) (code : Byte) (tag packet : Word32) (addr : Word64) : (s.queueError f q code tag packet addr).kinship = s.kinship :=
  (kinship_of_outline (outline_evqPost ..)).trans (kinship_setQState ..)

theorem ring_outcome (s : State) (f : Nat) (counted : Bool) (v : Word64) : (s.ring f counted v).kinship = s.kinship ∧ s.declines (s.ring f counted v) := by
  unfold State.ring
  simp only
  split
  · exact ⟨kinship_discard .., declines_discard _ _⟩
  split
  · exact ⟨rfl, declines_setQueue _ _ (.inl rfl)⟩
  split
  · exact ⟨kinship_discard .., declines_discard _ _⟩
  next hg =>
    have ha : (s.queue f (v.extractLsb' 32 16).toNat).state = .active := by
      simp only [Bool.or_eq_true, bne_iff_ne, not_or, not_not] at hg
      exact hg.1.1
    have h1 := declines_setQueue (s := s) f (v.extractLsb' 32 16).toNat
      (x := { s.queue f (v.extractLsb' 32 16).toNat with lseq := v.extractLsb' 48 16 }) (.inl rfl)
    split
    · exact ⟨rfl, h1⟩
    split
    · exact ⟨kinship_queueError .., declines_trans h1 (declines_queueError _ _ _ _ _ _ (by rw [queue_setQueue]; exact ha))⟩
    split
    · exact ⟨kinship_queueError .., declines_trans h1 (declines_queueError _ _ _ _ _ _ (by rw [queue_setQueue]; exact ha))⟩
    · exact ⟨rfl, declines_trans h1 (declines_setQueue _ _ (.inl rfl))⟩

theorem finishHandover_outcome (s : State) (f q : Nat) : (s.finishHandover f q).kinship = s.kinship ∧ s.declines (s.finishHandover f q) := by
  unfold State.finishHandover
  simp only
  split
  · exact ⟨rfl, declines_of_queues rfl⟩
  · refine forAll_invariant (P := fun t : State => t.kinship = s.kinship ∧ s.declines t) (fun t b ⟨hk, hd⟩ => ?_) ⟨?_, ?_⟩ _
    · obtain ⟨hk', hd'⟩ := ring_outcome t f b.1 b.2
      exact ⟨hk'.trans hk, declines_trans hd hd'⟩
    · rfl
    · exact declines_setQueue _ _ (.inl rfl)

theorem setFaulted_outcome (f q : Nat) {x : Queue} (hx : x.state = (s.queue f q).state) (code : Byte)
    (h : (s.queue f q).state = .active ∨ (s.queue f q).state = .error) :
    ((s.setQueue f q x).setQState f q .faulted code).kinship = s.kinship ∧ s.declines ((s.setQueue f q x).setQState f q .faulted code) := by
  refine ⟨(kinship_setQState ..).trans rfl, declines_trans (declines_setQueue f q (.inl hx)) (declines_setQState f q code ?_)⟩
  rw [queue_setQueue, hx]
  exact .inr ⟨h, .inr rfl⟩

theorem faultQueue_outcome (s : State) (x : Nat × Nat) : (s.faultQueue x).kinship = s.kinship ∧ s.declines (s.faultQueue x) := by
  obtain ⟨hk, hd⟩ := finishHandover_outcome s x.1 x.2
  unfold State.faultQueue
  simp only
  generalize s.finishHandover x.1 x.2 = t at hk hd ⊢
  split
  next hr =>
    simp only [Bool.or_eq_true, beq_iff_eq] at hr
    obtain ⟨hk', hd'⟩ := setFaulted_outcome (s := t) x.1 x.2 (x := { t.queue x.1 x.2 with pkts := [], wait := none, parse := (t.queue x.1 x.2).head })
      rfl 0 hr
    exact ⟨hk'.trans hk, declines_trans hd hd'⟩
  next => exact ⟨hk, hd⟩

/-- A queue that was ACTIVE or in ERROR, or is FAULTED, is FAULTED once its own turn has come. -/
theorem faultQueue_faults (s : State) (f q : Nat) (h : (s.queue f q).state = .active ∨ (s.queue f q).state = .error ∨ (s.queue f q).state = .faulted) :
    ((s.faultQueue (f, q)).queue f q).state = .faulted := by
  have hf : ((s.finishHandover f q).queue f q).state = .active ∨ ((s.finishHandover f q).queue f q).state = .error ∨
      ((s.finishHandover f q).queue f q).state = .faulted := by
    rcases (finishHandover_outcome s f q).2 f q with hd | ⟨-, hd⟩
    · rw [hd]; exact h
    · exact .inr hd
  unfold State.faultQueue
  simp only
  split
  · rw [queue_setQState]
  next hn =>
    simp only [Bool.or_eq_true, beq_iff_eq, not_or] at hn
    exact (hf.resolve_left hn.1).resolve_left hn.2

theorem faultAll_outcome (s : State) (l : List (Nat × Nat)) : (forAll State.faultQueue s l).kinship = s.kinship ∧ s.declines (forAll State.faultQueue s l) :=
  forAll_invariant (P := fun t : State => t.kinship = s.kinship ∧ s.declines t)
    (fun t x ⟨hk, hd⟩ => ⟨(faultQueue_outcome t x).1.trans hk, declines_trans hd (faultQueue_outcome t x).2⟩) ⟨rfl, declines_of_queues rfl⟩ l

theorem faultAll_faults {l : List (Nat × Nat)} {f q : Nat} (hm : (f, q) ∈ l) {s : State}
    (h : (s.queue f q).state = .active ∨ (s.queue f q).state = .error ∨ (s.queue f q).state = .faulted) :
    ((forAll State.faultQueue s l).queue f q).state = .faulted := by
  induction l generalizing s with
  | nil => cases hm
  | cons x l ih =>
    rcases List.mem_cons.mp hm with rfl | hm
    · have hq := faultQueue_faults s f q h
      rcases (faultAll_outcome (s.faultQueue (f, q)) l).2 f q with hd | ⟨ha, -⟩
      · exact hd.trans hq
      · rw [hq] at ha
        exact ha.elim QState.noConfusion QState.noConfusion
    · refine ih hm ?_
      rcases (faultQueue_outcome s x).2 f q with hd | ⟨-, hd⟩
      · rw [hd]; exact h
      · exact .inr hd

end

/-! ### What an ended context leaves -/

section
variable {s : State} {c : Nat}

theorem closeSterling_frame (s : State) (r : Sterling) : s.closeSterling r = { s with closed := (s.closeSterling r).closed } := by
  unfold State.closeSterling
  split <;> rfl

theorem last_closeSterling (s : State) (r : Sterling) : ∃ x, (s.closeSterling r).closed.getLast? = some x ∧ x.closed = r.closed ∧ x.ctx = r.ctx := by
  unfold State.closeSterling
  split
  · exact ⟨r, List.getLast?_concat .., rfl, rfl⟩
  · exact ⟨_, List.getLast?_concat .., rfl, rfl⟩

/-- No record of the tables of work is the context's. -/
def State.workless (t : State) (c : Nat) : Prop :=
  (∀ x ∈ t.copies, x.2.ctx ≠ c) ∧ (∀ m ∈ t.mats, m.ctx ≠ c) ∧ (∀ a ∈ t.atoms, a.ctx ≠ c) ∧
    (∀ a ∈ t.caSteps, a.ctx ≠ c) ∧ (∀ f ∈ t.frames, f.ctx ≠ c) ∧ (∀ d ∈ t.decs, d.ctx ≠ c) ∧ (∀ w : PubWrite, w ∈ t.pubPending → w.ctx ≠ c)

theorem filtered_ne {α : Type} {l : List α} {g : α → Nat} {x : α} (h : x ∈ l.filter fun y => g y != c) : g x ≠ c :=
  bne_iff_ne.mp (List.mem_filter.mp h).2

theorem endContext_work (hc : (s.ctx? c).isSome = true) : (s.endContext c).workless c := by
  obtain ⟨u, x, -, -, he⟩ := endContext_open hc
  rw [he, closeSterling_frame]
  exact ⟨fun _ h => filtered_ne (g := fun x : Nat × Copy => x.2.ctx) h, fun _ h => filtered_ne h, fun _ h => filtered_ne h,
    fun _ h => filtered_ne h, fun _ h => filtered_ne h, fun _ h => filtered_ne h, fun _ h => filtered_ne h⟩

theorem endContext_context (hc : (s.ctx? c).isSome = true) : (s.endContext c).ctx? c = none ∧
    ∃ x, tget (s.endContext c).ctxs c = some x ∧ x.ids = [] ∧ x.binds = [] ∧ x.units = 0 := by
  refine ⟨(ctx?_endContext s c c).mpr (.inl rfl), ?_⟩
  obtain ⟨u, x, -, -, he⟩ := endContext_open hc
  rw [he]
  exact ⟨_, tget_tset_same .., rfl, rfl, rfl⟩

theorem endContext_sterling (hc : (s.ctx? c).isSome = true) : ∃ x, (s.endContext c).closed.getLast? = some x ∧ x.closed = true ∧
    ∀ i, s.kinship.ctx c = some i → x.ctx = i.2 := by
  obtain ⟨u, x, hu, hx, he⟩ := endContext_open hc
  have hk : s.kinship.ctx c = some x.identity := by
    have h : u.kinship.ctx c = s.kinship.ctx c := by rw [hu, kinship_leave]; rfl
    exact h.symm.trans (congrArg (Option.map Context.identity) hx)
  obtain ⟨y, hl, hcl, hy⟩ := last_closeSterling { u with
    copies := tfilter u.copies fun _ y => y.ctx != c, mats := u.mats.filter (·.ctx != c), atoms := u.atoms.filter (·.ctx != c),
    caSteps := u.caSteps.filter (·.ctx != c), frames := u.frames.filter (·.ctx != c), decs := u.decs.filter (·.ctx != c),
    pubPending := u.pubPending.filter (·.ctx != c), cores := tmap u.cores fun _ k => k.forget c } { x.sterling with closed := true, time := u.refTime }
  refine ⟨y, (congrArg (fun t => t.closed.getLast?) he).trans hl, hcl, fun i hi => hy.trans ?_⟩
  exact congrArg Prod.snd (Option.some.inj (hk.symm.trans hi))

/-- A launch of the context is among those that end. -/
theorem launchesOf_context {k : Kinship} {i : Nat} {l : Launch} (h : (i, l) ∈ k.launches) (hl : l.ctx = c) : k.launchesOf (fun l => l.ctx == c) i :=
  List.contains_iff_mem.mpr (List.mem_map.mpr ⟨(i, l), List.mem_filter.mpr ⟨h, beq_iff_eq.mpr hl⟩, rfl⟩)

/-- No launch of the context is left, no team of such a launch and no group of such a team. -/
theorem endContext_launches (hc : (s.ctx? c).isSome = true) {t : State} (ht : t.kinship = (s.endContext c).kinship) : (∀ x ∈ t.launches, x.2.ctx ≠ c) ∧
    (∀ x ∈ t.teams, ∀ l, (x.2.launch, l) ∈ s.kinship.launches → l.ctx ≠ c) ∧
    ∀ x ∈ t.groups, ∀ i l, s.kinship.teams (x.2.team, i) → (i, l) ∈ s.kinship.launches → l.ctx ≠ c := by
  obtain ⟨n, hn⟩ := kinship_endContext hc
  have hk := ht.trans hn
  refine ⟨fun x hx hl => ?_, fun x hx l hm hl => ?_, fun x hx i l hi hm hl => ?_⟩
  · rw [launches_of_kinship hk] at hx
    obtain ⟨hm, hq⟩ := List.mem_filter.mp hx
    have hin : ((tfilter s.launches fun _ l => l.ctx == c).map (·.1)).contains x.1 = true :=
      launchesOf_context (k := s.kinship) (i := x.1) (l := x.2) hm hl
    exact Bool.noConfusion (hq.symm.trans (congrArg (!·) hin))
  · have hr : t.kinship.teams (x.1, x.2.launch) := ⟨x.2, hx, rfl⟩
    rw [hk] at hr
    exact hr.2 ⟨_, hr.1, launchesOf_context hm hl⟩
  · have hr : t.kinship.groups (x.1, x.2.team) := ⟨x.2, hx, rfl⟩
    rw [hk] at hr
    exact hr.2 ⟨_, hi, launchesOf_context hm hl⟩

end

/-! ### A fatal fault -/

section
variable {s : State} {c : Nat} {r : Record}

theorem outline_countFault (s : State) (c : Nat) (r : Record) : (s.countFault c r).outline = s.outline := by
  unfold State.countFault
  split
  · split
    · rfl
    · exact outline_countFailed ..
  · rfl

theorem ctx?_isSome_of_kinship {t : State} (h : t.kinship = s.kinship) : (t.ctx? c).isSome = (s.ctx? c).isSome := by
  have hn : t.ctx? c = none ↔ s.ctx? c = none := by rw [ctx?_eq_none, ctx?_eq_none, h]
  rw [Bool.eq_iff_iff, Option.isSome_iff_ne_none, Option.isSome_iff_ne_none, ne_eq, ne_eq, hn]

/-- A fatal fault of a live context counts and posts, takes its queues to FAULTED and ends it. -/
theorem contextFault_live (hc : (s.ctx? c).isSome = true) : ∃ u : State, u.outline = s.outline ∧
    s.contextFault c r = { (forAll State.faultQueue u (s.queuesOf c)).endContext c with
      freeCtr := ((forAll State.faultQueue u (s.queuesOf c)).endContext c).freeCtr + 1 } := by
  have h1 := outline_countFault s c r
  refine ⟨(((s.countFault c r).evqPost c { r with kind := 1 }).pfeqPost { r with kind := 3 }),
    (outline_pfeqPost ..).trans ((outline_evqPost ..).trans h1), ?_⟩
  have hq : (((s.countFault c r).evqPost c { r with kind := 1 }).pfeqPost { r with kind := 3 }).queuesOf c = s.queuesOf c := by
    have e (u : State) : u.queuesOf c = u.outline.queues.filterMap fun (key, q) =>
      if q.state != .disabled && q.context == c then some (key / 1024, key % 1024) else none := rfl
    rw [e, outline_pfeqPost, outline_evqPost, h1, ← e]
  obtain ⟨x, hx⟩ := Option.isSome_iff_exists.mp ((ctx?_isSome_of_kinship (c := c) (kinship_of_outline h1)).trans hc)
  rw [← hq]
  unfold State.contextFault
  rw [if_pos hc]
  unfold State.contextLost
  simp only [hx]

end

/-- Settles O20: until the context ends nothing but queues, counts and records change, and the end takes away what belongs to it. -/
theorem fatalEndsTheContext : Obligations.FatalEndsTheContext := by
  unfold Obligations.FatalEndsTheContext
  refine ⟨fun s h c addr threads pc hf => ⟨if_pos hf, rfl, rfl, rfl, rfl, rfl, rfl, rfl, rfl, rfl, rfl, rfl, rfl, rfl⟩, fun s c r hc => ?_⟩
  intro t
  obtain ⟨u, hu, he⟩ := contextFault_live (r := r) hc
  obtain ⟨hk, hd⟩ := faultAll_outcome u (s.queuesOf c)
  replace hk := hk.trans (kinship_of_outline hu)
  have hqs (f q : Nat) : ((forAll State.faultQueue u (s.queuesOf c)).endContext c).queue f q = (forAll State.faultQueue u (s.queuesOf c)).queue f q :=
    queue_of_host (host_endContext ..) f q
  have hfault {f q : Nat} (hm : (f, q) ∈ s.queuesOf c) (h : (s.queue f q).state = .active ∨ (s.queue f q).state = .error) :
      ((forAll State.faultQueue u (s.queuesOf c)).queue f q).state = .faulted :=
    faultAll_faults hm (by rw [queue_of_outline hu]; exact h.imp_right .inl)
  generalize forAll State.faultQueue u (s.queuesOf c) = v at he hk hqs hfault
  have hv := (ctx?_isSome_of_kinship hk).trans hc
  obtain ⟨hnone, hcleared⟩ := endContext_context hv
  obtain ⟨hcopies, hmats, hatoms, hsteps, hframes, hdecs, hpub⟩ := endContext_work hv
  obtain ⟨x, hlast, hclosed, hctx⟩ := endContext_sterling hv
  obtain ⟨hlaunches, hteams, hgroups⟩ := endContext_launches hv (t := { v.endContext c with freeCtr := (v.endContext c).freeCtr + 1 }) rfl
  rw [hk] at hctx hteams hgroups
  rw [show t = _ from he]
  refine ⟨hnone, hcleared, hcopies, hmats, hatoms, hsteps, hframes, hdecs, hpub, ⟨x, hlast, hclosed, fun y hy => ?_⟩, hlaunches, hteams, ?_, ?_⟩
  · exact hctx y.identity (congrArg (Option.map Context.identity) hy)
  · exact fun z hz y l hy hl => hgroups z hz y.launch l ⟨y, hy, rfl⟩ hl
  · exact fun f q hm h => (congrArg Queue.state (hqs f q)).trans (hfault hm h)

end Sys2Proof.Machine
end

section
/-!
SUPPORT. Refutes O56 (StepRunsTheDecodedInstruction).
-/

namespace Sys2Proof.Machine

open Sys2Proof

/-- A group of two splits at words that are no instructions. Split 0 has come to its issue limit and may not issue before cycle 5; split 1
waits for it at a merge point. The context's event queue lies in a granule under repair. The move is an issue of split 1. -/
def watchedIssue : State :=
  let s := State.reset.withFetchWord 32 0xFE000000
  { s with
    sched := [Move.on 0 0 1 none],
    mem := writeLe s.mem 0x40000008 4 0xFE000000,
    ctxs := tset s.ctxs 0 { Context.none with live := true, incarn := 1, root := 0x1000, evqBase := 0x20000000 },
    hbm := tset s.hbm 0 { s.stack 0 with copying := some (.granule (granuleOf 0x60000000)) },
    groups := tset s.groups 0 { startGroup fetchLaunch 2 0 none 0 with
      splits := [{ Split.start 4 0xFF with issues := 2 ^ 24, nextIssue := 5 }, Split.start 8 0xFF00, Split.empty, Split.empty] } }

/-- The state in which the issue begins, and that after the core's cycle has ended. -/
def watchedMove : State := State.pass { watchedIssue with sched := [], cur := (Move.on 0 0 1 none).cur } 0
def watchedEnd : State := watchedMove.endCycle watchedMove.cur.core []

/-- Split 0 of group 0 has stopped. -/
def State.firstStopped (s : State) : Bool := (tget s.groups 0).any fun g => (g.split 0).trap.isSome

/-- The attempt leads to a state that meets a range under repair. -/
def Attempt.meetsRepair (a : Attempt) : Bool := match a.result with | .next t => t.repairWait | _ => false

/-- A step has not stopped split 0. -/
def firstRuns : Host.Outcome State Fault Refusal → Bool
  | .next t => !t.firstStopped
  | _ => false

theorem watchedEnd_site : (watchedEnd.site?.any fun h => !(watchedEnd.splitReady h && h.noticed) &&
    (watchedEnd.chosen h.core h.entry h.ix []).any Attempt.meetsRepair) = true := by decide +kernel

theorem watchedEnd_stopped : (watchedEnd.putOff (Move.on 0 0 1 none)).firstStopped = true := by decide +kernel

theorem watchedIssue_runs : firstRuns (step watchedIssue) = true := by decide +kernel

theorem bounded_meetsRepair {s : State} {m : Move} {a : Attempt} (h : a.meetsRepair = true) : bounded s m a.result = .next (s.putOff m) := by
  unfold Attempt.meetsRepair at h
  split at h
  next t ht => rw [ht, bounded, if_pos h]
  next => cases h

/-- Refutes O56: a move that meets a range under repair is put off as it was before its core's cycle ended, so that the stop of a split whose
watchdog acted at the end of that cycle is undone, too. -/
theorem not_stepRunsTheDecodedInstruction : ¬Obligations.StepRunsTheDecodedInstruction := by
  unfold Obligations.StepRunsTheDecodedInstruction
  rintro ⟨hmove, -⟩
  obtain ⟨-, -, hissue⟩ := hmove watchedIssue (Move.on 0 0 1 none) [] rfl
  obtain ⟨h, hs, hp⟩ := (Option.any_eq_true _ _).mp watchedEnd_site
  simp only [Bool.and_eq_true, Bool.not_eq_true'] at hp
  obtain ⟨hn, hp⟩ := hp
  obtain ⟨a, ha, hr⟩ := (Option.any_eq_true _ _).mp hp
  obtain ⟨-, hstep⟩ := (hissue rfl h hs).2 hn |>.1 a ha
  have he : step watchedIssue = .next (watchedEnd.putOff (Move.on 0 0 1 none)) := hstep.trans (bounded_meetsRepair hr)
  have hrun := watchedIssue_runs
  rw [he] at hrun
  exact Bool.noConfusion ((congrArg (!·) watchedEnd_stopped).symm.trans hrun)

end Sys2Proof.Machine
end

section
/-!
SUPPORT. For O60 (StepKeepsTheMemories): what it means that a computation keeps the canonical form of the memories, and how computations that
do are put together.
-/

namespace Sys2Proof.Machine

open Sys2Proof

/-- Where the computation succeeds, the state in its result has its memories in form. -/
structure Keeps {ε α : Type} (π : α → State) (r : Except ε α) : Prop where
  wf : ∀ x, r = .ok x → (π x).memWf

/-- The same of a computation that may have no result. -/
structure KeepsSome {α : Type} (π : α → State) (r : Option α) : Prop where
  wf : ∀ x, r = some x → (π x).memWf

/-- Where the computation is refused, the state that this leads to has its memories in form. -/
structure ErrWf {α : Type} (r : Except State α) : Prop where
  err : ∀ t, r = .error t → t.memWf

/-- Both. -/
structure KeepsBoth {α : Type} (π : α → State) (r : Except State α) : Prop extends ErrWf r where
  wf : ∀ x, r = .ok x → (π x).memWf

/-- The next state of an outcome, if any, has its memories in form. -/
structure NextWf (r : Host.Outcome State Fault Refusal) : Prop where
  wf : ∀ t, r = .next t → t.memWf

section
variable {ε α β : Type} {π : α → State}

theorem keeps_ok {x : α} (h : (π x).memWf) : Keeps π (.ok x : Except ε α) := ⟨fun _ e => Except.ok.inj e ▸ h⟩

theorem keeps_state {x : State} (h : x.memWf) : Keeps id (.ok x : Except ε State) := keeps_ok h

theorem keeps_error {e : ε} : Keeps π (.error e : Except ε α) := ⟨fun _ h => by cases h⟩

theorem keeps_bind {r : Except ε β} {f : β → Except ε α} (h : ∀ x, r = .ok x → Keeps π (f x)) : Keeps π (r >>= f) := by
  cases r with
  | error e => exact keeps_error
  | ok x => exact h x rfl

theorem keeps_map {r : Except ε β} {f : β → α} (h : ∀ x, r = .ok x → (π (f x)).memWf) : Keeps π (r.map f) := by
  cases r with
  | error e => exact keeps_error
  | ok x => exact keeps_ok (h x rfl)

theorem keeps_engineError {π : α → State} {e : Cause} {a : Nat} : Keeps π (engineError e a) := keeps_error

theorem keepsSome_some {x : α} (h : (π x).memWf) : KeepsSome π (some x) := ⟨fun _ e => Option.some.inj e ▸ h⟩

theorem keepsSome_state {x : State} (h : x.memWf) : KeepsSome id (some x) := keepsSome_some h

theorem keepsSome_none : KeepsSome π (none : Option α) := ⟨fun _ h => by cases h⟩

theorem keepsSome_bind {r : Option β} {f : β → Option α} (h : ∀ x, r = some x → KeepsSome π (f x)) : KeepsSome π (r.bind f) := by
  cases r with
  | none => exact keepsSome_none
  | some x => exact h x rfl

theorem keepsSome_map {r : Option β} {f : β → α} (h : ∀ x, r = some x → (π (f x)).memWf) : KeepsSome π (r.map f) := by
  cases r with
  | none => exact keepsSome_none
  | some x => exact keepsSome_some (h x rfl)

theorem keepsSome_mapState {r : Option β} {f : β → State} (h : ∀ x, r = some x → (f x).memWf) : KeepsSome id (r.map f) := keepsSome_map h

theorem keeps_mapState {r : Except ε β} {f : β → State} (h : ∀ x, r = .ok x → (f x).memWf) : Keeps id (r.map f) := keeps_map h

theorem errWf_ok {x : α} : ErrWf (.ok x) := ⟨fun _ h => by cases h⟩

theorem errWf_error {t : State} (h : t.memWf) : ErrWf (.error t : Except State α) := ⟨fun _ e => Except.error.inj e ▸ h⟩

theorem errWf_bind {r : Except State β} {f : β → Except State α} (hr : ErrWf r) (h : ∀ x, r = .ok x → ErrWf (f x)) : ErrWf (r >>= f) := by
  cases r with
  | error e => exact errWf_error (hr.err e rfl)
  | ok x => exact h x rfl

theorem keepsBoth_ok {x : α} (h : (π x).memWf) : KeepsBoth π (.ok x) := { errWf_ok with wf := fun _ e => Except.ok.inj e ▸ h }

theorem keepsBoth_state {x : State} (h : x.memWf) : KeepsBoth id (.ok x) := keepsBoth_ok h

theorem keepsBoth_error {t : State} (h : t.memWf) : KeepsBoth π (.error t : Except State α) :=
  { errWf_error h with wf := fun _ h => by cases h }

theorem keepsBoth_bind {r : Except State β} {f : β → Except State α} (hr : ErrWf r) (h : ∀ x, r = .ok x → KeepsBoth π (f x)) :
    KeepsBoth π (r >>= f) := by
  cases r with
  | error e => exact keepsBoth_error (hr.err e rfl)
  | ok x => exact h x rfl

end

theorem nextWf_next {t : State} (h : t.memWf) : NextWf (.next t) := ⟨fun _ e => Host.Outcome.next.inj e ▸ h⟩

theorem nextWf_fault {e : Fault} : NextWf (.fault e) := ⟨fun _ h => by cases h⟩

theorem nextWf_refused {e : Refusal} : NextWf (.refused e) := ⟨fun _ h => by cases h⟩

/-- A fold that carries something along with the state. -/
theorem memWf_foldl_fst {α β : Type} {f : State × β → α → State × β} (hf : ∀ r x, r.1.memWf → (f r x).1.memWf) {r : State × β} (h : r.1.memWf)
    (l : List α) : (l.foldl f r).1.memWf := by
  induction l generalizing r with
  | nil => exact h
  | cons x l ih => exact ih (hf r x h)

theorem memWf_getD {s : State} (h : s.memWf) {r : Option State} (hr : KeepsSome id r) : (r.getD s).memWf := by
  cases r with
  | none => exact h
  | some t => exact hr.wf t rfl

theorem memWf_ite {p : Prop} [Decidable p] {a b : State} (ha : a.memWf) (hb : b.memWf) : State.memWf (if p then a else b) := by
  split
  · exact ha
  · exact hb

theorem memWf_of_snd {α : Type} {x : α × State} {a : α} {t : State} (h : x.2.memWf) (e : x = (a, t)) : t.memWf := by
  rw [e] at h; exact h

theorem memWf_of_fst {α : Type} {x : State × α} {a : α} {t : State} (h : x.1.memWf) (e : x = (t, a)) : t.memWf := by
  rw [e] at h; exact h

/-- A fold of an operation that keeps the form keeps it. -/
theorem memWf_foldl {α : Type} {f : State → α → State} (hf : ∀ s x, s.memWf → (f s x).memWf) {s : State} (h : s.memWf)
    (l : List α) : (l.foldl f s).memWf := memWf_forAll hf h l

end Sys2Proof.Machine
end

section
/-!
SUPPORT. For O60: the operations on the state, up to the causes that a split takes, keep the canonical form of the memories.
-/

namespace Sys2Proof.Machine

open Sys2Proof

theorem memWf_setDie {s : State} (h : s.memWf) (d : Nat) (x : Die) : (s.setDie d x).memWf := h

theorem memWf_setCore {s : State} (h : s.memWf) (c : Nat) (x : Core) : (s.setCore c x).memWf := h

theorem memWf_setFunc {s : State} (h : s.memWf) (f : Nat) (x : Func) : (s.setFunc f x).memWf := h

theorem memWf_setStack {s : State} (h : s.memWf) (i : Nat) (x : Stack) : (s.setStack i x).memWf := h

theorem memWf_setQueue {s : State} (h : s.memWf) (f q : Nat) (x : Queue) : (s.setQueue f q x).memWf := h

theorem memWf_setGroup {s : State} (h : s.memWf) (c e : Nat) (g : Group) : (s.setGroup c e g).memWf := h

theorem memWf_setTeam {s : State} (h : s.memWf) (i : Nat) (t : Team) : (s.setTeam i t).memWf := h

theorem memWf_setLaunch {s : State} (h : s.memWf) (i : Nat) (l : Launch) : (s.setLaunch i l).memWf := h

theorem memWf_setCtx {s : State} (h : s.memWf) (c : Nat) (x : Context) : (s.setCtx c x).memWf := h

theorem memWf_endCopies {s : State} (h : s.memWf) : s.endCopies.memWf := by
  unfold State.endCopies
  exact memWf_forAll (fun s x h => memWf_repairDone h ..) h _

theorem memWf_wakeTeam {s : State} (h : s.memWf) (team off : Nat) (old : Bool) : (s.wakeTeam team off old).memWf := h

theorem memWf_modCtx {s : State} (h : s.memWf) (c : Nat) (f : Context → Context) : (s.modCtx c f).memWf := by
  unfold State.modCtx
  split <;> exact h

theorem memWf_addCount {s : State} (h : s.memWf) (part i n : Nat) : (s.addCount part i n).memWf := by
  unfold State.addCount
  split <;> exact h

theorem memWf_countWeak {s : State} (h : s.memWf) (a : Acc) : (s.countWeak a).memWf := by
  unfold State.countWeak
  exact memWf_countCorrected h ..

theorem memWf_countWalk {s : State} (h : s.memWf) (a : Acc) : (s.countWalk a).memWf := by
  unfold State.countWalk
  exact memWf_countCorrected h ..

theorem memWf_countBad {s : State} (h : s.memWf) (a : Nat) : (s.countBad a).memWf := h

theorem memWf_countUncorrAt {s : State} (h : s.memWf) (ctx va n : Nat) : (s.countUncorrAt ctx va n).memWf := by
  unfold State.countUncorrAt
  split <;> exact h

theorem memWf_countFailed {s : State} (h : s.memWf) (ctx va n : Nat) (c : Cause) : (s.countFailed ctx va n c).memWf := by
  unfold State.countFailed
  simp only
  split
  · exact memWf_countUncorrAt (memWf_countCorrected h ..) ..
  · exact memWf_countCorrected h ..
  · exact memWf_countCorrected h ..
  · exact h

theorem memWf_settleOthers {s : State} (h : s.memWf) (a : Acc) : (s.settleOthers a).memWf := by
  unfold State.settleOthers
  exact memWf_flushQueues h ..

theorem memWf_msix {s : State} (h : s.memWf) (fn vec : Nat) : (s.msix fn vec).memWf := h

theorem memWf_evqDrop {s : State} (h : s.memWf) (c : Nat) (x : Context) : (s.evqDrop c x).memWf := by
  have h1 := memWf_modCtx h c fun x => { x with evOverflow := true }
  unfold State.evqDrop
  simp only
  generalize s.modCtx c (fun x => { x with evOverflow := true }) = u at h1 ⊢
  have h2 : (match u.loadVa c 0 false (x.evqBase.toNat + 64 * 2 ^ x.evqLog) 4 with
      | .error e => (x.evWr.toNat, u.countFailed c (x.evqBase.toNat + 64 * 2 ^ x.evqLog) 4 e)
      | .ok (bs, s1) => (leNat bs % 2 ^ 31, s1)).2.memWf := by
    split
    · exact memWf_countFailed h1 ..
    · exact memWf_loadVa h1 ‹_›
  split
  · exact memWf_countFailed h2 ..
  · exact memWf_storeVa h2 ‹_›

theorem memWf_evqPost {s : State} (h : s.memWf) (c : Nat) (r : Record) : (s.evqPost c r).memWf := by
  unfold State.evqPost
  split
  · exact h
  · simp only
    split
    · refine memWf_evqDrop ?_ ..
      refine memWf_countFailed ?_ ..
      exact h
    · split
      · refine memWf_evqDrop ?_ ..
        refine memWf_loadVa ?_ ‹_›
        exact h
      · split
        · refine memWf_evqDrop ?_ ..
          refine memWf_countFailed ?_ ..
          refine memWf_loadVa ?_ ‹_›
          exact h
        · split
          · refine memWf_evqDrop ?_ ..
            refine memWf_countFailed ?_ ..
            refine memWf_loadVa ?_ ‹_›
            exact h
          · refine memWf_msix ?_ ..
            refine memWf_modCtx ?_ ..
            refine memWf_storeVa ?_ ‹_›
            refine memWf_storeVa ?_ ‹_›
            refine memWf_loadVa ?_ ‹_›
            exact h

theorem memWf_pfeqPost {s : State} (h : s.memWf) (r : Record) : (s.pfeqPost r).memWf := by
  unfold State.pfeqPost
  simp only
  split
  · exact h
  · split
    · refine memWf_writeHost ?_ ..
      exact h
    · refine memWf_msix ?_ ..
      refine memWf_writeHost ?_ ..
      refine memWf_writeHost ?_ ..
      exact h

theorem memWf_ringWrite {s : State} (h : s.memWf) (msg : List Byte) : (s.ringWrite msg).memWf := by
  unfold State.ringWrite
  simp only
  split <;> exact h

theorem memWf_event {s : State} (h : s.memWf) (code : Nat) (body : List Byte) : (s.event code body).memWf := by
  unfold State.event
  simp only
  split
  · refine memWf_ringWrite ?_ ..
    exact h
  · split <;> exact h

theorem memWf_qcbCount {s : State} (h : s.memWf) (f q off n : Nat) : (s.qcbCount f q off n).memWf := by
  unfold State.qcbCount
  simp only
  split
  · split
    · exact h
    · split
      · exact h
      · refine memWf_countCorrected ?_ ..
        exact h
  · split
    · exact h
    · split
      · exact h
      · refine memWf_countCorrected ?_ ..
        exact h

theorem memWf_showAs {s : State} (h : s.memWf) (grant : Option (Word32 × Byte)) (a2 : Nat) (f : Team → Nat → Group → Resid) :
    (s.showAs grant a2 f).memWf := by
  unfold State.showAs
  split <;> exact h

theorem memWf_showTeam {s : State} (h : s.memWf) (grant : Option (Word32 × Byte)) (a2 : Nat) : (s.showTeam grant a2).memWf := by
  unfold State.showTeam
  exact memWf_showAs h ..

theorem memWf_showSpill {s : State} (h : s.memWf) (grant : Option (Word32 × Byte)) (a2 : Nat) : (s.showSpill grant a2).memWf := by
  unfold State.showSpill
  exact memWf_showAs h ..

theorem memWf_giveMatrix {s : State} (h : s.memWf) (c a2 : Nat) (grant : Option (Word32 × Byte)) : (s.giveMatrix c a2 grant).memWf := by
  unfold State.giveMatrix
  simp only
  split
  · exact h
  · split
    · refine memWf_showSpill ?_ ..
      exact h
    · exact h

theorem memWf_passOwner {s : State} (h : s.memWf) (c : Nat) (grant : optParam (Option (Word32 × Byte)) none) : (s.passOwner c grant).memWf := by
  unfold State.passOwner
  split
  · exact memWf_giveMatrix h ..
  · exact h

theorem memWf_endHolds {s : State} (h : s.memWf) (c : Nat) (gone : List (Nat × Nat)) : (s.endHolds c gone).memWf := h

theorem memWf_absorb {s : State} (h : s.memWf) (hit : Nat → Bool) (a2 : Nat) (t : Team) (c : Nat) : (s.absorb hit a2 t c).memWf := h

theorem memWf_afterLeave {s : State} (h : s.memWf) (gone : List (Nat × Nat)) (c : Nat) : (s.afterLeave gone c).memWf := by
  unfold State.afterLeave
  refine memWf_passOwner ?_ ..
  exact h

theorem memWf_beginContext {s : State} (h : s.memWf) (c root evqBase evqLog evqVec : Nat) : (s.beginContext c root evqBase evqLog evqVec).memWf := h

theorem memWf_closeSterling {s : State} (h : s.memWf) (r : Sterling) : (s.closeSterling r).memWf := by
  unfold State.closeSterling
  split <;> exact h

theorem memWf_dropTeams {s : State} (h : s.memWf) (p : Nat → Team → Bool) : (s.dropTeams p).memWf := by
  unfold State.dropTeams
  simp only
  refine memWf_forAll (fun s x h => ?_) ?_ _
  · refine memWf_afterLeave ?_ ..
    exact h
  · refine memWf_forAll (fun s x h => ?_) ?_ _
    · refine memWf_forAll (fun s x h => ?_) ?_ _
      · exact h
      · exact h
    · exact h

theorem memWf_heapNote {s : State} (h : s.memWf) (ctx die units event : Nat) : (s.heapNote ctx die units event).memWf := by
  unfold State.heapNote
  exact memWf_modCtx h ..

theorem memWf_noteFree {s : State} (h : s.memWf) (f : Frame) : (s.noteFree f).memWf := by
  unfold State.noteFree
  exact memWf_heapNote h ..

theorem memWf_dropFrames {s : State} (h : s.memWf) (ids : List Nat) : (s.dropFrames ids).memWf := by
  unfold State.dropFrames
  simp only
  exact memWf_forAll (fun s x h => memWf_noteFree h ..) h _

theorem memWf_dropLaunches {s : State} (h : s.memWf) (p : Launch → Bool) : (s.dropLaunches p).memWf := by
  unfold State.dropLaunches
  have hd := memWf_dropFrames (memWf_dropTeams h fun _ t => ((tfilter s.launches fun _ l => p l).map (·.1)).contains t.launch)
    ((tfilter s.launches fun _ l => p l).map (·.1))
  exact hd

theorem memWf_writeSampleCount {s : State} (h : s.memWf) (c : Nat) : (s.writeSampleCount c).memWf := by
  unfold State.writeSampleCount
  simp only
  split
  · exact h
  · split
    · exact memWf_storeVa h ‹_›
    · exact memWf_countFailed h ..

theorem memWf_reply {s : State} (h : s.memWf) (req : List Byte) (status : Nat) (body : List Byte) : (s.reply req status body).memWf := h

theorem memWf_writePackets {s : State} (h : s.memWf) (l : List Acc) (bs : List Byte) : (writePackets l bs s).memWf := by
  induction l generalizing bs s with
  | nil => exact h
  | cons a r ih => exact ih (memWf_poke h ..) _

theorem memWf_endFinalise {s : State} (h : s.memWf) (c : Nat) : (s.endFinalise c).memWf := by
  unfold State.endFinalise
  split
  · exact h
  · split
    · simp only
      exact memWf_reply (memWf_writePackets h ..) ..
    · exact h

theorem memWf_endContext {s : State} (h : s.memWf) (c : Nat) : (s.endContext c).memWf := by
  cases hc : s.ctx? c with
  | none => rw [endContext_gone hc]; exact h
  | some y =>
    obtain ⟨u, x, hu, -, he⟩ := endContext_open (Option.isSome_of_eq_some hc)
    have hm : u.memWf := hu ▸ memWf_dropLaunches (memWf_writeSampleCount (memWf_endFinalise h c) c) _
    rw [he]
    refine memWf_setCtx (memWf_closeSterling ?_ _) c _
    exact hm

theorem memWf_queueError {s : State} (h : s.memWf) (f q : Nat) (code : Byte) (tag packet : Word32) (addr : Word64) :
    (s.queueError f q code tag packet addr).memWf := by
  unfold State.queueError
  simp only
  exact memWf_evqPost (memWf_setQState h ..) ..

theorem memWf_discard {s : State} (h : s.memWf) (f : Nat) (counted : Bool) : (s.discard f counted).memWf := by
  unfold State.discard
  split <;> exact h

theorem memWf_ring {s : State} (h : s.memWf) (f : Nat) (counted : Bool) (v : Word64) : (s.ring f counted v).memWf := by
  unfold State.ring
  simp only
  split
  · refine memWf_discard ?_ ..
    exact h
  · split
    · exact h
    · split
      · refine memWf_discard ?_ ..
        exact h
      · split
        · exact h
        · split
          · refine memWf_queueError ?_ ..
            exact h
          · split
            · refine memWf_queueError ?_ ..
              exact h
            · exact h

theorem memWf_finishHandover {s : State} (h : s.memWf) (f qi : Nat) : (s.finishHandover f qi).memWf := by
  unfold State.finishHandover
  simp only
  split
  · exact h
  · refine memWf_forAll (fun s x h => ?_) ?_ _
    · refine memWf_ring ?_ ..
      exact h
    · exact h

theorem memWf_cancelHandover {s : State} (h : s.memWf) (f qi : Nat) : (s.cancelHandover f qi).memWf := by
  unfold State.cancelHandover
  simp only
  split
  · exact h
  · refine memWf_forAll (fun s x h => ?_) ?_ _
    · refine memWf_discard ?_ ..
      exact h
    · exact h

theorem memWf_faultQueue {s : State} (h : s.memWf) (fq : Nat × Nat) : (s.faultQueue fq).memWf := by
  unfold State.faultQueue
  simp only
  split
  · exact memWf_setQState (memWf_setQueue (memWf_finishHandover h ..) ..) ..
  · exact memWf_finishHandover h ..

theorem memWf_countFault {s : State} (h : s.memWf) (c : Nat) (r : Record) : (s.countFault c r).memWf := by
  unfold State.countFault
  split
  · split
    · exact h
    · exact memWf_countFailed h ..
  · exact h

theorem memWf_contextLost {s : State} (h : s.memWf) (c : Nat) (r : Record) : (s.contextLost c r).memWf := by
  unfold State.contextLost
  split
  · exact h
  · simp only
    refine memWf_endContext ?_ ..
    refine memWf_forAll (fun s x h => ?_) ?_ _
    · refine memWf_faultQueue ?_ ..
      exact h
    · refine memWf_pfeqPost ?_ ..
      refine memWf_evqPost ?_ ..
      exact h

theorem memWf_contextFault {s : State} (h : s.memWf) (c : Nat) (r : Record) : (s.contextFault c r).memWf := by
  unfold State.contextFault
  split
  · exact memWf_contextLost (memWf_countFault h ..) ..
  · exact h

theorem memWf_engineStop {s : State} (h : s.memWf) (ctx team : Nat) (pc : Word64) (cause : Cause) (addr : Nat) :
    (s.engineStop ctx team pc cause addr).memWf := by
  unfold State.engineStop
  simp only
  exact memWf_contextFault h ..

theorem memWf_modGroup {s : State} (h : s.memWf) (y : Site) (f : Group → Group) : (s.modGroup y f).memWf := by
  unfold State.modGroup
  split <;> exact h

theorem memWf_modSplit {s : State} (h : s.memWf) (y : Site) (f : Split → Split) : (s.modSplit y f).memWf := by
  unfold State.modSplit
  exact memWf_modGroup h ..

theorem memWf_retire {s : State} (h : s.memWf) (y : Site) : (s.retire y).memWf := by
  unfold State.retire
  simp only
  exact memWf_modGroup h ..

theorem memWf_goto {s : State} (h : s.memWf) (y : Site) (pc : Word64) : (s.goto y pc).memWf := by
  unfold State.goto
  exact memWf_retire (memWf_modSplit h ..) ..

theorem memWf_advance {s : State} (h : s.memWf) (y : Site) : (s.advance y).memWf := by
  unfold State.advance
  exact memWf_goto h ..

theorem memWf_drain {s : State} (h : s.memWf) (y : Site) : (s.drain y).memWf := by
  unfold State.drain
  exact memWf_modSplit h ..

theorem memWf_stopSplit {s : State} (h : s.memWf) (y : Site) (c : Cause) (addr threads pc : Word64) : (s.stopSplit y c addr threads pc).memWf := by
  unfold State.stopSplit
  simp only
  refine memWf_setCore ?_ ..
  refine memWf_modSplit ?_ ..
  exact h

theorem memWf_raise {s : State} (h : s.memWf) (y : Site) (c : Cause) (addr threads pc : Word64) : (s.raise y c addr threads pc).memWf := by
  unfold State.raise
  split
  · exact memWf_contextFault h ..
  · exact memWf_stopSplit h ..

theorem memWf_leaveUndefined {s : State} (h : s.memWf) (y : Site) : (s.leaveUndefined y).memWf := by
  unfold State.leaveUndefined
  simp only
  exact memWf_modGroup h ..

theorem keeps_perform {s : State} (h : s.memWf) (x : Site) {body : Site → Except Stop State} (hb : ∀ x, Keeps id (body x)) :
    Keeps id (x.perform s body) := by
  have hu {t : State} (ht : t.memWf) : (t.leaveUndefined x).memWf := memWf_leaveUndefined ht x
  unfold Site.perform
  split
  · split
    · exact keeps_error
    · split
      · exact keeps_ok (memWf_advance (hu h) x)
      · split
        next e => exact keeps_ok (hu ((hb _).wf _ e))
        · exact keeps_error
  · exact hb x

theorem nextWf_issueWhole {s : State} (h : s.memWf) {body : Site → Except Stop State} (hb : ∀ x, Keeps id (body x)) :
    NextWf (issueWhole s body) := by
  unfold issueWhole
  split
  · exact nextWf_refused
  next x _ =>
    split
    · exact nextWf_refused
    split
    · exact nextWf_next h
    split
    · exact nextWf_next (memWf_raise h ..)
    split
    next e => exact nextWf_next ((hb x).wf _ e)
    · exact nextWf_next h
    · exact nextWf_next (memWf_raise h ..)

theorem nextWf_issue {s : State} (h : s.memWf) {body : Site → Except Stop State} (hb : ∀ x, Keeps id (body x)) : NextWf (issue s body) :=
  nextWf_issueWhole h fun x => keeps_perform h x hb

theorem memWf_takeNotice {s : State} (h : s.memWf) (y : Site) : (s.takeNotice y).memWf := by
  unfold State.takeNotice
  simp only
  split
  · split
    · exact memWf_raise h ..
    · exact memWf_modSplit (memWf_modGroup h ..) ..
  · split
    · exact memWf_raise h ..
    · exact memWf_modSplit (memWf_modGroup h ..) ..

end Sys2Proof.Machine
end

section
/-!
SUPPORT. For O60: control transfer, accesses, atomics and deques keep the canonical form of the memories.
-/

namespace Sys2Proof.Machine

open Sys2Proof

theorem memWf_noticeReturn {s : State} (h : s.memWf) (y : Site) (pc : Word64) : (s.noticeReturn y pc).memWf := by
  unfold State.noticeReturn
  exact memWf_drain (memWf_goto (memWf_modGroup h ..) ..) ..

theorem memWf_boundaries {s : State} (h : s.memWf) : s.boundaries.memWf := h

theorem memWf_writeElems {s : State} (h : s.memWf) (y : Site) (ty : BitVec 5) (d : Nat) (ts : List Nat) (f : Nat → Word64) :
    (s.writeElems y ty d ts f).memWf := by
  unfold State.writeElems
  exact memWf_modGroup h ..

theorem memWf_writeV {s : State} (h : s.memWf) (y : Site) (d : Nat) (ts : List Nat) (f : Nat → Word32) : (s.writeV y d ts f).memWf := by
  unfold State.writeV
  exact memWf_modGroup h ..

theorem memWf_writeK {s : State} (h : s.memWf) (y : Site) (d : Nat) (x : Word64) : (s.writeK y d x).memWf := by
  unfold State.writeK
  exact memWf_modGroup h ..

theorem memWf_writeP {s : State} (h : s.memWf) (y : Site) (d : Nat) (ts : List Nat) (f : Nat → Bool) : (s.writeP y d ts f).memWf := by
  unfold State.writeP
  exact memWf_modGroup h ..

theorem memWf_setFrame {s : State} (h : s.memWf) (f : Frame) : (s.setFrame f).memWf := by
  unfold State.setFrame
  split <;> exact h

theorem keeps_newFrame {s : State} (h : s.memWf) (ctx die size depth : Nat) (retire : Word32) (parent creator : Word64) (isLaunch : Bool)
    (launch : Nat) :
    KeepsSome Prod.fst (s.newFrame ctx die size depth retire parent creator isLaunch launch) := by
  unfold State.newFrame
  split
  · exact keepsSome_none
  · simp only
    refine keepsSome_some ?_
    simp only
    split
    · exact memWf_setFrame (memWf_chargeHbm (memWf_heapNote (memWf_setFrame h ..) ..) ..) ..
    · exact memWf_chargeHbm (memWf_heapNote (memWf_setFrame h ..) ..) ..

theorem memWf_formGroup {s : State} (h : s.memWf) (die n : Nat) (b : Bin) : (s.formGroup die n b).memWf := by
  unfold State.formGroup
  split <;> exact h

theorem memWf_pool {s : State} (h : s.memWf) (die launch : Nat) (rec : List Byte) (core : Option Nat) : (s.pool die launch rec core).memWf := by
  unfold State.pool
  split
  · exact h
  · simp only
    split
    · refine memWf_formGroup ?_ ..
      exact h
    · exact h

theorem memWf_formFull {s : State} (h : s.memWf) (launch width n : Nat) : (State.formFull launch width n s).memWf := by
  induction n generalizing s with
  | zero => exact h
  | succ n ih =>
    unfold State.formFull
    split
    · exact ih (memWf_formGroup h ..)
    · exact h

theorem memWf_freeFrame {s : State} (h : s.memWf) (f : Frame) : (s.freeFrame f).memWf := by
  unfold State.freeFrame
  simp only
  split <;> exact memWf_noteFree (memWf_setFrame h ..) ..

theorem memWf_settleFrame {s : State} (h : s.memWf) (f : Frame) : (s.settleFrame f).memWf := by
  unfold State.settleFrame
  split
  · split
    · exact memWf_freeFrame h ..
    · simp only
      exact memWf_setDie (memWf_setFrame h ..) ..
  · exact memWf_setFrame h ..

theorem memWf_finishBody {s : State} (h : s.memWf) (f : Frame) : (s.finishBody f).memWf := by
  unfold State.finishBody
  split
  · exact h
  · exact memWf_settleFrame h ..

theorem memWf_decLive {s : State} (h : s.memWf) (d : FrameDec) : (s.decLive d).memWf := by
  unfold State.decLive
  split
  · split
    · exact h
    · exact memWf_settleFrame h ..
  · exact h

theorem memWf_takeDec {s : State} (h : s.memWf) (i : Nat) : (s.takeDec i).memWf := by
  unfold State.takeDec
  split
  · refine memWf_decLive ?_ ..
    exact h
  · exact h

theorem memWf_takeJoin {s : State} (h : s.memWf) (die : Nat) : (s.takeJoin die).memWf := by
  unfold State.takeJoin
  simp only
  split
  · split
    · refine memWf_pool ?_ ..
      exact h
    · exact h
  · exact h

theorem memWf_runDecs {s : State} (h : s.memWf) (ctx n : Nat) : (State.runDecs ctx n s).memWf := by
  induction n generalizing s with
  | zero => exact h
  | succ n ih =>
    unfold State.runDecs
    split
    · exact ih (memWf_takeDec h ..)
    · split
      · exact ih (memWf_takeJoin h ..)
      · exact h

theorem memWf_endTurnFrames {s : State} (h : s.memWf) (y : Site) : (s.endTurnFrames y).memWf := by
  unfold State.endTurnFrames
  split
  · simp only
    exact memWf_formFull (memWf_runDecs h ..) ..
  · exact h

theorem memWf_tryArrive {s : State} (h : s.memWf) (key : Nat) : (s.tryArrive key).memWf := by
  unfold State.tryArrive
  split
  · exact h
  · split
    · simp only
      refine memWf_updateWord ?_ ..
      exact h
    · exact h

theorem memWf_parkSplit {s : State} (h : s.memWf) (y : Site) (p : Park) : (s.parkSplit y p).memWf := by
  unfold State.parkSplit
  simp only
  exact memWf_retire (memWf_modGroup h ..) ..

theorem memWf_freeLatch {s : State} (h : s.memWf) (c : Nat) (p : Latch → Bool) : (s.freeLatch c p).memWf := h

theorem memWf_teamLeaves {s : State} (h : s.memWf) (a1 : Nat) : (s.teamLeaves a1).memWf := by
  unfold State.teamLeaves
  split
  · exact h
  · simp only
    refine memWf_forAll (fun s x h => ?_) ?_ _
    · refine memWf_afterLeave ?_ ..
      exact h
    · refine memWf_forAll (fun s x h => ?_) ?_ _
      · exact h
      · exact h

theorem memWf_endLaunchFrame {s : State} (h : s.memWf) (lid : Nat) : (s.endLaunchFrame lid).memWf := by
  unfold State.endLaunchFrame
  split
  · exact h
  · split
    · split
      · exact memWf_finishBody h ..
      · exact h
    · exact h

theorem memWf_groupLeaves {s : State} (h : s.memWf) (key : Nat) : (s.groupLeaves key).memWf := by
  unfold State.groupLeaves
  split
  · exact h
  · simp only
    split
    · exact h
    · split
      · refine memWf_endLaunchFrame ?_ ..
        refine memWf_teamLeaves ?_ ..
        exact h
      · exact h

theorem memWf_finishBodies {s : State} (h : s.memWf) (fs : List Frame) : (s.finishBodies fs).memWf := by
  unfold State.finishBodies
  refine memWf_forAll (fun s x h => ?_) ?_ _
  · split
    · exact memWf_finishBody h ..
    · exact h
  · exact h

theorem memWf_exitSplit {s : State} (h : s.memWf) (y : Site) : (s.exitSplit y).memWf := by
  unfold State.exitSplit
  simp only
  split
  · refine memWf_modGroup ?_ ..
    refine memWf_finishBodies ?_ ..
    exact h
  · refine memWf_endTurnFrames ?_ ..
    split
    · refine memWf_groupLeaves ?_ ..
      refine memWf_modGroup ?_ ..
      refine memWf_finishBodies ?_ ..
      exact h
    · refine memWf_tryArrive ?_ ..
      refine memWf_modGroup ?_ ..
      refine memWf_finishBodies ?_ ..
      exact h

theorem memWf_late {s : State} (h : s.memWf) (y : Site) (rs : List (Dest × Word64)) (ty : BitVec 5) : (s.late y rs ty).memWf := by
  unfold State.late
  simp only
  split <;> exact memWf_modGroup h ..

theorem keeps_loadOp {s : State} (h : s.memWf) (ok acquire : Bool) (d a : BitVec 8) (va : Site → Nat → Except Stop (Word64 × Acc)) :
    NextWf (loadOp s ok acquire d a va) := by
  unfold loadOp
  refine nextWf_issue h fun x => ?_
  refine keeps_bind fun x e => ?_
  refine keeps_bind fun x e => ?_
  refine keeps_bind fun x e => ?_
  refine keeps_bind fun x e => ?_
  simp only
  split <;> exact keeps_bind fun _ _ => keeps_bind fun _ _ => keeps_bind fun _ _ =>
    keeps_state (memWf_advance (memWf_late (memWf_readAll h ..) ..) ..)

theorem keeps_storeOp {s : State} (h : s.memWf) (ok release : Bool) (d a : BitVec 8) (va : Site → Nat → Except Stop (Word64 × Acc)) :
    NextWf (storeOp s ok release d a va) := by
  unfold storeOp
  refine nextWf_issue h fun x => ?_
  refine keeps_bind fun x e => ?_
  refine keeps_bind fun x e => ?_
  refine keeps_bind fun x e => ?_
  simp only
  split <;> exact keeps_bind fun _ _ => keeps_bind fun _ _ => keeps_bind fun _ _ => keeps_state (memWf_advance (memWf_storeAll h ..) ..)

theorem keeps_execLd {s : State} (h : s.memWf) (e : BitVec 1) (d a : BitVec 8) (b : BitVec 6) : NextWf (execLd e d a b s) := by
  unfold execLd
  exact keeps_loadOp h ..

theorem keeps_execSt {s : State} (h : s.memWf) (e : BitVec 1) (d a : BitVec 8) (b : BitVec 6) : NextWf (execSt e d a b s) := by
  unfold execSt
  exact keeps_storeOp h ..

theorem keeps_execLda {s : State} (h : s.memWf) (c : BitVec 3) (d a : BitVec 8) (b : BitVec 6) : NextWf (execLda c d a b s) := by
  unfold execLda
  exact keeps_loadOp h ..

theorem keeps_execStl {s : State} (h : s.memWf) (c : BitVec 3) (d a : BitVec 8) (b : BitVec 6) : NextWf (execStl c d a b s) := by
  unfold execStl
  exact keeps_storeOp h ..

theorem keeps_execLds {s : State} (h : s.memWf) (d a i : BitVec 8) : NextWf (execLds d a i s) := by
  unfold execLds
  exact keeps_loadOp h ..

theorem keeps_execSts {s : State} (h : s.memWf) (d a i : BitVec 8) : NextWf (execSts d a i s) := by
  unfold execSts
  exact keeps_storeOp h ..

theorem keeps_execLdk {s : State} (h : s.memWf) (m : BitVec 1) (d a : BitVec 6) (i : BitVec 8) : NextWf (execLdk m d a i s) := by
  unfold execLdk
  exact nextWf_issue h fun x => keeps_bind fun _ _ => keeps_bind fun _ _ => keeps_bind fun _ _ =>
    keeps_state (memWf_advance (memWf_late (memWf_readAll h ..) ..) ..)

theorem keeps_execStk {s : State} (h : s.memWf) (m : BitVec 1) (d a : BitVec 6) (i : BitVec 8) : NextWf (execStk m d a i s) := by
  unfold execStk
  exact nextWf_issue h fun x => keeps_bind fun _ _ => keeps_bind fun _ _ => keeps_state (memWf_advance (memWf_storeAll h ..) ..)

theorem keeps_execLwait {s : State} (h : s.memWf) (n : BitVec 6) : NextWf (execLwait n s) := by
  unfold execLwait
  refine nextWf_issue h fun x => ?_
  split
  · exact keeps_error
  · exact keeps_state (memWf_advance (memWf_modGroup h ..) ..)

theorem keeps_execPref {s : State} (h : s.memWf) (a : BitVec 8) (_b : BitVec 6) : NextWf (execPref a _b s) := by
  unfold execPref
  exact nextWf_issue h fun x => keeps_bind fun _ _ => keeps_state (memWf_advance h ..)

theorem memWf_putSlot {s : State} (h : s.memWf) (ctx : Nat) (hd : Word64) (i : Nat) (x : Word64) : (s.putSlot ctx hd i x).memWf := by
  unfold State.putSlot
  split
  · exact memWf_setFrame h ..
  · exact h

theorem memWf_chargeSlots {s : State} (h : s.memWf) (y : Site) (fs : List Frame) : (s.chargeSlots y fs).memWf := by
  unfold State.chargeSlots
  simp only
  exact memWf_chargeHbm h ..

theorem keeps_execLdf {s : State} (h : s.memWf) (d : BitVec 8) (k : BitVec 2) (slot : BitVec 8) : NextWf (execLdf d k slot s) := by
  unfold execLdf
  refine nextWf_issue h fun x => ?_
  refine keeps_bind fun x e => ?_
  refine keeps_bind fun x e => ?_
  refine keeps_bind fun x e => ?_
  refine keeps_bind fun x e => ?_
  refine keeps_bind fun x e => ?_
  refine keeps_bind fun x e => ?_
  simp only
  exact keeps_state (memWf_advance (memWf_late (memWf_chargeSlots h ..) ..) ..)

theorem keeps_execLdfk {s : State} (h : s.memWf) (d : BitVec 6) (k : BitVec 2) (slot : BitVec 8) : NextWf (execLdfk d k slot s) := by
  unfold execLdfk
  exact nextWf_issue h fun x => keeps_bind fun _ _ => keeps_bind fun _ _ => keeps_bind fun _ _ =>
    keeps_state (memWf_advance (memWf_late (memWf_chargeSlots h ..) ..) ..)

theorem keeps_execStf {s : State} (h : s.memWf) (d : BitVec 8) (k : BitVec 2) (slot : BitVec 8) : NextWf (execStf d k slot s) := by
  unfold execStf
  exact nextWf_issue h fun x => keeps_bind fun _ _ => keeps_bind fun _ _ => keeps_bind fun _ _ => keeps_bind fun _ _ => keeps_bind fun _ _ =>
    keeps_state (memWf_advance (memWf_forAll (fun s x h => memWf_putSlot h ..) (memWf_chargeSlots h ..) _) ..)

theorem keeps_branchOn {s : State} (h : s.memWf) (y : Site) (target take : Word64) : Keeps id (branchOn s y target take) := by
  unfold branchOn
  split
  · exact keeps_error
  · simp only
    split
    · exact keeps_state (memWf_advance h ..)
    · split
      · exact keeps_state (memWf_goto h ..)
      · split
        · exact keeps_error
        · split
          · exact keeps_error
          · exact keeps_state (memWf_retire (memWf_modGroup h ..) ..)

theorem keeps_branch {s : State} (h : s.memWf) (x : Site) (target take : Word64) : Keeps id (branch s x target take) := by
  unfold branch
  split
  · split
    · exact keeps_error
    · exact keeps_branchOn h ..
  · exact keeps_branchOn h ..

theorem keeps_transfer {s : State} (h : s.memWf) (y : Site) (t : Word64) (link : Option (BitVec 6)) : Keeps id (transfer s y t link) := by
  unfold transfer
  split
  · exact keeps_error
  · simp only
    refine keeps_state ?_
    refine memWf_drain ?_ ..
    refine memWf_goto ?_ ..
    split
    · exact memWf_writeK h ..
    · exact h

theorem keeps_dispatchEntry {s : State} (h : s.memWf) (y : Site) (a : BitVec 6) : Keeps Prod.snd (dispatchEntry s y a) := by
  unfold dispatchEntry
  split
  · exact keeps_ok h
  · split
    · exact keeps_error
    · split
      · exact keeps_error
      · exact keeps_error
      · refine keeps_ok ?_
        simp only
        exact memWf_readAll h ..

theorem keeps_writeMode {s : State} (h : s.memWf) (y : Site) (m : Word32) : Keeps id (writeMode s y m) := by
  unfold writeMode
  split
  · exact keeps_error
  · exact keeps_state (memWf_drain (memWf_advance (memWf_modSplit h ..) ..) ..)

theorem keeps_stopAfter {s : State} (h : s.memWf) (y : Site) (c : Cause) : Keeps id (stopAfter s y c) := by
  unfold stopAfter
  split
  · exact keeps_error
  · exact keeps_state (memWf_raise h ..)

theorem keeps_regionEdge {s : State} (h : s.memWf) (y : Site) (a2 : Option Word16) (stk : List Word16) : Keeps id (regionEdge s y a2 stk) := by
  unfold regionEdge
  simp only
  split
  · exact keeps_stopAfter (memWf_modGroup h ..) ..
  · exact keeps_state (memWf_advance (memWf_modGroup h ..) ..)

theorem keeps_execNop {s : State} (h : s.memWf) : NextWf (execNop s) := by
  unfold execNop
  exact nextWf_issue h fun x => keeps_state (memWf_advance h ..)

theorem keeps_execUnassignedOpcode {s : State} (h : s.memWf) (_w : Word32) : NextWf (execUnassignedOpcode _w s) := by
  unfold execUnassignedOpcode
  split
  · exact nextWf_refused
  · split
    · exact nextWf_refused
    · split
      · exact nextWf_next h
      · exact nextWf_next (memWf_raise h ..)

theorem keeps_execBr {s : State} (h : s.memWf) (o : BitVec 24) : NextWf (execBr o s) := by
  unfold execBr
  exact nextWf_issueWhole h fun x => keeps_branch h ..

theorem keeps_execBrp {s : State} (h : s.memWf) (p : BitVec 3) (o : BitVec 16) : NextWf (execBrp p o s) := by
  unfold execBrp
  exact nextWf_issueWhole h fun x => keeps_branch h ..

theorem keeps_execBrn {s : State} (h : s.memWf) (p : BitVec 3) (o : BitVec 16) : NextWf (execBrn p o s) := by
  unfold execBrn
  exact nextWf_issueWhole h fun x => keeps_branch h ..

theorem keeps_execBruNz {s : State} (h : s.memWf) (k : BitVec 6) (o : BitVec 16) : NextWf (execBruNz k o s) := by
  unfold execBruNz
  exact nextWf_issueWhole h fun x => keeps_branch h ..

theorem keeps_execBruZ {s : State} (h : s.memWf) (k : BitVec 6) (o : BitVec 16) : NextWf (execBruZ k o s) := by
  unfold execBruZ
  exact nextWf_issueWhole h fun x => keeps_branch h ..

theorem keeps_execCall {s : State} (h : s.memWf) (d : BitVec 6) (o : BitVec 16) : NextWf (execCall d o s) := by
  unfold execCall
  exact nextWf_issue h fun x => keeps_transfer h ..

theorem keeps_execCallt {s : State} (h : s.memWf) (d a : BitVec 6) : NextWf (execCallt d a s) := by
  unfold execCallt
  refine nextWf_issue h fun x => ?_
  refine keeps_bind fun x e => ?_
  split
  · exact keeps_transfer ((keeps_dispatchEntry h ..).wf _ ‹_›) ..

theorem keeps_execJmpt {s : State} (h : s.memWf) (a : BitVec 6) : NextWf (execJmpt a s) := by
  unfold execJmpt
  refine nextWf_issue h fun x => ?_
  refine keeps_bind fun x e => ?_
  split
  · exact keeps_transfer ((keeps_dispatchEntry h ..).wf _ ‹_›) ..

theorem keeps_execRet {s : State} (h : s.memWf) (a : BitVec 6) : NextWf (execRet a s) := by
  unfold execRet
  exact nextWf_issue h fun x => keeps_transfer h ..

theorem keeps_execExit {s : State} (h : s.memWf) : NextWf (execExit s) := by
  unfold execExit
  refine nextWf_issue h fun x => ?_
  split
  · exact keeps_error
  · exact keeps_state (memWf_exitSplit h ..)

theorem keeps_execYield {s : State} (h : s.memWf) : NextWf (execYield s) := by
  unfold execYield
  refine nextWf_issue h fun x => ?_
  simp only
  exact keeps_state (memWf_modSplit (memWf_advance (memWf_modGroup h ..) ..) ..)

theorem keeps_execBrk {s : State} (h : s.memWf) (_c : BitVec 16) : NextWf (execBrk _c s) := by
  unfold execBrk
  exact nextWf_issue h fun x => keeps_stopAfter h ..

theorem keeps_execTrap {s : State} (h : s.memWf) (_c : BitVec 16) : NextWf (execTrap _c s) := by
  unfold execTrap
  exact nextWf_issue h fun x => keeps_stopAfter h ..

theorem keeps_execNret {s : State} (h : s.memWf) : NextWf (execNret s) := by
  unfold execNret
  refine nextWf_issue h fun x => ?_
  simp only
  split
  · exact keeps_error
  · exact keeps_state (memWf_noticeReturn h ..)

theorem keeps_execNchk {s : State} (h : s.memWf) (o : BitVec 24) : NextWf (execNchk o s) := by
  unfold execNchk
  refine nextWf_issue h fun x => ?_
  simp only
  split
  · exact keeps_error
  · split
    · exact keeps_state (memWf_goto (memWf_modGroup h ..) ..)
    · exact keeps_state (memWf_advance h ..)

theorem keeps_execEnter {s : State} (h : s.memWf) (i : BitVec 16) : NextWf (execEnter i s) := by
  unfold execEnter
  exact nextWf_issue h fun x => keeps_regionEdge h ..

theorem keeps_execLeave {s : State} (h : s.memWf) : NextWf (execLeave s) := by
  unfold execLeave
  exact nextWf_issue h fun x => keeps_regionEdge h ..

theorem keeps_execMode {s : State} (h : s.memWf) (m : BitVec 5) (v : BitVec 12) : NextWf (execMode m v s) := by
  unfold execMode
  refine nextWf_issue h fun x => ?_
  simp only
  exact keeps_writeMode h ..

theorem keeps_execModeGd {s : State} (h : s.memWf) (n : BitVec 3) (sense en : BitVec 1) : NextWf (execModeGd n sense en s) := by
  unfold execModeGd
  exact nextWf_issue h fun x => keeps_writeMode h ..

theorem keeps_execModr {s : State} (h : s.memWf) (a : BitVec 6) : NextWf (execModr a s) := by
  unfold execModr
  exact nextWf_issue h fun x => keeps_writeMode h ..

theorem keeps_execRsr {s : State} (h : s.memWf) (d n : BitVec 8) : NextWf (execRsr d n s) := by
  unfold execRsr
  refine nextWf_issue h fun x => ?_
  split
  · exact keeps_error
  · split
    · exact keeps_bind fun _ _ => keeps_state (memWf_advance (memWf_writeV h ..) ..)
    · exact keeps_state (memWf_advance (memWf_writeK h ..) ..)

theorem keeps_execWsr {s : State} (h : s.memWf) (a : BitVec 6) (n : BitVec 8) : NextWf (execWsr a n s) := by
  unfold execWsr
  refine nextWf_issue h fun x => ?_
  split
  · exact keeps_error
  · simp only
    exact keeps_state (memWf_drain (memWf_advance (memWf_modGroup h ..) ..) ..)

theorem memWf_takeMatrix {s : State} (h : s.memWf) (a1 c : Nat) : (s.takeMatrix a1 c).memWf := by
  unfold State.takeMatrix
  split
  · exact memWf_giveMatrix h ..
  · exact h

theorem memWf_startTeam {s : State} (h : s.memWf) (lid : Nat) (l : Launch) (index : Nat) (f : Option Formed) (bs : List Berth) :
    (s.startTeam lid l index f bs).memWf := by
  unfold State.startTeam
  simp only
  refine memWf_setQueue ?_ ..
  refine memWf_forAll (fun s x h => ?_) ?_ _
  · refine memWf_takeMatrix ?_ ..
    exact h
  · refine memWf_forAll (fun s x h => ?_) ?_ _
    · exact h
    · exact h

theorem memWf_settleHost {s : State} (h : s.memWf) (a : Acc) : (s.settleHost a).memWf := by
  unfold State.settleHost
  exact memWf_flushQueues h ..

theorem memWf_atomNow {s : State} (h : s.memWf) (y : Site) (op : Nat) (d : BitVec 8) (ret : Bool) (p : Piece) : (atomNow y op d ret s p).memWf := by
  unfold atomNow
  split
  · split
    · split
      · exact memWf_modGroup (memWf_of_snd (memWf_atomStep h ..) ‹_›) ..
      · exact memWf_of_snd (memWf_atomStep h ..) ‹_›

theorem keeps_atomOp {s : State} (h : s.memWf) (ret : Bool) (d a : BitVec 8) (o : BitVec 4) (sc : BitVec 3) : NextWf (atomOp s ret d a o sc) := by
  unfold atomOp
  refine nextWf_issue h fun x => ?_
  simp only
  refine keeps_bind fun x e => ?_
  refine keeps_bind fun x e => ?_
  refine keeps_bind fun x e => ?_
  refine keeps_bind fun x e => ?_
  split
  · refine keeps_bind fun x e => ?_
    refine keeps_bind fun x e => ?_
    split
    · exact keeps_error
    · split
      · split
        · exact keeps_error
        · refine keeps_state ?_
          refine memWf_advance ?_ ..
          refine memWf_forAll (fun s x h => ?_) ?_ _
          · refine memWf_atomNow ?_ ..
            exact h
          · exact h
      · refine keeps_state ?_
        refine memWf_advance ?_ ..
        refine memWf_modGroup ?_ ..
        exact h
  · refine keeps_bind fun x e => ?_
    refine keeps_bind fun x e => ?_
    split
    · exact keeps_error
    · split
      · split
        · exact keeps_error
        · refine keeps_state ?_
          refine memWf_advance ?_ ..
          refine memWf_forAll (fun s x h => ?_) ?_ _
          · refine memWf_atomNow ?_ ..
            exact h
          · exact h
      · refine keeps_state ?_
        refine memWf_advance ?_ ..
        exact h

theorem keeps_execAtom {s : State} (h : s.memWf) (d a : BitVec 8) (o : BitVec 4) (sc : BitVec 3) : NextWf (execAtom d a o sc s) := by
  unfold execAtom
  exact keeps_atomOp h ..

theorem keeps_execAtomr {s : State} (h : s.memWf) (d a : BitVec 8) (o : BitVec 4) (sc : BitVec 3) : NextWf (execAtomr d a o sc s) := by
  unfold execAtomr
  exact keeps_atomOp h ..

theorem memWf_answer {s : State} (h : s.memWf) (key a2 : Nat) (rs : List (Dest × Word64)) : (s.answer key a2 rs).memWf := by
  unfold State.answer
  split <;> exact h

theorem memWf_mergeAtoms {s : State} (h : s.memWf) (i j : Nat) (a b : AtomReq) : (s.mergeAtoms i j a b).memWf := by
  unfold State.mergeAtoms
  simp only
  split <;> exact h

theorem memWf_runAtom {s : State} (h : s.memWf) (i : Nat) (a : AtomReq) : (s.runAtom i a).memWf := by
  unfold State.runAtom
  split
  · exact memWf_engineStop h ..
  · split
    · exact h
    · split
      next old u e =>
        have hu : u.memWf := by
          split at e
          · cases e; exact h
          · exact memWf_of_snd (memWf_atomStep h ..) e
        simp only
        split
        · refine memWf_answer ?_ ..
          exact hu
        · exact hu

theorem keeps_execAtomicAtEngine {s : State} (h : s.memWf) (i j : Nat) : NextWf (execAtomicAtEngine i j s) := by
  unfold execAtomicAtEngine
  split
  · split
    · exact nextWf_next (memWf_mergeAtoms h ..)
    · split
      · exact nextWf_next (memWf_runAtom h ..)
      · exact nextWf_next h
  · exact nextWf_next h

theorem keeps_execLoadComplete {s : State} (h : s.memWf) : NextWf (execLoadComplete s) := by
  unfold execLoadComplete
  split
  · exact nextWf_next h
  · split
    · exact nextWf_next h
    · split
      · exact nextWf_next h
      · simp only
        exact nextWf_next h

theorem memWf_putHeader {s : State} (h : s.memWf) (q : Deque) (top bottom : Word64) : (s.putHeader q top bottom).memWf := by
  unfold State.putHeader
  exact memWf_poke (memWf_countWeak h ..) ..

theorem memWf_headerRead {s : State} (h : s.memWf) (y : Site) (va : Word64) : (s.headerRead y va).memWf := by
  unfold State.headerRead
  split
  · split
    · exact memWf_afterRead h ..
    · exact h
  · exact h

theorem keeps_stopAfterRead {s : State} (h : s.memWf) (y : Site) (a : Stop) : Keeps id (Site.stopAfter y s a) := by
  unfold Site.stopAfter
  split
  · exact keeps_error
  · split
    · exact keeps_error
    · exact keeps_state (memWf_raise h ..)

theorem keeps_pushStep {s : State} (h : s.memWf) (y : Site) (va v : Word64) (found : Except Stop Deque) :
    Keeps Prod.snd (pushStep s y va v found) := by
  unfold pushStep
  split
  · exact keeps_error
  · split
    · refine keeps_ok ?_
      simp only
      exact memWf_afterRead h ..
    · split
      · refine keeps_ok ?_
        simp only
        exact memWf_afterRead h ..
      · split
        · exact keeps_error
        · refine keeps_ok ?_
          simp only
          exact memWf_putHeader (memWf_poke h ..) ..

theorem keeps_takeStep {s : State} (h : s.memWf) (y : Site) (va : Word64) (steal : Bool) : Keeps Prod.snd (takeStep s y va steal) := by
  unfold takeStep
  split
  · exact keeps_error
  · split
    · refine keeps_ok ?_
      simp only
      exact memWf_afterRead h ..
    · simp only
      split
      · exact keeps_error
      · refine keeps_ok ?_
        simp only
        split <;> exact memWf_putHeader (memWf_afterRead h ..) ..

theorem keeps_execDqpush {s : State} (h : s.memWf) (d a : BitVec 6) (c : BitVec 3) : NextWf (execDqpush d a c s) := by
  unfold execDqpush
  refine nextWf_issue h fun x => ?_
  refine keeps_bind fun x e => ?_
  refine keeps_bind fun x e => ?_
  simp only
  split
  · refine keeps_state ?_
    split
    · exact memWf_advance ((keeps_pushStep h ..).wf _ ‹_›) ..
    · exact memWf_parkSplit ((keeps_pushStep h ..).wf _ ‹_›) ..
  · exact keeps_stopAfterRead (memWf_headerRead h ..) ..

theorem keeps_takeOp {s : State} (h : s.memWf) (steal : Bool) (d a : BitVec 6) (c : BitVec 3) : NextWf (takeOp s steal d a c) := by
  unfold takeOp
  refine nextWf_issue h fun x => ?_
  refine keeps_bind fun x e => ?_
  refine keeps_bind fun x e => ?_
  refine keeps_bind fun x e => ?_
  split
  · refine keeps_state ?_
    refine memWf_advance ?_ ..
    refine memWf_late ?_ ..
    refine (keeps_takeStep ?_ ..).wf _ ‹_›
    exact h
  · refine keeps_stopAfterRead ?_ ..
    refine memWf_headerRead ?_ ..
    exact h

theorem keeps_execDqpop {s : State} (h : s.memWf) (d a : BitVec 6) (c : BitVec 3) : NextWf (execDqpop d a c s) := by
  unfold execDqpop
  exact keeps_takeOp h ..

theorem keeps_execDqsteal {s : State} (h : s.memWf) (d a : BitVec 6) (c : BitVec 3) : NextWf (execDqsteal d a c s) := by
  unfold execDqsteal
  exact keeps_takeOp h ..

end Sys2Proof.Machine
end

section
/-!
SUPPORT. For O60: barriers, frames, copies and Electrum steps keep the canonical form of the memories.
-/

namespace Sys2Proof.Machine

open Sys2Proof

theorem keeps_execDqpushRetry {s : State} (h : s.memWf) : NextWf (execDqpushRetry s) := by
  unfold execDqpushRetry
  split
  · exact nextWf_next h
  · split
    · split
      · exact nextWf_next (memWf_modSplit ((keeps_pushStep h ..).wf _ ‹_›) ..)
      · exact nextWf_next h
      · exact nextWf_next h
      · refine nextWf_next ?_
        split
        · exact memWf_modSplit h ..
        · exact memWf_raise (memWf_headerRead h ..) ..
    · exact nextWf_next h

theorem memWf_useWord {s : State} (h : s.memWf) (y : Site) (off : Nat) : (s.useWord y off).memWf := by
  unfold State.useWord
  exact memWf_modTeam h ..

theorem memWf_rephase {s : State} (h : s.memWf) (team off : Nat) : (s.rephase team off).memWf := h

theorem keeps_execBari {s : State} (h : s.memWf) (d a : BitVec 6) (e : BitVec 1) : NextWf (execBari d a e s) := by
  unfold execBari
  refine nextWf_issue h fun x => ?_
  refine keeps_bind fun x e => ?_
  refine keeps_bind fun x e => ?_
  split
  · simp only
    refine keeps_state ?_
    refine memWf_advance ?_ ..
    split
    · exact memWf_rephase (memWf_modTeam (memWf_useWord h ..) ..) ..
    · exact memWf_modTeam (memWf_useWord h ..) ..

theorem keeps_execBarr {s : State} (h : s.memWf) (d a : BitVec 6) : NextWf (execBarr d a s) := by
  unfold execBarr
  refine nextWf_issue h fun x => ?_
  refine keeps_bind fun x e => ?_
  refine keeps_bind fun x e => ?_
  refine keeps_bind fun x e => ?_
  split
  · exact keeps_state (memWf_advance (memWf_late (memWf_useWord h ..) ..) ..)

theorem keeps_execBarw {s : State} (h : s.memWf) (d a : BitVec 6) : NextWf (execBarw d a s) := by
  unfold execBarw
  refine nextWf_issue h fun x => ?_
  refine keeps_bind fun x e => ?_
  refine keeps_bind fun x e => ?_
  split
  · simp only
    split
    · exact keeps_state (memWf_advance (memWf_useWord h ..) ..)
    · exact keeps_state (memWf_parkSplit (memWf_useWord h ..) ..)

theorem keeps_execBara {s : State} (h : s.memWf) (a : BitVec 6) : NextWf (execBara a s) := by
  unfold execBara
  refine nextWf_issue h fun x => ?_
  refine keeps_bind fun x e => ?_
  refine keeps_bind fun x e => ?_
  split
  · exact keeps_state (memWf_tryArrive (memWf_parkSplit (memWf_useWord h ..) ..) ..)

theorem keeps_execBarx {s : State} (h : s.memWf) (d a : BitVec 6) : NextWf (execBarx d a s) := by
  unfold execBarx
  refine nextWf_issue h fun x => ?_
  refine keeps_bind fun x e => ?_
  refine keeps_bind fun x e => ?_
  split
  · simp only
    exact keeps_state (memWf_tryArrive (memWf_parkSplit (memWf_modTeam (memWf_useWord h ..) ..) ..) ..)

theorem keeps_execFence {s : State} (h : s.memWf) (c : BitVec 3) : NextWf (execFence c s) := by
  unfold execFence
  exact nextWf_issue h fun x => keeps_bind fun _ _ => keeps_bind fun _ _ => keeps_state (memWf_advance h ..)

theorem keeps_execPub {s : State} (h : s.memWf) (a : BitVec 6) : NextWf (execPub a s) := by
  unfold execPub
  refine nextWf_issue h fun x => ?_
  simp only
  exact keeps_bind fun _ _ => keeps_bind fun _ _ => keeps_bind fun _ _ => keeps_bind fun _ _ => keeps_bind fun _ _ => keeps_bind fun _ _ =>
    keeps_state (memWf_advance (memWf_publish h ..) ..)

theorem keeps_execTdef {s : State} (h : s.memWf) (a : BitVec 6) (i : BitVec 8) : NextWf (execTdef a i s) := by
  unfold execTdef
  refine nextWf_issue h fun x => ?_
  simp only
  exact keeps_bind fun _ _ => keeps_bind fun _ _ => keeps_bind fun _ _ =>
    keeps_state (memWf_drain (memWf_advance (memWf_modCtx (memWf_afterRead h ..) ..) ..) ..)

theorem keeps_execTget {s : State} (h : s.memWf) (d : BitVec 6) (w : BitVec 3) (i : BitVec 8) : NextWf (execTget d w i s) := by
  unfold execTget
  exact nextWf_issue h fun x => keeps_bind fun _ _ => keeps_state (memWf_advance (memWf_writeK h ..) ..)

theorem keeps_readChunk {s : State} (h : s.memWf) (u : Agent) (a n : Nat) : Keeps Prod.snd (s.readChunk u a n) := by
  unfold State.readChunk
  split
  · exact keeps_ok h
  · split
    · exact keeps_engineError
    · split
      · exact keeps_error
      · split
        · exact keeps_engineError
        · split
          · exact keeps_engineError
          · refine keeps_ok ?_
            simp only
            exact memWf_afterRead h ..

theorem keeps_readChunks {s : State} (h : s.memWf) (u : Agent) (l : List (Nat × Nat)) : Keeps Prod.snd (readChunks u l s) := by
  induction l generalizing s with
  | nil => exact keeps_ok h
  | cons x r ih =>
    unfold readChunks
    split
    · exact keeps_error
    next bs s1 e =>
      have h1 : s1.memWf := (keeps_readChunk h ..).wf _ e
      split
      · exact keeps_error
      next cs s2 e2 =>
        have h2 : s2.memWf := (ih h1).wf _ e2
        exact keeps_ok h2

theorem keeps_engineRead {s : State} (h : s.memWf) (u : Agent) (va : Word64) (n : Nat) : Keeps Prod.snd (s.engineRead u va n) := by
  unfold State.engineRead
  exact keeps_readChunks h ..

theorem keeps_writeChunk {s : State} (h : s.memWf) (u : Agent) (a : Nat) (bs : List Byte) : Keeps id (s.writeChunk u a bs) := by
  unfold State.writeChunk
  split
  · simp only
    exact keeps_state (memWf_poke h ..)
  · split
    · exact keeps_engineError
    · split
      · exact keeps_error
      · split
        · exact keeps_engineError
        · exact keeps_state (memWf_poke h ..)

theorem keeps_writeChunks {s : State} (h : s.memWf) (u : Agent) (l : List (Nat × Nat)) (bs : List Byte) : Keeps id (writeChunks u l bs s) := by
  induction l generalizing bs s with
  | nil => exact keeps_state h
  | cons x r ih =>
    unfold writeChunks
    split
    · exact keeps_error
    next e => exact ih ((keeps_writeChunk h ..).wf _ e) _

theorem keeps_engineWrite {s : State} (h : s.memWf) (u : Agent) (va : Word64) (bs : List Byte) : Keeps id (s.engineWrite u va bs) := by
  unfold State.engineWrite
  exact keeps_writeChunks h ..

theorem keeps_readSpan {s : State} (h : s.memWf) (u : Agent) (team : Nat) (i : Ident) (p : Span) : Keeps Prod.snd (s.readSpan u team i p) := by
  unfold State.readSpan
  split
  · split <;> exact keeps_ok h
  · exact keeps_engineRead h ..

theorem keeps_readSpans {s : State} (h : s.memWf) (u : Agent) (team : Nat) (i : Ident) (l : List Span) : Keeps Prod.snd (readSpans u team i l s) := by
  induction l generalizing s with
  | nil => exact keeps_ok h
  | cons x r ih =>
    unfold readSpans
    split
    · exact keeps_error
    next bs s1 e =>
      have h1 : s1.memWf := (keeps_readSpan h ..).wf _ e
      split
      · exact keeps_error
      next cs s2 e2 =>
        have h2 : s2.memWf := (ih h1).wf _ e2
        exact keeps_ok h2

theorem keeps_writeSpan {s : State} (h : s.memWf) (u : Agent) (team : Nat) (i : Ident) (p : Span) (bs : List Byte) :
    Keeps id (s.writeSpan u team i p bs) := by
  unfold State.writeSpan
  split
  · exact keeps_state (memWf_modTeam h ..)
  · exact keeps_engineWrite h ..

theorem keeps_writeSpans {s : State} (h : s.memWf) (u : Agent) (team : Nat) (i : Ident) (ps : List Span) (bss : List (List Byte)) :
    Keeps id (writeSpans u team i ps bss s) := by
  induction ps generalizing bss s with
  | nil => exact keeps_state h
  | cons p r ih =>
    cases bss with
    | nil => exact keeps_state h
    | cons bs bss =>
      unfold writeSpans
      split
      · exact keeps_error
      next e => exact ih ((keeps_writeSpan h ..).wf _ e) _

theorem memWf_countCopy {s : State} (h : s.memWf) (ctx n : Nat) : (s.countCopy ctx n).memWf := by
  unfold State.countCopy
  exact memWf_modCtx h ..

theorem keeps_deliverTo {s : State} (h : s.memWf) (c : Copy) (ps : List Span) (bss : List (List Byte)) (ts : List Nat) :
    Keeps id (deliverTo c ps bss ts s) := by
  induction ts generalizing s with
  | nil => exact keeps_state h
  | cons t r ih =>
    unfold deliverTo
    split
    · exact keeps_error
    next s1 e =>
      have h1 : (s1.countCopy c.ctx (spanBytes ps)).memWf := memWf_countCopy ((keeps_writeSpans h ..).wf _ e) ..
      refine ih ?_
      split
      · exact memWf_updateWord h1 ..
      · exact h1

theorem keeps_rowBytes {s : State} (h : s.memWf) (c : Copy) (k : Nat) : Keeps Prod.snd (s.rowBytes c k) := by
  unfold State.rowBytes
  simp only
  split
  · split
    · exact keeps_error
    · exact keeps_ok h
    · split
      · exact keeps_ok h
      · split
        · exact keeps_error
        · split
          · exact keeps_error
          · refine keeps_ok ?_
            simp only
            exact (keeps_readSpans h ..).wf _ ‹_›
  · split
    · exact keeps_error
    · refine keeps_ok ?_
      simp only
      exact (keeps_readSpans h ..).wf _ ‹_›

theorem keeps_deliverReg {s : State} (h : s.memWf) (c : Copy) (toMem : Bool) (k : Nat) : Keeps id (s.deliverReg c toMem k) := by
  unfold State.deliverReg
  split
  · refine keeps_state ?_
    exact h
  · simp only
    split
    · refine keeps_map fun x e => ?_
      refine memWf_countCopy ?_ ..
      refine (keeps_engineWrite ?_ ..).wf _ ‹_›
      exact h
    · split
      · exact keeps_error
      · refine keeps_state ?_
        refine memWf_countCopy ?_ ..
        refine (keeps_engineRead ?_ ..).wf _ ‹_›
        exact h

theorem keeps_deliverRow {s : State} (h : s.memWf) (c : Copy) : Keeps id (s.deliverRow c) := by
  unfold State.deliverRow
  split
  · exact keeps_deliverReg h ..
  · split
    · exact keeps_error
    · split
      · exact keeps_state ((keeps_rowBytes h ..).wf _ ‹_›)
      · exact keeps_deliverTo ((keeps_rowBytes h ..).wf _ ‹_›) ..

/-- A signal word in the on-chip window, of which every byte is there, is added to. -/
theorem signalWord_window {s : State} {c : Copy} (hz : ¬c.sig = 0) (hw : inWindow c.sig.toNat = true) : s.signalWord c =
    .ok (if ((List.range 8).filterMap fun i => s.windowFor c.agent (c.sig.toNat + i) .both).length = 8 then
      s.updateAt {
        ctx := c.ctx, die := c.engine / 8, locs := (List.range 8).filterMap (fun i => s.windowFor c.agent (c.sig.toNat + i) .both),
        leaf := none, va := c.sig.toNat, q := c.q } (· + 1) else s) := by
  unfold State.signalWord
  rw [if_neg hz, if_pos hw]

theorem keeps_signalWord {s : State} (h : s.memWf) (c : Copy) : Keeps id (s.signalWord c) := by
  by_cases hz : c.sig = 0
  · unfold State.signalWord
    rw [if_pos hz]
    exact keeps_state h
  by_cases hw : inWindow c.sig.toNat = true
  · rw [signalWord_window hz hw]
    exact keeps_state (memWf_ite (memWf_updateAt h ..) h)
  · unfold State.signalWord
    rw [if_neg hz, if_neg hw]
    split
    · exact keeps_error
    split
    · exact keeps_error
    split
    · exact keeps_error
    split
    · exact keeps_error
    · exact keeps_state (memWf_updateAt h ..)

theorem keeps_finishCopy {s : State} (h : s.memWf) (i : Nat) (c : Copy) : Keeps id (s.finishCopy i c) := by
  unfold State.finishCopy
  split
  · exact keeps_error
  next s1 e =>
    have h1 : s1.memWf := (keeps_signalWord h ..).wf _ e
    simp only
    split
    · refine keeps_state ?_; exact h1
    · refine keeps_state ?_; exact h1

theorem memWf_engineStep {s : State} (h : s.memWf) (c : Copy) {r : Except Stop State} (hr : Keeps id r) : (s.engineStep c r).memWf := by
  unfold State.engineStep
  split
  next t => exact hr.wf t rfl
  · exact h
  · exact memWf_engineStop h ..

theorem memWf_dropTree {s : State} (h : s.memWf) (c : Copy) : (s.dropTree c).memWf := by
  unfold State.dropTree
  split <;> exact h

theorem keeps_deliverTree {s : State} (h : s.memWf) (c : Copy) : Keeps id (s.deliverTree c) := by
  unfold State.deliverTree
  split
  · exact keeps_error
  · simp only
    refine keeps_map fun x e => ?_
    exact memWf_chargeHbm (memWf_countCopy ((keeps_engineWrite h ..).wf _ ‹_›) ..) ..

theorem keeps_excuse {c : Copy} {other r : Except Stop State} (ho : Keeps id other) (hr : Keeps id r) : Keeps id (c.excuse other r) := by
  unfold Copy.excuse
  split
  · split
    · exact ho
    · exact keeps_error
  · exact hr

theorem keeps_deliverRows {s : State} (h : s.memWf) (c : Copy) (n : Nat) : Keeps id (deliverRows c n s) := by
  induction n generalizing c s with
  | zero => exact keeps_state h
  | succ n ih =>
    unfold deliverRows
    split
    · exact keeps_error
    next s1 e =>
      have h1 : s1.memWf := (keeps_excuse (keeps_state h) (keeps_deliverRow h c)).wf _ e
      refine ih ?_ _
      exact h1

theorem memWf_copyStep {s : State} (h : s.memWf) (i : Nat) (c : Copy) : (s.copyStep i c).memWf := by
  have ht := keeps_excuse (c := c) (keeps_state h) (keeps_deliverTree h c)
  unfold State.copyStep
  simp only
  split
  · split
    · exact memWf_engineStep (memWf_dropTree h c) c keeps_error
    · exact memWf_engineStep h c (keeps_map fun x e => ht.wf x e)
  · exact memWf_engineStep h c (keeps_map fun x e => (keeps_deliverRows h ..).wf x e)

theorem memWf_copyEnd {s : State} (h : s.memWf) (i : Nat) (c : Copy) : (s.copyEnd i c).memWf := by
  have hr := keeps_excuse (c := c) (keeps_finishCopy h i { c with sig := 0 }) (keeps_finishCopy h i c)
  unfold State.copyEnd
  simp only
  refine memWf_engineStep h c (keeps_map fun x e => ?_)
  have hx : x.memWf := hr.wf x e
  change State.memWf (if _ then _ else _)
  split
  · exact memWf_dropTree hx c
  · exact hx

theorem keeps_execCopyDeliver {s : State} (h : s.memWf) (copy : Nat) : NextWf (execCopyDeliver copy s) := by
  unfold execCopyDeliver
  split
  · split
    · exact nextWf_next (memWf_copyStep h ..)
    · exact nextWf_next h
  · exact nextWf_next h

theorem keeps_execCopyComplete {s : State} (h : s.memWf) (copy : Nat) : NextWf (execCopyComplete copy s) := by
  unfold execCopyComplete
  split
  · split
    · exact nextWf_next h
    · exact nextWf_next (memWf_copyEnd h ..)
  · exact nextWf_next h

theorem memWf_runCopy {s : State} (h : s.memWf) (i n : Nat) : (State.runCopy i n s).memWf := by
  induction n generalizing s with
  | zero => exact h
  | succ n ih =>
    unfold State.runCopy
    split
    · refine ih ?_
      split
      · exact memWf_copyStep h ..
      · exact memWf_copyEnd h ..
    · exact h

theorem keeps_unlessLost {s : State} (h : s.memWf) (x : Site) (r : Except Stop Unit) {go : Except Stop State} (hg : Keeps id go) :
    Keeps id (unlessLost s x r go) := by
  unfold unlessLost
  split
  · exact hg
  · exact keeps_error
  · exact keeps_state (memWf_advance h x)

theorem keeps_startCopy {s : State} (h : s.memWf) (y : Site) (c : Copy) : Keeps id (startCopy s y c) := by
  unfold startCopy
  split
  · refine keeps_state ?_
    refine memWf_advance ?_ ..
    exact h
  · split
    · exact keeps_error
    · simp only
      refine keeps_state ?_
      refine memWf_advance ?_ ..
      split
      · refine memWf_runCopy ?_ ..
        refine memWf_modGroup ?_ ..
        exact h
      · refine memWf_modGroup ?_ ..
        exact h

theorem keeps_copyOp {s : State} (h : s.memWf) (kind : CopyKind) (pair : Bool) (d a b : BitVec 6) (form : (Nat → Word64) → Copy → Copy)
    (own : Site → Copy → Except Stop Unit) :
    NextWf (copyOp s kind pair d a b form own) := by
  unfold copyOp
  refine nextWf_issue h fun x => ?_
  refine keeps_bind fun x e => ?_
  refine keeps_bind fun x e => ?_
  simp only
  exact keeps_bind fun _ _ => keeps_bind fun _ _ => keeps_unlessLost h _ _ (keeps_startCopy h ..)

theorem keeps_execCpy {s : State} (h : s.memWf) (d a b : BitVec 6) : NextWf (execCpy d a b s) := by
  unfold execCpy
  exact keeps_copyOp h ..

theorem keeps_execCpyg {s : State} (h : s.memWf) (d a b : BitVec 6) : NextWf (execCpyg d a b s) := by
  unfold execCpyg
  simp only
  exact keeps_copyOp h ..

theorem keeps_execCpym {s : State} (h : s.memWf) (d a b : BitVec 6) : NextWf (execCpym d a b s) := by
  unfold execCpym
  exact keeps_copyOp h ..

theorem keeps_execCpyo {s : State} (h : s.memWf) (d a b : BitVec 6) : NextWf (execCpyo d a b s) := by
  unfold execCpyo
  exact keeps_copyOp h ..

theorem keeps_execCpyr {s : State} (h : s.memWf) (d a b : BitVec 6) : NextWf (execCpyr d a b s) := by
  unfold execCpyr
  refine nextWf_issue h fun x => ?_
  simp only
  split <;> exact keeps_bind fun _ _ => keeps_bind fun _ _ => keeps_bind fun _ _ => keeps_bind fun _ _ =>
    keeps_unlessLost h _ _ (keeps_startCopy h ..)

theorem keeps_execBclose {s : State} (h : s.memWf) : NextWf (execBclose s) := by
  unfold execBclose
  exact nextWf_issue h fun x => keeps_state (memWf_advance (memWf_modGroup h ..) ..)

theorem keeps_execBwait {s : State} (h : s.memWf) (a : BitVec 6) : NextWf (execBwait a s) := by
  unfold execBwait
  refine nextWf_issue h fun x => ?_
  simp only
  split
  · exact keeps_state (memWf_advance h ..)
  · exact keeps_state (memWf_parkSplit h ..)

theorem keeps_caStepAt {s : State} (h : s.memWf) (c : CaStep) (x : Store) : Keeps Prod.snd (caStepAt s c x) := by
  unfold caStepAt
  simp only
  split
  · split
    · exact keeps_error
    · split
      · exact keeps_error
      · exact keeps_error
      · refine keeps_ok ?_
        simp only
        exact (keeps_engineRead h ..).wf _ ‹_›
  · split
    · exact keeps_ok h
    · exact keeps_error
  · split
    · split
      · exact keeps_ok h
      · exact keeps_error
    · exact keeps_error
  · exact keeps_ok h
  · split
    · exact keeps_ok h
    · exact keeps_error
  · split
    · exact keeps_ok h
    · exact keeps_error
  · split
    · exact keeps_ok h
    · exact keeps_error

theorem memWf_caStop {s : State} (h : s.memWf) (c : CaStep) (e : Cause) (a : Word64) : (s.caStop c e a).memWf := by
  unfold State.caStop
  exact memWf_engineStop h ..

theorem keeps_caRun {s : State} (h : s.memWf) (c : CaStep) : Keeps Prod.snd (s.caRun c) := by
  have hs : Keeps Prod.snd (match tget s.stores c.store with
      | some x => caStepAt s c x
      | none => .error (.cause .tableBound 0 0)) := by
    split
    · exact keeps_caStepAt h ..
    · exact keeps_error
  unfold State.caRun
  split
  · split
    · exact keeps_ok h
    · exact keeps_error
  · exact keeps_error
  next e =>
    refine keeps_ok (memWf_chargeHbm ?_ ..)
    exact hs.wf _ e

theorem keeps_execElectrumStep {s : State} (h : s.memWf) (i : Nat) : NextWf (execElectrumStep i s) := by
  unfold execElectrumStep
  split
  · refine nextWf_next ?_
    exact h
  · split
    · refine nextWf_next ?_
      exact h
    · split
      · refine nextWf_next ?_
        exact h
      · refine nextWf_next ?_
        refine memWf_caStop ?_ ..
        exact h
      · simp only
        split
        · refine nextWf_next ?_
          refine memWf_answer ?_ ..
          refine (keeps_caRun ?_ ..).wf _ ‹_›
          exact h
        · refine nextWf_next ?_
          refine (keeps_caRun ?_ ..).wf _ ‹_›
          exact h

theorem keeps_execCascadeDrop {s : State} (h : s.memWf) (store : Nat) : NextWf (execCascadeDrop store s) := by
  unfold execCascadeDrop
  split
  · split <;> exact nextWf_next h
  · exact nextWf_next h

theorem keeps_caNow {s : State} (h : s.memWf) (y : Site) (c : CaStep) : Keeps id (caNow s y c) := by
  unfold caNow
  split
  · exact keeps_error
  · exact keeps_state (memWf_caStop h ..)
  · simp only
    refine keeps_state ?_
    refine memWf_advance ?_ ..
    refine memWf_late ?_ ..
    split <;> exact (keeps_caRun h ..).wf _ ‹_›

theorem keeps_postCa {s : State} (h : s.memWf) (y : Site) (store : Nat) (op : CaOp) (lost loose : Bool) (into : List (Nat × Nat)) :
    Keeps id (postCa s y store op lost loose into) := by
  unfold postCa
  simp only
  split
  · refine keeps_caNow ?_ ..
    exact h
  · refine keeps_state ?_
    refine memWf_advance ?_ ..
    refine memWf_modGroup ?_ ..
    exact h

theorem keeps_calook {s : State} (h : s.memWf) (interior : Bool) (d a : BitVec 6) (b : BitVec 4) : NextWf (calook s interior d a b) := by
  unfold calook
  refine nextWf_issueWhole h fun x => ?_
  refine keeps_bind fun x e => ?_
  refine keeps_bind fun x e => ?_
  split
  · refine keeps_perform h _ fun x => ?_
    simp only
    exact keeps_bind fun _ _ => keeps_bind fun _ _ => keeps_bind fun _ _ => keeps_postCa h ..

theorem keeps_execCalookLeaf {s : State} (h : s.memWf) (d a : BitVec 6) (b : BitVec 4) : NextWf (execCalookLeaf d a b s) := by
  unfold execCalookLeaf
  exact keeps_calook h ..

theorem keeps_execCalookInt {s : State} (h : s.memWf) (d a : BitVec 6) (b : BitVec 4) : NextWf (execCalookInt d a b s) := by
  unfold execCalookInt
  exact keeps_calook h ..

theorem keeps_caTake {s : State} (h : s.memWf) (d a : BitVec 6) (b : BitVec 4) (op : CaName → Nat → Nat → CaOp) : NextWf (caTake s d a b op) := by
  unfold caTake
  refine nextWf_issue h fun x => ?_
  refine keeps_bind fun x e => ?_
  refine keeps_bind fun x e => ?_
  split
  · exact keeps_bind fun _ _ => keeps_postCa h ..

theorem keeps_execCaread {s : State} (h : s.memWf) (d a : BitVec 6) (b : BitVec 4) : NextWf (execCaread d a b s) := by
  unfold execCaread
  exact keeps_caTake h ..

theorem keeps_execCawalk {s : State} (h : s.memWf) (d a : BitVec 6) (b : BitVec 4) : NextWf (execCawalk d a b s) := by
  unfold execCawalk
  exact keeps_caTake h ..

theorem keeps_execCarswap {s : State} (h : s.memWf) (d a : BitVec 6) (b : BitVec 4) : NextWf (execCarswap d a b s) := by
  unfold execCarswap
  refine nextWf_issue h fun x => ?_
  refine keeps_bind fun x e => ?_
  simp only
  refine keeps_bind fun x e => ?_
  refine keeps_bind fun x e => ?_
  refine keeps_bind fun x e => ?_
  refine keeps_bind fun x e => ?_
  split
  · split
    · exact keeps_postCa h ..
    · exact keeps_state (memWf_advance (memWf_leaveUndefined h ..) ..)
  · exact keeps_state (memWf_advance (memWf_leaveUndefined h ..) ..)

theorem keeps_caCount {s : State} (h : s.memWf) (a : BitVec 6) (b : BitVec 4) (op : CaName → CaOp) : NextWf (caCount s a b op) := by
  unfold caCount
  refine nextWf_issue h fun x => ?_
  refine keeps_bind fun x e => ?_
  refine keeps_bind fun x e => ?_
  split
  · exact keeps_postCa h ..

end Sys2Proof.Machine
end

section
/-!
SUPPORT. For O60: the host's registers, the queues and their packets keep the canonical form of the memories.
-/

namespace Sys2Proof.Machine

open Sys2Proof

theorem keeps_execCaref {s : State} (h : s.memWf) (a : BitVec 6) (b : BitVec 4) : NextWf (execCaref a b s) := by
  unfold execCaref
  exact keeps_caCount h ..

theorem keeps_execCadrop {s : State} (h : s.memWf) (a : BitVec 6) (b : BitVec 4) : NextWf (execCadrop a b s) := by
  unfold execCadrop
  exact keeps_caCount h ..

theorem keeps_execCaout {s : State} (h : s.memWf) (d a : BitVec 6) (b : BitVec 4) : NextWf (execCaout d a b s) := by
  unfold execCaout
  refine nextWf_issue h fun x => ?_
  refine keeps_bind fun x e => ?_
  refine keeps_bind fun x e => ?_
  split
  · refine keeps_bind fun x e => ?_
    refine keeps_bind fun x e => ?_
    simp only
    split
    · refine keeps_bind fun x e => ?_
      refine keeps_bind fun x e => ?_
      refine keeps_bind fun x e => ?_
      refine keeps_unlessLost h _ _ ?_
      refine keeps_startCopy ?_ ..
      exact h
    · refine keeps_bind fun x e => ?_
      refine keeps_bind fun x e => ?_
      refine keeps_bind fun x e => ?_
      refine keeps_unlessLost h _ _ ?_
      refine keeps_startCopy ?_ ..
      exact h

theorem keeps_execDoorbell {s : State} (h : s.memWf) (at' : Via) (off size : Nat) (val : Word64) : NextWf (execDoorbell at' off size val s) := by
  unfold execDoorbell
  split
  · exact nextWf_next h
  · split
    · exact nextWf_next (memWf_ring h ..)
    · exact nextWf_next h

theorem memWf_joinContext {s : State} (h : s.memWf) (q : Queue) : (s.joinContext q).memWf := by
  unfold State.joinContext
  split <;> exact h

theorem memWf_result {s : State} (h : s.memWf) (f : Nat) (op : Byte) (qi : Nat) (code res : Byte) : (s.result f op qi code res).memWf := h

theorem memWf_enable {s : State} (h : s.memWf) (f qi : Nat) : (s.enable f qi).memWf := by
  unfold State.enable
  split
  · simp only
    split
    · refine memWf_result ?_ ..
      refine memWf_setQState ?_ ..
      refine memWf_joinContext ?_ ..
      refine memWf_setQueue ?_ ..
      split
      · exact memWf_qcbCount h ..
      · exact h
    · refine memWf_result ?_ ..
      refine memWf_pfeqPost ?_ ..
      split
      · exact memWf_qcbWrite (memWf_setQueue (memWf_qcbCount h ..) ..) ..
      · exact h

theorem memWf_maybeEnd {s : State} (h : s.memWf) (c : Nat) : (s.maybeEnd c).memWf := by
  unfold State.maybeEnd
  split
  · exact memWf_endContext h ..
  · exact h

theorem memWf_stopQueue {s : State} (h : s.memWf) (f qi : Nat) : (s.stopQueue f qi).memWf := by
  have hu := memWf_dropLaunches (memWf_cancelHandover h f qi) fun l => l.fn == f && l.q == qi
  unfold State.stopQueue
  simp only
  generalize (s.cancelHandover f qi).dropLaunches (fun l => l.fn == f && l.q == qi) = u at hu ⊢
  refine memWf_forAll (fun s c h => memWf_maybeEnd h c) ?_ _
  exact hu

theorem memWf_startDrain {s : State} (h : s.memWf) (f qi : Nat) (d : Drain) : (s.startDrain f qi d).memWf := by
  unfold State.startDrain
  simp only
  exact memWf_setQState (memWf_setQueue (memWf_stopQueue h ..) ..) ..

theorem memWf_serve {s : State} (h : s.memWf) (f : Nat) (viaQp : Bool) (v : Word64) : (s.serve f viaQp v).memWf := by
  have hput {t : State} (ht : t.memWf) (res : Byte) :
      State.memWf (if viaQp then t.result f (v.extractLsb' 56 8) (v.extractLsb' 32 16).toNat 0 res else t) := by
    split
    · exact memWf_result ht ..
    · exact ht
  unfold State.serve
  simp only
  split
  · split
    · exact memWf_enable h ..
    · exact hput h _
  · split
    · exact hput h _
    · exact hput (memWf_startDrain h ..) _

theorem memWf_serveAll {s : State} (h : s.memWf) (f n : Nat) : (State.serveAll f n s).memWf := by
  induction n generalizing s with
  | zero => exact h
  | succ n ih =>
    unfold State.serveAll
    split
    · exact h
    · split
      · exact h
      · exact ih (memWf_serve (memWf_setFunc h ..) ..)

theorem memWf_command {s : State} (h : s.memWf) (f : Nat) (viaQp : Bool) (v : Word64) : (s.command f viaQp v).memWf := by
  unfold State.command
  simp only
  refine memWf_serveAll ?_ ..
  exact h

theorem memWf_qpcmd {s : State} (h : s.memWf) (f : Nat) (v : Word64) : (s.qpcmd f v).memWf := by
  unfold State.qpcmd
  simp only
  split
  · exact h
  · exact memWf_command h ..

theorem memWf_qcmd {s : State} (h : s.memWf) (f : Nat) (v : Word64) : (s.qcmd f v).memWf := by
  unfold State.qcmd
  simp only
  split
  · exact h
  · exact memWf_command h ..

theorem keeps_execQcmdReset {s : State} (h : s.memWf) (fn : Nat) (val : Word64) : NextWf (execQcmdReset fn val s) := by
  unfold execQcmdReset
  split
  · exact nextWf_next (memWf_qcmd h ..)
  · exact nextWf_next h

theorem keeps_execQpcmdReset {s : State} (h : s.memWf) (fn : Nat) (val : Word64) : NextWf (execQpcmdReset fn val s) := by
  unfold execQpcmdReset
  split
  · exact nextWf_next (memWf_qpcmd h ..)
  · exact nextWf_next h

theorem keeps_execQpcmdEnable {s : State} (h : s.memWf) (fn : Nat) (val : Word64) : NextWf (execQpcmdEnable fn val s) := by
  unfold execQpcmdEnable
  split
  · exact nextWf_next (memWf_qpcmd h ..)
  · exact nextWf_next h

theorem keeps_execQpcmdDisable {s : State} (h : s.memWf) (fn : Nat) (val : Word64) : NextWf (execQpcmdDisable fn val s) := by
  unfold execQpcmdDisable
  split
  · exact nextWf_next (memWf_qpcmd h ..)
  · exact nextWf_next h

theorem memWf_tamperQueue {s : State} (h : s.memWf) (f qi : Nat) : (s.tamperQueue f qi).memWf := by
  unfold State.tamperQueue
  simp only
  refine memWf_maybeEnd ?_ ..
  refine memWf_pfeqPost ?_ ..
  refine memWf_setQState ?_ ..
  exact h

theorem memWf_afterDrain {s : State} (h : s.memWf) (f : Nat) : (s.afterDrain f).memWf := by
  unfold State.afterDrain
  exact memWf_serveAll h ..

theorem memWf_resultIf {s : State} (h : s.memWf) (b : Bool) (f : Nat) (op : Byte) (qi : Nat) (code res : Byte) :
    State.memWf (if b then s.result f op qi code res else s) := by
  split
  · exact memWf_result h ..
  · exact h

theorem keeps_execResetDone {s : State} (h : s.memWf) : NextWf (execResetDone s) := by
  unfold execResetDone
  simp only
  split
  · exact nextWf_next h
  split
  · exact nextWf_next h
  have hh {t : State} (ht : t.memWf) (b : Bool) (f qi : Nat) (x : Queue) (w : Word32) : State.memWf
      (if b then ((((t.qcbCount f qi 0 128).qcbCount f qi 0x88 8).setQueue f qi x).setHead f qi w).result f 1 qi 0 0
        else (((t.qcbCount f qi 0 128).qcbCount f qi 0x88 8).setQueue f qi x).setHead f qi w) :=
    memWf_resultIf (memWf_setHead (memWf_setQueue (memWf_qcbCount (memWf_qcbCount ht ..) ..) ..) ..) ..
  split
  · exact nextWf_next (memWf_afterDrain (memWf_tamperQueue (hh h ..) ..) ..)
  · exact nextWf_next (memWf_afterDrain (memWf_evqPost (memWf_setQState (memWf_joinContext (hh h ..) ..) ..) ..) ..)

theorem keeps_execDisableDone {s : State} (h : s.memWf) : NextWf (execDisableDone s) := by
  unfold execDisableDone
  simp only
  split
  · exact nextWf_next h
  split
  · exact nextWf_next h
  have hh {t : State} (ht : t.memWf) (b : Bool) (f qi : Nat) (x : Queue) : State.memWf
      (if b then (t.setQueue f qi x).result f 3 qi 0 0 else t.setQueue f qi x) := memWf_resultIf (memWf_setQueue ht ..) ..
  split
  · exact nextWf_next (memWf_afterDrain (memWf_tamperQueue (hh h ..) ..) ..)
  · exact nextWf_next (memWf_afterDrain (memWf_maybeEnd (memWf_setQState (memWf_evqPost (hh h ..) ..) ..) ..) ..)

theorem memWf_checkTamper {s : State} (h : s.memWf) (f qi : Nat) : (s.checkTamper f qi).memWf := by
  unfold State.checkTamper
  simp only
  split
  · exact memWf_qcbCount h ..
  · split
    · exact memWf_qcbCount h ..
    · split
      · exact memWf_setQueue (memWf_qcbCount h ..) ..
      · exact memWf_tamperQueue (memWf_qcbCount h ..) ..

theorem memWf_offerShadow {s : State} (h : s.memWf) (f qi : Nat) : (s.offerShadow f qi).memWf := by
  unfold State.offerShadow
  simp only
  split
  · exact memWf_qcbCount h ..
  · exact memWf_ring (memWf_qcbCount h ..) ..

theorem memWf_reconcileOne {s : State} (h : s.memWf) (fq : Nat × Nat) : (s.reconcileOne fq).memWf := by
  unfold State.reconcileOne
  split
  · split
    · exact h
    · simp only
      split
      · exact memWf_checkTamper h ..
      · exact memWf_offerShadow (memWf_checkTamper h ..) ..

theorem memWf_reconcile {s : State} (h : s.memWf) : s.reconcile.memWf := by
  unfold State.reconcile
  split
  · exact h
  · simp only
    refine memWf_forAll (fun s x h => ?_) ?_ _
    · refine memWf_reconcileOne ?_ ..
      exact h
    · exact h

theorem keeps_execReconcilePass {s : State} (h : s.memWf) : NextWf (execReconcilePass s) := by
  unfold execReconcilePass
  exact nextWf_next (memWf_reconcile h ..)

theorem memWf_pfeqCtl {s : State} (h : s.memWf) (v : Word32) : (s.pfeqCtl v).memWf := h

theorem keeps_execPfeqCtlWrite {s : State} (h : s.memWf) (val : Word32) : NextWf (execPfeqCtlWrite val s) := by
  unfold execPfeqCtlWrite
  exact nextWf_next h

theorem memWf_pfeqWrite {s : State} (h : s.memWf) (off size : Nat) (val : Word64) : (s.pfeqWrite off size val).memWf := by
  unfold State.pfeqWrite
  simp only
  split <;> exact h

theorem memWf_gcntStart {s : State} (h : s.memWf) (fn : Nat) (old : Func) : (s.gcntStart fn old).memWf := by
  unfold State.gcntStart
  simp only
  split <;> exact h

theorem memWf_areaWrite {s : State} (h : s.memWf) (f off size : Nat) (val : Word64) : (s.areaWrite f off size val).memWf := by
  unfold State.areaWrite
  simp only
  refine memWf_gcntStart ?_ ..
  refine memWf_setFunc ?_ ..
  split
  · refine memWf_qpcmd ?_ ..
    split <;> exact h
  · split <;> exact h

theorem memWf_droopWrite {s : State} (h : s.memWf) (d off size : Nat) (val : Word64) : (s.droopWrite d off size val).memWf := by
  unfold State.droopWrite
  split <;> exact h

theorem memWf_windowWrite {s : State} (h : s.memWf) (off size : Nat) (val : Word64) : (s.windowWrite off size val).memWf := by
  unfold State.windowWrite
  split
  · exact memWf_droopWrite h ..
  split
  · exact memWf_of_eq h rfl rfl rfl
  split
  · exact memWf_pfeqWrite h ..
  split
  · exact memWf_areaWrite h ..
  · exact h

theorem memWf_rbrkWrite {s : State} (h : s.memWf) (c off size : Nat) (val : Word64) : (s.rbrkWrite c off size val).memWf := by
  unfold State.rbrkWrite
  split <;> exact h

theorem keeps_execRegisterWrite {s : State} (h : s.memWf) (bar : Nat) (at' : Via) (off size : Nat) (val : Word64) :
    NextWf (execRegisterWrite bar at' off size val s) := by
  unfold execRegisterWrite
  simp only
  split
  · exact nextWf_next h
  · split
    · exact nextWf_next (memWf_rbrkWrite h ..)
    · split
      · refine nextWf_next ?_
        split
        · exact memWf_windowWrite h ..
        · exact h
      · split
        · exact nextWf_next h
        · split
          · exact nextWf_next h
          · split
            · exact nextWf_next (memWf_qcmd h ..)
            · split
              · refine nextWf_next ?_
                split
                · exact memWf_ring h ..
                · exact h
              · exact nextWf_next h

theorem keeps_execMbSubmitUnknown {s : State} (h : s.memWf) : NextWf (execMbSubmitUnknown s) := by
  unfold execMbSubmitUnknown
  split
  · split <;> exact nextWf_next h
  · exact nextWf_next h

theorem keeps_execMbResponse {s : State} (h : s.memWf) : NextWf (execMbResponse s) := by
  unfold execMbResponse
  split
  · exact nextWf_next h
  · simp only
    refine nextWf_next ?_
    split <;> exact h

theorem keeps_execEventRingWrite {s : State} (h : s.memWf) : NextWf (execEventRingWrite s) := by
  unfold execEventRingWrite
  split
  · refine nextWf_next ?_
    exact h
  · split
    · refine nextWf_next ?_
      exact h
    · refine nextWf_next ?_
      refine memWf_ringWrite ?_ ..
      exact h

theorem memWf_packetUncorr {s : State} (h : s.memWf) (f qi : Nat) (x : Queue) (bs : List Byte) (addr : Nat) :
    (s.packetUncorr f qi x bs addr).memWf := by
  unfold State.packetUncorr
  exact memWf_contextFault h ..

theorem memWf_packetError {s : State} (h : s.memWf) (code : Byte) (bs : List Byte) (addr : Nat) : (s.packetError code bs addr).memWf := by
  unfold State.packetError
  exact memWf_queueError h ..

theorem errWf_packetAcc {s : State} (h : s.memWf) (bs : List Byte) (va : Nat) (k : Access) : ErrWf (s.packetAcc bs va k) := by
  unfold State.packetAcc
  simp only
  split
  · exact errWf_error (memWf_packetUncorr h ..)
  · exact errWf_error (memWf_packetError (memWf_countFailed h ..) ..)
  · split
    · exact errWf_error h
    · split
      · exact errWf_error (memWf_packetError h ..)
      · exact errWf_ok

theorem errWf_packetWord {s : State} (h : s.memWf) (bs : List Byte) (va : Nat) (k : Access) : ErrWf (s.packetWord bs va k) := by
  unfold State.packetWord
  split
  · exact errWf_error (memWf_packetError h ..)
  · exact errWf_packetAcc h ..

theorem errWf_packetNeed {s : State} (h : s.memWf) (b : Bool) : ErrWf (packetNeed b s) := by
  unfold packetNeed
  split
  · exact errWf_ok
  · exact errWf_error h

theorem keepsBoth_need {s : State} (h : s.memWf) {b : Bool} {α : Type} {π : α → State} {r : Unit → Except State α} (hr : KeepsBoth π (r ())) :
    KeepsBoth π (packetNeed b s >>= r) := keepsBoth_bind (errWf_packetNeed h b) fun _ _ => hr

theorem memWf_startPacket {s : State} (h : s.memWf) (bs : List Byte) (done : Bool) (lid : Option Nat) : (s.startPacket bs done lid).memWf := h

theorem keeps_readPacket {s : State} (h : s.memWf) (ty : Nat) : KeepsBoth Prod.snd (s.readPacket ty) := by
  have hu (a : Nat) : (s.packetUncorr s.cur.fn s.cur.q (s.queue s.cur.fn s.cur.q) [] a).memWf := memWf_packetUncorr h ..
  unfold State.readPacket
  refine keepsBoth_need h ?_
  simp only
  split
  · exact keepsBoth_error (hu _)
  · exact keepsBoth_error (memWf_packetError (memWf_countFailed h ..) ..)
  next a _ =>
    have ha : (s.afterRead a).memWf := memWf_afterRead h a
    have he (code : Byte) (bs : List Byte) (x : Nat) : ((s.afterRead a).packetError code bs x).memWf := memWf_packetError ha ..
    refine keepsBoth_need h (keepsBoth_need (hu _) (keepsBoth_need h (keepsBoth_need h (keepsBoth_need (he ..) (keepsBoth_need (he ..) ?_)))))
    split
    · exact keepsBoth_bind (errWf_packetAcc ha ..) fun _ _ => keepsBoth_ok ha
    · exact keepsBoth_ok ha

theorem nextWf_packetRow {s : State} (h : s.memWf) (ty : Nat) {body : List Byte → State → PacketStep}
    (hb : ∀ bs t, t.memWf → KeepsBoth id (body bs t)) : NextWf (packetRow s ty body) := by
  have hr := keeps_readPacket h ty
  unfold packetRow
  split
  next e => exact nextWf_next (hr.err _ e)
  next bs s1 e =>
    have h1 := hb bs s1 (hr.wf _ e)
    split
    next e1 => exact nextWf_next (h1.err _ e1)
    next e1 => exact nextWf_next (h1.wf _ e1)

theorem keeps_execNopPacket {s : State} (h : s.memWf) : NextWf (execNopPacket s) :=
  nextWf_packetRow h 0 fun _ _ ht => keepsBoth_need (memWf_packetError ht ..) (keepsBoth_state (memWf_startPacket ht ..))

theorem keeps_execSignal {s : State} (h : s.memWf) : NextWf (execSignal s) :=
  nextWf_packetRow h 2 fun _ _ ht => keepsBoth_need (memWf_packetError ht ..)
    (keepsBoth_bind (errWf_packetWord ht ..) fun _ _ => keepsBoth_need (memWf_packetUncorr ht ..)
      (keepsBoth_state (memWf_startPacket (memWf_updateAt ht ..) ..)))

theorem keeps_checkWait {s : State} (h : s.memWf) (w : WaitSt) : KeepsBoth Prod.snd (s.checkWait w) := by
  have hf (c : Nat) (r : Record) : (s.contextFault c r).memWf := memWf_contextFault h ..
  unfold State.checkWait
  simp only
  split
  · exact keepsBoth_error (hf ..)
  split
  · exact keepsBoth_error h
  split
  · exact keepsBoth_error (hf ..)
  · exact keepsBoth_ok (memWf_afterRead h _)

theorem memWf_endWait {s : State} (h : s.memWf) : s.endWait.memWf := h

theorem keeps_execWait {s : State} (h : s.memWf) : NextWf (execWait s) := by
  refine nextWf_packetRow h 3 fun bs t ht => ?_
  refine keepsBoth_need (memWf_packetError ht ..) (keepsBoth_bind (errWf_packetWord ht ..) fun _ _ => ?_)
  refine keepsBoth_bind (keeps_checkWait (memWf_setQueue (memWf_startPacket ht ..) ..) _).toErrWf fun x e => ?_
  have hx : x.2.memWf := (keeps_checkWait (memWf_setQueue (memWf_startPacket ht ..) ..) _).wf x e
  exact keepsBoth_state (memWf_ite (memWf_endWait hx) hx)

theorem memWf_rereadWait {s : State} (h : s.memWf) : s.rereadWait.memWf := by
  unfold State.rereadWait
  split
  · exact h
  next w _ =>
    have hc := keeps_checkWait h w
    split
    · exact h
    split
    next e => exact hc.err _ e
    next met t e =>
      have ht : t.memWf := hc.wf _ e
      exact memWf_ite (memWf_endWait ht) ht

theorem keeps_execWaitSatisfied {s : State} (h : s.memWf) : NextWf (execWaitSatisfied s) := by
  unfold execWaitSatisfied
  exact nextWf_next (memWf_rereadWait h ..)

theorem memWf_timeoutWait {s : State} (h : s.memWf) : s.timeoutWait.memWf := by
  unfold State.timeoutWait
  split
  · simp only
    split
    · split
      · refine memWf_queueError ?_ ..
        exact h
      · exact h
    · exact h

theorem keeps_execWaitTimeout {s : State} (h : s.memWf) : NextWf (execWaitTimeout s) := by
  unfold execWaitTimeout
  exact nextWf_next (memWf_timeoutWait h ..)

theorem memWf_endTimeout {s : State} (h : s.memWf) (key : Nat) : (s.endTimeout key).memWf := by
  have ht := memWf_timeoutWait (memWf_rereadWait (s := { s with cur := { s.cur with fn := key / 1024, q := key % 1024 } }) h)
  unfold State.endTimeout
  split
  · exact ht
  · exact h

theorem keeps_execPublish {s : State} (h : s.memWf) : NextWf (execPublish s) :=
  nextWf_packetRow h 4 fun _ _ ht => keepsBoth_need (memWf_packetError ht ..)
    (keepsBoth_bind (errWf_packetWord ht ..) fun _ _ => keepsBoth_need (memWf_packetError ht ..) (keepsBoth_need (memWf_packetUncorr ht ..)
      (keepsBoth_state (memWf_startPacket (memWf_publish ht ..) ..))))

theorem keeps_execMarker {s : State} (h : s.memWf) : NextWf (execMarker s) :=
  nextWf_packetRow h 5 fun _ _ ht => keepsBoth_need (memWf_packetError ht ..)
    (keepsBoth_bind (errWf_packetWord ht ..) fun _ _ => keepsBoth_state (memWf_startPacket (memWf_poke ht ..) ..))

theorem keeps_execLaunch {s : State} (h : s.memWf) : NextWf (execLaunch s) := by
  refine nextWf_packetRow h 1 fun bs t ht => ?_
  have he {u : State} (hu : u.memWf) (code : Byte) (x : Nat) : (u.packetError code bs x).memWf := memWf_packetError hu ..
  refine keepsBoth_need (he ht _ _) (keepsBoth_need (he ht _ _) ?_)
  split
  · exact keepsBoth_error (memWf_packetUncorr ht ..)
  · exact keepsBoth_error (he (memWf_countFailed ht ..) _ _)
  next a _ =>
    have ha : (t.afterRead a).memWf := memWf_afterRead ht a
    refine keepsBoth_need ht (keepsBoth_need (memWf_packetUncorr ht ..) (keepsBoth_need (he ha _ _) (keepsBoth_need (he ha _ _) ?_)))
    refine keepsBoth_state (memWf_startPacket ?_ ..)
    exact ha

theorem keeps_decSignal {s : State} (h : s.memWf) (f qi : Nat) (x : Queue) (p : Pkt) : KeepsBoth id (s.decSignal f qi x p) := by
  unfold State.decSignal
  simp only
  split
  · exact keepsBoth_state h
  · split
    · exact keepsBoth_error (memWf_contextFault h ..)
    · split
      · exact keepsBoth_error h
      · split
        · exact keepsBoth_error (memWf_contextFault h ..)
        · split
          · exact keepsBoth_error (memWf_contextFault h ..)
          · exact keepsBoth_state (memWf_updateAt h ..)

theorem memWf_passHead {s : State} (h : s.memWf) (f qi : Nat) : (s.passHead f qi).memWf := by
  unfold State.passHead
  simp only
  split
  · exact h
  · refine memWf_setHead ?_ ..
    exact h

theorem keeps_execPacketComplete {s : State} (h : s.memWf) : NextWf (execPacketComplete s) := by
  unfold execPacketComplete
  simp only
  split
  · exact nextWf_next h
  next p _ =>
    have hd := keeps_decSignal h s.cur.fn s.cur.q (s.queue s.cur.fn s.cur.q) p
    split
    next e => exact nextWf_next (hd.err _ e)
    next s1 e =>
      have h1 : s1.memWf := hd.wf _ e
      have h3 (x : Queue) (r : Record) : State.memWf
          (if p.event then (s1.setQueue s.cur.fn s.cur.q x).evqPost p.ctx r else s1.setQueue s.cur.fn s.cur.q x) :=
        memWf_ite (memWf_evqPost (memWf_setQueue h1 ..) ..) (memWf_setQueue h1 ..)
      refine nextWf_next (memWf_maybeEnd (memWf_passHead ?_ ..) ..)
      split
      · exact h3 ..
      · exact h3 ..

end Sys2Proof.Machine
end

section
/-!
SUPPORT. For O60: scheduling, squeezes and switches keep the canonical form of the memories.
-/

namespace Sys2Proof.Machine

open Sys2Proof

theorem keeps_execOverBudget {s : State} (h : s.memWf) : NextWf (execOverBudget s) := by
  unfold execOverBudget
  exact nextWf_next h

theorem keeps_placeFormed {s : State} (h : s.memWf) (pool die : Nat) (f : Formed) : KeepsSome id (s.placeFormed pool die f) := by
  unfold State.placeFormed
  split
  · exact keepsSome_none
  · simp only
    split
    · exact keepsSome_none
    · refine keepsSome_mapState fun x e => ?_
      refine memWf_startTeam ?_ ..
      exact h

theorem memWf_openPass {s : State} (h : s.memWf) (lid : Nat) : (s.openPass lid).memWf := by
  unfold State.openPass
  split
  · split <;> exact h
  · exact h

theorem keepsSome_firstSome {α : Type} {f : α → Option State} (hf : ∀ x, KeepsSome id (f x)) (l : List α) : KeepsSome id (firstSome f l) := by
  induction l with
  | nil => exact keepsSome_none
  | cons x l ih =>
    unfold firstSome
    split
    next e => exact keepsSome_state ((hf x).wf _ e)
    · exact ih

theorem keeps_placeCluster {s : State} (h : s.memWf) (lid : Nat) (l : Launch) (m : BitVec 160) (first b n : Nat) :
    KeepsSome id (s.placeCluster lid l m first b n) := by
  induction n with
  | zero => exact keepsSome_state h
  | succ n ih =>
    unfold State.placeCluster
    split
    · exact keepsSome_none
    next u e =>
      have hu : u.memWf := ih.wf u e
      exact keepsSome_map fun x _ => memWf_startTeam hu ..

theorem keeps_dispatchCluster {s : State} (h : s.memWf) (lid die : Nat) : KeepsSome id (s.dispatchCluster lid die) := by
  unfold State.dispatchCluster
  split
  · exact keepsSome_none
  split
  · exact keepsSome_none
  refine keepsSome_mapState fun x e => ?_
  have hx : x.memWf := (keepsSome_firstSome (fun _ => keeps_placeCluster h ..) _).wf x e
  split
  · exact memWf_setLaunch hx ..
  · exact hx

theorem keeps_dispatchAll {s : State} (h : s.memWf) (lid n : Nat) : KeepsSome id (State.dispatchAll lid n s) := by
  induction n generalizing s with
  | zero => exact keepsSome_state h
  | succ n ih =>
    unfold State.dispatchAll
    split
    · exact keepsSome_none
    split
    · exact keepsSome_state h
    split
    · exact keepsSome_none
    next e => exact ih ((keeps_dispatchCluster h ..).wf _ e)

theorem memWf_takeSeq {s : State} (h : s.memWf) (c : Nat) : (s.takeSeq c).2.memWf := h

theorem memWf_produce {s : State} (h : s.memWf) (c : Nat) (r : SqRun) (kind : Nat) : (s.produce c r kind).memWf := h

theorem memWf_renameCreators {s : State} (h : s.memWf) (ctx : Nat) (f : Nat → Option Nat) : (s.renameCreators ctx f).memWf := h

theorem memWf_restoreTeam {s : State} (h : s.memWf) (a1 : Nat) (t : Team) (bs : List Berth) (restoring : Bool) :
    (s.restoreTeam a1 t bs restoring).memWf := by
  unfold State.restoreTeam
  simp only
  refine memWf_forAll (fun s x h => ?_) ?_ _
  · exact memWf_takeMatrix h ..
  · refine memWf_forAll (fun s x h => ?_) ?_ _
    · split <;> exact h
    · exact h

theorem keeps_restoreAll {s : State} (h : s.memWf) (low : Nat) (restoring : Bool) (l : List (Nat × Team)) :
    KeepsSome id (State.restoreAll low restoring l s) := by
  induction l generalizing s with
  | nil => exact keepsSome_state h
  | cons x r ih =>
    unfold State.restoreAll
    split
    · exact keepsSome_none
    · exact ih (memWf_restoreTeam h ..)

theorem memWf_switchedIn {s : State} (h : s.memWf) (c ctx : Nat) (shown ids : List Nat) : (s.switchedIn c ctx shown ids).1.memWf := by
  unfold State.switchedIn
  simp only
  refine memWf_produce ?_ ..
  refine memWf_forAll (fun s x h => ?_) ?_ _
  · refine memWf_showTeam ?_ ..
    exact h
  · exact h

theorem keeps_bringBack {s : State} (h : s.memWf) (l : Launch) (x : Nat × Team) : KeepsSome id (s.bringBack l x) := by
  unfold State.bringBack
  exact keepsSome_firstSome (fun c => keepsSome_map fun y _ => memWf_switchedIn (memWf_restoreTeam h ..) ..) _

theorem keeps_placeNext {s : State} (h : s.memWf) (die : Nat) (x : Nat × Launch) : KeepsSome id (s.placeNext die x) := by
  unfold State.placeNext
  simp only
  split
  next e => exact keepsSome_state ((keepsSome_firstSome (fun _ => keeps_bringBack h ..) _).wf _ e)
  split
  · exact keepsSome_none
  split
  next e => exact keepsSome_state (memWf_openPass ((keepsSome_firstSome (fun _ => keeps_placeFormed h ..) _).wf _ e) _)
  refine keepsSome_map fun t e => memWf_openPass ?_ _
  split at e
  · exact (keeps_dispatchAll h ..).wf _ e
  · exact (keeps_dispatchCluster h ..).wf _ e

theorem memWf_askSqueeze {s : State} (h : s.memWf) (die : Nat) (x : Nat × Launch) : (s.askSqueeze die x).memWf := by
  unfold State.askSqueeze
  simp only
  split <;> exact h

theorem memWf_starve {s : State} (h : s.memWf) (die : Nat) (x : Nat × Launch) : (State.starve die s x).memWf := h

theorem keeps_execTeamDispatch {s : State} (h : s.memWf) (die : Nat) : NextWf (execTeamDispatch die s) := by
  have hs (l : List (Nat × Launch)) : State.memWf (match l with
      | [] => s
      | x :: _ => (forAll (State.starve die) s l).askSqueeze die x) := by
    split
    · exact h
    · exact memWf_askSqueeze (memWf_forAll (fun s x h => memWf_starve h ..) h _) ..
  unfold execTeamDispatch
  simp only
  split
  · exact nextWf_next (hs _)
  · exact nextWf_next (memWf_getD (hs _) (keeps_placeNext (hs _) ..))

theorem memWf_noteAble {s : State} (h : s.memWf) (till : Nat) : (s.noteAble till).memWf := h

theorem memWf_noteIdle {s : State} (h : s.memWf) (die : Nat) : (s.noteIdle die).memWf := by
  unfold State.noteIdle
  simp only
  split <;> split <;> exact h

theorem keeps_frameLaunch {s : State} (h : s.memWf) (lid : Nat) (l : Launch) (ds : List Nat) : KeepsBoth id (s.frameLaunch lid l ds) := by
  unfold State.frameLaunch
  split
  · exact keepsBoth_state h
  · split
    · exact keepsBoth_error (memWf_contextFault h ..)
    · exact keepsBoth_state (memWf_setLaunch ((keeps_newFrame h ..).wf _ ‹_›) ..)

theorem memWf_agree {s : State} (h : s.memWf) (lid n : Nat) : (State.agree lid n s).memWf := by
  induction n generalizing s with
  | zero => exact h
  | succ n ih =>
    unfold State.agree
    split
    · exact h
    next l _ =>
      simp only
      split
      · exact h
      have hf := keeps_frameLaunch h lid l (s.stepDies l)
      split
      next e => exact hf.err _ e
      next s1 e =>
        have h1 : s1.memWf := hf.wf _ e
        split
        · exact h1
        · exact ih (memWf_setLaunch h1 ..)

theorem keeps_execStepAgree {s : State} (h : s.memWf) (launch : Nat) : NextWf (execStepAgree launch s) := by
  unfold execStepAgree
  split
  · exact nextWf_next (memWf_agree h ..)
  · exact nextWf_next h

theorem memWf_moveAllShares {s : State} (h : s.memWf) : s.moveAllShares.memWf := h

theorem keeps_execTeamComplete {s : State} (h : s.memWf) (team : Nat) : NextWf (execTeamComplete team s) := by
  unfold execTeamComplete
  split
  · exact nextWf_next h
  · split
    · exact nextWf_next h
    · simp only
      split
      · refine nextWf_next ?_
        split <;> exact h
      · exact nextWf_next h

theorem memWf_sendSteal {s : State} (h : s.memWf) (thief victim ask : Nat) : (s.sendSteal thief victim ask).memWf := h

theorem keeps_execDieIdle {s : State} (h : s.memWf) (die : Nat) : NextWf (execDieIdle die s) := by
  unfold execDieIdle
  simp only
  split <;> exact nextWf_next h

theorem keeps_execStealReq {s : State} (h : s.memWf) (victim : Nat) : NextWf (execStealReq victim s) := by
  unfold execStealReq
  simp only
  split
  · exact nextWf_next h
  · split
    · exact nextWf_next h
    · split <;> exact nextWf_next h

theorem keeps_execStealGive {s : State} (h : s.memWf) (thief : Nat) : NextWf (execStealGive thief s) := by
  unfold execStealGive
  simp only
  split <;> exact nextWf_next h

theorem keeps_execStealNone {s : State} (h : s.memWf) (thief : Nat) : NextWf (execStealNone thief s) := by
  unfold execStealNone
  simp only
  split
  · exact nextWf_next h
  · split <;> exact nextWf_next h

theorem keeps_execStealDone {s : State} (h : s.memWf) (victim : Nat) : NextWf (execStealDone victim s) := by
  unfold execStealDone
  simp only
  split
  · exact nextWf_next (memWf_finishHandover h ..)
  · exact nextWf_next h

theorem memWf_formAll {s : State} (h : s.memWf) (lid n : Nat) : (State.formAll lid n s).memWf := by
  induction n generalizing s with
  | zero => exact h
  | succ n ih =>
    unfold State.formAll
    split
    · exact h
    · exact ih (memWf_formGroup h ..)

theorem keeps_execGatherTimeout {s : State} (h : s.memWf) (die bin : Nat) : NextWf (execGatherTimeout die bin s) := by
  unfold execGatherTimeout
  split
  · exact nextWf_next h
  · split
    · exact nextWf_next h
    · split
      · split
        · exact nextWf_next (memWf_formGroup h ..)
        · exact nextWf_next h
      · simp only
        split
        · exact nextWf_next h
        · exact nextWf_next (memWf_formAll h ..)

theorem keeps_execEngineFault {s : State} (h : s.memWf) (ctx cause : Nat) (addr : Word64) : NextWf (execEngineFault ctx cause addr s) := by
  unfold execEngineFault
  split
  · split
    · exact nextWf_next (memWf_engineStop h ..)
    · exact nextWf_next h
  · exact nextWf_next h

theorem memWf_layFrom {s : State} (h : s.memWf) (c i q low : Nat) : (s.layFrom c i q low).memWf := by
  unfold State.layFrom
  refine memWf_foldl_fst (fun r x h => ?_) h _
  exact h

theorem memWf_freeGone {s : State} (h : s.memWf) (c a2 q : Nat) : (s.freeGone c a2 q).memWf := by
  unfold State.freeGone
  exact memWf_modTeam h ..

theorem memWf_relay {s : State} (h : s.memWf) (c i q : Nat) : (s.relay c i q).memWf := by
  unfold State.relay
  simp only
  split
  · exact memWf_layFrom (memWf_freeGone h ..) ..
  · exact memWf_freeGone h ..

theorem memWf_relayAll {s : State} (h : s.memWf) (c a2 : Nat) : (s.relayAll c a2).memWf := by
  unfold State.relayAll
  exact memWf_forAll (fun s x h => memWf_relay h ..) h _

theorem memWf_setLevel {s : State} (h : s.memWf) (key lvl extra : Nat) : (s.setLevel key lvl extra).memWf := by
  unfold State.setLevel
  split <;> exact h

theorem memWf_foldHaltedOne {s : State} (h : s.memWf) (key : Nat) : (s.foldHaltedOne key).memWf := by
  unfold State.foldHaltedOne
  simp only
  split
  · exact memWf_setLevel h ..
  · split <;> exact memWf_setLevel h ..

theorem memWf_foldHalted {s : State} (h : s.memWf) (c : Nat) (vs : List Nat) : (s.foldHalted c vs).1.memWf := by
  unfold State.foldHalted
  simp only
  exact memWf_forAll (fun s x h => memWf_foldHaltedOne h ..) h _

theorem memWf_foldOne {r : State × Nat} (h : r.1.memWf) (want lvl key : Nat) : (foldOne want lvl r key).1.memWf := by
  unfold foldOne
  split
  · exact h
  split
  · exact h
  · exact memWf_setLevel h ..

theorem memWf_foldQuarter {s : State} (h : s.memWf) (c q want freed : Nat) (vs : List Nat) : (s.foldQuarter c q want freed vs).1.memWf :=
  memWf_foldl_fst (fun _ _ h => memWf_foldl_fst (fun _ _ h => memWf_foldOne h ..) h _) h _

theorem memWf_setTlevel {s : State} (h : s.memWf) (a1 lvl : Nat) : (s.setTlevel a1 lvl).memWf := by
  unfold State.setTlevel
  split <;> exact h

theorem memWf_foldScratch {s : State} (h : s.memWf) (c want : Nat) (vs : List Nat) : (s.foldScratch c want vs).1.memWf := by
  unfold State.foldScratch
  refine memWf_foldl_fst (fun r lvl h => memWf_foldl_fst (fun r v h => ?_) h _) h _
  simp only
  split
  · exact h
  split
  · exact h
  · exact memWf_setTlevel h ..

theorem memWf_foldLanes {s : State} (h : s.memWf) (c q n : Nat) (vs : List Nat) : (s.foldLanes c q n vs).memWf := by
  unfold State.foldLanes
  split
  · exact h
  · exact memWf_forAll (fun s x h => memWf_modTeam h ..) h _

theorem keeps_takeSpill {s : State} (h : s.memWf) (ctx : Nat) (ids : List Nat) : KeepsSome id (s.takeSpill ctx ids) := by
  unfold State.takeSpill
  split
  · exact keepsSome_none
  · simp only
    split
    · exact keepsSome_state h
    · split
      · exact keepsSome_state h
      · exact keepsSome_none

theorem memWf_spillMatrix {s : State} (h : s.memWf) (c : Nat) (vs : List Nat) : (s.spillMatrix c vs).memWf := by
  unfold State.spillMatrix
  split
  · exact h
  · exact memWf_setCore (memWf_modTeam h ..) ..

theorem memWf_foldPools {s : State} (h : s.memWf) (c : Nat) (r : SqReq) (vs freed x l : List Nat) :
    (l.foldl (fun (x : State × List Nat) (q : Nat) =>
      let (s, n) := if atD r.pool q 0 * 256 = 0 then (x.1, atD freed q 0) else x.1.foldQuarter c q (atD r.pool q 0 * 256) (atD freed q 0) vs
      (s, x.2 ++ [n / 256])) (s, x)).1.memWf := by
  refine memWf_foldl_fst (fun y q hy => ?_) h l
  simp only
  split
  · exact hy
  · exact memWf_foldQuarter hy ..

theorem memWf_serveSqueeze {s : State} (h : s.memWf) (c : Nat) (r : SqReq) (vs : List Nat) : (s.serveSqueeze c r vs).memWf := by
  have hs : (s.takeSeq c).2.memWf := memWf_takeSeq h c
  unfold State.serveSqueeze
  simp only
  split
  · exact memWf_setCore hs ..
  next u e =>
    have hu : u.memWf := (keeps_takeSpill hs ..).wf u e
    refine memWf_setCore (memWf_forAll (fun s q h => memWf_foldLanes h ..) ?_ _) ..
    exact memWf_foldScratch (memWf_forAll (fun s x h => memWf_relayAll h ..) (memWf_foldPools (memWf_foldHalted hu ..) ..) _) ..

theorem keeps_queueSqueeze {s : State} (h : s.memWf) (c : Nat) : KeepsSome id (s.queueSqueeze c) := by
  unfold State.queueSqueeze
  split
  · exact keepsSome_none
  · split
    · exact keepsSome_state h
    · simp only
      split
      · exact keepsSome_none
      · split <;> exact keepsSome_state h

theorem memWf_reclaim {s : State} (h : s.memWf) (c : Nat) (r : SqRun) : (s.reclaim c r).1.memWf := by
  unfold State.reclaim
  split
  · exact h
  split
  · exact memWf_spillMatrix h ..
  · exact h

theorem memWf_grantMatrix {s : State} (h : s.memWf) (c : Nat) (r : SqRun) (grant : Option (Word32 × Byte)) : (s.grantMatrix c r grant).memWf := by
  unfold State.grantMatrix
  simp only
  split
  · exact memWf_giveMatrix h ..
  · exact h

theorem keeps_execSqueezeHandover {s : State} (h : s.memWf) (core : Nat) : NextWf (execSqueezeHandover core s) := by
  unfold execSqueezeHandover
  simp only
  split
  · exact nextWf_next h
  next r _ =>
    split
    · exact nextWf_next h
    have hr : (s.reclaim core r).1.memWf := memWf_reclaim h core r
    generalize s.reclaim core r = y at hr ⊢
    have hs (k : Core) (grant : Option (Word32 × Byte)) : (forAll (fun s x => s.showTeam grant x) (y.1.setCore core k) y.2.victims).memWf :=
      memWf_forAll (fun s x h => memWf_showTeam h ..) (memWf_setCore hr ..) _
    have hp {p q : Prop} [Decidable p] [Decidable q] {t : State} (ht : t.memWf) (grant : Option (Word32 × Byte)) : State.memWf
        (State.produce (if p then (if q then t.grantMatrix core y.2 grant else t).endHolds core [] else if q then t.grantMatrix core y.2 grant else t)
          core y.2 1) :=
      memWf_produce (memWf_ite (memWf_endHolds (memWf_ite (memWf_grantMatrix ht ..) ht) ..) (memWf_ite (memWf_grantMatrix ht ..) ht)) ..
    split
    · exact nextWf_next (memWf_reply (hp (hs ..) _) ..)
    · exact nextWf_next (hp (hs ..) _)

theorem keeps_execUnsqueeze {s : State} (h : s.memWf) : NextWf (execUnsqueeze s) := by
  unfold execUnsqueeze
  split
  · exact nextWf_next h
  · split
    · split
      · exact nextWf_next h
      · simp only
        split <;> exact nextWf_next h

theorem keeps_fitRun {s : State} (h : s.memWf) (c i q low key : Nat) : KeepsSome id (s.fitRun c i q low key) := by
  unfold State.fitRun
  simp only
  split
  · exact keepsSome_state (memWf_layFrom h ..)
  split
  · exact keepsSome_state (memWf_modTeam (memWf_layFrom h ..) ..)
  split
  · exact keepsSome_none
  · exact keepsSome_map fun _ _ => h

theorem memWf_raiseRegs {s : State} (h : s.memWf) (c lvl low key : Nat) (part : Option Nat) : (s.raiseRegs c lvl low key part).memWf := by
  have hl {t : State} (ht : t.memWf) (n : Nat) (g : Group) : State.memWf (match part with
      | some m => if m < n then t.setLevel key g.glevel (g.extra + m) else t.setLevel key lvl
      | none => t.setLevel key lvl) := by
    split
    · exact memWf_ite (memWf_setLevel ht ..) (memWf_setLevel ht ..)
    · exact memWf_setLevel ht ..
  unfold State.raiseRegs
  split
  · exact h
  · simp only
    split
    · exact h
    · exact memWf_getD h (keeps_fitRun (hl (memWf_freeGone h ..) ..) ..)

theorem memWf_raiseScratch {s : State} (h : s.memWf) (a1 lvl low : Nat) (part : Option Nat) : (s.raiseScratch a1 lvl low part).memWf := by
  unfold State.raiseScratch
  split
  · exact h
  · simp only
    split
    · exact h
    · split
      · split <;> exact h
      · exact h

theorem memWf_growLanes {s : State} (h : s.memWf) (c a2 : Nat) : (s.growLanes c a2).memWf := by
  unfold State.growLanes
  exact memWf_modTeam h ..

theorem memWf_doRaise {s : State} (h : s.memWf) (c low : Nat) (part : Option Nat) (r : Raise) : (State.doRaise c low part s r).memWf := by
  cases r with
  | regs lvl key => exact memWf_raiseRegs h ..
  | scratch lvl i => exact memWf_raiseScratch h ..
  | lanes i => exact memWf_ite (memWf_growLanes h ..) h

theorem memWf_doRaises {s : State} (h : s.memWf) (c : Nat) (rs : List Raise) (n : Option (Nat × Nat)) : (s.doRaises c rs n).memWf := by
  have hl (l : List Raise) : (forAll (State.doRaise c 0 none) s l).memWf := memWf_forAll (fun s r h => memWf_doRaise h ..) h l
  unfold State.doRaises
  split
  · exact hl _
  · simp only
    split
    · exact memWf_doRaise (hl _) ..
    · exact hl _

theorem memWf_returnMatrix {s : State} (h : s.memWf) (c : Nat) (ids : List Nat) (grant : Option (Word32 × Byte)) :
    (s.returnMatrix c ids grant).memWf := by
  unfold State.returnMatrix
  split
  · exact memWf_giveMatrix h ..
  · split
    · exact h
    · exact memWf_passOwner h ..

theorem memWf_expand {s : State} (h : s.memWf) (c : Nat) (n : Option (Nat × Nat)) : (s.expand c n).memWf := by
  unfold State.expand
  simp only
  split
  · exact memWf_ite (memWf_returnMatrix h ..) h
  · have h2 (l : List Raise) : ((s.doRaises c l n).takeSeq c).2.memWf := memWf_takeSeq (memWf_doRaises h ..) c
    exact memWf_produce (memWf_forAll (fun s x h => memWf_showTeam h ..) (memWf_ite (memWf_returnMatrix (h2 _) ..) (h2 _)) _) ..

theorem keeps_execExpansion {s : State} (h : s.memWf) (core : Nat) : NextWf (execExpansion core s) := by
  unfold execExpansion
  split
  · exact nextWf_next h
  split
  · exact nextWf_next (memWf_expand h ..)
  split
  · exact nextWf_next h
  · have hu := memWf_expand h core (some (Config.expandSteps s.freeCtr))
    simp only
    generalize s.expand core (some (Config.expandSteps s.freeCtr)) = u at hu ⊢
    refine nextWf_next (memWf_setCore ?_ ..)
    exact hu

theorem memWf_saveTeam {s : State} (h : s.memWf) (held : Bool) (a2 : Nat) : (s.saveTeam held a2).memWf := by
  unfold State.saveTeam
  split
  · exact h
  · simp only
    refine memWf_setTeam ?_ ..
    refine memWf_forAll (fun s x h => ?_) ?_ _
    · exact h
    · exact h

theorem memWf_afterSave {s : State} (h : s.memWf) (ids cs : List Nat) : (s.afterSave ids cs).memWf := by
  unfold State.afterSave
  exact memWf_forAll (fun s x h => memWf_afterLeave h ..) h _

theorem memWf_setSaving {s : State} (h : s.memWf) (cs : List Nat) (x : Option Nat) (by' : SavedBy) : (s.setSaving cs x by').memWf := by
  unfold State.setSaving
  refine memWf_forAll (fun s x h => ?_) ?_ _
  · exact h
  · exact h

theorem memWf_takeReq {s : State} (h : s.memWf) (cs : List Nat) (x : CoreReq) : (s.takeReq cs x).memWf := by
  unfold State.takeReq
  refine memWf_forAll (fun s x h => ?_) ?_ _
  · exact h
  · exact h

theorem memWf_dropReq {s : State} (h : s.memWf) (x : CoreReq) : (s.dropReq x).memWf := h

theorem memWf_putReq {s : State} (h : s.memWf) (cs : List Nat) (x : CoreReq) : (s.putReq cs x).memWf := by
  unfold State.putReq
  refine memWf_forAll (fun s x h => ?_) ?_ _
  · split <;> exact h
  · exact h

theorem memWf_layQuarter {s : State} (h : s.memWf) (c q : Nat) (keys : List Nat) : (s.layQuarter c q keys).memWf := by
  unfold State.layQuarter
  refine memWf_foldl_fst (fun r key h => ?_) h _
  simp only
  split
  · exact h
  · exact h

theorem memWf_layScratch {s : State} (h : s.memWf) (a1 : Nat) : (s.layScratch a1).memWf := by
  unfold State.layScratch
  exact memWf_modTeam h ..

theorem memWf_foldOut {s : State} (h : s.memWf) (cs ids : List Nat) : (s.foldOut cs ids).memWf := by
  unfold State.foldOut
  simp only
  refine memWf_forAll (fun s x h => memWf_modTeam (memWf_layScratch (memWf_setTlevel h ..) ..) ..) ?_ _
  refine memWf_forAll (fun s c h => memWf_forAll (fun s q h => memWf_layQuarter h ..) h _) ?_ _
  exact memWf_forAll (fun s key h => memWf_setLevel h ..) h _

theorem memWf_startSwitchOut {s : State} (h : s.memWf) (c ctx : Nat) (ids cs : List Nat) : (s.startSwitchOut c ctx ids cs).memWf := by
  unfold State.startSwitchOut
  simp only
  refine memWf_setCore ?_ ..
  refine memWf_setSaving ?_ ..
  refine memWf_foldOut ?_ ..
  exact h

theorem memWf_switchOut {s : State} (h : s.memWf) (c ctx : Nat) (ids cs : List Nat) : (s.switchOut c ctx ids cs).1.memWf := by
  unfold State.switchOut
  simp only
  refine memWf_produce ?_ ..
  refine memWf_setSaving ?_ ..
  refine memWf_afterSave ?_ ..
  refine memWf_forAll (fun s x h => ?_) ?_ _
  · refine memWf_saveTeam ?_ ..
    exact h
  · exact h

theorem keeps_execSwitchOut {s : State} (h : s.memWf) : NextWf (execSwitchOut s) := by
  unfold execSwitchOut
  split
  · exact nextWf_next h
  split
  · exact nextWf_next h
  split
  · exact nextWf_next (memWf_reply h ..)
  split
  · exact nextWf_next (memWf_reply h ..)
  simp only
  split
  · exact nextWf_next (memWf_reply (memWf_setSaving (memWf_dropReq h ..) ..) ..)
  split
  · split
    · exact nextWf_next (memWf_putReq h ..)
    next u e =>
      have hu : u.memWf := by
        split at e
        · exact (keeps_takeSpill h ..).wf u e
        · cases e
      exact nextWf_next (memWf_startSwitchOut hu ..)
  split
  · exact nextWf_next h
  · exact nextWf_next (memWf_reply (memWf_switchOut h ..) ..)

theorem keeps_execSwitchIn {s : State} (h : s.memWf) : NextWf (execSwitchIn s) := by
  unfold execSwitchIn
  split
  · exact nextWf_next h
  · split
    · split
      · exact nextWf_next h
      · split
        · exact nextWf_next h
        · split
          · exact nextWf_next h
          · refine nextWf_next ?_
            simp only
            exact memWf_putReq h ..

theorem memWf_switchInDone {s : State} (h : s.memWf) (c ctx : Nat) : (s.switchInDone c ctx).memWf := h

theorem keeps_execSwitchInRestore {s : State} (h : s.memWf) (core : Nat) : NextWf (execSwitchInRestore core s) := by
  have ha {t : State} (ht : t.memWf) (status : Nat) (body : List Byte) : State.memWf (match t.request 0x19 with
      | some r => t.reply r status body
      | none => t) := by
    split
    · exact memWf_reply ht ..
    · exact ht
  unfold execSwitchInRestore
  split
  · exact nextWf_next h
  simp only
  split
  · exact nextWf_next (ha (memWf_switchInDone h ..) _ _)
  split
  · exact nextWf_next h
  split
  · exact nextWf_next h
  next e => exact nextWf_next (ha (memWf_switchInDone (memWf_switchedIn ((keeps_restoreAll h ..).wf _ e) ..) ..) _ _)

theorem memWf_restoreUp {s : State} (h : s.memWf) (cs : List Nat) (back : List (Nat × Team)) : (s.restoreUp cs back).1.memWf := by
  unfold State.restoreUp
  simp only
  refine memWf_forAll (fun s c h => memWf_forAll (fun s r h => memWf_doRaise h ..) h _) ?_ _
  refine memWf_foldl_fst (fun r x h => ?_) h _
  split
  · exact memWf_restoreTeam h ..
  · exact h

theorem memWf_serveSlice {s : State} (h : s.memWf) (c : Nat) : (s.serveSlice c).memWf := by
  unfold State.serveSlice
  split
  · simp only
    split
    · exact memWf_takeReq h ..
    split
    · exact h
    split
    · exact memWf_takeReq h ..
    next u e =>
      have hu : u.memWf := (keeps_takeSpill h ..).wf u e
      refine memWf_forAll (fun s x h => memWf_switchedIn h ..) ?_ _
      exact memWf_restoreUp (memWf_setSaving (memWf_foldOut (memWf_takeReq hu ..) ..) ..) ..
  · exact h

theorem memWf_serveNext {s : State} (h : s.memWf) (core : Nat) : (s.serveNext core).memWf := by
  unfold State.serveNext
  simp only
  split
  · exact h
  · exact h
  · exact h
  · exact memWf_serveSlice h ..
  · split
    · exact h
    split
    · split
      · exact memWf_reply (memWf_setCore h ..) ..
      · exact memWf_setCore h ..
    split
    · exact h
    · exact memWf_serveSqueeze (memWf_setCore h ..) ..

theorem keeps_execSqueeze {s : State} (h : s.memWf) (core : Nat) : NextWf (execSqueeze core s) :=
  nextWf_next (memWf_getD (memWf_serveNext h core) (keeps_queueSqueeze h core))

theorem keeps_execSaveDrainDone {s : State} (h : s.memWf) (core : Nat) : NextWf (execSaveDrainDone core s) := by
  unfold execSaveDrainDone
  split
  · exact nextWf_next h
  · simp only
    split
    · exact nextWf_next h
    · refine nextWf_next ?_
      refine memWf_forAll (fun s x h => ?_) ?_ _
      · split
        · exact memWf_expand h ..
        · exact h
      · exact memWf_setSaving (memWf_afterSave (memWf_forAll (fun s x h => memWf_saveTeam h ..) h _) ..) ..

theorem keeps_execIncomingStateRestored {s : State} (h : s.memWf) : NextWf (execIncomingStateRestored s) := by
  unfold execIncomingStateRestored
  split <;> exact nextWf_next h

theorem memWf_endPeriod {s : State} (h : s.memWf) (since die : Nat) : (State.endPeriod since s die).memWf := by
  unfold State.endPeriod
  split
  · split
    · exact h
    · exact memWf_forAll (fun s c h => memWf_serveSlice h c) (memWf_putReq h ..) _
  · exact h

theorem memWf_periodEnd {s : State} (h : s.memWf) : s.periodEnd.memWf := by
  have hu := memWf_forAll (f := State.endPeriod (s.plant.nextPeriod - 1000000)) (fun s d h => memWf_endPeriod h ..) h [0, 1, 2, 3]
  unfold State.periodEnd
  generalize forAll (State.endPeriod (s.plant.nextPeriod - 1000000)) s [0, 1, 2, 3] = u at hu ⊢
  exact hu

theorem keeps_execSchedPeriod {s : State} (h : s.memWf) : NextWf (execSchedPeriod s) := by
  unfold execSchedPeriod
  split
  · exact nextWf_next h
  · exact nextWf_next (memWf_periodEnd h ..)

theorem nextWf_requestRow {s : State} (h : s.memWf) (code : Nat) {body : List Byte → State} (hb : ∀ r, (body r).memWf) :
    NextWf (requestRow s code body) := by
  unfold requestRow
  split
  · exact nextWf_next (hb _)
  · exact nextWf_next h

theorem keeps_execStackStat {s : State} (h : s.memWf) : NextWf (execStackStat s) := by
  unfold execStackStat
  refine nextWf_requestRow h _ fun x => ?_
  simp only
  split <;> exact h

theorem memWf_powerAnswer {s : State} (h : s.memWf) (r : List Byte) : (s.powerAnswer r).memWf := h

theorem keeps_execPowerLimitRead {s : State} (h : s.memWf) : NextWf (execPowerLimitRead s) := by
  unfold execPowerLimitRead
  refine nextWf_requestRow h _ fun x => ?_
  split
  · exact h
  · split <;> exact h

theorem keeps_execPowerLimitSet {s : State} (h : s.memWf) : NextWf (execPowerLimitSet s) := by
  unfold execPowerLimitSet
  refine nextWf_requestRow h _ fun x => ?_
  simp only
  split
  · exact h
  · split <;> exact h

theorem memWf_putPart {s : State} (h : s.memWf) (a1 : Nat) (x : Part) (named : List Nat) : (s.putPart a1 x named).memWf := by
  unfold State.putPart
  simp only
  refine memWf_forAll (fun s x h => ?_) ?_ _
  · split
    · exact h
    · split <;> exact h
  · exact h

end Sys2Proof.Machine
end

section
/-!
SUPPORT. For O60: partitions, frames, the reset, samples, time, the matrix unit and a step keep the canonical form of the memories.
-/

namespace Sys2Proof.Machine

open Sys2Proof

theorem memWf_vacateTeam {s : State} (h : s.memWf) (id : Nat) : (s.vacateTeam id).memWf := by
  unfold State.vacateTeam
  split
  · exact h
  simp only
  split
  · exact h
  split
  · split
    next u e =>
      have hu : u.memWf := by
        split at e
        · exact (keeps_takeSpill h ..).wf u e
        · cases e
      exact memWf_afterSave (memWf_saveTeam hu ..) ..
    · exact h
  split
  · exact memWf_setSaving h ..
  · exact h

theorem memWf_withdraw {s : State} (h : s.memWf) (put : State → State) : (State.withdraw put s).memWf := h

theorem memWf_vacate {s : State} (h : s.memWf) (put : State → State) : (State.vacate put s).memWf := by
  unfold State.vacate
  simp only
  have hv := memWf_moveAllShares (memWf_withdraw h put)
  generalize (State.withdraw put s).moveAllShares = u at hv ⊢
  have hu := memWf_forAll (fun v id hv => memWf_vacateTeam (s := v) hv id)
    (memWf_forAll (f := fun (v : State) (x : Nat × Nat) => v.setCore x.1 ((v.core x.1).enqueue (.squeeze (SqReq.offCore x.2)))) (fun v x hv => hv)
      (s := { u with plant := { u.plant with vacated := u.plant.vacated ++ (u.displacedAt (put u)).filter fun x => !u.plant.vacated.contains x } })
      hv ((u.displacedAt (put u)).filter fun x => !u.plant.vacated.contains x)) (u.displaced (put u))
  exact memWf_of_eq hu rfl rfl rfl

theorem memWf_endVacate {s : State} (h : s.memWf) : s.endVacate.memWf := h

theorem keeps_execPartSet {s : State} (h : s.memWf) : NextWf (execPartSet s) := by
  unfold execPartSet
  refine nextWf_requestRow h _ fun r => ?_
  simp only
  split
  · exact memWf_reply (memWf_endVacate h) ..
  split
  · exact memWf_vacate h _
  · exact memWf_reply (memWf_moveAllShares (memWf_endVacate (memWf_putPart (memWf_vacate h _) ..))) ..

theorem keeps_execPartDel {s : State} (h : s.memWf) : NextWf (execPartDel s) := by
  unfold execPartDel
  refine nextWf_requestRow h _ fun x => ?_
  simp only
  split
  · exact h
  · split
    · exact h
    · split
      · exact h
      · refine memWf_reply ?_ ..
        refine memWf_forAll (fun s x h => ?_) ?_ _
        · exact h
        · exact h

theorem keeps_execInval {s : State} (h : s.memWf) : NextWf (execInval s) := by
  unfold execInval
  refine nextWf_requestRow h _ fun x => ?_
  split
  · split
    · exact h
    · split
      · exact h
      · exact memWf_reply (memWf_flushPublished h ..) ..

theorem keeps_execSterlingRead {s : State} (h : s.memWf) : NextWf (execSterlingRead s) := by
  unfold execSterlingRead
  refine nextWf_requestRow h _ fun x => ?_
  split
  · exact h
  · split <;> exact h

theorem keeps_execMctpSterlingRead {s : State} (h : s.memWf) (ctx : Nat) : NextWf (execMctpSterlingRead ctx s) := by
  unfold execMctpSterlingRead
  split <;> exact nextWf_next h

theorem keeps_execSterlingAck {s : State} (h : s.memWf) : NextWf (execSterlingAck s) := by
  unfold execSterlingAck
  refine nextWf_requestRow h _ fun x => ?_
  split
  · exact h
  · split <;> exact h

theorem keeps_execDieStats {s : State} (h : s.memWf) : NextWf (execDieStats s) := by
  unfold execDieStats
  refine nextWf_requestRow h _ fun x => ?_
  simp only
  split <;> exact h

theorem keeps_execCaStoreCreate {s : State} (h : s.memWf) : NextWf (execCaStoreCreate s) := by
  unfold execCaStoreCreate
  refine nextWf_requestRow h _ fun x => ?_
  split
  · simp only
    split
    · exact h
    · split
      · exact h
      · split
        · exact h
        · split
          · exact h
          · split <;> exact h

theorem keeps_execCaStoreDelete {s : State} (h : s.memWf) : NextWf (execCaStoreDelete s) := by
  unfold execCaStoreDelete
  refine nextWf_requestRow h _ fun x => ?_
  simp only
  split
  · exact h
  · split
    · exact h
    · split <;> exact h

theorem keeps_execCaBind {s : State} (h : s.memWf) : NextWf (execCaBind s) := by
  unfold execCaBind
  refine nextWf_requestRow h _ fun x => ?_
  split
  · split
    · exact h
    · split
      · exact h
      · split
        · simp only
          split <;> exact h
        · exact h

theorem keeps_execCaUnbind {s : State} (h : s.memWf) : NextWf (execCaUnbind s) := by
  unfold execCaUnbind
  refine nextWf_requestRow h _ fun x => ?_
  split
  · split
    · exact h
    · split
      · exact h
      · split <;> exact h

theorem keeps_execCaLineRead {s : State} (h : s.memWf) : NextWf (execCaLineRead s) := by
  unfold execCaLineRead
  refine nextWf_requestRow h _ fun x => ?_
  split
  · exact h
  · split
    · exact h
    · split <;> exact h

theorem keeps_execCaRootRead {s : State} (h : s.memWf) : NextWf (execCaRootRead s) := by
  unfold execCaRootRead
  refine nextWf_requestRow h _ fun x => ?_
  simp only
  split
  · exact h
  · split
    · exact h
    · split
      · exact h
      · split <;> exact h

theorem memWf_cacheFinal {s : State} (h : s.memWf) (part : Nat) (e : List Byte × Nat × List Byte) : (s.cacheFinal part e).memWf := by
  unfold State.cacheFinal
  split <;> exact h

theorem memWf_finaliseInto {s : State} (h : s.memWf) (r : List Byte) (ctx : Nat) (src dst : List Acc) : (s.finaliseInto r ctx src dst).memWf := by
  unfold State.finaliseInto
  simp only
  split
  · exact memWf_reply (memWf_forAll (fun s x h => memWf_afterRead h ..) h _) ..
  · exact memWf_reply (memWf_cacheFinal (memWf_writePackets (memWf_forAll (fun s x h => memWf_afterRead h ..) h _) ..) ..) ..

theorem memWf_finalUncorr {s : State} (h : s.memWf) (r : List Byte) (ctx a : Nat) : (s.finalUncorr r ctx a).memWf := by
  unfold State.finalUncorr
  simp only
  exact memWf_reply (memWf_contextFault h ..) ..

theorem memWf_finalRefuse {s : State} (h : s.memWf) (r : List Byte) (ctx : Nat) (k : Access) (a : Nat) (c : Cause) :
    (s.finalRefuse r ctx k a c).memWf := by
  unfold State.finalRefuse
  exact memWf_reply (memWf_countFailed h ..) ..

theorem keeps_execFinalise {s : State} (h : s.memWf) : NextWf (execFinalise s) := by
  unfold execFinalise
  split
  · exact nextWf_next h
  · simp only
    split
    · exact nextWf_next h
    · split
      · exact nextWf_next h
      · split
        · split
          · exact nextWf_next h
          · split
            · exact nextWf_next h
            · split
              · exact nextWf_next (memWf_finalUncorr h ..)
              · exact nextWf_next (memWf_finaliseInto h ..)
        · exact nextWf_next (memWf_finalUncorr h ..)
        · exact nextWf_next (memWf_finalUncorr h ..)
        · exact nextWf_next (memWf_finalRefuse h ..)
        · exact nextWf_next (memWf_finalRefuse h ..)

theorem memWf_vecWrite {s : State} (h : s.memWf) (y : Site) (d : BitVec 8) (f : Nat → Word64) : (vecWrite s y d f).memWf := by
  unfold vecWrite
  exact memWf_advance (memWf_writeElems h ..) ..

theorem keeps_vecInt {s : State} (h : s.memWf) (d a : BitVec 8) (b : Src) (op : BitVec 5 → ℤ → ℤ → ℤ) : NextWf (vecInt s d a b op) := by
  unfold vecInt
  exact nextWf_issue h fun x => keeps_bind fun _ _ => keeps_bind fun _ _ => keeps_state (memWf_vecWrite h ..)

theorem keeps_vecBits {s : State} (h : s.memWf) (d a : BitVec 8) (b : Src) (op : Word64 → Word64 → Word64) : NextWf (vecBits s d a b op) := by
  unfold vecBits
  exact nextWf_issue h fun x => keeps_bind fun _ _ => keeps_bind fun _ _ => keeps_state (memWf_vecWrite h ..)

theorem keeps_vecShift {s : State} (h : s.memWf) (d a : BitVec 8) (b : Src) (op : ℤ → Nat → ℤ) : NextWf (vecShift s d a b op) := by
  unfold vecShift
  exact nextWf_issue h fun x => keeps_bind fun _ _ => keeps_bind fun _ _ => keeps_state (memWf_vecWrite h ..)

theorem keeps_vecUnary {s : State} (h : s.memWf) (d a : BitVec 8) (op : Nat → Word64 → ℤ → ℤ) : NextWf (vecUnary s d a op) := by
  unfold vecUnary
  exact nextWf_issue h fun x => keeps_bind fun _ _ => keeps_bind fun _ _ => keeps_state (memWf_vecWrite h ..)

theorem keeps_vecMad {s : State} (h : s.memWf) (d a : BitVec 8) (b : Src) : NextWf (vecMad s d a b) := by
  unfold vecMad
  exact nextWf_issue h fun x => keeps_bind fun _ _ => keeps_bind fun _ _ => keeps_state (memWf_vecWrite h ..)

theorem keeps_vecCmp {s : State} (h : s.memWf) (c p : BitVec 3) (a : BitVec 8) (b : Src) : NextWf (vecCmp s c p a b) := by
  unfold vecCmp
  exact nextWf_issue h fun x => keeps_bind fun _ _ => keeps_bind fun _ _ => keeps_bind fun _ _ => keeps_state (memWf_advance (memWf_writeP h ..) ..)

theorem keeps_vecSel {s : State} (h : s.memWf) (d a : BitVec 8) (b : Src) : NextWf (vecSel s d a b) := by
  unfold vecSel
  exact nextWf_issue h fun x => keeps_bind fun _ _ => keeps_bind fun _ _ => keeps_state (memWf_vecWrite h ..)

theorem keeps_predOp {s : State} (h : s.memWf) (d : BitVec 3) (f : Site → Nat → Bool) : NextWf (predOp s d f) := by
  unfold predOp
  exact nextWf_issue h fun x => keeps_state (memWf_advance (memWf_writeP h ..) ..)

theorem keeps_execVli {s : State} (h : s.memWf) (d : BitVec 8) (i : BitVec 16) : NextWf (execVli d i s) := by
  unfold execVli
  exact nextWf_issue h fun x => keeps_bind fun _ _ => keeps_state (memWf_advance (memWf_writeV h ..) ..)

theorem keeps_execVliH {s : State} (h : s.memWf) (d : BitVec 8) (i : BitVec 16) : NextWf (execVliH d i s) := by
  unfold execVliH
  exact nextWf_issue h fun x => keeps_bind fun _ _ => keeps_state (memWf_advance (memWf_writeV h ..) ..)

theorem keeps_execVmov {s : State} (h : s.memWf) (d a : BitVec 8) : NextWf (execVmov d a s) := by
  unfold execVmov
  exact nextWf_issue h fun x => keeps_bind fun _ _ => keeps_bind fun _ _ => keeps_state (memWf_vecWrite h ..)

theorem keeps_execVbc {s : State} (h : s.memWf) (d : BitVec 8) (a : BitVec 6) : NextWf (execVbc d a s) := by
  unfold execVbc
  exact nextWf_issue h fun x => keeps_bind fun _ _ => keeps_bind fun _ _ => keeps_state (memWf_vecWrite h ..)

theorem keeps_execVadd {s : State} (h : s.memWf) (d a b : BitVec 8) : NextWf (execVadd d a b s) := by
  unfold execVadd
  exact keeps_vecInt h ..

theorem keeps_execVaddUniform {s : State} (h : s.memWf) (d a : BitVec 8) (b : BitVec 6) : NextWf (execVaddUniform d a b s) := by
  unfold execVaddUniform
  exact keeps_vecInt h ..

theorem keeps_execVsub {s : State} (h : s.memWf) (d a b : BitVec 8) : NextWf (execVsub d a b s) := by
  unfold execVsub
  exact keeps_vecInt h ..

theorem keeps_execVsubUniform {s : State} (h : s.memWf) (d a : BitVec 8) (b : BitVec 6) : NextWf (execVsubUniform d a b s) := by
  unfold execVsubUniform
  exact keeps_vecInt h ..

theorem keeps_execVmul {s : State} (h : s.memWf) (d a b : BitVec 8) : NextWf (execVmul d a b s) := by
  unfold execVmul
  exact keeps_vecInt h ..

theorem keeps_execVmulUniform {s : State} (h : s.memWf) (d a : BitVec 8) (b : BitVec 6) : NextWf (execVmulUniform d a b s) := by
  unfold execVmulUniform
  exact keeps_vecInt h ..

theorem keeps_execVmulh {s : State} (h : s.memWf) (d a b : BitVec 8) : NextWf (execVmulh d a b s) := by
  unfold execVmulh
  exact keeps_vecInt h ..

theorem keeps_execVmulhUniform {s : State} (h : s.memWf) (d a : BitVec 8) (b : BitVec 6) : NextWf (execVmulhUniform d a b s) := by
  unfold execVmulhUniform
  exact keeps_vecInt h ..

theorem keeps_execVmad {s : State} (h : s.memWf) (d a b : BitVec 8) : NextWf (execVmad d a b s) := by
  unfold execVmad
  exact keeps_vecMad h ..

theorem keeps_execVmadUniform {s : State} (h : s.memWf) (d a : BitVec 8) (b : BitVec 6) : NextWf (execVmadUniform d a b s) := by
  unfold execVmadUniform
  exact keeps_vecMad h ..

theorem keeps_execVand {s : State} (h : s.memWf) (d a b : BitVec 8) : NextWf (execVand d a b s) := by
  unfold execVand
  exact keeps_vecBits h ..

theorem keeps_execVandUniform {s : State} (h : s.memWf) (d a : BitVec 8) (b : BitVec 6) : NextWf (execVandUniform d a b s) := by
  unfold execVandUniform
  exact keeps_vecBits h ..

theorem keeps_execVor {s : State} (h : s.memWf) (d a b : BitVec 8) : NextWf (execVor d a b s) := by
  unfold execVor
  exact keeps_vecBits h ..

theorem keeps_execVorUniform {s : State} (h : s.memWf) (d a : BitVec 8) (b : BitVec 6) : NextWf (execVorUniform d a b s) := by
  unfold execVorUniform
  exact keeps_vecBits h ..

theorem keeps_execVxor {s : State} (h : s.memWf) (d a b : BitVec 8) : NextWf (execVxor d a b s) := by
  unfold execVxor
  exact keeps_vecBits h ..

theorem keeps_execVxorUniform {s : State} (h : s.memWf) (d a : BitVec 8) (b : BitVec 6) : NextWf (execVxorUniform d a b s) := by
  unfold execVxorUniform
  exact keeps_vecBits h ..

theorem keeps_execVnot {s : State} (h : s.memWf) (d a : BitVec 8) : NextWf (execVnot d a s) := by
  unfold execVnot
  exact nextWf_issue h fun x => keeps_bind fun _ _ => keeps_bind fun _ _ => keeps_state (memWf_vecWrite h ..)

theorem keeps_execVshl {s : State} (h : s.memWf) (d a b : BitVec 8) : NextWf (execVshl d a b s) := by
  unfold execVshl
  exact keeps_vecShift h ..

theorem keeps_execVshlUniform {s : State} (h : s.memWf) (d a : BitVec 8) (b : BitVec 6) : NextWf (execVshlUniform d a b s) := by
  unfold execVshlUniform
  exact keeps_vecShift h ..

theorem keeps_execVshr {s : State} (h : s.memWf) (d a b : BitVec 8) : NextWf (execVshr d a b s) := by
  unfold execVshr
  exact keeps_vecShift h ..

theorem keeps_execVshrUniform {s : State} (h : s.memWf) (d a : BitVec 8) (b : BitVec 6) : NextWf (execVshrUniform d a b s) := by
  unfold execVshrUniform
  exact keeps_vecShift h ..

theorem keeps_execVmin {s : State} (h : s.memWf) (d a b : BitVec 8) : NextWf (execVmin d a b s) := by
  unfold execVmin
  exact keeps_vecInt h ..

theorem keeps_execVminUniform {s : State} (h : s.memWf) (d a : BitVec 8) (b : BitVec 6) : NextWf (execVminUniform d a b s) := by
  unfold execVminUniform
  exact keeps_vecInt h ..

theorem keeps_execVmax {s : State} (h : s.memWf) (d a b : BitVec 8) : NextWf (execVmax d a b s) := by
  unfold execVmax
  exact keeps_vecInt h ..

theorem keeps_execVmaxUniform {s : State} (h : s.memWf) (d a : BitVec 8) (b : BitVec 6) : NextWf (execVmaxUniform d a b s) := by
  unfold execVmaxUniform
  exact keeps_vecInt h ..

theorem keeps_execVabs {s : State} (h : s.memWf) (d a : BitVec 8) : NextWf (execVabs d a s) := by
  unfold execVabs
  exact keeps_vecUnary h ..

theorem keeps_execVneg {s : State} (h : s.memWf) (d a : BitVec 8) : NextWf (execVneg d a s) := by
  unfold execVneg
  exact keeps_vecUnary h ..

theorem keeps_execVclz {s : State} (h : s.memWf) (d a : BitVec 8) : NextWf (execVclz d a s) := by
  unfold execVclz
  exact keeps_vecUnary h ..

theorem keeps_execVpop {s : State} (h : s.memWf) (d a : BitVec 8) : NextWf (execVpop d a s) := by
  unfold execVpop
  exact keeps_vecUnary h ..

theorem keeps_execVcmp {s : State} (h : s.memWf) (c p : BitVec 3) (a b : BitVec 8) : NextWf (execVcmp c p a b s) := by
  unfold execVcmp
  exact keeps_vecCmp h ..

theorem keeps_execVcmpUniform {s : State} (h : s.memWf) (c p : BitVec 3) (a : BitVec 8) (b : BitVec 6) : NextWf (execVcmpUniform c p a b s) := by
  unfold execVcmpUniform
  exact keeps_vecCmp h ..

theorem keeps_execVsel {s : State} (h : s.memWf) (d a b : BitVec 8) : NextWf (execVsel d a b s) := by
  unfold execVsel
  exact keeps_vecSel h ..

theorem keeps_execVselUniform {s : State} (h : s.memWf) (d a : BitVec 8) (b : BitVec 6) : NextWf (execVselUniform d a b s) := by
  unfold execVselUniform
  exact keeps_vecSel h ..

theorem keeps_execPand {s : State} (h : s.memWf) (d a b : BitVec 3) : NextWf (execPand d a b s) := by
  unfold execPand
  exact keeps_predOp h ..

theorem keeps_execPor {s : State} (h : s.memWf) (d a b : BitVec 3) : NextWf (execPor d a b s) := by
  unfold execPor
  exact keeps_predOp h ..

theorem keeps_execPxor {s : State} (h : s.memWf) (d a b : BitVec 3) : NextWf (execPxor d a b s) := by
  unfold execPxor
  exact keeps_predOp h ..

theorem keeps_execPnot {s : State} (h : s.memWf) (d a : BitVec 3) : NextWf (execPnot d a s) := by
  unfold execPnot
  exact keeps_predOp h ..

theorem keeps_execPset {s : State} (h : s.memWf) (d : BitVec 3) (i : BitVec 1) : NextWf (execPset d i s) := by
  unfold execPset
  exact keeps_predOp h ..

theorem keeps_execPsetK {s : State} (h : s.memWf) (d : BitVec 3) (a : BitVec 6) : NextWf (execPsetK d a s) := by
  unfold execPsetK
  exact keeps_predOp h ..

theorem keeps_vecF {s : State} (h : s.memWf) (d a : BitVec 8) (b : Src) (op : Rounding → FVal → FVal → FVal → FVal) : NextWf (vecF s d a b op) := by
  unfold vecF
  exact nextWf_issue h fun x => keeps_bind fun _ _ => keeps_bind fun _ _ => keeps_state (memWf_vecWrite h ..)

theorem keeps_vecF1 {s : State} (h : s.memWf) (d a : BitVec 8) (op : FVal → FVal) : NextWf (vecF1 s d a op) := by
  unfold vecF1
  exact nextWf_issue h fun x => keeps_bind fun _ _ => keeps_bind fun _ _ => keeps_state (memWf_vecWrite h ..)

theorem keeps_vecFCmp {s : State} (h : s.memWf) (c p : BitVec 3) (a : BitVec 8) (b : Src) : NextWf (vecFCmp s c p a b) := by
  unfold vecFCmp
  exact nextWf_issue h fun x => keeps_bind fun _ _ => keeps_bind fun _ _ => keeps_state (memWf_advance (memWf_writeP h ..) ..)

theorem keeps_execFadd {s : State} (h : s.memWf) (d a b : BitVec 8) : NextWf (execFadd d a b s) := by
  unfold execFadd
  exact keeps_vecF h ..

theorem keeps_execFaddUniform {s : State} (h : s.memWf) (d a : BitVec 8) (b : BitVec 6) : NextWf (execFaddUniform d a b s) := by
  unfold execFaddUniform
  exact keeps_vecF h ..

theorem keeps_execFsub {s : State} (h : s.memWf) (d a b : BitVec 8) : NextWf (execFsub d a b s) := by
  unfold execFsub
  exact keeps_vecF h ..

theorem keeps_execFsubUniform {s : State} (h : s.memWf) (d a : BitVec 8) (b : BitVec 6) : NextWf (execFsubUniform d a b s) := by
  unfold execFsubUniform
  exact keeps_vecF h ..

theorem keeps_execFmul {s : State} (h : s.memWf) (d a b : BitVec 8) : NextWf (execFmul d a b s) := by
  unfold execFmul
  exact keeps_vecF h ..

theorem keeps_execFmulUniform {s : State} (h : s.memWf) (d a : BitVec 8) (b : BitVec 6) : NextWf (execFmulUniform d a b s) := by
  unfold execFmulUniform
  exact keeps_vecF h ..

theorem keeps_execFfma {s : State} (h : s.memWf) (d a b : BitVec 8) : NextWf (execFfma d a b s) := by
  unfold execFfma
  exact keeps_vecF h ..

theorem keeps_execFfmaUniform {s : State} (h : s.memWf) (d a : BitVec 8) (b : BitVec 6) : NextWf (execFfmaUniform d a b s) := by
  unfold execFfmaUniform
  exact keeps_vecF h ..

theorem keeps_execFmin {s : State} (h : s.memWf) (d a b : BitVec 8) : NextWf (execFmin d a b s) := by
  unfold execFmin
  exact keeps_vecF h ..

theorem keeps_execFminUniform {s : State} (h : s.memWf) (d a : BitVec 8) (b : BitVec 6) : NextWf (execFminUniform d a b s) := by
  unfold execFminUniform
  exact keeps_vecF h ..

theorem keeps_execFmax {s : State} (h : s.memWf) (d a b : BitVec 8) : NextWf (execFmax d a b s) := by
  unfold execFmax
  exact keeps_vecF h ..

theorem keeps_execFmaxUniform {s : State} (h : s.memWf) (d a : BitVec 8) (b : BitVec 6) : NextWf (execFmaxUniform d a b s) := by
  unfold execFmaxUniform
  exact keeps_vecF h ..

theorem keeps_execFabs {s : State} (h : s.memWf) (d a : BitVec 8) : NextWf (execFabs d a s) := by
  unfold execFabs
  exact keeps_vecF1 h ..

theorem keeps_execFneg {s : State} (h : s.memWf) (d a : BitVec 8) : NextWf (execFneg d a s) := by
  unfold execFneg
  exact keeps_vecF1 h ..

theorem keeps_execFrcp {s : State} (h : s.memWf) (d a : BitVec 8) : NextWf (execFrcp d a s) := by
  unfold execFrcp
  exact keeps_vecF1 h ..

theorem keeps_execFrsq {s : State} (h : s.memWf) (d a : BitVec 8) : NextWf (execFrsq d a s) := by
  unfold execFrsq
  exact keeps_vecF1 h ..

theorem keeps_execFsqrt {s : State} (h : s.memWf) (d a : BitVec 8) : NextWf (execFsqrt d a s) := by
  unfold execFsqrt
  exact keeps_vecF1 h ..

theorem keeps_execFexp {s : State} (h : s.memWf) (d a : BitVec 8) : NextWf (execFexp d a s) := by
  unfold execFexp
  exact keeps_vecF1 h ..

theorem keeps_execFlog {s : State} (h : s.memWf) (d a : BitVec 8) : NextWf (execFlog d a s) := by
  unfold execFlog
  exact keeps_vecF1 h ..

theorem keeps_execFsin {s : State} (h : s.memWf) (d a : BitVec 8) : NextWf (execFsin d a s) := by
  unfold execFsin
  exact keeps_vecF1 h ..

theorem keeps_execFcos {s : State} (h : s.memWf) (d a : BitVec 8) : NextWf (execFcos d a s) := by
  unfold execFcos
  exact keeps_vecF1 h ..

theorem keeps_execFtanh {s : State} (h : s.memWf) (d a : BitVec 8) : NextWf (execFtanh d a s) := by
  unfold execFtanh
  exact keeps_vecF1 h ..

theorem keeps_execFcmp {s : State} (h : s.memWf) (c p : BitVec 3) (a b : BitVec 8) : NextWf (execFcmp c p a b s) := by
  unfold execFcmp
  exact keeps_vecFCmp h ..

theorem keeps_execFcmpUniform {s : State} (h : s.memWf) (c p : BitVec 3) (a : BitVec 8) (b : BitVec 6) : NextWf (execFcmpUniform c p a b s) := by
  unfold execFcmpUniform
  exact keeps_vecFCmp h ..

theorem keeps_execFcls {s : State} (h : s.memWf) (d a : BitVec 8) : NextWf (execFcls d a s) := by
  unfold execFcls
  exact nextWf_issue h fun x => keeps_bind fun _ _ => keeps_bind fun _ _ => keeps_state (memWf_advance (memWf_writeV h ..) ..)

theorem keeps_execCvt {s : State} (h : s.memWf) (d a : BitVec 8) (src : BitVec 5) : NextWf (execCvt d a src s) := by
  unfold execCvt
  exact nextWf_issue h fun x => keeps_bind fun _ _ => keeps_bind fun _ _ => keeps_bind fun _ _ => keeps_bind fun _ _ =>
    keeps_state (memWf_vecWrite h ..)

theorem keeps_execBpak {s : State} (h : s.memWf) (d a b : BitVec 8) : NextWf (execBpak d a b s) := by
  unfold execBpak
  exact nextWf_issue h fun x => keeps_bind fun _ _ => keeps_bind fun _ _ => keeps_state (memWf_advance (memWf_writeV h ..) ..)

theorem keeps_execBunp {s : State} (h : s.memWf) (d a b : BitVec 8) : NextWf (execBunp d a b s) := by
  unfold execBunp
  exact nextWf_issue h fun x => keeps_bind fun _ _ => keeps_bind fun _ _ => keeps_state (memWf_advance (memWf_writeV h ..) ..)

theorem keeps_vecBscl {s : State} (h : s.memWf) (d a : BitVec 8) (b : Src) : NextWf (vecBscl s d a b) := by
  unfold vecBscl
  exact nextWf_issue h fun x => keeps_bind fun _ _ => keeps_bind fun _ _ => keeps_state (memWf_advance (memWf_writeV h ..) ..)

theorem keeps_execBscl {s : State} (h : s.memWf) (d a b : BitVec 8) : NextWf (execBscl d a b s) := by
  unfold execBscl
  exact keeps_vecBscl h ..

theorem keeps_execBsclUniform {s : State} (h : s.memWf) (d a : BitVec 8) (b : BitVec 6) : NextWf (execBsclUniform d a b s) := by
  unfold execBsclUniform
  exact keeps_vecBscl h ..

theorem keeps_newFrames {s : State} (h : s.memWf) (y : Site) (f : FrameSpec) (ts : List Nat) : KeepsSome Prod.fst (newFrames y f ts s) := by
  induction ts generalizing s with
  | nil => exact keepsSome_some h
  | cons t ts ih =>
    unfold newFrames
    split
    · exact keepsSome_none
    next u hd e =>
      have hu : u.memWf := (keeps_newFrame h ..).wf (u, hd) e
      exact keepsSome_map fun x hx => (ih hu).wf x hx

theorem keeps_createAll {s : State} (h : s.memWf) (y : Site) (f : FrameSpec) (ts : List Nat) : Keeps Prod.fst (createAll s y f ts) := by
  unfold createAll
  split
  · exact keeps_error
  split
  · exact keeps_error
  next x e => exact keeps_ok ((keeps_newFrames h y f ts).wf x e)

theorem keeps_execFnew {s : State} (h : s.memWf) (d : BitVec 8) (a : BitVec 6) : NextWf (execFnew d a s) := by
  unfold execFnew
  refine nextWf_issue h fun x => keeps_bind fun _ _ => keeps_bind fun _ _ => keeps_bind fun _ _ => keeps_bind fun _ _ => keeps_bind fun _ _ =>
    keeps_bind fun r e => ?_
  have hr : r.1.memWf := (keeps_createAll h ..).wf r e
  refine keeps_state (memWf_advance (memWf_late ?_ ..) ..)
  split
  · exact memWf_modTeam hr ..
  · exact hr

theorem keeps_execFnewU {s : State} (h : s.memWf) (d a : BitVec 6) : NextWf (execFnewU d a s) := by
  unfold execFnewU
  refine nextWf_issue h fun x => keeps_bind fun _ _ => keeps_bind fun _ _ => keeps_bind fun _ _ => keeps_bind fun r e => ?_
  have hr : r.1.memWf := (keeps_createAll h ..).wf r e
  exact keeps_state (memWf_advance (memWf_late (memWf_modGroup hr ..) ..) ..)

theorem keeps_retFrames {s : State} (h : s.memWf) (ts : Site → List Nat) (k : BitVec 2) : NextWf (retFrames s ts k) := by
  unfold retFrames
  exact nextWf_issue h fun x => keeps_bind fun _ _ => keeps_bind fun _ _ => keeps_bind fun _ _ =>
    keeps_state (memWf_endTurnFrames (memWf_advance (memWf_finishBodies h ..) ..) ..)

theorem keeps_execFret {s : State} (h : s.memWf) (k : BitVec 2) : NextWf (execFret k s) := by
  unfold execFret
  exact keeps_retFrames h ..

theorem keeps_execFretU {s : State} (h : s.memWf) (k : BitVec 2) : NextWf (execFretU k s) := by
  unfold execFretU
  exact keeps_retFrames h ..

theorem keeps_execDisp {s : State} (h : s.memWf) (k : BitVec 2) (a : BitVec 6) : NextWf (execDisp k a s) := by
  unfold execDisp
  refine nextWf_issue h fun x => ?_
  refine keeps_bind fun x e => ?_
  refine keeps_bind fun x e => ?_
  simp only
  exact keeps_bind fun _ _ => keeps_state (memWf_advance (memWf_modGroup h ..) ..)

theorem memWf_emit {s : State} (h : s.memWf) (y : Site) (rec : List Byte) : (s.emit y rec).memWf := by
  unfold State.emit
  simp only
  refine memWf_pool ?_ ..
  split
  · exact memWf_setFrame h ..
  · exact h

theorem keeps_emitAll {s : State} (h : s.memWf) (y : Site) (recs : List (List Byte)) : Keeps id (emitAll s y recs) := by
  unfold emitAll
  split
  · exact keeps_error
  · split
    · exact keeps_error
    · split
      · exact keeps_error
      · exact keeps_state (memWf_endTurnFrames (memWf_advance (memWf_forAll (fun s x h => memWf_emit h ..) h _) ..) ..)

theorem keeps_execCont {s : State} (h : s.memWf) (a : BitVec 8) : NextWf (execCont a s) := by
  unfold execCont
  exact nextWf_issueWhole h fun x => keeps_bind fun _ _ => keeps_bind fun _ _ => keeps_bind fun _ _ => keeps_bind fun _ _ =>
    keeps_perform h _ fun x => keeps_emitAll h ..

theorem keeps_execContU {s : State} (h : s.memWf) (a : BitVec 6) : NextWf (execContU a s) := by
  unfold execContU
  refine nextWf_issueWhole h fun x => ?_
  refine keeps_bind fun x e => ?_
  refine keeps_bind fun x e => ?_
  simp only
  exact keeps_bind fun _ _ => keeps_perform h _ fun x => keeps_emitAll h ..

theorem keeps_execFrameLiveDecrement {s : State} (h : s.memWf) (i : Nat) : NextWf (execFrameLiveDecrement i s) := by
  unfold execFrameLiveDecrement
  exact nextWf_next (memWf_takeDec h ..)

theorem keeps_execJoinRecordEnqueue {s : State} (h : s.memWf) (die : Nat) : NextWf (execJoinRecordEnqueue die s) := by
  unfold execJoinRecordEnqueue
  exact nextWf_next (memWf_takeJoin h ..)

theorem memWf_cold {s : State} (h : s.memWf) : s.cold.memWf := by
  obtain ⟨-, hhost, hpeers⟩ := h
  exact ⟨rfl, hhost, hpeers⟩

theorem memWf_recover {s : State} (h : s.memWf) (images : List Nat) : (s.recover images).memWf := h

theorem keeps_execColdReset {s : State} (h : s.memWf) (wieloOk configOk : Bool) (restOk : BitVec 4) :
    NextWf (execColdReset wieloOk configOk restOk s) := by
  unfold execColdReset
  exact nextWf_next (memWf_ite (memWf_cold h) (memWf_recover (memWf_cold h) _))

theorem keeps_execRecoveryImage {s : State} (h : s.memWf) (image version : Nat) (ok : Bool) : NextWf (execRecoveryImage image version ok s) := by
  unfold execRecoveryImage
  simp only
  split <;> exact nextWf_next h

theorem keeps_execSpdmRequest {s : State} (h : s.memWf) (version request : Nat) : NextWf (execSpdmRequest version request s) := by
  unfold execSpdmRequest
  split
  · exact nextWf_next h
  · simp only
    exact nextWf_next h

theorem memWf_discardContexts {s : State} (h : s.memWf) (f : Nat) : (s.discardContexts f).memWf := by
  unfold State.discardContexts
  exact memWf_forAll (fun s x h => memWf_endContext h ..) h _

theorem memWf_clearQueue {s : State} (h : s.memWf) (f qi : Nat) : (s.clearQueue f qi).memWf := by
  unfold State.clearQueue
  simp only
  split
  · exact memWf_cancelHandover h ..
  · exact memWf_setQState (memWf_setQueue (memWf_cancelHandover h ..) ..) ..

theorem memWf_wipeFunction {s : State} (h : s.memWf) (f : Nat) : (s.wipeFunction f).memWf := by
  unfold State.wipeFunction
  simp only
  exact memWf_setFunc (memWf_forAll (fun s x h => memWf_clearQueue h ..) (memWf_discardContexts h ..) _) ..

theorem keeps_execFunctionLevelReset {s : State} (h : s.memWf) (fn : Nat) : NextWf (execFunctionLevelReset fn s) := by
  unfold execFunctionLevelReset
  split
  · exact nextWf_next h
  · exact nextWf_next (memWf_pfeqPost (memWf_wipeFunction h ..) ..)

theorem keeps_execHotReset {s : State} (h : s.memWf) (link : Nat) : NextWf (execHotReset link s) := by
  unfold execHotReset
  simp only
  exact nextWf_next (memWf_forAll (fun s x h => memWf_pfeqPost (memWf_wipeFunction h ..) ..) h _)

theorem memWf_loseLink {s : State} (h : s.memWf) (link : Nat) : (s.loseLink link).memWf := by
  unfold State.loseLink
  split
  · exact h
  · simp only
    refine memWf_event ?_ ..
    refine memWf_forAll (fun s x h => ?_) ?_ _
    · refine memWf_wipeFunction ?_ ..
      exact h
    · exact h

theorem keeps_execLinkDown {s : State} (h : s.memWf) (link : Nat) : NextWf (execLinkDown link s) := by
  unfold execLinkDown
  exact nextWf_next (memWf_loseLink h ..)

theorem memWf_rehome {s : State} (h : s.memWf) : s.rehome.memWf := h

theorem memWf_isolate {s : State} (h : s.memWf) (die : Nat) : (s.isolate die).memWf := by
  unfold State.isolate
  simp only
  split
  · exact memWf_loseLink (memWf_event (memWf_setStack (memWf_setStack (memWf_rehome (memWf_moveAllShares (memWf_setDie
      (memWf_forAll (fun s x h => memWf_contextLost h ..) h _) ..) ..) ..) ..) ..) ..) ..
  · split
    · exact memWf_loseLink (memWf_event (memWf_setStack (memWf_setStack (memWf_rehome (memWf_moveAllShares (memWf_setDie
        (memWf_forAll (fun s x h => memWf_contextLost h ..) h _) ..) ..) ..) ..) ..) ..) ..
    · exact memWf_event (memWf_setStack (memWf_setStack (memWf_rehome (memWf_moveAllShares (memWf_setDie (memWf_forAll (fun s x h =>
      memWf_contextLost h ..) h _) ..) ..) ..) ..) ..) ..

theorem keeps_execSolderCrcRetry {s : State} (h : s.memWf) (boundary : Nat) (ok : Bool) : NextWf (execSolderCrcRetry boundary ok s) := by
  unfold execSolderCrcRetry
  simp only
  split
  · refine nextWf_next ?_
    exact h
  · split
    · refine nextWf_next ?_
      exact h
    · split
      · refine nextWf_next ?_
        exact h
      · refine nextWf_next ?_
        refine memWf_forAll (fun s x h => ?_) ?_ _
        · refine memWf_isolate ?_ ..
          exact h
        · refine memWf_event ?_ ..
          exact h

theorem keeps_execPortDown {s : State} (h : s.memWf) (port : Nat) : NextWf (execPortDown port s) := by
  unfold execPortDown
  split
  · refine nextWf_next ?_
    exact h
  · simp only
    refine nextWf_next ?_
    refine memWf_event ?_ ..
    exact h

theorem memWf_countPeerPart {s : State} (h : s.memWf) (ctx : Nat) (x : Nat × Nat) : (State.countPeerPart ctx s x).memWf := by
  unfold State.countPeerPart
  split
  · exact memWf_countWalk h ..
  · exact memWf_countFailed h ..

theorem memWf_countPeerBad {s : State} (h : s.memWf) (ctx : Nat) (parts : List (Nat × Nat)) : (s.countPeerBad ctx parts).memWf := by
  unfold State.countPeerBad
  simp only
  exact memWf_forAll (fun s x h => memWf_countPeerPart h ..) h _

theorem memWf_peerSignal {s : State} (h : s.memWf) (a : Acc) : (s.peerSignal a).memWf := by
  unfold State.peerSignal
  simp only
  split
  · exact memWf_countBad (memWf_countWeak (memWf_addCount h ..) ..) ..
  · exact memWf_poke (memWf_countWeak (memWf_addCount h ..) ..) ..

theorem nextWf_ite {p : Prop} [Decidable p] {a b : Host.Outcome State Fault Refusal} (ha : NextWf a) (hb : NextWf b) :
    NextWf (if p then a else b) := by
  split
  · exact ha
  · exact hb

theorem keeps_execPeerWriteIn {s : State} (h : s.memWf) (ctx : Nat) (va : Word64) (data : List Byte) (sig : Word64) :
    NextWf (execPeerWriteIn ctx va data sig s) := by
  unfold execPeerWriteIn
  extract_lets parts all word put
  have hput (r : State × List Byte) (a : Acc) (hr : r.1.memWf) : (put r a).1.memWf := memWf_poke (memWf_addCount hr ..) ..
  refine nextWf_ite (nextWf_next (memWf_meetsCopy h _)) ?_
  split
  next accs w _ _ =>
    extract_lets u
    have hu : u.memWf := memWf_foldl_fst hput (memWf_meetsCopy h _) _
    split
    · exact nextWf_ite (nextWf_next (memWf_peerSignal hu _)) (nextWf_next hu)
    · exact nextWf_next hu
  · exact nextWf_next (memWf_countPeerBad h ..)

theorem keeps_execPatrolScrub {s : State} (h : s.memWf) (stack : Nat) : NextWf (execPatrolScrub stack s) := by
  unfold execPatrolScrub
  simp only
  split <;> exact nextWf_next h

theorem memWf_repairEvent {s : State} (h : s.memWf) (stack used bank row granule : Nat) : (s.repairEvent stack used bank row granule).memWf := by
  unfold State.repairEvent
  exact memWf_event h ..

theorem memWf_retireGranule {s : State} (h : s.memWf) (stack bank granule : Nat) : (s.retireGranule stack bank granule).memWf := by
  unfold State.retireGranule
  simp only
  refine memWf_event ?_ ..
  exact h

theorem keeps_execRowRepair {s : State} (h : s.memWf) (stack bank row granule : Nat) : NextWf (execRowRepair stack bank row granule s) := by
  unfold execRowRepair
  simp only
  split
  · refine nextWf_next ?_
    exact h
  · split
    · refine nextWf_next ?_
      refine memWf_repairEvent ?_ ..
      exact h
    · split
      · refine nextWf_next ?_
        refine memWf_repairEvent ?_ ..
        exact h
      · split
        · split
          · refine nextWf_next ?_
            exact h
          · refine nextWf_next ?_
            refine memWf_repairEvent ?_ ..
            exact h
        · refine nextWf_next ?_
          refine memWf_retireGranule ?_ ..
          exact h

theorem keeps_execRepairCopyDone {s : State} (h : s.memWf) (stack : Nat) : NextWf (execRepairCopyDone stack s) := by
  unfold execRepairCopyDone
  exact nextWf_next (memWf_repairDone h ..)

theorem keeps_execRowHammer {s : State} (h : s.memWf) (fn stack bank deferred : Nat) : NextWf (execRowHammer fn stack bank deferred s) := by
  unfold execRowHammer
  simp only
  refine nextWf_next ?_
  refine memWf_event ?_ ..
  split <;> exact h

theorem keeps_execHammerWindowEnd {s : State} (h : s.memWf) (stack : Nat) : NextWf (execHammerWindowEnd stack s) := by
  unfold execHammerWindowEnd
  exact nextWf_next h

theorem keeps_execThermalLimit {s : State} (h : s.memWf) (die temp : Nat) : NextWf (execThermalLimit die temp s) := by
  unfold execThermalLimit
  simp only
  split
  · refine nextWf_next ?_
    exact h
  · split
    · refine nextWf_next ?_
      refine memWf_event ?_ ..
      exact h
    · refine nextWf_next ?_
      refine memWf_event ?_ ..
      refine memWf_forAll (fun s x h => ?_) ?_ _
      · exact h
      · exact h

theorem keeps_execPowerLimitReached {s : State} (h : s.memWf) (watts : Nat) : NextWf (execPowerLimitReached watts s) := by
  unfold execPowerLimitReached
  exact nextWf_next h

theorem keeps_execDroop {s : State} (h : s.memWf) (die : Nat) : NextWf (execDroop die s) := by
  unfold execDroop
  simp only
  split <;> exact nextWf_next h

theorem keeps_execDroopRecover {s : State} (h : s.memWf) (die : Nat) : NextWf (execDroopRecover die s) := by
  unfold execDroopRecover
  simp only
  split <;> exact nextWf_next h

theorem memWf_frontEndFails {s : State} (h : s.memWf) (die : Nat) : (s.frontEndFails die).memWf := by
  unfold State.frontEndFails
  simp only
  refine memWf_setDie ?_ ..
  refine memWf_forAll (fun s x h => ?_) ?_ _
  · refine memWf_finishHandover ?_ ..
    exact h
  · refine memWf_forAll (fun s x h => ?_) ?_ _
    · refine memWf_contextFault ?_ ..
      exact h
    · refine memWf_event ?_ ..
      exact h

theorem keeps_execLockstepMismatch {s : State} (h : s.memWf) (die : Nat) : NextWf (execLockstepMismatch die s) := by
  unfold execLockstepMismatch
  simp only
  split
  · refine nextWf_next ?_
    exact h
  · refine nextWf_next ?_
    split
    · refine memWf_frontEndFails ?_ ..
      exact h
    · exact h

theorem keeps_execFrontEndCheckpoint {s : State} (h : s.memWf) (die : Nat) : NextWf (execFrontEndCheckpoint die s) := by
  unfold execFrontEndCheckpoint
  split <;> exact nextWf_next h

theorem memWf_gcntRefresh {s : State} (h : s.memWf) (fn : Nat) : (s.gcntRefresh fn).memWf := by
  unfold State.gcntRefresh
  simp only
  split <;> exact h

theorem keeps_execGcntRefresh {s : State} (h : s.memWf) (fn : Nat) : NextWf (execGcntRefresh fn s) := by
  unfold execGcntRefresh
  exact nextWf_next (memWf_gcntRefresh h ..)

theorem memWf_foldSterling {s : State} (h : s.memWf) : s.foldSterling.memWf := h

theorem keeps_execSterlingFold {s : State} (h : s.memWf) : NextWf (execSterlingFold s) := by
  unfold execSterlingFold
  exact nextWf_next h

theorem keeps_execBandwidthWindow {s : State} (h : s.memWf) : NextWf (execBandwidthWindow s) := by
  unfold execBandwidthWindow
  exact nextWf_next h

theorem memWf_countEntry {s : State} (h : s.memWf) (ea : Nat) : (s.countEntry ea).memWf := by
  unfold State.countEntry
  split
  · exact h
  · exact memWf_countCorrected h ..

theorem memWf_hotWindow {s : State} (h : s.memWf) (home : Nat) : (s.hotWindow home).memWf := by
  unfold State.hotWindow
  simp only
  split
  · exact h
  · refine memWf_setDie ?_ ..
    refine memWf_forAll (fun s x h => ?_) ?_ _
    · refine memWf_countEntry ?_ ..
      exact h
    · exact h

theorem keeps_execHotPageWindow {s : State} (h : s.memWf) : NextWf (execHotPageWindow s) := by
  unfold execHotPageWindow
  exact nextWf_next (memWf_forAll (fun s x h => memWf_hotWindow h ..) h _)

theorem memWf_migrated {s : State} (h : s.memWf) (leaf a b size : Nat) (v : Word64) (dies : List (Nat × Die)) (atoms : List AtomReq) :
    State.memWf { s with dies := dies, mem := writeLe (movePage s.mem a b size) leaf 8 v.toNat, atoms := atoms } :=
  ⟨wf_writeLe _ _ _ (wf_movePage _ _ _ h.1), h.2.1, h.2.2⟩

theorem keeps_execPageMigration {s : State} (h : s.memWf) (die : Nat) : NextWf (execPageMigration die s) := by
  unfold execPageMigration
  simp only
  split
  · exact nextWf_next h
  split
  · exact nextWf_next (memWf_meetsCopy h _)
  next m rest _ _ =>
    have hu : State.memWf { (s.countEntry m.leaf).setDie die { (s.countEntry m.leaf).die die with migrations := rest } with
        freeCtr := s.freeCtr + 1 } := memWf_countEntry h _
    split
    · exact nextWf_next hu
    · refine nextWf_next (memWf_migrated (memWf_countCorrected ?_ _) ..)
      exact hu

theorem memWf_takeUnits {s : State} (h : s.memWf) (y : Site) (i : Instr) (c : Nat) : (s.takeUnits y i c).memWf := h

theorem memWf_modSplits {s : State} (h : s.memWf) (core entry : Nat) (f : Split → Split) : (s.modSplits core entry f).memWf := by
  unfold State.modSplits
  split <;> exact h

theorem memWf_dropTraps {s : State} (h : s.memWf) (core entry : Nat) (split : Option Nat) : (s.dropTraps core entry split).memWf := h

theorem memWf_trapEvent {s : State} (h : s.memWf) (y : Site) (r : TrapRec) : (s.trapEvent y r).memWf := by
  unfold State.trapEvent
  exact memWf_event h ..

theorem keeps_execTrapTake {s : State} (h : s.memWf) (core : Nat) : NextWf (execTrapTake core s) := by
  unfold execTrapTake
  simp only
  split
  · refine nextWf_next ?_
    exact h
  · split
    · refine nextWf_next ?_
      exact h
    · split
      · refine nextWf_next ?_
        exact h
      · split
        · refine nextWf_next ?_
          refine memWf_trapEvent ?_ ..
          refine memWf_modSplits ?_ ..
          refine memWf_modSplit ?_ ..
          exact h
        · refine nextWf_next ?_
          refine memWf_trapEvent ?_ ..
          refine memWf_modSplit ?_ ..
          exact h
        · refine nextWf_next ?_
          refine memWf_contextFault ?_ ..
          exact h

theorem memWf_tableFault {s : State} (h : s.memWf) (core entry : Nat) : (s.tableFault core entry).memWf := by
  unfold State.tableFault
  split
  · exact memWf_contextFault h ..
  · exact h

theorem memWf_trapResume {s : State} (h : s.memWf) (core entry : Nat) (all : Bool) : (s.trapResume core entry all).memWf := by
  unfold State.trapResume
  split
  · exact h
  · split
    · refine memWf_tableFault ?_ ..
      exact h
    · split
      · refine memWf_modSplits ?_ ..
        exact h
      · split <;> exact h

theorem memWf_trapEnd {s : State} (h : s.memWf) (core entry : Nat) : (s.trapEnd core entry).memWf := by
  unfold State.trapEnd
  simp only
  split
  · exact memWf_contextFault h ..
  · exact h

theorem memWf_trapCtl {s : State} (h : s.memWf) (core : Nat) (v : Word64) : (s.trapCtl core v).memWf := by
  unfold State.trapCtl
  simp only
  split
  · exact memWf_trapResume h ..
  · exact memWf_modSplits h ..
  · exact memWf_trapResume h ..
  · exact memWf_trapEnd h ..
  · exact h

theorem keeps_execTrapCmd {s : State} (h : s.memWf) : NextWf (execTrapCmd s) := by
  unfold execTrapCmd
  refine nextWf_requestRow h _ fun x => ?_
  simp only
  split
  · exact h
  · exact memWf_reply (memWf_trapCtl h ..) ..

theorem keeps_execTrapCtlResume {s : State} (h : s.memWf) : NextWf (execTrapCtlResume s) := by
  unfold execTrapCtlResume
  exact nextWf_next (memWf_trapResume h ..)

theorem keeps_execTrapCtlHalt {s : State} (h : s.memWf) : NextWf (execTrapCtlHalt s) := by
  unfold execTrapCtlHalt
  exact nextWf_next (memWf_modSplits h ..)

theorem keeps_execTrapCtlClearResume {s : State} (h : s.memWf) : NextWf (execTrapCtlClearResume s) := by
  unfold execTrapCtlClearResume
  exact nextWf_next (memWf_trapResume h ..)

theorem keeps_execTrapCtlEnd {s : State} (h : s.memWf) : NextWf (execTrapCtlEnd s) := by
  unfold execTrapCtlEnd
  exact nextWf_next (memWf_trapEnd h ..)

theorem keeps_execGroupStateWrite {s : State} (h : s.memWf) (core entry off : Nat) (val : Word64) :
    NextWf (execGroupStateWrite core entry off val s) := by
  unfold execGroupStateWrite
  split
  · exact nextWf_next h
  · split <;> exact nextWf_next h

theorem memWf_splitWatch {s : State} (h : s.memWf) (y : Site) : (s.splitWatch y).memWf := by
  unfold State.splitWatch
  split
  · exact memWf_stopSplit h ..
  · exact h

theorem keeps_execWatchdogSplit {s : State} (h : s.memWf) : NextWf (execWatchdogSplit s) := by
  unfold execWatchdogSplit
  split
  · exact nextWf_next h
  · split
    · exact nextWf_next h
    · exact nextWf_next (memWf_splitWatch h ..)

theorem memWf_teamWatch {s : State} (h : s.memWf) (y : Site) : (s.teamWatch y).memWf := by
  unfold State.teamWatch
  split
  · exact memWf_stopSplit h ..
  · exact h

theorem keeps_execWatchdogTeam {s : State} (h : s.memWf) : NextWf (execWatchdogTeam s) := by
  unfold execWatchdogTeam
  split
  · exact nextWf_next h
  · exact nextWf_next (memWf_teamWatch h ..)

theorem memWf_teamWatches {s : State} (h : s.memWf) : s.teamWatches.memWf := by
  unfold State.teamWatches
  exact memWf_forAll (fun s x h => memWf_teamWatch h ..) h _

theorem keeps_execNotice {s : State} (h : s.memWf) : NextWf (execNotice s) := by
  unfold execNotice
  split
  · exact nextWf_next h
  · split
    · exact nextWf_next (memWf_takeNotice h ..)
    · exact nextWf_next h

theorem memWf_sample {s : State} (h : s.memWf) (core quarter : Nat) : (s.sample core quarter).memWf := by
  unfold State.sample
  simp only
  split
  · exact h
  split
  · exact h
  · have hu : ∀ (k : Core) (x : Site) (p : Nat), State.memWf
        (match (s.setCore core k).storeVa x.ctx x.die p (s.sampleBytes x) with
          | .ok y => y
          | .error e => (s.setCore core k).countFailed x.ctx p 0 e) := by
      intro k x p
      have hk : (s.setCore core k).memWf := memWf_setCore h ..
      split
      next e => exact memWf_storeVa hk e
      · exact memWf_countFailed hk ..
    refine memWf_of_eq (memWf_ite (memWf_writeSampleCount (memWf_setFunc (hu _ _ _) ..) _) (memWf_setFunc (hu _ _ _) ..)) rfl rfl rfl

theorem memWf_toCycle {s : State} (h : s.memWf) (core c : Nat) : (s.toCycle core c).memWf := by
  unfold State.toCycle
  refine memWf_setCore (memWf_ite (memWf_forAll (fun u d hu => memWf_forAll (fun v q hv => memWf_sample hv ..) (memWf_setCore hu ..) _) h _) h) ..

theorem memWf_noteFetch {s : State} (h : s.memWf) (y : Site) : (s.noteFetch y).memWf := by
  unfold State.noteFetch
  split
  · exact memWf_afterRead h ..
  · exact h

theorem memWf_nextTurn {s : State} (h : s.memWf) (lid key : Nat) : (s.nextTurn lid key).memWf := by
  unfold State.nextTurn
  split <;> exact h

theorem keeps_execPcSample {s : State} (h : s.memWf) (core quarter : Nat) : NextWf (execPcSample core quarter s) := by
  unfold execPcSample
  exact nextWf_next (memWf_ite (memWf_sample h ..) h)

theorem memWf_beginIssue {s : State} (h : s.memWf) (y : Site) (f : Fetched) (c : Nat) (early : List (Reg × Word64)) :
    (s.beginIssue y f c early).memWf := by
  unfold State.beginIssue
  exact memWf_of_eq (memWf_modSplit (memWf_toCycle (memWf_afterRead h f.acc) y.core c) y _) rfl rfl rfl

theorem memWf_endGiveWay {s : State} (h : s.memWf) (y : Site) (c : Nat) : (s.endGiveWay y c).memWf := h

theorem memWf_coreWatch {s : State} (h : s.memWf) (core : Nat) : (s.coreWatch core).memWf := by
  unfold State.coreWatch
  exact memWf_forAll (fun s x h => memWf_splitWatch h ..) h _

theorem memWf_splitWatches {s : State} (h : s.memWf) : s.splitWatches.memWf := by
  unfold State.splitWatches
  exact memWf_forAll (fun s x h => memWf_splitWatch h ..) h _

theorem memWf_endIssue {s : State} (h : s.memWf) (y : Site) (c : Nat) (f : Fetched) (late : List Nat) : (s.endIssue y c f late).memWf := by
  unfold State.endIssue
  simp only
  split
  · refine memWf_nextTurn ?_ ..
    refine memWf_modCtx ?_ ..
    refine memWf_endGiveWay ?_ ..
    split
    · refine memWf_modGroup ?_ ..
      exact h
    · exact h
  · refine memWf_modCtx ?_ ..
    refine memWf_endGiveWay ?_ ..
    split
    · refine memWf_modGroup ?_ ..
      exact h
    · exact h

theorem memWf_elapse {s : State} (h : s.memWf) (dt : Nat) : (s.elapse dt).memWf := by
  unfold State.elapse
  simp only
  have hu := memWf_noteAble (memWf_forAll (fun u die hu => memWf_noteIdle (s := u) hu die) h [0, 1, 2, 3]) (s.refTime + dt)
  refine memWf_of_eq (memWf_forAll (fun u c hu => memWf_setCore (memWf_toCycle hu ..) ..) ?_ _) rfl rfl rfl
  exact hu

theorem memWf_msEdge {s : State} (h : s.memWf) : s.msEdge.memWf := by
  unfold State.msEdge
  split
  · exact h
  · exact memWf_foldSterling (memWf_forAll (fun s x h => memWf_hotWindow h ..) (memWf_periodEnd h ..) _) ..

theorem memWf_edge {s : State} (h : s.memWf) : s.edge.memWf := by
  unfold State.edge
  simp only
  exact memWf_teamWatches (memWf_forAll (fun s x h => memWf_endTimeout h ..) (memWf_reconcile (memWf_forAll (fun s x h =>
    memWf_gcntRefresh h ..) (memWf_msEdge h ..) _) ..) _) ..

theorem memWf_passTo {s : State} (h : s.memWf) (n till : Nat) : (State.passTo n till s).memWf := by
  induction n generalizing s with
  | zero => exact memWf_elapse h _
  | succ n ih =>
    unfold State.passTo
    split
    · exact memWf_elapse h _
    · exact ih (memWf_afterCopies (fun u hu => memWf_edge hu) (memWf_elapse h _))

theorem memWf_pass {s : State} (h : s.memWf) (dt : Nat) : (s.pass dt).memWf := by
  unfold State.pass
  split
  · exact h
  split
  · exact h
  · exact memWf_passTo (memWf_afterCopies (fun u hu => memWf_splitWatches hu) h) ..

theorem keeps_shuffle {s : State} (h : s.memWf) (d a : BitVec 8) (plain : List Nat) (ix : Site → Nat → Nat) : NextWf (shuffle s d a plain ix) := by
  unfold shuffle
  exact nextWf_issue h fun x => keeps_bind fun _ _ => keeps_bind fun _ _ => keeps_state (memWf_drain (memWf_vecWrite h ..) ..)

theorem keeps_execShfl {s : State} (h : s.memWf) (d a b : BitVec 8) : NextWf (execShfl d a b s) := by
  unfold execShfl
  exact keeps_shuffle h ..

theorem keeps_execShflUniform {s : State} (h : s.memWf) (d a : BitVec 8) (b : BitVec 6) : NextWf (execShflUniform d a b s) := by
  unfold execShflUniform
  exact keeps_shuffle h ..

theorem keeps_execShfx {s : State} (h : s.memWf) (d a b : BitVec 8) : NextWf (execShfx d a b s) := by
  unfold execShfx
  exact keeps_shuffle h ..

theorem keeps_execShfxImm {s : State} (h : s.memWf) (d a i : BitVec 8) : NextWf (execShfxImm d a i s) := by
  unfold execShfxImm
  exact keeps_shuffle h ..

theorem keeps_vote {s : State} (h : s.memWf) (d : BitVec 6) (f : Site → Word64) : NextWf (vote s d f) := by
  unfold vote
  exact nextWf_issue h fun x => keeps_state (memWf_advance (memWf_writeK h ..) ..)

theorem keeps_execVany {s : State} (h : s.memWf) (d : BitVec 6) (a : BitVec 3) : NextWf (execVany d a s) := by
  unfold execVany
  exact keeps_vote h ..

theorem keeps_execVall {s : State} (h : s.memWf) (d : BitVec 6) (a : BitVec 3) : NextWf (execVall d a s) := by
  unfold execVall
  exact keeps_vote h ..

theorem keeps_execVbal {s : State} (h : s.memWf) (d : BitVec 6) (a : BitVec 3) : NextWf (execVbal d a s) := by
  unfold execVbal
  exact keeps_vote h ..

theorem keeps_execGred {s : State} (h : s.memWf) (d : BitVec 6) (a : BitVec 8) (o : BitVec 3) : NextWf (execGred d a o s) := by
  unfold execGred
  refine nextWf_issue h fun x => ?_
  refine keeps_bind fun x e => ?_
  refine keeps_bind fun x e => ?_
  refine keeps_bind fun x e => ?_
  simp only
  exact keeps_state (memWf_drain (memWf_advance (memWf_writeK h ..) ..) ..)

theorem keeps_execGscan {s : State} (h : s.memWf) (d a : BitVec 8) (o : BitVec 3) : NextWf (execGscan d a o s) := by
  unfold execGscan
  refine nextWf_issue h fun x => ?_
  refine keeps_bind fun x e => ?_
  refine keeps_bind fun x e => ?_
  refine keeps_bind fun x e => ?_
  simp only
  exact keeps_state (memWf_drain (memWf_vecWrite h ..) ..)

theorem keeps_matProduct {s : State} (h : s.memWf) (m : MatOp) (t : Team) (reuse : Bool) (acc tile a6 follower : Nat) :
    Keeps id (matProduct s m t reuse acc tile a6 follower) := by
  unfold matProduct
  simp only
  split
  · exact keeps_error
  · refine keeps_state ?_
    refine memWf_modCtx ?_ ..
    exact h

theorem keeps_ite {ε α : Type} {π : α → State} {p : Prop} [Decidable p] {a b : Except ε α} (ha : Keeps π a) (hb : Keeps π b) :
    Keeps π (if p then a else b) := by
  split
  · exact ha
  · exact hb

theorem keeps_lift {r : Except Cause State} (h : Keeps id r) (addr : Word64) : Keeps id (lift addr r) := by
  cases r with
  | error c => exact keeps_error
  | ok x => exact keeps_state (h.wf x rfl)

theorem keeps_accDeliver {s : State} (h : s.memWf) (s0 : State) (m : MatOp) (t : Team) (acc : Nat) (is : List Nat) :
    Keeps id (accDeliver s0 m t acc is s) := by
  induction is generalizing s with
  | nil => exact keeps_state h
  | cons i is ih =>
    unfold accDeliver
    simp only
    split
    · exact keeps_error
    next u e => exact ih ((keeps_writeSpans h ..).wf u e)

theorem keeps_matRun {s : State} (h : s.memWf) (m : MatOp) : Keeps id (matRun s m) := by
  unfold matRun
  split
  · exact keeps_state h
  · simp only
    split
    · exact keeps_state (memWf_setTeam h ..)
    · exact keeps_ite keeps_error (keeps_state (memWf_setTeam h ..))
    · exact keeps_state (memWf_setTeam h ..)
    · exact keeps_lift (keeps_matProduct h ..) _
    · exact keeps_lift (keeps_matProduct h ..) _
    · exact keeps_accDeliver h ..

theorem memWf_undefine {s : State} (h : s.memWf) (m : MatOp) : (s.undefine m).memWf := by
  unfold State.undefine
  split
  · exact h
  · simp only
    split
    · exact memWf_setTeam h ..
    · exact memWf_setTeam h ..
    · exact memWf_setTeam h ..
    · exact memWf_setTeam h ..
    · exact memWf_setTeam h ..
    · split
      next u e => exact (keeps_accDeliver h ..).wf u e
      · exact h

theorem keeps_matTry {s : State} (h : s.memWf) (m : MatOp) : Keeps id (matTry s m) := by
  unfold matTry
  split
  · split
    · exact keeps_state h
    split
    · exact keeps_state (memWf_undefine h _)
    · exact keeps_error
  · exact keeps_matRun h m

theorem memWf_matDone {s : State} (h : s.memWf) (m : MatOp) {r : Except Stop State} (hr : Keeps id r) : (s.matDone m r).memWf := by
  unfold State.matDone
  split
  next u => exact memWf_of_eq (hr.wf u rfl) rfl rfl rfl
  · exact h
  · exact memWf_engineStop h ..

theorem keeps_execMatrixRetire {s : State} (h : s.memWf) (core : Nat) : NextWf (execMatrixRetire core s) := by
  unfold execMatrixRetire
  split
  · exact nextWf_next h
  split
  · exact nextWf_next h
  · exact nextWf_next (memWf_matDone h _ (keeps_mapState fun u e => memWf_of_eq ((keeps_matTry h _).wf u e) rfl rfl rfl))

theorem keeps_accept {s : State} (h : s.memWf) (y : Site) (kind : MatKind) (i : Mem) (drain : Bool) (into : List (Nat × Nat)) :
    Keeps id (accept s y kind i drain into) := by
  have hgo {u : State} (hu : u.memWf) : State.memWf (if drain then (u.advance y).drain y else u.advance y) :=
    memWf_ite (memWf_drain (memWf_advance hu y) y) (memWf_advance hu y)
  unfold accept
  simp only
  split
  · exact keeps_error
  split
  · split
    next u e => exact keeps_state (hgo ((keeps_matTry h _).wf u e))
    · exact keeps_error
    · exact keeps_state (memWf_engineStop h ..)
  · exact keeps_state (hgo (memWf_of_eq h rfl rfl rfl))

theorem keeps_execTld {s : State} (h : s.memWf) (t : BitVec 3) (i : BitVec 8) : NextWf (execTld t i s) := by
  unfold execTld
  refine nextWf_issue h fun x => ?_
  simp only
  exact keeps_bind fun _ _ => keeps_bind fun _ _ => keeps_accept h ..

theorem keeps_execShape {s : State} (h : s.memWf) (a : BitVec 6) : NextWf (execShape a s) := by
  unfold execShape
  refine nextWf_issue h fun x => ?_
  simp only
  exact keeps_accept h ..

theorem keeps_execFenop {s : State} (h : s.memWf) : NextWf (execFenop s) := by
  unfold execFenop
  exact nextWf_issue h fun x => keeps_bind fun _ _ => keeps_state (memWf_advance h ..)

theorem keeps_execMma {s : State} (h : s.memWf) (r : BitVec 1) (d t : BitVec 3) (i : BitVec 8) : NextWf (execMma r d t i s) := by
  unfold execMma
  refine nextWf_issue h fun x => ?_
  simp only
  exact keeps_bind fun _ _ => keeps_bind fun _ _ => keeps_accept h ..

theorem keeps_execMmap {s : State} (h : s.memWf) (r : BitVec 1) (d t : BitVec 3) (i : BitVec 8) : NextWf (execMmap r d t i s) := by
  unfold execMmap
  refine nextWf_issue h fun x => ?_
  simp only
  exact keeps_bind fun _ _ => keeps_bind fun _ _ => keeps_accept h ..

theorem keeps_execAccz {s : State} (h : s.memWf) (d : BitVec 3) : NextWf (execAccz d s) := by
  unfold execAccz
  exact nextWf_issue h fun x => keeps_accept h ..

theorem keeps_execAccrd {s : State} (h : s.memWf) (d : BitVec 3) (i : BitVec 8) : NextWf (execAccrd d i s) := by
  unfold execAccrd
  refine nextWf_issue h fun x => ?_
  simp only
  refine keeps_bind fun x e => ?_
  split <;> exact keeps_bind fun _ _ => keeps_bind fun _ _ => keeps_accept h ..

theorem memWf_waited {s : State} (h : s.memWf) (key : Nat) : (s.waited key).memWf := by
  unfold State.waited
  exact memWf_of_eq (memWf_forAll (fun u m hu => memWf_undefine (s := u) hu m) h _) rfl rfl rfl

theorem keeps_execMwait {s : State} (h : s.memWf) : NextWf (execMwait s) := by
  unfold execMwait
  refine nextWf_issue h fun x => ?_
  split
  · exact keeps_error
  · exact keeps_state (memWf_advance (memWf_waited h ..) ..)

theorem keeps_uniform {s : State} (h : s.memWf) (d : BitVec 6) (f : Site → Word64) : NextWf (uniform s d f) := by
  unfold uniform
  exact nextWf_issue h fun x => keeps_state (memWf_advance (memWf_writeK h ..) ..)

theorem keeps_execKli {s : State} (h : s.memWf) (d : BitVec 6) (i : BitVec 16) : NextWf (execKli d i s) := by
  unfold execKli
  exact keeps_uniform h ..

theorem keeps_execKlih {s : State} (h : s.memWf) (p : BitVec 2) (d : BitVec 6) (i : BitVec 16) : NextWf (execKlih p d i s) := by
  unfold execKlih
  refine nextWf_issue h fun x => ?_
  split
  · exact keeps_error
  · simp only
    exact keeps_state (memWf_advance (memWf_writeK h ..) ..)

theorem keeps_execKmov {s : State} (h : s.memWf) (d a : BitVec 6) : NextWf (execKmov d a s) := by
  unfold execKmov
  exact keeps_uniform h ..

theorem keeps_execKadd {s : State} (h : s.memWf) (d a b : BitVec 6) : NextWf (execKadd d a b s) := by
  unfold execKadd
  exact keeps_uniform h ..

theorem keeps_execKaddImm {s : State} (h : s.memWf) (d a : BitVec 6) (i : BitVec 8) : NextWf (execKaddImm d a i s) := by
  unfold execKaddImm
  exact keeps_uniform h ..

theorem keeps_execKsub {s : State} (h : s.memWf) (d a b : BitVec 6) : NextWf (execKsub d a b s) := by
  unfold execKsub
  exact keeps_uniform h ..

theorem keeps_execKsubImm {s : State} (h : s.memWf) (d a : BitVec 6) (i : BitVec 8) : NextWf (execKsubImm d a i s) := by
  unfold execKsubImm
  exact keeps_uniform h ..

theorem keeps_execKmul {s : State} (h : s.memWf) (d a b : BitVec 6) : NextWf (execKmul d a b s) := by
  unfold execKmul
  exact keeps_uniform h ..

theorem keeps_execKmulImm {s : State} (h : s.memWf) (d a : BitVec 6) (i : BitVec 8) : NextWf (execKmulImm d a i s) := by
  unfold execKmulImm
  exact keeps_uniform h ..

theorem keeps_execKmulh {s : State} (h : s.memWf) (u : BitVec 1) (d a b : BitVec 6) : NextWf (execKmulh u d a b s) := by
  unfold execKmulh
  exact keeps_uniform h ..

theorem keeps_execKand {s : State} (h : s.memWf) (d a b : BitVec 6) : NextWf (execKand d a b s) := by
  unfold execKand
  exact keeps_uniform h ..

theorem keeps_execKandImm {s : State} (h : s.memWf) (d a : BitVec 6) (i : BitVec 8) : NextWf (execKandImm d a i s) := by
  unfold execKandImm
  exact keeps_uniform h ..

theorem keeps_execKor {s : State} (h : s.memWf) (d a b : BitVec 6) : NextWf (execKor d a b s) := by
  unfold execKor
  exact keeps_uniform h ..

theorem keeps_execKorImm {s : State} (h : s.memWf) (d a : BitVec 6) (i : BitVec 8) : NextWf (execKorImm d a i s) := by
  unfold execKorImm
  exact keeps_uniform h ..

theorem keeps_execKxor {s : State} (h : s.memWf) (d a b : BitVec 6) : NextWf (execKxor d a b s) := by
  unfold execKxor
  exact keeps_uniform h ..

theorem keeps_execKxorImm {s : State} (h : s.memWf) (d a : BitVec 6) (i : BitVec 8) : NextWf (execKxorImm d a i s) := by
  unfold execKxorImm
  exact keeps_uniform h ..

theorem keeps_execKshl {s : State} (h : s.memWf) (d a b : BitVec 6) : NextWf (execKshl d a b s) := by
  unfold execKshl
  exact keeps_uniform h ..

theorem keeps_execKshlImm {s : State} (h : s.memWf) (d a i : BitVec 6) : NextWf (execKshlImm d a i s) := by
  unfold execKshlImm
  exact keeps_uniform h ..

theorem keeps_execKshr {s : State} (h : s.memWf) (d a b : BitVec 6) : NextWf (execKshr d a b s) := by
  unfold execKshr
  exact keeps_uniform h ..

theorem keeps_execKshrImm {s : State} (h : s.memWf) (d a i : BitVec 6) : NextWf (execKshrImm d a i s) := by
  unfold execKshrImm
  exact keeps_uniform h ..

theorem keeps_execKsar {s : State} (h : s.memWf) (d a b : BitVec 6) : NextWf (execKsar d a b s) := by
  unfold execKsar
  exact keeps_uniform h ..

theorem keeps_execKsarImm {s : State} (h : s.memWf) (d a i : BitVec 6) : NextWf (execKsarImm d a i s) := by
  unfold execKsarImm
  exact keeps_uniform h ..

theorem keeps_execKmin {s : State} (h : s.memWf) (u : BitVec 1) (d a b : BitVec 6) : NextWf (execKmin u d a b s) := by
  unfold execKmin
  exact keeps_uniform h ..

theorem keeps_execKmax {s : State} (h : s.memWf) (u : BitVec 1) (d a b : BitVec 6) : NextWf (execKmax u d a b s) := by
  unfold execKmax
  exact keeps_uniform h ..

theorem keeps_execKcmp {s : State} (h : s.memWf) (c : BitVec 3) (d a b : BitVec 6) : NextWf (execKcmp c d a b s) := by
  unfold execKcmp
  refine nextWf_issue h fun x => ?_
  split
  · exact keeps_error
  · exact keeps_state (memWf_advance (memWf_writeK h ..) ..)

theorem keeps_execKsel {s : State} (h : s.memWf) (d a b : BitVec 6) : NextWf (execKsel d a b s) := by
  unfold execKsel
  exact keeps_uniform h ..

theorem keeps_execKpop {s : State} (h : s.memWf) (d a : BitVec 6) : NextWf (execKpop d a s) := by
  unfold execKpop
  exact keeps_uniform h ..

theorem keeps_execKpopPred {s : State} (h : s.memWf) (d : BitVec 6) (a : BitVec 3) : NextWf (execKpopPred d a s) := by
  unfold execKpopPred
  exact keeps_uniform h ..

theorem keeps_execKfirst {s : State} (h : s.memWf) (d a : BitVec 6) : NextWf (execKfirst d a s) := by
  unfold execKfirst
  exact keeps_uniform h ..

theorem keeps_execKfirstPred {s : State} (h : s.memWf) (d : BitVec 6) (a : BitVec 3) : NextWf (execKfirstPred d a s) := by
  unfold execKfirstPred
  exact keeps_uniform h ..

theorem keeps_exec {s : State} (h : s.memWf) (i : Instr) : NextWf (exec i s) := by
  unfold exec
  split
  · exact keeps_execColdReset h ..
  · exact keeps_execHotReset h ..
  · exact keeps_execFunctionLevelReset h ..
  · exact keeps_execLinkDown h ..
  · exact keeps_execSolderCrcRetry h ..
  · exact keeps_execPortDown h ..
  · exact keeps_execPeerWriteIn h ..
  · exact keeps_execPatrolScrub h ..
  · exact keeps_execRowRepair h ..
  · exact keeps_execRepairCopyDone h ..
  · exact keeps_execRowHammer h ..
  · exact keeps_execHammerWindowEnd h ..
  · exact keeps_execThermalLimit h ..
  · exact keeps_execDroop h ..
  · exact keeps_execDroopRecover h ..
  · exact keeps_execLockstepMismatch h ..
  · exact keeps_execFrontEndCheckpoint h ..
  · exact keeps_execSpdmRequest h ..
  · exact keeps_execMctpSterlingRead h ..
  · exact keeps_execRegisterWrite h ..
  · exact keeps_execDoorbell h ..
  · exact keeps_execQcmdReset h ..
  · exact keeps_execQpcmdReset h ..
  · exact keeps_execQpcmdEnable h ..
  · exact keeps_execQpcmdDisable h ..
  · exact keeps_execResetDone h ..
  · exact keeps_execDisableDone h ..
  · exact keeps_execReconcilePass h ..
  · exact keeps_execMbSubmitUnknown h ..
  · exact keeps_execMbResponse h ..
  · exact keeps_execEventRingWrite h ..
  · exact keeps_execPfeqCtlWrite h ..
  · exact keeps_execStackStat h ..
  · exact keeps_execPowerLimitRead h ..
  · exact keeps_execPowerLimitSet h ..
  · exact keeps_execPartSet h ..
  · exact keeps_execPartDel h ..
  · exact keeps_execInval h ..
  · exact keeps_execSterlingRead h ..
  · exact keeps_execSterlingAck h ..
  · exact keeps_execDieStats h ..
  · exact keeps_execSqueeze h ..
  · exact keeps_execSqueezeHandover h ..
  · exact keeps_execUnsqueeze h ..
  · exact keeps_execTrapCmd h ..
  · exact keeps_execCaStoreCreate h ..
  · exact keeps_execCaStoreDelete h ..
  · exact keeps_execCaBind h ..
  · exact keeps_execCaUnbind h ..
  · exact keeps_execFinalise h ..
  · exact keeps_execCaLineRead h ..
  · exact keeps_execCaRootRead h ..
  · exact keeps_execSwitchOut h ..
  · exact keeps_execSwitchIn h ..
  · exact keeps_execSwitchInRestore h ..
  · exact keeps_execNopPacket h ..
  · exact keeps_execLaunch h ..
  · exact keeps_execSignal h ..
  · exact keeps_execWait h ..
  · exact keeps_execWaitSatisfied h ..
  · exact keeps_execWaitTimeout h ..
  · exact keeps_execPublish h ..
  · exact keeps_execMarker h ..
  · exact keeps_execPacketComplete h ..
  · exact keeps_execEngineFault h ..
  · exact keeps_execSchedPeriod h ..
  · exact keeps_execSaveDrainDone h ..
  · exact keeps_execOverBudget h ..
  · exact keeps_execTeamDispatch h ..
  · exact keeps_execStepAgree h ..
  · exact keeps_execTeamComplete h ..
  · exact keeps_execDieIdle h ..
  · exact keeps_execStealReq h ..
  · exact keeps_execStealGive h ..
  · exact keeps_execStealNone h ..
  · exact keeps_execStealDone h ..
  · exact keeps_execGatherTimeout h ..
  · exact keeps_execJoinRecordEnqueue h ..
  · exact keeps_execExpansion h ..
  · exact keeps_execNotice h ..
  · exact keeps_execTrapTake h ..
  · exact keeps_execTrapCtlResume h ..
  · exact keeps_execTrapCtlHalt h ..
  · exact keeps_execTrapCtlClearResume h ..
  · exact keeps_execTrapCtlEnd h ..
  · exact keeps_execGroupStateWrite h ..
  · exact keeps_execWatchdogSplit h ..
  · exact keeps_execWatchdogTeam h ..
  · exact keeps_execPcSample h ..
  · exact keeps_execSterlingFold h ..
  · exact keeps_execGcntRefresh h ..
  · exact keeps_execHotPageWindow h ..
  · exact keeps_execPageMigration h ..
  · exact keeps_execLoadComplete h ..
  · exact keeps_execAtomicAtEngine h ..
  · exact keeps_execDqpushRetry h ..
  · exact keeps_execCopyDeliver h ..
  · exact keeps_execCopyComplete h ..
  · exact keeps_execMatrixRetire h ..
  · exact keeps_execElectrumStep h ..
  · exact keeps_execCascadeDrop h ..
  · exact keeps_execFrameLiveDecrement h ..
  · exact keeps_execNop h ..
  · exact keeps_execBr h ..
  · exact keeps_execBrp h ..
  · exact keeps_execBrn h ..
  · exact keeps_execBruNz h ..
  · exact keeps_execBruZ h ..
  · exact keeps_execCall h ..
  · exact keeps_execCallt h ..
  · exact keeps_execJmpt h ..
  · exact keeps_execRet h ..
  · exact keeps_execExit h ..
  · exact keeps_execYield h ..
  · exact keeps_execBrk h ..
  · exact keeps_execTrap h ..
  · exact keeps_execNret h ..
  · exact keeps_execNchk h ..
  · exact keeps_execEnter h ..
  · exact keeps_execLeave h ..
  · exact keeps_execMode h ..
  · exact keeps_execModeGd h ..
  · exact keeps_execModr h ..
  · exact keeps_execRsr h ..
  · exact keeps_execWsr h ..
  · exact keeps_execKli h ..
  · exact keeps_execKlih h ..
  · exact keeps_execKmov h ..
  · exact keeps_execKadd h ..
  · exact keeps_execKaddImm h ..
  · exact keeps_execKsub h ..
  · exact keeps_execKsubImm h ..
  · exact keeps_execKmul h ..
  · exact keeps_execKmulImm h ..
  · exact keeps_execKmulh h ..
  · exact keeps_execKand h ..
  · exact keeps_execKandImm h ..
  · exact keeps_execKor h ..
  · exact keeps_execKorImm h ..
  · exact keeps_execKxor h ..
  · exact keeps_execKxorImm h ..
  · exact keeps_execKshl h ..
  · exact keeps_execKshlImm h ..
  · exact keeps_execKshr h ..
  · exact keeps_execKshrImm h ..
  · exact keeps_execKsar h ..
  · exact keeps_execKsarImm h ..
  · exact keeps_execKmin h ..
  · exact keeps_execKmax h ..
  · exact keeps_execKcmp h ..
  · exact keeps_execKsel h ..
  · exact keeps_execKpop h ..
  · exact keeps_execKpopPred h ..
  · exact keeps_execKfirst h ..
  · exact keeps_execKfirstPred h ..
  · exact keeps_execVli h ..
  · exact keeps_execVliH h ..
  · exact keeps_execVmov h ..
  · exact keeps_execVbc h ..
  · exact keeps_execVadd h ..
  · exact keeps_execVaddUniform h ..
  · exact keeps_execVsub h ..
  · exact keeps_execVsubUniform h ..
  · exact keeps_execVmul h ..
  · exact keeps_execVmulUniform h ..
  · exact keeps_execVmulh h ..
  · exact keeps_execVmulhUniform h ..
  · exact keeps_execVmad h ..
  · exact keeps_execVmadUniform h ..
  · exact keeps_execVand h ..
  · exact keeps_execVandUniform h ..
  · exact keeps_execVor h ..
  · exact keeps_execVorUniform h ..
  · exact keeps_execVxor h ..
  · exact keeps_execVxorUniform h ..
  · exact keeps_execVnot h ..
  · exact keeps_execVshl h ..
  · exact keeps_execVshlUniform h ..
  · exact keeps_execVshr h ..
  · exact keeps_execVshrUniform h ..
  · exact keeps_execVmin h ..
  · exact keeps_execVminUniform h ..
  · exact keeps_execVmax h ..
  · exact keeps_execVmaxUniform h ..
  · exact keeps_execVabs h ..
  · exact keeps_execVneg h ..
  · exact keeps_execVclz h ..
  · exact keeps_execVpop h ..
  · exact keeps_execVcmp h ..
  · exact keeps_execVcmpUniform h ..
  · exact keeps_execVsel h ..
  · exact keeps_execVselUniform h ..
  · exact keeps_execPand h ..
  · exact keeps_execPor h ..
  · exact keeps_execPxor h ..
  · exact keeps_execPnot h ..
  · exact keeps_execPset h ..
  · exact keeps_execPsetK h ..
  · exact keeps_execFadd h ..
  · exact keeps_execFaddUniform h ..
  · exact keeps_execFsub h ..
  · exact keeps_execFsubUniform h ..
  · exact keeps_execFmul h ..
  · exact keeps_execFmulUniform h ..
  · exact keeps_execFfma h ..
  · exact keeps_execFfmaUniform h ..
  · exact keeps_execFmin h ..
  · exact keeps_execFminUniform h ..
  · exact keeps_execFmax h ..
  · exact keeps_execFmaxUniform h ..
  · exact keeps_execFabs h ..
  · exact keeps_execFneg h ..
  · exact keeps_execFrcp h ..
  · exact keeps_execFrsq h ..
  · exact keeps_execFsqrt h ..
  · exact keeps_execFexp h ..
  · exact keeps_execFlog h ..
  · exact keeps_execFsin h ..
  · exact keeps_execFcos h ..
  · exact keeps_execFtanh h ..
  · exact keeps_execFcmp h ..
  · exact keeps_execFcmpUniform h ..
  · exact keeps_execFcls h ..
  · exact keeps_execCvt h ..
  · exact keeps_execBpak h ..
  · exact keeps_execBunp h ..
  · exact keeps_execBscl h ..
  · exact keeps_execBsclUniform h ..
  · exact keeps_execShfl h ..
  · exact keeps_execShflUniform h ..
  · exact keeps_execShfx h ..
  · exact keeps_execShfxImm h ..
  · exact keeps_execVany h ..
  · exact keeps_execVall h ..
  · exact keeps_execVbal h ..
  · exact keeps_execGred h ..
  · exact keeps_execGscan h ..
  · exact keeps_execLd h ..
  · exact keeps_execSt h ..
  · exact keeps_execLda h ..
  · exact keeps_execStl h ..
  · exact keeps_execLds h ..
  · exact keeps_execSts h ..
  · exact keeps_execLdk h ..
  · exact keeps_execStk h ..
  · exact keeps_execLwait h ..
  · exact keeps_execPref h ..
  · exact keeps_execLdf h ..
  · exact keeps_execLdfk h ..
  · exact keeps_execStf h ..
  · exact keeps_execAtom h ..
  · exact keeps_execAtomr h ..
  · exact keeps_execDqpush h ..
  · exact keeps_execDqpop h ..
  · exact keeps_execDqsteal h ..
  · exact keeps_execBari h ..
  · exact keeps_execBarr h ..
  · exact keeps_execBarw h ..
  · exact keeps_execBara h ..
  · exact keeps_execBarx h ..
  · exact keeps_execFence h ..
  · exact keeps_execPub h ..
  · exact keeps_execTdef h ..
  · exact keeps_execTget h ..
  · exact keeps_execCpy h ..
  · exact keeps_execCpyg h ..
  · exact keeps_execCpym h ..
  · exact keeps_execCpyo h ..
  · exact keeps_execCpyr h ..
  · exact keeps_execBclose h ..
  · exact keeps_execBwait h ..
  · exact keeps_execMma h ..
  · exact keeps_execMmap h ..
  · exact keeps_execAccz h ..
  · exact keeps_execAccrd h ..
  · exact keeps_execTld h ..
  · exact keeps_execFenop h ..
  · exact keeps_execShape h ..
  · exact keeps_execMwait h ..
  · exact keeps_execCalookLeaf h ..
  · exact keeps_execCalookInt h ..
  · exact keeps_execCaread h ..
  · exact keeps_execCawalk h ..
  · exact keeps_execCarswap h ..
  · exact keeps_execCaref h ..
  · exact keeps_execCadrop h ..
  · exact keeps_execCaout h ..
  · exact keeps_execFnew h ..
  · exact keeps_execFnewU h ..
  · exact keeps_execFret h ..
  · exact keeps_execFretU h ..
  · exact keeps_execDisp h ..
  · exact keeps_execCont h ..
  · exact keeps_execContU h ..
  · exact keeps_execUnassignedOpcode h ..
  · exact keeps_execBandwidthWindow h ..
  · exact keeps_execRecoveryImage h ..
  · exact keeps_execPowerLimitReached h ..
  · exact keeps_execIncomingStateRestored h ..

theorem memWf_endCycle {s : State} (h : s.memWf) (core : Nat) (late : List Nat) : (s.endCycle core late).memWf := by
  unfold State.endCycle
  split
  · exact memWf_coreWatch h ..
  · exact h

theorem nextWf_afterExec {s : State} {y : Site} {c : Nat} {f : Fetched} {late : List Nat} {r r' : Host.Outcome State Fault Refusal} (hr : NextWf r)
    (e : afterExec s y c f late r = some r') : NextWf r' := by
  unfold afterExec at e
  split at e
  next u =>
    split at e
    · cases e
    · cases e
      exact nextWf_next (memWf_endIssue (hr.wf u rfl) ..)
  · cases e
    exact nextWf_fault
  · cases e
    exact nextWf_refused

theorem nextWf_runFetched {s : State} (h : s.memWf) {y : Site} {late : List Nat} {f : Fetched} {a : Attempt}
    (e : runFetched s y late f = some a) : NextWf a.result := by
  unfold runFetched at e
  extract_lets c0 at e
  rcases hc : s.unitsFrom y f.i c0 with - | c1
  · rw [hc] at e
    cases e
  · simp -zeta only [hc] at e
    extract_lets early at e
    by_cases hp : (!early.isEmpty && y.l.isCheck && !endsContext s y f c1 early) = true
    · rw [if_pos hp] at e
      cases e
      exact nextWf_next (memWf_raise (memWf_afterRead h _) ..)
    · rw [if_neg hp] at e
      generalize (if y.l.isInvar then some c1 else s.unitsFrom y f.i (y.wholeCycle f.i c1)) = oc at e
      rcases oc with - | c
      · cases e
      · obtain ⟨r, hr, rfl⟩ := Option.map_eq_some_iff.mp e
        exact nextWf_afterExec (keeps_exec (memWf_beginIssue h ..) _) hr

theorem nextWf_attempt {s : State} (h : s.memWf) {late : List Nat} {a : Attempt} (e : s.attempt late = some a) : NextWf a.result := by
  unfold State.attempt at e
  split at e
  · cases e
  split at e
  · cases e
  split at e
  · cases e
  · cases e
    exact nextWf_next (memWf_raise (memWf_noteFetch h _) ..)
  · exact nextWf_runFetched h e

theorem mem_of_leastBy {α : Type} {f : α → Nat} {l : List α} {x : α} (e : leastBy f l = some x) : x ∈ l := by
  induction l generalizing x with
  | nil => cases e
  | cons y l ih =>
    unfold leastBy at e
    split at e
    · cases e
      exact List.mem_cons_self
    next z hz =>
      split at e
      · cases e
        exact List.mem_cons_of_mem _ (ih hz)
      · cases e
        exact List.mem_cons_self

theorem mem_of_pick {s : State} {l : List Attempt} {a : Attempt} (e : s.pick l = some a) : a ∈ l := by
  unfold State.pick at e
  obtain ⟨x, hx, ha⟩ := Option.bind_eq_some_iff.mp e
  split at ha
  · exact (List.mem_filter.mp (mem_of_leastBy ha)).1
  · cases ha
    exact mem_of_leastBy hx

theorem mem_attempts_of_chosen {s : State} {core entry i : Nat} {late : List Nat} {a : Attempt} (e : s.chosen core entry i late = some a) :
    a ∈ s.attempts core late := by
  unfold State.chosen at e
  exact (List.mem_filter.mp (mem_of_pick (Option.filter_eq_some_iff.mp e).1)).1

theorem nextWf_of_chosen {s : State} (h : s.memWf) {core entry i : Nat} {late : List Nat} {a : Attempt}
    (e : s.chosen core entry i late = some a) : NextWf a.result := by
  have hm := mem_attempts_of_chosen e
  unfold State.attempts at hm
  obtain ⟨x, -, hx⟩ := List.mem_flatMap.mp hm
  obtain ⟨j, -, hj⟩ := List.mem_filterMap.mp hx
  refine nextWf_attempt ?_ hj
  exact h

theorem keeps_issueStep {s : State} (h : s.memWf) (late : List Nat) : NextWf (issueStep s late) := by
  have hu := memWf_endCycle h s.cur.core late
  unfold issueStep
  simp only
  generalize s.endCycle s.cur.core late = u at hu ⊢
  split
  · exact nextWf_next hu
  split
  · exact nextWf_next (memWf_takeNotice hu _)
  split
  next a e => exact nextWf_of_chosen hu e
  · exact nextWf_next hu

theorem memWf_putOff {s : State} (h : s.memWf) (m : Move) : (s.putOff m).memWf := by
  unfold State.putOff
  simp only
  split <;> exact h

theorem nextWf_bounded {s : State} (h : s.memWf) (m : Move) {r : Host.Outcome State Fault Refusal} (hr : NextWf r) : NextWf (bounded s m r) := by
  cases r with
  | next t => exact nextWf_next (memWf_ite (memWf_putOff h m) (memWf_boundaries (hr.wf t rfl)))
  | fault e => exact nextWf_fault
  | refused e => exact nextWf_refused

theorem keeps_runMove {s : State} (h : s.memWf) (m : Move) : NextWf (runMove s m) := by
  have hu : (State.pass { s with cur := m.cur } m.dt).memWf := by
    refine memWf_pass ?_ _
    exact h
  unfold runMove
  generalize State.pass { s with cur := m.cur } m.dt = u at hu ⊢
  simp only
  split
  · exact nextWf_bounded hu m (keeps_issueStep hu _)
  split
  · exact nextWf_bounded hu m (keeps_exec hu _)
  · exact nextWf_next hu

theorem keeps_firstChange {s : State} (h : s.memWf) (ms : List Move) : NextWf (firstChange s ms) := by
  induction ms with
  | nil => exact nextWf_next h
  | cons m ms ih =>
    unfold firstChange
    split
    next t e =>
      split
      · exact ih
      · exact nextWf_next ((keeps_runMove h m).wf t e)
    · exact nextWf_fault
    · exact nextWf_refused

theorem keeps_tick {s : State} (h : s.memWf) : NextWf (tick s) := by
  unfold tick
  split
  · refine keeps_runMove ?_ _
    exact h
  · exact keeps_firstChange h _

theorem keeps_step {s : State} (h : s.memWf) : NextWf (step s) := keeps_tick h

end Sys2Proof.Machine
end

section
/-!
O60: a step keeps the canonical form of the memories. `keeps_step` says it of an outcome, and every lemma before it of one operation of the model.
-/

namespace Sys2Proof.Machine

open Sys2Proof

/-- Settles O60, from the rule that each operation of the model keeps the form. -/
theorem stepKeepsTheMemories : Obligations.StepKeepsTheMemories := by
  unfold Obligations.StepKeepsTheMemories
  intro s t h e
  exact (keeps_step h).wf t e

end Sys2Proof.Machine
end
